-- ==== Sys2Proof/Word.lean ====
section
/-! DEFINITION. The word types of the ZWM-12 (spec/00 conventions; spec/04 R56). -/

namespace Sys2Proof

/-- A scalar register, a port entry and a control register: 64 bits. -/
abbrev Word := BitVec 64
/-- The smallest addressable unit of memory. -/
abbrev Byte := BitVec 8
/-- A vector register image: 1 KiB, byte 0 in bits [7:0] (R56, R116). -/
abbrev VWord := BitVec 8192
/-- A mask register: one bit for each 32-bit lane (R56). -/
abbrev Mask := BitVec 256
/-- The sixteen predicates, p0 in bit 0 (R56). -/
abbrev Preds := BitVec 16

end Sys2Proof
end

