-- ==== Sys2Proof/Config.lean ====
section
/-! DEFINITION. What an implementation fixes, and the values the spec leaves open (free values, log 4, log 6, log 9). -/

namespace Sys2Proof.Config

/-- A register value undefined at pickup (R20): free for each pickup and register (log 4). -/
opaque freeWord : Nat → Nat → BitVec 64
/-- A vector register undefined at pickup (R20, log 4). -/
opaque freeVec : Nat → Nat → BitVec 8192
/-- The predicates undefined at pickup (R20, log 4). -/
opaque freePreds : Nat → BitVec 16
/-- A mask register undefined at pickup (R20, log 4). -/
opaque freeMask : Nat → Nat → BitVec 256
/-- A byte of a private array undefined at pickup (R20, R140, R159, R164, log 4). -/
opaque freeByte : Nat → Nat → BitVec 8
/-- A tile's type undefined at pickup (R140, log 4): true is FP32. -/
opaque freeTileType : Nat → Nat → Bool
/-- A byte that a compressed block's header calls for beyond its stored size, on which R86 is silent (log 10). -/
opaque freePast : Nat → BitVec 8
/-- The address of a record that START appends, on which R298 is silent (log 4). -/
opaque recordAddr : Nat → Nat
/-- The scale code or scale that C.CONV gives a block whose source block R199 does not determine (log 13). -/
opaque freeScale : Nat → BitVec 32
/-- Whether an ECDSA P-384 signature over the bytes verifies under a key (R12, R244, R368, log 9). -/
opaque sigOk : List (BitVec 8) → List (BitVec 8) → Bool
/-- The native image that the Aladu translator makes of an Aladu image under FEAT, MCREV and NUMV; no bytes where it
fails (R245, R269, log 9). -/
opaque aladu : List (BitVec 8) → BitVec 64 → BitVec 64 → BitVec 64 → List (BitVec 8)
/-- The version of that translator (R245, log 9). -/
opaque aladuVersion : BitVec 32
/-- A SHA-384 digest (R245, R368, log 9). -/
opaque sha384 : List (BitVec 8) → List (BitVec 8)

/-- The data of an SPDM response that is not one of the measurements of R370: the request code, and the request's data
(R368, R370, log 9). -/
opaque spdmReply : Nat → List (BitVec 8) → List (BitVec 8)
/-- The digests of the boot ROM and of the steward firmware (R370, log 9). -/
opaque romDigest : List (BitVec 8)
/-- As romDigest, of the steward firmware (R370, log 9). -/
opaque firmwareDigest : List (BitVec 8)
/-- Whether a physical address of a die lies in the steward's vault reserve or shadow reserve (R370, log 16). -/
opaque reserved : Nat → Nat → Bool
/-- Bytes of a die's shadow reserve (R309, R323, log 16). -/
opaque shadowBytes : Nat

/-- The fields of the configuration record, whose layout the spec does not give (R3, R12, log 102): the grade, from D
upward. -/
opaque cfgGrade : List (BitVec 8) → Fin 3
/-- CFGSER of a record (R12, log 102). -/
opaque cfgSerial : List (BitVec 8) → BitVec 16
/-- The feature bits of a die in a record (R237, log 102). -/
opaque cfgFeatures : List (BitVec 8) → Nat → BitVec 8
/-- MCREV of a record (R237, log 102). -/
opaque cfgMcrev : List (BitVec 8) → BitVec 16
/-- The public identity key that a record certifies for a die (R368, log 102). -/
opaque certifiedKey : List (BitVec 8) → Nat → List (BitVec 8)
/-- The public identity key of a die, which its boot ROM derives from the die itself (R368, log 102). -/
opaque identityKey : Nat → List (BitVec 8)

/-- NCREW after reset (cfg, log 6). -/
def ncrew : Nat := 16
/-- GRADE after reset (cfg, log 6). -/
def grade : BitVec 4 := 0xF
/-- FEAT after reset (cfg, log 6): every feature, ARCHREV 1. -/
def feat : BitVec 64 := 0x000100FF

end Sys2Proof.Config
end

