-- ==== Sys2Proof/Syntax.lean ====
section
/-! DEFINITION. The instructions of the ZWM-12: one constructor for each row of spec/opcode_table.json.
The first 234 are the syllables (spec/04 R61, R64 and the entries of spec/06 to spec/12, spec/15 to spec/17,
spec/20 to spec/22); the others are the events by which the rest of the package acts (spec/95). -/

namespace Sys2Proof

/-- Scalar register number s0 to s63 (R56); s56 to s63 are ports (R57). -/
abbrev SReg := Fin 64
/-- Vector register number v0 to v31 (R56); v28 to v31 are ports (R57). -/
abbrev VReg := Fin 32
/-- Predicate number p0 to p15 (R56). -/
abbrev PReg := Fin 16
/-- Mask register number m0 to m7 (R56). -/
abbrev MReg := Fin 8
/-- Accumulator tile number a0 to a7 (R56). -/
abbrev AReg := Fin 8
/-- Tensor identifier t0 to t63 (R53). -/
abbrev TId := Fin 64
/-- Completion tag 0 to 63 (R53). -/
abbrev Tag := Fin 64

/-- An operand of kind V, or of kind S broadcast to every element (R120). -/
inductive SV where
  | v (r : VReg)
  | s (r : SReg)
  deriving DecidableEq, Repr

/-- A register of any kind, by the one number space of R56. -/
inductive Reg where
  | s (r : SReg)
  | v (r : VReg)
  | p (r : PReg)
  | m (r : MReg)
  | a (r : AReg)
  deriving DecidableEq, Repr

/-- Two registers of one kind, as S.CHK compares them (R105). -/
inductive ChkPair where
  | s (a b : SReg)
  | p (a b : PReg)
  | m (a b : MReg)
  deriving DecidableEq, Repr

/-- Conditions of R99. -/
inductive Cond where
  | eq | ne | lt | le | gt | ge | ltu | leu | gtu | geu
  deriving DecidableEq, Repr

/-- Rounding modes of R72. -/
inductive RM where
  | rne | rtz | rdn | rup
  deriving DecidableEq, Repr

/-- Element types 0 to 11 of R60. -/
inductive EType where
  | i8 | n8 | i16 | n16 | i32 | n32 | i64 | f32 | f16 | bf16 | e4m3 | e5m2
  deriving DecidableEq, Repr

/-- Destinations of V.CVT: types 0 to 11, and .mx8 and .mx4 from .f32 (R131). -/
inductive CvtDst where
  | ty (t : EType)
  | mx8
  | mx4
  deriving DecidableEq, Repr

/-- MASK, ZERO, RM and SAT of IMM16 (R119). -/
structure VMod where
  mask : MReg
  zero : Bool
  rm : RM
  sat : Bool
  deriving DecidableEq, Repr

/-- Latency classes of a load (R184). -/
inductive LClass where
  | sp | vt | dm
  deriving DecidableEq, Repr

/-- Size types of scalar loads and stores (R189). -/
inductive SizeTy where
  | i8 | n8 | i16 | n16 | i32 | n32 | i64
  deriving DecidableEq, Repr

/-- Orders of the atomics (R193). -/
inductive MemOrd where
  | relaxed | acquire | release | acqRel | seq
  deriving DecidableEq, Repr

/-- Scopes of R215. -/
inductive Scope where
  | strand | crew | die | package | system
  deriving DecidableEq, Repr

/-- Kinds of M.FENCE but .stamp (R217). -/
inductive FenceKind where
  | acquire | release | acqRel | seq
  deriving DecidableEq, Repr

/-- Order, size and scope of an atomic (R193); `w32` is .i32. -/
structure AMod where
  ord : MemOrd
  w32 : Bool
  scope : Scope
  deriving DecidableEq, Repr

/-- Control registers by the numbers of R103. -/
inductive CReg where
  | allow | paced | budget | diecfg | dbgctl | trappc | trapinfo | ckptpc | rpc | shape | qsl | matmode
  | ttbase | tagdone | tagerr | crewid | strandid | stage | partid | rvzto | clkw | horizon | feat | mcrev
  | numv | lc (n : Fin 3) | ls (n : Fin 3) | le (n : Fin 3)
  deriving DecidableEq, Repr

/-- Staging registers by the numbers of R102. -/
inductive GReg where
  | mg (n : Fin 8)
  | cg (n : Fin 16)
  | dg (n : Fin 8)
  | lg (n : Fin 4)
  deriving DecidableEq, Repr

/-- Predicates of F.GEO (R169). -/
inductive GeoPred where
  | orient2 | orient3 | incircle | insphere | segx
  deriving DecidableEq, Repr

/-- Options of F.GEO (R169). -/
inductive GeoOpt where
  | zero | sos | strict
  deriving DecidableEq, Repr

/-- Lane operations of V.MAND (R127). -/
inductive MaskOp where
  | and | or | xor | andn
  deriving DecidableEq, Repr

/-- Conversions of C.CONV (R199). -/
inductive ConvKind where
  | qn4i8 | mx4mx8 | bf16blk
  deriving DecidableEq, Repr

/-- FN of D.PP and D.PPCMP (R156). -/
inductive PpAct where
  | none | relu | clip | tbl
  deriving DecidableEq, Repr

/-- The fields of FN of D.PP and D.PPCMP (R156). -/
structure PpFn where
  act : PpAct
  sbias : Bool
  rm : RM
  sat : Bool
  deriving DecidableEq, Repr

/-- Registers that the steward writes and that have no behaviour of their own at the write (R3): DBGCTL (R35), RVZTO
(R233), CLKW and HORIZON (R339), QCFGq and QRINGq (R270), PTROOT of a slot (R315), and the four registers of an aperture
(R186). -/
inductive StewReg where
  | dbgctl | rvzto | clkw | horizon
  | qcfg (q : Fin 64) | qring (q : Fin 64)
  | ptroot (slot : Fin 16)
  | apctl (i : Fin 16) | apwin (i : Fin 16) | apbuf (i : Fin 16) | apaux (i : Fin 16)
  deriving DecidableEq, Repr

/-- A stream of a neighbouring context of the pipeline, as the driver's ordered list of contexts gives it (R325). -/
structure PeerStream where
  n : Fin 16
  send : Bool
  next : Bool
  slotsz : Nat
  slots : Nat
  deriving DecidableEq, Repr

/-- What START gives a context (R298, R325): its initial records, each with its queue, and the streams that its
neighbours in the driver's ordered list declare, where it has such neighbours. -/
structure Launch where
  recs : List (Fin 64 × List (BitVec 8))
  prev : Option (List PeerStream)
  next : Option (List PeerStream)
  deriving DecidableEq, Repr

/-- How a slot of stream n travels (R324, R327): from a die of the package to the selected die, from the selected die to
the next package, or from another package to the selected die, its bytes or its end marker. -/
inductive SlotWay where
  | inner (n : Fin 16)
  | out (n : Fin 16)
  | arrive (n : Fin 16) (len : Nat) (stamp : Option Nat) (bytes : List (BitVec 8))
  | marker (n : Fin 16)
  deriving DecidableEq, Repr

/-- How a credit of stream n travels (R326): from the selected die to the sender, or from another package to the
selected die. -/
inductive CreditWay where
  | returns (n : Fin 16)
  | back (n : Fin 16)
  deriving DecidableEq, Repr

/-- Which end of a circuit's stream is the die (R324, R336): the sender, or the receiver of a stream from another
package. -/
inductive CircuitEnd where
  | sends (die : Fin 12)
  | receives (die : Fin 12)
  deriving DecidableEq, Repr

/-- Why an entry of the connection table drains (R336): a teardown, or the swap of a peer context in another package. -/
inductive DrainOf where
  | teardown (circuit : Nat)
  | peerSwap (circuit : Nat)
  deriving DecidableEq, Repr

/-- The registers of BAR0 that the host reads (R370): of the package, of a mailbox slot, of a die. -/
inductive Bar0 where
  | bootsts
  | astep
  | mboxsts (slot : Fin 16)
  | therm (die : Fin 12)
  | paced (die : Fin 12)
  deriving DecidableEq, Repr

/-- Where a host read reads (R370): CXL.mem, in which die d's physical addresses stand at 64 GiB·d, or a register of
BAR0. -/
inductive HostWin where
  | mem (addr : Nat)
  | bar0 (r : Bar0)
  deriving DecidableEq, Repr

/-- ONE inductive of instructions, a constructor for each row of the opcode table. -/
inductive Instr where
  -- Scalar, R93 to R105
  | sNop (imm : BitVec 16)
  | sAdd (d a b : SReg)
  | sSub (d a b : SReg)
  | sAddi (d a : SReg) (imm : BitVec 30)
  | sMovi (d : SReg) (imm : BitVec 30)
  | sMovhi (d a : SReg) (imm : BitVec 30)
  | sAnd (d a b : SReg)
  | sOr (d a b : SReg)
  | sXor (d a b : SReg)
  | sAndn (d a b : SReg)
  | sAndi (d a : SReg) (imm : BitVec 30)
  | sOri (d a : SReg) (imm : BitVec 30)
  | sXori (d a : SReg) (imm : BitVec 30)
  | sShl (d a b : SReg)
  | sShr (d a b : SReg)
  | sSar (d a b : SReg)
  | sShli (d a : SReg) (pos : Fin 64)
  | sShri (d a : SReg) (pos : Fin 64)
  | sSari (d a : SReg) (pos : Fin 64)
  | sRor (d a b : SReg)
  | sMin (d a b : SReg)
  | sMax (d a b : SReg)
  | sMinu (d a b : SReg)
  | sMaxu (d a b : SReg)
  | sAbs (d a : SReg)
  | sNeg (d a : SReg)
  | sClz (d a : SReg)
  | sCtz (d a : SReg)
  | sPopc (d a : SReg)
  | sBswap (d a : SReg)
  | sSext (d a : SReg) (w1 : Fin 64)
  | sZext (d a : SReg) (w1 : Fin 64)
  | sBfx (signed : Bool) (d a : SReg) (pos w1 : Fin 64)
  | sBfi (d a b : SReg) (pos w1 : Fin 64)
  | sSel (d a b : SReg) (c : PReg)
  | sMul (d a b : SReg)
  | sMulh (d a b : SReg)
  | sMulhu (d a b : SReg)
  | sMadd (d a b c : SReg)
  | sCmp (cond : Cond) (d : PReg) (a b : SReg)
  | sCmpi (cond : Cond) (d : PReg) (a : SReg) (imm : BitVec 30)
  | sPand (d a b : PReg)
  | sPor (d a b : PReg)
  | sPxor (d a b : PReg)
  | sPnot (d a : PReg)
  | sPset (d : PReg) (a : SReg)
  | sLea (k : Fin 4) (d a b : SReg) (imm : BitVec 16)
  | sMov (d a : SReg)
  | sCrd (d : SReg) (c : CReg)
  | sCwr (c : CReg) (a : SReg)
  | sGrd (d : SReg) (g : GReg)
  | sGwr (g : GReg) (a : SReg)
  | sSpl (d : SReg) (slot : Fin 512)
  | sSps (a : SReg) (slot : Fin 512)
  | sClk (strict : Bool) (d : SReg)
  | sChk (x : ChkPair)
  | sMskIns (q : Fin 4) (d : MReg) (a : SReg) (b : MReg)
  | sMskExt (q : Fin 4) (d : SReg) (a : MReg)
  | sMski (d : MReg) (n : Fin 257)
  -- Branch, loop and system, R106 to R114, R204, R225, R232, R273, R274, R286, R289, R292, R294
  | bBr (off : BitVec 44)
  | bCall (off : BitVec 44)
  | bRet (a : SReg)
  | bJmpi (a : SReg)
  | bCalli (a : SReg) (cls : BitVec 16)
  | bLoop (lvl : Fin 3) (a : SReg) (off : BitVec 30)
  | bPloop (lvl : Fin 3) (k1 : Fin 4) (a : SReg) (off : BitVec 30)
  | bRep (reg : Option SReg) (count : BitVec 12) (stride : BitVec 3) (fmask : BitVec 4)
  | bCkpt
  | bRvz (a : SReg) (slot : Fin 16) (mask : BitVec 8)
  | bCbar (d : SReg)
  | bYield (a : SReg) (q : Fin 64)
  | bWaitTime (a b : SReg)
  | bWaitMbox (b : SReg)
  | bWaitCrewq (b : SReg) (q : Fin 4)
  | bWaitRecv (b : SReg) (n : Fin 16)
  | bMwait (a b c : SReg)
  | bPhase (b : SReg)
  | bEnd
  | bSpawn (a : SReg) (q : Fin 64)
  | bWany (d a : SReg)
  | bWall (d a : SReg)
  | bFfr (d a : SReg)
  | bTrap (code : BitVec 16)
  | bGroupQuery (d a : SReg)
  | bGroupForm (a b : SReg)
  | bGroupDissolve (a : SReg)
  -- Vector, R124 to R135
  | vAdd (t : EType) (d a : VReg) (b : SV) (m : VMod)
  | vSub (t : EType) (d a : VReg) (b : SV) (m : VMod)
  | vMul (t : EType) (d a : VReg) (b : SV) (m : VMod)
  | vMulh (t : EType) (d a : VReg) (b : SV) (m : VMod)
  | vFma (t : EType) (d a : VReg) (b c : SV) (m : VMod)
  | vFms (t : EType) (d a : VReg) (b c : SV) (m : VMod)
  | vFnma (t : EType) (d a : VReg) (b c : SV) (m : VMod)
  | vMin (t : EType) (d a : VReg) (b : SV) (m : VMod)
  | vMax (t : EType) (d a : VReg) (b : SV) (m : VMod)
  | vAbs (t : EType) (d a : VReg) (m : VMod)
  | vNeg (t : EType) (d a : VReg) (m : VMod)
  | vClamp (t : EType) (d a : VReg) (b c : SV) (m : VMod)
  | vAnd (t : EType) (d a : VReg) (b : SV) (m : VMod)
  | vOr (t : EType) (d a : VReg) (b : SV) (m : VMod)
  | vXor (t : EType) (d a : VReg) (b : SV) (m : VMod)
  | vNot (t : EType) (d a : VReg) (m : VMod)
  | vShl (t : EType) (d a : VReg) (b : SV) (m : VMod)
  | vShr (t : EType) (d a : VReg) (b : SV) (m : VMod)
  | vSar (t : EType) (d a : VReg) (b : SV) (m : VMod)
  | vFshl (t : EType) (d a : VReg) (b c : SV) (m : VMod)
  | vFshr (t : EType) (d a : VReg) (b c : SV) (m : VMod)
  | vCmp (t : EType) (d : MReg) (a : VReg) (b : SV) (cond : Cond)
  | vSel (t : EType) (d a : VReg) (b : SV) (mask : MReg)
  | vMov (t : EType) (d a : VReg) (m : VMod)
  | vBcast (t : EType) (d : VReg) (b : SReg) (m : VMod)
  | vIota (t : EType) (d : VReg) (b : SReg) (m : VMod) (step : BitVec 9)
  | vExtr (t : EType) (d : SReg) (a : VReg) (b : SReg) (idx : BitVec 9)
  | vIns (t : EType) (d a : VReg) (b c : SReg) (idx : BitVec 9)
  | vPerm (t : EType) (d a b : VReg) (m : VMod)
  | vSlide (t : EType) (d a : VReg) (b : SReg) (m : VMod)
  | vZip (t : EType) (d a b : VReg) (m : VMod) (h : Bool)
  | vCmprs (t : EType) (d a : VReg) (mask : MReg)
  | vCvt (src : EType) (d a : VReg) (dst : CvtDst) (part : Fin 8) (m : VMod)
  | vMaxexp (a : VReg) (mask : MReg)
  | vPxpose (signed : Bool) (d a : VReg) (planes1 : Fin 8) (g : Bool)
  | vRsum (t : EType) (d a : VReg) (m : VMod)
  | vRmax (t : EType) (d a : VReg) (m : VMod)
  | vRmin (t : EType) (d a : VReg) (m : VMod)
  | vGmax (t : EType) (d a : VReg) (m : VMod) (g : Fin 8) (abs : Bool)
  | vRowsum (t : EType) (d a : VReg) (m : VMod)
  | vColsum (t : EType) (d a : VReg) (m : VMod)
  | vAread (d : VReg) (a : AReg) (b : SReg) (q : Fin 64)
  | vAwrite (d : AReg) (a : VReg) (b : SReg) (q : Fin 64)
  | vMcnt (d : SReg) (a : MReg)
  | vPopc (t : EType) (d a : VReg) (m : VMod)
  | vClz (t : EType) (d a : VReg) (m : VMod)
  | vRound (t : EType) (d a : VReg) (m : VMod)
  | vScale (t : EType) (d a : VReg) (b : SReg) (m : VMod)
  | vAvg (t : EType) (d a : VReg) (b : SV) (m : VMod)
  | vAbd (t : EType) (d a : VReg) (b : SV) (m : VMod)
  | vMset (d : MReg) (a : VReg)
  | vMand (op : MaskOp) (d a b : MReg)
  -- Special-function, R162 to R179
  | fTbl (t : EType) (d a : VReg) (b : SReg) (m : VMod) (tbl : Fin 4)
  | fTblwr (a : VReg) (tbl : Fin 4)
  | fTblrd (d : VReg) (tbl : Fin 4)
  | fRcp (t : EType) (d a : VReg) (m : VMod)
  | fRsq (t : EType) (d a : VReg) (m : VMod)
  | fSqrt (t : EType) (d a : VReg) (m : VMod)
  | fDiv (t : EType) (d a : VReg) (b : SV) (m : VMod)
  | fExp2 (t : EType) (d a : VReg) (m : VMod)
  | fLog2 (t : EType) (d a : VReg) (m : VMod)
  | fExp (t : EType) (d a : VReg) (m : VMod)
  | fLog (t : EType) (d a : VReg) (m : VMod)
  | fGeo (pred : GeoPred) (opt : GeoOpt) (a : VReg) (mask : MReg)
  | fGeoidx (d a : VReg) (b : SReg)
  | fLq (d a : VReg) (b : SReg)
  | fLdq (t : EType) (d a : VReg) (b : SReg) (m : VMod)
  | fLqcnt (d : SReg)
  | fLscale (d : SReg) (a : VReg) (adj : BitVec 4)
  -- Memory, R188 to R194, R217, R343 to R345
  | mLd (cls : LClass) (ty : SizeTy) (d a : SReg) (imm : BitVec 16)
  | mSt (ty : SizeTy) (a b : SReg) (imm : BitVec 16)
  | mLdp (cls : LClass) (d a : SReg) (imm : BitVec 16)
  | mStp (a b : SReg) (imm : BitVec 16)
  | mVld (cls : LClass) (d : VReg) (a : SReg) (imm : BitVec 16)
  | mVst (a : SReg) (b : VReg) (imm : BitVec 16)
  | mVstu (a : SReg) (b c : VReg) (imm : BitVec 16)
  | mVlds (cls : LClass) (d : VReg) (a b : SReg) (imm : BitVec 16)
  | mVsts (a : SReg) (b : VReg) (c : SReg) (imm : BitVec 16)
  | mVldb (cls : LClass) (d : VReg) (a : SReg) (t : TId)
  | mVgath (d : VReg) (a : SReg) (b : VReg) (mask : MReg)
  | mVscat (a : SReg) (b c : VReg) (mask : MReg)
  | mLdaq (cls : LClass) (ty : SizeTy) (scope : Scope) (d a : SReg)
  | mStrl (ty : SizeTy) (scope : Scope) (a b : SReg)
  | mAadd (o : AMod) (d a b : SReg)
  | mAmin (o : AMod) (d a b : SReg)
  | mAmax (o : AMod) (d a b : SReg)
  | mAand (o : AMod) (d a b : SReg)
  | mAor (o : AMod) (d a b : SReg)
  | mAxor (o : AMod) (d a b : SReg)
  | mSwap (o : AMod) (d a b : SReg)
  | mCas (o : AMod) (ford : MemOrd) (d a b c : SReg)
  | mFence (kind : FenceKind) (scope : Scope)
  | mFenceStamp
  | mSts (ty : SizeTy) (d a b : SReg) (imm : BitVec 16)
  | mLdas (cls : LClass) (ty : SizeTy) (d a b : SReg) (imm : BitVec 16)
  | mPref (a : SReg) (imm : BitVec 16)
  | mGld (cls : LClass) (ty : SizeTy) (d a : SReg) (c : PReg) (imm : BitVec 16)
  | mGst (ty : SizeTy) (a b : SReg) (c : PReg) (imm : BitVec 16)
  | mTinv (a : SReg)
  | mZero (a : SReg) (imm : BitVec 16)
  -- Matrix and post-processing, R153 to R159
  | xMma (t : AReg) (ta tb : TId)
  | xMmac (t : AReg) (ta tb : TId)
  | xAclr (f32 : Bool) (t : AReg)
  | xAmov (t src : AReg)
  | xAload (t : AReg) (ta : TId)
  | xAsave (t : AReg) (ta : TId) (tag : Tag)
  | xMode (alt8 : Bool)
  | xMirr (off : Bool)
  | xFence
  | xStat (d : SReg)
  | dPp (t : AReg) (ta tb : TId) (tag : Tag) (fn : PpFn)
  | dPpcmp (t : AReg) (ta tb : TId) (tag : Tag) (fn : PpFn)
  | dPpcfg (a : VReg)
  | dPpact (d : SReg)
  -- Copy engine, R195 to R204
  | cCopy (ta tb : TId) (tag : Tag)
  | cCopy2d (ta tb : TId) (tag : Tag)
  | cFill (t : SReg) (tb : TId) (tag : Tag)
  | cFill2d (t : SReg) (tb : TId) (tag : Tag)
  | cGath (ta tb : TId) (tag : Tag)
  | cScat (ta tb : TId) (tag : Tag)
  | cXpose (ta tb : TId) (tag : Tag)
  | cPlane (toBytes : Bool) (ta tb : TId) (tag : Tag)
  | cConv (kind : ConvKind) (ta tb : TId) (tag : Tag)
  | cXch (ta tb : TId) (tag : Tag) (slot : BitVec 16)
  | cTclr (a : SReg)
  | cPref (ta : TId) (tag : Tag)
  -- Link stream, R329 to R334
  | lOpenSend (n : Fin 16)
  | lOpenRecv (n : Fin 16)
  | lSend (ta : TId) (n : Fin 16) (tag : Tag)
  | lSendst (t : SReg) (ta : TId) (n : Fin 16) (tag : Tag)
  | lRecv (tb : TId) (n : Fin 16) (tag : Tag)
  | lPeek (d : SReg) (n : Fin 16)
  | lClose (n : Fin 16)
  | lStat (d : SReg) (n : Fin 16)
  -- Image decode, R358 to R363
  | dJpeg (ta : TId) (tag : Tag)
  | dG4 (ta : TId) (tag : Tag)
  | dRaw (b1 : Bool) (ta : TId) (tag : Tag)
  | dRingSet (a b : SReg)
  | dRingFree (a : SReg)
  | dPortCount (d : SReg)
  | dPortSkip (d : SReg)
  | dDstat (d : SReg)
  | dDabort
  | dDfence
  -- Deprecated, R64
  | zw1Madd (d a b c : SReg)
  | zw1Ldpair (d a : SReg) (imm : BitVec 16)
  | zw1Vsum (d : SReg) (a : VReg)
  | zw1Dbnz (a : SReg) (off : BitVec 30)
  -- Events (spec/95). Their operands are what the outside world or chance supplies; every other input is the state.
  -- Crews, suspension and the phase, R112, R231, R287, R291
  | rvzDeadline (crew slot : Fin 16)
  | cbarDeadline (crew : Fin 16)
  | waitTimeExpiry
  | exchangeEnd
  | exchangeTimeExpiry
  -- The core's engines, R150, R155, R157, R174, R197, R203, R205, R322, R349 to R362
  | geoRecordFill (n : Nat)
  | modeSwitch
  | matrixCommandStart
  | matrixCommandFinish (mismatch : Bool)
  | postprocComplete
  | copyCommandStart (serial : Nat)
  | copyComplete (serial : Nat)
  | copyFault (serial : Nat)
  | copyDemandPark (serial : Nat)
  | ringSetPerformed
  | decodeEngineAssign
  | decodeRecordEmit
  | decodePageEnd
  -- Streams and circuits, R326, R327, R336, R337
  | streamSlotPresent (w : SlotWay)
  | creditReturn (w : CreditWay)
  | reserve (wavelength port : Nat) (die : CircuitEnd) (n : Fin 16)
  | tune (circuit : Nat)
  | tuneLocked (circuit : Nat)
  | linkFail (circuit : Nat)
  | linkError (circuit : Nat)
  | circuitDrain (circuit : DrainOf)
  | circuitDrainComplete (circuit : Nat)
  | circuitRelease (circuit : Nat)
  | pminWrite (x : BitVec 64)
  | partminWrite (slot : Fin 16) (x : BitVec 64)
  | flitArrival (cls : Fin 5) (slot : Fin 16)
  | flitLeavesIngress
  -- The arbiter and budgets, R271, R275, R276, R305
  | debugRelease
  | budget
  | budgetRefill (left : BitVec 32)
  | coreFill
  | queueOverflowMove (q : Fin 64)
  -- Kernels, R235, R240, R245
  | submit (kid : BitVec 32) (container : List (BitVec 8))
  | verificationEnd (kid : BitVec 32)
  | load (kid : BitVec 32) (vector : BitVec 64)
  | retire (kid : BitVec 32)
  | microcodeUpdate (mcrev : BitVec 16)
  -- Contexts and partitions, R297, R298, R370
  | formPartition (num : BitVec 16) (slot : Fin 16) (first count : Nat) (mask : BitVec 16)
  | partitionRelease
  | create (sbase : BitVec 16)
  | start (x : Launch)
  | preempt (limit : Nat)
  | prelimitExpiry
  | halt
  | resume
  | swap
  | swapComplete
  | restore (first : Nat)
  | restoreComplete
  | kill
  | killScrubComplete
  | resolve (va : Nat)
  -- Pages and service, R317, R323
  | pageTableUpdate (addr : Nat) (entry : BitVec 64)
  | offline
  | evacuationComplete
  | online (pass : Bool)
  -- Clocks, R338, R340
  | domainFloor (f : Nat)
  | clockWide
  -- Boot, power and the host, R3, R12, R222, R229, R367 to R375
  | resetRelease
  | bistComplete (pass : Bool)
  | authComplete (pass : Bool)
  | authTimeout
  | railFault
  | steppingTick
  | thermRefresh (tj tin : BitVec 12) (pwr : BitVec 16)
  | astepWrite (x : BitVec 64)
  | mboxWrite (slot : Fin 16) (x : BitVec 64)
  | mboxstsWrite (slot : Fin 16) (x : BitVec 64)
  | hostopen
  | hostclose
  | hostCxlRead (addr : HostWin) (len : Nat)
  | hostCxlWrite (addr : Nat) (bytes : List (BitVec 8))
  | getVersion
  | getCapabilities
  | negotiateAlgorithms
  | getDigests
  | getCertificate
  | challenge (nonce : List (BitVec 8))
  | getMeasurements
  | scrubError (level addr : Nat) (corrected : Bool)
  | registerWrite (reg : StewReg) (x : BitVec 64)
  deriving DecidableEq, Repr

end Sys2Proof
end

