-- ==== Sys2Proof/WellFormed.lean ====
section
/-! DEFINITION. Which instructions the encoding can carry. The three checks follow the three decode checks of
spec/04 R63: a reserved MOD value, a field or immediate the entry does not allow, a register kind the field does
not accept. -/

namespace Sys2Proof

/-- Types I of R124: codes 0 to 6 of R60. -/
def EType.isInt : EType → Bool
  | .i8 | .n8 | .i16 | .n16 | .i32 | .n32 | .i64 => true
  | .f32 | .f16 | .bf16 | .e4m3 | .e5m2 => false

/-- Types F of R124 and R162: codes 7 to 9 of R60. -/
def EType.isFloat : EType → Bool
  | .f32 | .f16 | .bf16 => true
  | .i8 | .n8 | .i16 | .n16 | .i32 | .n32 | .i64 | .e4m3 | .e5m2 => false

/-- Size types a store accepts: the even codes (R189). -/
def SizeTy.isStore : SizeTy → Bool
  | .i8 | .i16 | .i32 | .i64 => true
  | .n8 | .n16 | .n32 => false

/-- RM and SAT unused (R119). -/
def VMod.noR (m : VMod) : Bool := m.rm == .rne && !m.sat
/-- SAT used, RM unused. -/
def VMod.satOnly (m : VMod) : Bool := m.rm == .rne
/-- RM used, SAT unused. -/
def VMod.rmOnly (m : VMod) : Bool := !m.sat
/-- RM and SAT used; on an I type RM must be 0 (R124). -/
def VMod.byType (m : VMod) (t : EType) : Bool := t.isFloat || m.rm == .rne

/-- The MOD value is one the entry accepts (R62). -/
def Instr.modOk : Instr → Bool
  | .vAdd t .. | .vSub t .. | .vMul t .. | .vFma t .. | .vFms t .. | .vFnma t .. | .vMin t .. | .vMax t ..
  | .vAbs t .. | .vNeg t .. | .vClamp t .. | .vCmp t .. | .vScale t .. | .vRsum t .. | .vRmax t .. | .vRmin t ..
  | .vGmax t .. | .vRowsum t .. | .vColsum t .. => t.isInt || t.isFloat
  | .vMulh t .. | .vPopc t .. | .vClz t .. | .vAvg t .. | .vAbd t .. | .vShl t .. | .vShr t .. | .vSar t ..
  | .vFshl t .. | .vFshr t .. | .vIota t .. => t.isInt
  | .vRound t .. | .fTbl t .. | .fRcp t .. | .fRsq t .. | .fSqrt t .. | .fDiv t .. | .fExp2 t .. | .fLog2 t ..
  | .fExp t .. | .fLog t .. => t.isFloat
  | .fLdq t .. => t == .f32 || t == .bf16
  | .mSt ty .. | .mStrl ty .. | .mSts ty .. | .mGst ty .. => ty.isStore
  | _ => true

/-- The immediate and the unused fields hold what the entry allows (R54; log 25, DEDUCED). -/
def Instr.fieldOk : Instr → Bool
  | .bCalli _ cls => cls != 0
  | .bRep reg count _ _ => reg.isNone || count == 0
  | .vAdd t _ _ _ m | .vSub t _ _ _ m | .vMul t _ _ _ m | .vFma t _ _ _ _ m | .vFms t _ _ _ _ m
  | .vFnma t _ _ _ _ m | .vAbs t _ _ m | .vNeg t _ _ m => m.byType t
  | .vMulh _ _ _ _ m | .vMin _ _ _ _ m | .vMax _ _ _ _ m | .vClamp _ _ _ _ _ m | .vPopc _ _ _ m
  | .vClz _ _ _ m | .vAvg _ _ _ _ m | .vAnd _ _ _ _ m | .vOr _ _ _ _ m | .vXor _ _ _ _ m | .vNot _ _ _ m
  | .vShr _ _ _ _ m | .vSar _ _ _ _ m | .vFshl _ _ _ _ _ m | .vFshr _ _ _ _ _ m | .vMov _ _ _ m
  | .vBcast _ _ _ m | .vIota _ _ _ m _ | .vPerm _ _ _ _ m | .vSlide _ _ _ _ m | .vZip _ _ _ _ m _ => m.noR
  | .vAbd _ _ _ _ m | .vShl _ _ _ _ m => m.satOnly
  | .vRound _ _ _ m => m.rmOnly
  | .vCmp _ _ _ _ c => match c with
    | .eq | .ne | .lt | .le | .gt | .ge => true
    | .ltu | .leu | .gtu | .geu => false
  | .vCvt src _ _ dst _ m => match dst with
    | .ty _ => true
    | .mx8 | .mx4 => src == .f32 && m.noR
  | .vRsum _ _ _ m | .vRowsum _ _ _ m | .vColsum _ _ _ m => !m.zero
  | .vRmax _ _ _ m | .vRmin _ _ _ m | .vGmax _ _ _ m _ _ => !m.zero && m.noR
  | .mCas _ f .. => f == .relaxed || f == .acquire || f == .seq
  | .zw1Ldpair d _ imm => d.val % 2 == 0 && imm.toNat % 16 == 0
  | _ => true

/-- s0 to s55. -/
def SReg.plain (r : SReg) : Bool := r.val < 56
/-- s1 to s55. -/
def SReg.plain1 (r : SReg) : Bool := 1 ≤ r.val && r.val < 56
/-- s0 to s62. -/
def SReg.src62 (r : SReg) : Bool := r.val < 63
/-- s1 to s55, or a write port. -/
def SReg.dst (r : SReg) : Bool := (1 ≤ r.val && r.val < 60) || r.val == 63
/-- s0 to s55, or a write port: the destination of an atomic (R193). -/
def SReg.dst0 (r : SReg) : Bool := r.val < 60 || r.val == 63
/-- An even register of s10 to s54 (R104, R189). -/
def SReg.pair (r : SReg) : Bool := 10 ≤ r.val && r.val < 55 && r.val % 2 == 0
/-- v0 to v27, or the write port v31. -/
def VReg.dst (r : VReg) : Bool := r.val < 28 || r.val == 31
/-- v0 to v30. -/
def VReg.src (r : VReg) : Bool := r.val < 31
/-- v0 to v27. -/
def VReg.plain (r : VReg) : Bool := r.val < 28
/-- Kind V, or s0 to s62 (R120). -/
def SV.ok : SV → Bool
  | .v _ => true
  | .s r => r.src62

/-- Points of a geometric predicate: k of R169. -/
def GeoPred.points : GeoPred → Nat
  | .orient2 => 3
  | .orient3 | .incircle | .segx => 4
  | .insphere => 5

/-- Each register field holds a kind and a number the entry accepts (R56; log 25, DEDUCED). A port of the wrong direction
in a field whose entry states a range of numbers is outside that range, so that it is REGKIND and not PORTDIR (R57, R94;
log 25, DEDUCED). -/
def Instr.kindOk : Instr → Bool
  | .sClk _ d => SReg.pair d
  | .sChk (.s a b) => SReg.plain a && SReg.plain b
  | .bRet a | .bJmpi a | .bCalli a _ => SReg.plain1 a
  | .bRvz a _ _ | .bYield a _ | .bSpawn a _ | .bGroupDissolve a => SReg.plain a
  | .bCbar d => SReg.plain d
  | .bMwait a b c => SReg.plain a && SReg.plain b && SReg.plain c
  | .bPhase b => SReg.plain b
  | .bWany d _ | .bWall d _ | .bFfr d _ => SReg.plain d
  | .bGroupQuery d a => SReg.plain1 d && SReg.plain a
  | .bGroupForm a b => SReg.plain a && SReg.plain b
  | .vAdd _ d a b _ | .vSub _ d a b _ | .vMul _ d a b _ | .vMulh _ d a b _ | .vMin _ d a b _ | .vMax _ d a b _
  | .vAnd _ d a b _ | .vOr _ d a b _ | .vXor _ d a b _ | .vShl _ d a b _ | .vShr _ d a b _ | .vSar _ d a b _
  | .vSel _ d a b _ | .vAvg _ d a b _ | .vAbd _ d a b _ | .fDiv _ d a b _ =>
    VReg.dst d && VReg.src a && b.ok
  | .vFma _ d a b c _ | .vFms _ d a b c _ | .vFnma _ d a b c _ | .vClamp _ d a b c _ | .vFshl _ d a b c _
  | .vFshr _ d a b c _ => VReg.dst d && VReg.src a && b.ok && c.ok
  | .vAbs _ d a _ | .vNeg _ d a _ | .vNot _ d a _ | .vMov _ d a _ | .vCmprs _ d a _ | .vCvt _ d a _ _ _
  | .vPxpose _ d a _ _ | .vRsum _ d a _ | .vRmax _ d a _ | .vRmin _ d a _ | .vGmax _ d a _ _ _ | .vRowsum _ d a _
  | .vColsum _ d a _ | .vPopc _ d a _ | .vClz _ d a _ | .vRound _ d a _ | .fRcp _ d a _ | .fRsq _ d a _
  | .fSqrt _ d a _ | .fExp2 _ d a _ | .fLog2 _ d a _ | .fExp _ d a _ | .fLog _ d a _ => VReg.dst d && VReg.src a
  | .vCmp _ _ a b _ => VReg.src a && b.ok
  | .vBcast _ d b _ | .vIota _ d b _ _ => VReg.dst d && SReg.src62 b
  | .vExtr _ d a b _ => SReg.dst d && VReg.src a && SReg.src62 b
  | .vIns _ d a b c _ => VReg.dst d && VReg.src a && SReg.src62 b && SReg.src62 c
  | .vPerm _ d a _ _ | .vZip _ d a _ _ _ => VReg.dst d && VReg.src a
  | .vSlide _ d a b _ | .vScale _ d a b _ => VReg.dst d && VReg.src a && SReg.src62 b
  | .vMaxexp a _ => VReg.src a
  | .vAread d _ b _ => VReg.dst d && SReg.src62 b
  | .vAwrite _ a b _ => VReg.src a && SReg.src62 b
  | .vMset _ a => VReg.src a
  | .fTbl _ d a b _ _ | .fGeoidx d a b | .fLq d a b | .fLdq _ d a b _ =>
    VReg.dst d && VReg.src a && SReg.src62 b
  | .fTblwr a _ => VReg.src a
  | .fTblrd d _ => VReg.dst d
  | .fGeo p _ a _ => a.val + p.points ≤ 28
  | .fLqcnt d => SReg.dst d
  | .fLscale d a _ => SReg.dst d && VReg.src a
  | .mLd _ _ d a _ => SReg.dst d && SReg.plain a
  | .mSt _ a b _ => SReg.plain a && SReg.src62 b
  | .mLdp _ d a _ => SReg.pair d && SReg.plain a
  | .mStp a b _ => SReg.plain a && SReg.pair b
  | .mVld _ d a _ => VReg.dst d && SReg.plain a
  | .mVsts a _ c _ => SReg.plain a && SReg.src62 c
  | .mVst a _ _ | .mVstu a _ _ _ | .mVscat a _ _ _ | .mPref a _ | .mTinv a | .mZero a _ =>
    SReg.plain a
  | .mVlds _ d a b _ => VReg.dst d && SReg.plain a && SReg.src62 b
  | .mVldb _ d a _ | .mVgath d a _ _ => VReg.dst d && SReg.plain a
  | .mLdaq _ _ _ d a => SReg.dst d && SReg.plain a
  | .mStrl _ _ a b => SReg.plain a && SReg.src62 b
  | .mAadd _ d a b | .mAmin _ d a b | .mAmax _ d a b | .mAand _ d a b | .mAor _ d a b | .mAxor _ d a b
  | .mSwap _ d a b => SReg.dst0 d && SReg.plain a && SReg.src62 b
  | .mCas _ _ d a b c => SReg.dst0 d && SReg.plain a && SReg.src62 b && SReg.src62 c
  | .mSts _ d a b _ => SReg.plain d && SReg.plain a && SReg.src62 b
  | .mLdas _ _ d a b _ => SReg.dst d && SReg.plain a && SReg.src62 b
  | .mGld _ _ d a _ _ => SReg.dst d && SReg.plain a
  | .mGst _ a b _ _ => SReg.plain a && SReg.src62 b
  | .xStat d | .dPpact d | .dPortCount d | .dPortSkip d | .dDstat d | .lPeek d _ | .lStat d _ => SReg.plain1 d
  | .dPpcfg a => VReg.plain a
  | .cFill t _ _ | .cFill2d t _ _ => SReg.plain t
  | .lSendst t _ _ _ => SReg.plain t
  | .dRingSet a b => SReg.plain a && SReg.plain b
  | .dRingFree a => SReg.plain a
  | .zw1Ldpair d _ _ => 10 ≤ d.val && d.val < 55
  | .zw1Dbnz a _ => 10 ≤ a.val && a.val < 56
  | _ => true

/-- A well-formed instruction: one that a syllable can carry and a core accepts at decode. -/
def Instr.wf (i : Instr) : Bool := i.modOk && i.fieldOk && i.kindOk

end Sys2Proof
end

