-- ==== Sys2Proof/Decode.lean ====
section
/-! DEFINITION. The decoder and, after it, the encoder: the 64-bit frame, the four formats, the register numbers and
the opcode map of spec/04 R49 to R64, with the field layouts of each instruction's entry. -/

namespace Sys2Proof

/-- The reasons of R63 for which a syllable is not an instruction, in the order in which they are tested. -/
inductive Ill where
  | unassigned | resmod | resfield | regkind
  deriving DecidableEq, Repr

/-- Detail codes of ILLOP (R63). -/
def Ill.code : Ill → Nat
  | .unassigned => 1
  | .resmod => 2
  | .resfield => 3
  | .regkind => 4

/-- Bits hi down to lo of x (R66). -/
def bits (x hi lo : Nat) : Nat := x / 2 ^ lo % 2 ^ (hi + 1 - lo)

/-- The frame of a syllable, OPC and MOD apart (R50). -/
structure Frame where
  stop : Bool
  dup : Bool
  ginv : Bool
  gpred : PReg
  deriving DecidableEq, Repr

/-- The guard that always executes, in a syllable that ends its bundle. -/
def Frame.plain : Frame := ⟨true, false, false, 0⟩

/-- Operand formats of R53. -/
inductive Fmt where
  | a | i | j | e
  deriving DecidableEq, Repr

/-- The operand fields of any format. `d` holds T in format E; `imm` holds IMM16, IMM30, OFF44 or FN. -/
structure Fields where
  d : Nat
  a : Nat
  b : Nat
  c : Nat
  imm : Nat
  tida : Nat
  tidb : Nat
  tag : Nat
  deriving DecidableEq, Repr

/-- OPC, MOD and the operand fields. -/
structure Enc where
  opc : Nat
  md : Nat
  f : Fields
  deriving DecidableEq, Repr

/-- The format of each opcode (R61). -/
def fmtOf (opc : Nat) : Fmt :=
  if [0x03, 0x04, 0x05, 0x0A, 0x0B, 0x0C, 0x26, 0x32, 0x45, 0x46, 0x47, 0x49, 0x4A, 0x4B, 0x54, 0xF3].contains opc
  then .i
  else if opc == 0x40 || opc == 0x41 then .j
  else if (0xC4 ≤ opc && opc ≤ 0xC9) || (0xD0 ≤ opc && opc ≤ 0xDB && opc != 0xDA)
      || (0xDD ≤ opc && opc ≤ 0xDF) || (0xE4 ≤ opc && opc ≤ 0xEA && opc != 0xE6 && opc != 0xE7) then .e
  else .a

/-- The 32 unassigned values of R62. -/
def assigned (opc : Nat) : Bool :=
  !((0x3A ≤ opc && opc ≤ 0x3F) || opc == 0x56 || opc == 0x57 || (0x8C ≤ opc && opc ≤ 0x8F)
    || (0xA1 ≤ opc && opc ≤ 0xA3) || opc == 0xC2 || opc == 0xC3 || opc == 0xCE || opc == 0xCF || opc == 0xE3
    || 0xF4 ≤ opc)

/-- The operand bits [43:0] read by format (R53). -/
def unpack (k : Fmt) (x : Nat) : Fields :=
  match k with
  | .a => ⟨bits x 43 37, bits x 36 30, bits x 29 23, bits x 22 16, bits x 15 0, 0, 0, 0⟩
  | .i => ⟨bits x 43 37, bits x 36 30, 0, 0, bits x 29 0, 0, 0, 0⟩
  | .j => ⟨0, 0, 0, 0, bits x 43 0, 0, 0, 0⟩
  | .e => ⟨bits x 43 37, 0, 0, 0, bits x 18 0, bits x 36 31, bits x 30 25, bits x 24 19⟩

/-- The operand bits [43:0] written by format (R53). -/
def pack (k : Fmt) (f : Fields) : Nat :=
  match k with
  | .a => f.d * 2 ^ 37 + f.a * 2 ^ 30 + f.b * 2 ^ 23 + f.c * 2 ^ 16 + f.imm
  | .i => f.d * 2 ^ 37 + f.a * 2 ^ 30 + f.imm
  | .j => f.imm
  | .e => f.d * 2 ^ 37 + f.tida * 2 ^ 31 + f.tidb * 2 ^ 25 + f.tag * 2 ^ 19 + f.imm

/-- The frame bits of a syllable (R50). -/
def frameOf (w : Nat) : Frame :=
  ⟨bits w 63 63 == 1, bits w 62 62 == 1, bits w 61 61 == 1, Fin.ofNat 16 (bits w 60 57)⟩

/-- A syllable's opcode, MOD and fields. -/
def encOf (w : Nat) : Enc :=
  ⟨bits w 56 49, bits w 48 44, unpack (fmtOf (bits w 56 49)) w⟩

/-- How an entry uses a register field: not at all, as a source, as a destination, as both, or as the tile of an
engine or accumulator-port access, which the BANK rule of R28 judges. -/
inductive Use where
  | no | rd | wr | rw | tile
  deriving DecidableEq, Repr

/-- The uses of D (or T), A, B and C. -/
structure Uses where
  d : Use
  a : Use
  b : Use
  c : Use
  deriving DecidableEq, Repr

/-- A field that the entry uses as `k` exactly when the opcode is listed. -/
def useIf (l : List Nat) (opc : Nat) (k : Use) : Use := if l.contains opc then k else .no

/-- Which register fields each entry uses, by opcode and MOD. -/
def usesOf (opc md : Nat) : Uses :=
  if opc < 0x40 then
    ⟨if [0x00, 0x2E, 0x30, 0x33, 0x36].contains opc then .no else .wr,
     if [0x00, 0x04, 0x2D, 0x2F, 0x32, 0x34, 0x35].contains opc then .no else .rd,
     if opc == 0x31 then (if md % 2 == 0 then .rd else .no)
     else useIf [0x01, 0x02, 0x06, 0x07, 0x08, 0x09, 0x0D, 0x0E, 0x0F, 0x13, 0x14, 0x15, 0x37, 0x38, 0x21, 0x22,
       0x23, 0x1F, 0x20, 0x24, 0x25, 0x27, 0x28, 0x29, 0x2B, 0x30] opc .rd,
     useIf [0x20, 0x24] opc .rd⟩
  else if opc < 0x58 then
    ⟨if opc == 0x55 then (if md % 4 == 0 then .wr else .no) else useIf [0x4A, 0x51, 0x52, 0x53] opc .wr,
     if opc == 0x47 then (if md % 2 == 1 then .rd else .no)
     else if opc == 0x4C then (if md == 0 then .rd else .no)
     else useIf [0x42, 0x43, 0x44, 0x45, 0x46, 0x49, 0x4B, 0x4D, 0x50, 0x51, 0x52, 0x53, 0x55] opc .rd,
     if opc == 0x55 then (if md == 1 then .rd else .no) else useIf [0x4C, 0x4D, 0x4E] opc .rd,
     useIf [0x4D] opc .rd⟩
  else if opc < 0x90 then
    ⟨if opc == 0x77 then .no else if opc == 0x81 then .tile else .wr,
     if opc == 0x70 || opc == 0x71 then .no else if opc == 0x80 then .tile else .rd,
     if (0x58 ≤ opc && opc ≤ 0x60) || [0x63, 0x64, 0x65, 0x66, 0x68, 0x69, 0x6A, 0x6B, 0x6C, 0x6D, 0x6E, 0x70, 0x71,
       0x72, 0x73, 0x74, 0x75, 0x80, 0x81, 0x86, 0x87, 0x88, 0x8A, 0x8B].contains opc then .rd else .no,
     useIf [0x5C, 0x5D, 0x5E, 0x63, 0x6B, 0x6C, 0x73] opc .rd⟩
  else if opc < 0xA4 then
    ⟨if opc == 0x91 || opc == 0x99 then .no else .wr,
     if opc == 0x92 || opc == 0x9D then .no else .rd,
     useIf [0x90, 0x96, 0x9A, 0x9B, 0x9C] opc .rd, .no⟩
  else if opc < 0xC4 then
    ⟨useIf [0xA4, 0xA6, 0xA8, 0xAB, 0xAD, 0xAE, 0xB0, 0xB2, 0xB3, 0xB4, 0xB5, 0xB6, 0xB7, 0xB8, 0xB9, 0xBB, 0xBC,
       0xBE] opc .wr,
     if opc == 0xBA then .no else .rd,
     useIf [0xA5, 0xA7, 0xA9, 0xAA, 0xAB, 0xAC, 0xAE, 0xAF, 0xB1, 0xB2, 0xB3, 0xB4, 0xB5, 0xB6, 0xB7, 0xB8, 0xB9,
       0xBB, 0xBC, 0xBF] opc .rd,
     if opc == 0xBE || opc == 0xBF then .wr else useIf [0xAA, 0xAC, 0xAF, 0xB9] opc .rd⟩
  else
    ⟨if opc ≤ 0xC9 || opc == 0xE4 || opc == 0xE5 then .tile
     else if [0xD2, 0xD3, 0xDE].contains opc then .rd
     else useIf [0xCD, 0xE0, 0xE2, 0xE7, 0xEC, 0xED, 0xF0, 0xF1, 0xF2] opc .wr,
     if opc == 0xEB then .rd else if opc == 0xF3 then .rw else useIf [0xDA, 0xE6, 0xF0, 0xF1, 0xF2] opc .rd,
     if opc == 0xEB then (if md == 0 then .rd else .no) else useIf [0xF0] opc .rd,
     useIf [0xF0] opc .rd⟩

/-! Register numbers of R56. -/

/-- Number of a V register. -/
def numV (r : VReg) : Nat := 64 + r.val
/-- Number of a predicate. -/
def numP (r : PReg) : Nat := 96 + r.val
/-- Number of a mask register. -/
def numM (r : MReg) : Nat := 112 + r.val
/-- Number of a tile. -/
def numA (r : AReg) : Nat := 120 + r.val
/-- Number of an operand that may be of kind V or S. -/
def SV.num : SV → Nat
  | .v r => numV r
  | .s r => r.val
/-- Number of any register. -/
def Reg.num : Reg → Nat
  | .s r => r.val
  | .v r => numV r
  | .p r => numP r
  | .m r => numM r
  | .a r => numA r
/-- The register a 7-bit field names. -/
def regOf (n : Nat) : Reg :=
  if n < 64 then .s (Fin.ofNat 64 n)
  else if n < 96 then .v (Fin.ofNat 32 n)
  else if n < 112 then .p (Fin.ofNat 16 n)
  else if n < 120 then .m (Fin.ofNat 8 n)
  else .a (Fin.ofNat 8 n)

/-! Readers of one field. A number of another kind gives a register whose number differs, which the decoder's
comparison then refuses as REGKIND. -/

/-- Field as S. -/
def rs (n : Nat) : SReg := Fin.ofNat 64 n
/-- Field as V. -/
def rv (n : Nat) : VReg := Fin.ofNat 32 n
/-- Field as P. -/
def rp (n : Nat) : PReg := Fin.ofNat 16 n
/-- Field as M. -/
def rm (n : Nat) : MReg := Fin.ofNat 8 n
/-- Field as A. -/
def ra (n : Nat) : AReg := Fin.ofNat 8 n
/-- Field as V or S. -/
def sv (n : Nat) : SV := if n < 64 then .s (rs n) else .v (rv n)
/-- A tensor identifier or a tag. -/
def tid (n : Nat) : Fin 64 := Fin.ofNat 64 n
/-- An immediate of any width. -/
def bv {w : Nat} (n : Nat) : BitVec w := BitVec.ofNat w n
/-- Bit 0 of a field. -/
def bit0 (n : Nat) : Bool := n % 2 == 1

/-! Codes of the small types. -/

/-- R99. -/
def Cond.code : Cond → Nat
  | .eq => 0 | .ne => 1 | .lt => 2 | .le => 3 | .gt => 4 | .ge => 5 | .ltu => 6 | .leu => 7 | .gtu => 8 | .geu => 9
/-- R99. -/
def condOf : Nat → Option Cond
  | 0 => some .eq | 1 => some .ne | 2 => some .lt | 3 => some .le | 4 => some .gt | 5 => some .ge
  | 6 => some .ltu | 7 => some .leu | 8 => some .gtu | 9 => some .geu | _ => none
/-- R72. -/
def RM.code : RM → Nat
  | .rne => 0 | .rtz => 1 | .rdn => 2 | .rup => 3
/-- R72. -/
def rmOf (n : Nat) : RM :=
  match n % 4 with
  | 0 => .rne | 1 => .rtz | 2 => .rdn | _ => .rup
/-- R60. -/
def EType.code : EType → Nat
  | .i8 => 0 | .n8 => 1 | .i16 => 2 | .n16 => 3 | .i32 => 4 | .n32 => 5 | .i64 => 6 | .f32 => 7 | .f16 => 8
  | .bf16 => 9 | .e4m3 => 10 | .e5m2 => 11
/-- R60. -/
def etyOf : Nat → Option EType
  | 0 => some .i8 | 1 => some .n8 | 2 => some .i16 | 3 => some .n16 | 4 => some .i32 | 5 => some .n32
  | 6 => some .i64 | 7 => some .f32 | 8 => some .f16 | 9 => some .bf16 | 10 => some .e4m3 | 11 => some .e5m2
  | _ => none
/-- R131. -/
def CvtDst.code : CvtDst → Nat
  | .ty t => t.code | .mx8 => 12 | .mx4 => 13
/-- R131; a reserved code gives a destination whose code differs. -/
def cvtOf (n : Nat) : CvtDst :=
  if n == 12 then .mx8 else if n == 13 then .mx4 else .ty ((etyOf n).getD .i8)
/-- R119. -/
def VMod.num (m : VMod) : Nat := m.mask.val + 8 * m.zero.toNat + 16 * m.rm.code + 64 * m.sat.toNat
/-- R119. -/
def vm (n : Nat) : VMod := ⟨Fin.ofNat 8 n, bit0 (n / 8), rmOf (n / 16), bit0 (n / 64)⟩
/-- R184. -/
def LClass.code : LClass → Nat
  | .sp => 0 | .vt => 1 | .dm => 2
/-- R184. -/
def clsOf : Nat → Option LClass
  | 0 => some .sp | 1 => some .vt | 2 => some .dm | _ => none
/-- R189. -/
def SizeTy.code : SizeTy → Nat
  | .i8 => 0 | .n8 => 1 | .i16 => 2 | .n16 => 3 | .i32 => 4 | .n32 => 5 | .i64 => 6
/-- R189. -/
def styOf : Nat → Option SizeTy
  | 0 => some .i8 | 1 => some .n8 | 2 => some .i16 | 3 => some .n16 | 4 => some .i32 | 5 => some .n32
  | 6 => some .i64 | _ => none
/-- R193. -/
def MemOrd.code : MemOrd → Nat
  | .relaxed => 0 | .acquire => 1 | .release => 2 | .acqRel => 3 | .seq => 4
/-- R193. -/
def ordOf : Nat → Option MemOrd
  | 0 => some .relaxed | 1 => some .acquire | 2 => some .release | 3 => some .acqRel | 4 => some .seq | _ => none
/-- R215. -/
def Scope.code : Scope → Nat
  | .strand => 0 | .crew => 1 | .die => 2 | .package => 3 | .system => 4
/-- R215; a reserved code gives a scope whose code differs. -/
def scopeOf : Nat → Scope
  | 1 => .crew | 2 => .die | 3 => .package | 4 => .system | _ => .strand
/-- R217. -/
def FenceKind.code : FenceKind → Nat
  | .acquire => 1 | .release => 2 | .acqRel => 3 | .seq => 4
/-- R193: order in MOD[2:0], size in MOD[3]. -/
def AMod.code (o : AMod) : Nat := o.ord.code + 8 * o.w32.toNat
/-- R169. -/
def GeoPred.code : GeoPred → Nat
  | .orient2 => 0 | .orient3 => 1 | .incircle => 2 | .insphere => 3 | .segx => 4
/-- R169. -/
def geoPredOf : Nat → Option GeoPred
  | 0 => some .orient2 | 1 => some .orient3 | 2 => some .incircle | 3 => some .insphere | 4 => some .segx | _ => none
/-- R169. -/
def GeoOpt.code : GeoOpt → Nat
  | .zero => 0 | .sos => 1 | .strict => 2
/-- R169. -/
def geoOptOf : Nat → Option GeoOpt
  | 0 => some .zero | 1 => some .sos | 2 => some .strict | _ => none
/-- R127. -/
def MaskOp.code : MaskOp → Nat
  | .and => 0 | .or => 1 | .xor => 2 | .andn => 3
/-- R127. -/
def maskOpOf : Nat → MaskOp
  | 0 => .and | 1 => .or | 2 => .xor | _ => .andn
/-- R199. -/
def ConvKind.code : ConvKind → Nat
  | .qn4i8 => 0 | .mx4mx8 => 1 | .bf16blk => 2
/-- R199; a reserved code gives a kind whose code differs. -/
def convOf : Nat → ConvKind
  | 0 => .qn4i8 | 1 => .mx4mx8 | _ => .bf16blk
/-- R156. -/
def PpAct.code : PpAct → Nat
  | .none => 0 | .relu => 1 | .clip => 2 | .tbl => 3
/-- R156. -/
def PpFn.num (f : PpFn) : Nat := f.act.code + 4 * f.sbias.toNat + 8 * f.rm.code + 32 * f.sat.toNat
/-- R156. -/
def ppFnOf (n : Nat) : PpFn :=
  ⟨match n % 4 with
    | 0 => .none | 1 => .relu | 2 => .clip | _ => .tbl,
   bit0 (n / 4), rmOf (n / 8), bit0 (n / 32)⟩
/-- R108. -/
def lvlOf : Nat → Option (Fin 3)
  | 0 => some 0 | 1 => some 1 | 2 => some 2 | _ => none
/-- R111. -/
def repImm (count : BitVec 12) (stride : BitVec 3) (fmask : BitVec 4) : Nat :=
  count.toNat + 4096 * stride.toNat + 32768 * fmask.toNat

/-- R103. -/
def CReg.num : CReg → Nat
  | .allow => 0x000 | .paced => 0x001 | .budget => 0x002 | .diecfg => 0x003 | .dbgctl => 0x004 | .trappc => 0x010
  | .trapinfo => 0x011 | .ckptpc => 0x012 | .rpc => 0x013 | .shape => 0x020 | .qsl => 0x021 | .matmode => 0x022
  | .ttbase => 0x023 | .tagdone => 0x028 | .tagerr => 0x029 | .crewid => 0x030 | .strandid => 0x031
  | .stage => 0x032 | .partid => 0x033 | .rvzto => 0x038 | .clkw => 0x039 | .horizon => 0x03A | .feat => 0x040
  | .mcrev => 0x041 | .numv => 0x042 | .lc n => 0x048 + n.val | .ls n => 0x04C + n.val | .le n => 0x050 + n.val
/-- R103; a number that names no register gives a register whose number differs. -/
def cregOf : Nat → CReg
  | 0x001 => .paced | 0x002 => .budget | 0x003 => .diecfg | 0x004 => .dbgctl | 0x010 => .trappc
  | 0x011 => .trapinfo | 0x012 => .ckptpc | 0x013 => .rpc | 0x020 => .shape | 0x021 => .qsl | 0x022 => .matmode
  | 0x023 => .ttbase | 0x028 => .tagdone | 0x029 => .tagerr | 0x030 => .crewid | 0x031 => .strandid
  | 0x032 => .stage | 0x033 => .partid | 0x038 => .rvzto | 0x039 => .clkw | 0x03A => .horizon | 0x040 => .feat
  | 0x041 => .mcrev | 0x042 => .numv | 0x048 => .lc 0 | 0x049 => .lc 1 | 0x04A => .lc 2 | 0x04C => .ls 0
  | 0x04D => .ls 1 | 0x04E => .ls 2 | 0x050 => .le 0 | 0x051 => .le 1 | 0x052 => .le 2 | _ => .allow
/-- R102. -/
def GReg.num : GReg → Nat
  | .mg n => n.val | .cg n => 0x10 + n.val | .dg n => 0x20 + n.val | .lg n => 0x30 + n.val
/-- R102; a number that names no register gives a register whose number differs. -/
def gregOf (n : Nat) : GReg :=
  if n < 0x10 then .mg (Fin.ofNat 8 n)
  else if n < 0x20 then .cg (Fin.ofNat 16 n)
  else if n < 0x30 then .dg (Fin.ofNat 8 n)
  else .lg (Fin.ofNat 4 n)

/-- The instruction of an opcode, its MOD and its fields, each field read by the kind the entry names (R61, R64);
none where the opcode is unassigned or MOD is a value the entry reserves. -/
def build (opc md : Nat) (f : Fields) : Option Instr :=
  match opc with
  | 0x0 => some (.sNop (bv f.imm))
  | 0x1 => some (.sAdd (rs f.d) (rs f.a) (rs f.b))
  | 0x2 => some (.sSub (rs f.d) (rs f.a) (rs f.b))
  | 0x3 => some (.sAddi (rs f.d) (rs f.a) (bv f.imm))
  | 0x4 => some (.sMovi (rs f.d) (bv f.imm))
  | 0x5 => some (.sMovhi (rs f.d) (rs f.a) (bv f.imm))
  | 0x6 => some (.sAnd (rs f.d) (rs f.a) (rs f.b))
  | 0x7 => some (.sOr (rs f.d) (rs f.a) (rs f.b))
  | 0x8 => some (.sXor (rs f.d) (rs f.a) (rs f.b))
  | 0x9 => some (.sAndn (rs f.d) (rs f.a) (rs f.b))
  | 0xa => some (.sAndi (rs f.d) (rs f.a) (bv f.imm))
  | 0xb => some (.sOri (rs f.d) (rs f.a) (bv f.imm))
  | 0xc => some (.sXori (rs f.d) (rs f.a) (bv f.imm))
  | 0xd => some (.sShl (rs f.d) (rs f.a) (rs f.b))
  | 0xe => some (.sShr (rs f.d) (rs f.a) (rs f.b))
  | 0xf => some (.sSar (rs f.d) (rs f.a) (rs f.b))
  | 0x10 => some (.sShli (rs f.d) (rs f.a) (Fin.ofNat 64 f.imm))
  | 0x11 => some (.sShri (rs f.d) (rs f.a) (Fin.ofNat 64 f.imm))
  | 0x12 => some (.sSari (rs f.d) (rs f.a) (Fin.ofNat 64 f.imm))
  | 0x13 => some (.sRor (rs f.d) (rs f.a) (rs f.b))
  | 0x14 => some (.sMin (rs f.d) (rs f.a) (rs f.b))
  | 0x15 => some (.sMax (rs f.d) (rs f.a) (rs f.b))
  | 0x16 => some (.sAbs (rs f.d) (rs f.a))
  | 0x17 => some (.sNeg (rs f.d) (rs f.a))
  | 0x18 => some (.sClz (rs f.d) (rs f.a))
  | 0x19 => some (.sCtz (rs f.d) (rs f.a))
  | 0x1a => some (.sPopc (rs f.d) (rs f.a))
  | 0x1b => some (.sBswap (rs f.d) (rs f.a))
  | 0x1c => some (.sSext (rs f.d) (rs f.a) (Fin.ofNat 64 (f.imm / 64)))
  | 0x1d => some (.sZext (rs f.d) (rs f.a) (Fin.ofNat 64 (f.imm / 64)))
  | 0x1e => some (.sBfx (bit0 md) (rs f.d) (rs f.a) (Fin.ofNat 64 f.imm) (Fin.ofNat 64 (f.imm / 64)))
  | 0x1f => some (.sBfi (rs f.d) (rs f.a) (rs f.b) (Fin.ofNat 64 f.imm) (Fin.ofNat 64 (f.imm / 64)))
  | 0x20 => some (.sSel (rs f.d) (rs f.a) (rs f.b) (rp f.c))
  | 0x21 => some (.sMul (rs f.d) (rs f.a) (rs f.b))
  | 0x22 => some (.sMulh (rs f.d) (rs f.a) (rs f.b))
  | 0x23 => some (.sMulhu (rs f.d) (rs f.a) (rs f.b))
  | 0x24 => some (.sMadd (rs f.d) (rs f.a) (rs f.b) (rs f.c))
  | 0x25 => (condOf md).map fun k => .sCmp k (rp f.d) (rs f.a) (rs f.b)
  | 0x26 => (condOf md).map fun k => .sCmpi k (rp f.d) (rs f.a) (bv f.imm)
  | 0x27 => some (.sPand (rp f.d) (rp f.a) (rp f.b))
  | 0x28 => some (.sPor (rp f.d) (rp f.a) (rp f.b))
  | 0x29 => some (.sPxor (rp f.d) (rp f.a) (rp f.b))
  | 0x2a => some (.sPnot (rp f.d) (rp f.a))
  | 0x2b => some (.sLea (Fin.ofNat 4 md) (rs f.d) (rs f.a) (rs f.b) (bv f.imm))
  | 0x2c => some (.sMov (rs f.d) (rs f.a))
  | 0x2d => some (.sCrd (rs f.d) (cregOf f.imm))
  | 0x2e => some (.sCwr (cregOf f.imm) (rs f.a))
  | 0x2f => some (.sClk (bit0 md) (rs f.d))
  | 0x30 => some (.sChk (if f.a < 64 then .s (rs f.a) (rs f.b) else if f.a < 112 then .p (rp f.a) (rp f.b) else .m (rm f.a) (rm f.b)))
  | 0x31 => some (if bit0 md then .sMskExt (Fin.ofNat 4 (md / 2)) (rs f.d) (rm f.a) else .sMskIns (Fin.ofNat 4 (md / 2)) (rm f.d) (rs f.a) (rm f.b))
  | 0x32 => some (.sMski (rm f.d) (Fin.ofNat 257 f.imm))
  | 0x33 => some (.sGwr (gregOf f.imm) (rs f.a))
  | 0x34 => some (.sGrd (rs f.d) (gregOf f.imm))
  | 0x35 => some (.sSpl (rs f.d) (Fin.ofNat 512 (f.imm / 8)))
  | 0x36 => some (.sSps (rs f.a) (Fin.ofNat 512 (f.imm / 8)))
  | 0x37 => some (.sMinu (rs f.d) (rs f.a) (rs f.b))
  | 0x38 => some (.sMaxu (rs f.d) (rs f.a) (rs f.b))
  | 0x39 => some (.sPset (rp f.d) (rs f.a))
  | 0x40 => some (.bBr (bv f.imm))
  | 0x41 => some (.bCall (bv f.imm))
  | 0x42 => some (.bRet (rs f.a))
  | 0x43 => some (.bJmpi (rs f.a))
  | 0x44 => some (.bCalli (rs f.a) (bv f.imm))
  | 0x45 => (lvlOf md).map fun l => .bLoop l (rs f.a) (bv f.imm)
  | 0x46 => (lvlOf (md % 4)).map fun l => .bPloop l (Fin.ofNat 4 (md / 4)) (rs f.a) (bv f.imm)
  | 0x47 => some (.bRep (if bit0 md then some (rs f.a) else none) (bv f.imm) (bv (f.imm / 4096)) (bv (f.imm / 32768)))
  | 0x48 => some .bCkpt
  | 0x49 => some (.bRvz (rs f.a) (Fin.ofNat 16 f.imm) (bv (f.imm / 16)))
  | 0x4a => some (.bCbar (rs f.d))
  | 0x4b => some (.bYield (rs f.a) (Fin.ofNat 64 f.imm))
  | 0x4c => match md with
    | 0 => some (.bWaitTime (rs f.a) (rs f.b))
    | 1 => some (.bWaitMbox (rs f.b))
    | 2 => some (.bWaitCrewq (rs f.b) (Fin.ofNat 4 f.imm))
    | 3 => some (.bWaitRecv (rs f.b) (Fin.ofNat 16 f.imm))
    | _ => none
  | 0x4d => some (.bMwait (rs f.a) (rs f.b) (rs f.c))
  | 0x4e => some (.bPhase (rs f.b))
  | 0x4f => some .bEnd
  | 0x50 => some (.bSpawn (rs f.a) (Fin.ofNat 64 f.imm))
  | 0x51 => some (.bWany (rs f.d) (rs f.a))
  | 0x52 => some (.bWall (rs f.d) (rs f.a))
  | 0x53 => some (.bFfr (rs f.d) (rs f.a))
  | 0x54 => some (.bTrap (bv f.imm))
  | 0x55 => match md with
    | 0 => some (.bGroupQuery (rs f.d) (rs f.a))
    | 1 => some (.bGroupForm (rs f.a) (rs f.b))
    | 2 => some (.bGroupDissolve (rs f.a))
    | _ => none
  | 0x58 => (etyOf md).map fun t => .vAdd t (rv f.d) (rv f.a) (sv f.b) (vm f.imm)
  | 0x59 => (etyOf md).map fun t => .vSub t (rv f.d) (rv f.a) (sv f.b) (vm f.imm)
  | 0x5a => (etyOf md).map fun t => .vMul t (rv f.d) (rv f.a) (sv f.b) (vm f.imm)
  | 0x5b => (etyOf md).map fun t => .vMulh t (rv f.d) (rv f.a) (sv f.b) (vm f.imm)
  | 0x5c => (etyOf md).map fun t => .vFma t (rv f.d) (rv f.a) (sv f.b) (sv f.c) (vm f.imm)
  | 0x5d => (etyOf md).map fun t => .vFms t (rv f.d) (rv f.a) (sv f.b) (sv f.c) (vm f.imm)
  | 0x5e => (etyOf md).map fun t => .vFnma t (rv f.d) (rv f.a) (sv f.b) (sv f.c) (vm f.imm)
  | 0x5f => (etyOf md).map fun t => .vMin t (rv f.d) (rv f.a) (sv f.b) (vm f.imm)
  | 0x60 => (etyOf md).map fun t => .vMax t (rv f.d) (rv f.a) (sv f.b) (vm f.imm)
  | 0x61 => (etyOf md).map fun t => .vAbs t (rv f.d) (rv f.a) (vm f.imm)
  | 0x62 => (etyOf md).map fun t => .vNeg t (rv f.d) (rv f.a) (vm f.imm)
  | 0x63 => (etyOf md).map fun t => .vClamp t (rv f.d) (rv f.a) (sv f.b) (sv f.c) (vm f.imm)
  | 0x64 => (etyOf md).map fun t => .vAnd t (rv f.d) (rv f.a) (sv f.b) (vm f.imm)
  | 0x65 => (etyOf md).map fun t => .vOr t (rv f.d) (rv f.a) (sv f.b) (vm f.imm)
  | 0x66 => (etyOf md).map fun t => .vXor t (rv f.d) (rv f.a) (sv f.b) (vm f.imm)
  | 0x67 => (etyOf md).map fun t => .vNot t (rv f.d) (rv f.a) (vm f.imm)
  | 0x68 => (etyOf md).map fun t => .vShl t (rv f.d) (rv f.a) (sv f.b) (vm f.imm)
  | 0x69 => (etyOf md).map fun t => .vShr t (rv f.d) (rv f.a) (sv f.b) (vm f.imm)
  | 0x6a => (etyOf md).map fun t => .vSar t (rv f.d) (rv f.a) (sv f.b) (vm f.imm)
  | 0x6b => (etyOf md).map fun t => .vFshl t (rv f.d) (rv f.a) (sv f.b) (sv f.c) (vm f.imm)
  | 0x6c => (etyOf md).map fun t => .vFshr t (rv f.d) (rv f.a) (sv f.b) (sv f.c) (vm f.imm)
  | 0x6d => (etyOf md).map fun t => .vCmp t (rm f.d) (rv f.a) (sv f.b) ((condOf (f.imm / 128)).getD .eq)
  | 0x6e => (etyOf md).map fun t => .vSel t (rv f.d) (rv f.a) (sv f.b) (rm f.imm)
  | 0x6f => (etyOf md).map fun t => .vMov t (rv f.d) (rv f.a) (vm f.imm)
  | 0x70 => (etyOf md).map fun t => .vBcast t (rv f.d) (rs f.b) (vm f.imm)
  | 0x71 => (etyOf md).map fun t => .vIota t (rv f.d) (rs f.b) (vm f.imm) (bv (f.imm / 128))
  | 0x72 => (etyOf md).map fun t => .vExtr t (rs f.d) (rv f.a) (rs f.b) (bv (f.imm / 128))
  | 0x73 => (etyOf md).map fun t => .vIns t (rv f.d) (rv f.a) (rs f.b) (rs f.c) (bv (f.imm / 128))
  | 0x74 => (etyOf md).map fun t => .vPerm t (rv f.d) (rv f.a) (rv f.b) (vm f.imm)
  | 0x75 => (etyOf md).map fun t => .vSlide t (rv f.d) (rv f.a) (rs f.b) (vm f.imm)
  | 0x76 => (etyOf md).map fun t => .vCvt t (rv f.d) (rv f.a) (cvtOf (f.imm / 128 % 32)) (Fin.ofNat 8 (f.imm / 4096)) (vm f.imm)
  | 0x77 => some (.vMaxexp (rv f.a) (rm f.imm))
  | 0x78 => some (.vPxpose (!bit0 md) (rv f.d) (rv f.a) (Fin.ofNat 8 (f.imm / 128)) (bit0 (f.imm / 1024)))
  | 0x79 => (etyOf md).map fun t => .vCmprs t (rv f.d) (rv f.a) (rm f.imm)
  | 0x7a => (etyOf md).map fun t => .vRsum t (rv f.d) (rv f.a) (vm f.imm)
  | 0x7b => (etyOf md).map fun t => .vRmax t (rv f.d) (rv f.a) (vm f.imm)
  | 0x7c => (etyOf md).map fun t => .vRmin t (rv f.d) (rv f.a) (vm f.imm)
  | 0x7d => (etyOf md).map fun t => .vGmax t (rv f.d) (rv f.a) (vm f.imm) (Fin.ofNat 8 (f.imm / 128)) (bit0 (f.imm / 1024))
  | 0x7e => (etyOf md).map fun t => .vRowsum t (rv f.d) (rv f.a) (vm f.imm)
  | 0x7f => (etyOf md).map fun t => .vColsum t (rv f.d) (rv f.a) (vm f.imm)
  | 0x80 => some (.vAread (rv f.d) (ra f.a) (rs f.b) (Fin.ofNat 64 (f.imm / 128)))
  | 0x81 => some (.vAwrite (ra f.d) (rv f.a) (rs f.b) (Fin.ofNat 64 (f.imm / 128)))
  | 0x82 => some (.vMcnt (rs f.d) (rm f.a))
  | 0x83 => (etyOf md).map fun t => .vPopc t (rv f.d) (rv f.a) (vm f.imm)
  | 0x84 => (etyOf md).map fun t => .vClz t (rv f.d) (rv f.a) (vm f.imm)
  | 0x85 => (etyOf md).map fun t => .vRound t (rv f.d) (rv f.a) (vm f.imm)
  | 0x86 => (etyOf md).map fun t => .vScale t (rv f.d) (rv f.a) (rs f.b) (vm f.imm)
  | 0x87 => (etyOf md).map fun t => .vAvg t (rv f.d) (rv f.a) (sv f.b) (vm f.imm)
  | 0x88 => (etyOf md).map fun t => .vAbd t (rv f.d) (rv f.a) (sv f.b) (vm f.imm)
  | 0x89 => some (.vMset (rm f.d) (rv f.a))
  | 0x8a => some (.vMand (maskOpOf (f.imm / 128 % 4)) (rm f.d) (rm f.a) (rm f.b))
  | 0x8b => (etyOf md).map fun t => .vZip t (rv f.d) (rv f.a) (rv f.b) (vm f.imm) (bit0 (f.imm / 128))
  | 0x90 => (etyOf md).map fun t => .fTbl t (rv f.d) (rv f.a) (rs f.b) (vm f.imm) (Fin.ofNat 4 (f.imm / 128))
  | 0x91 => some (.fTblwr (rv f.a) (Fin.ofNat 4 (f.imm / 128)))
  | 0x92 => some (.fTblrd (rv f.d) (Fin.ofNat 4 (f.imm / 128)))
  | 0x93 => (etyOf md).map fun t => .fRcp t (rv f.d) (rv f.a) (vm f.imm)
  | 0x94 => (etyOf md).map fun t => .fRsq t (rv f.d) (rv f.a) (vm f.imm)
  | 0x95 => (etyOf md).map fun t => .fSqrt t (rv f.d) (rv f.a) (vm f.imm)
  | 0x96 => (etyOf md).map fun t => .fDiv t (rv f.d) (rv f.a) (sv f.b) (vm f.imm)
  | 0x97 => (etyOf md).map fun t => .fExp2 t (rv f.d) (rv f.a) (vm f.imm)
  | 0x98 => (etyOf md).map fun t => .fLog2 t (rv f.d) (rv f.a) (vm f.imm)
  | 0x99 => (geoPredOf (md % 8)).bind fun p => (geoOptOf (md / 8)).map fun o => .fGeo p o (rv f.a) (rm f.imm)
  | 0x9a => some (.fGeoidx (rv f.d) (rv f.a) (rs f.b))
  | 0x9b => some (.fLq (rv f.d) (rv f.a) (rs f.b))
  | 0x9c => (etyOf md).map fun t => .fLdq t (rv f.d) (rv f.a) (rs f.b) (vm f.imm)
  | 0x9d => some (.fLqcnt (rs f.d))
  | 0x9e => some (.fLscale (rs f.d) (rv f.a) (bv (f.imm / 128)))
  | 0x9f => (etyOf md).map fun t => .fExp t (rv f.d) (rv f.a) (vm f.imm)
  | 0xa0 => (etyOf md).map fun t => .fLog t (rv f.d) (rv f.a) (vm f.imm)
  | 0xa4 => (clsOf (md % 4)).bind fun c => (styOf (md / 4)).map fun ty => .mLd c ty (rs f.d) (rs f.a) (bv f.imm)
  | 0xa5 => (styOf (md / 4)).map fun ty => .mSt ty (rs f.a) (rs f.b) (bv f.imm)
  | 0xa6 => (clsOf (md % 4)).map fun c => .mLdp c (rs f.d) (rs f.a) (bv f.imm)
  | 0xa7 => some (.mStp (rs f.a) (rs f.b) (bv f.imm))
  | 0xa8 => (clsOf (md % 4)).map fun c => .mVld c (rv f.d) (rs f.a) (bv f.imm)
  | 0xa9 => some (.mVst (rs f.a) (rv f.b) (bv f.imm))
  | 0xaa => some (.mVstu (rs f.a) (rv f.b) (rv f.c) (bv f.imm))
  | 0xab => (clsOf (md % 4)).map fun c => .mVlds c (rv f.d) (rs f.a) (rs f.b) (bv f.imm)
  | 0xac => some (.mVsts (rs f.a) (rv f.b) (rs f.c) (bv f.imm))
  | 0xad => (clsOf (md % 4)).map fun c => .mVldb c (rv f.d) (rs f.a) (Fin.ofNat 64 f.imm)
  | 0xae => some (.mVgath (rv f.d) (rs f.a) (rv f.b) (rm f.imm))
  | 0xaf => some (.mVscat (rs f.a) (rv f.b) (rv f.c) (rm f.imm))
  | 0xb0 => (clsOf (md % 4)).bind fun c => (styOf (md / 4)).map fun ty => .mLdaq c ty (scopeOf (f.imm / 8)) (rs f.d) (rs f.a)
  | 0xb1 => (styOf (md / 4)).map fun ty => .mStrl ty (scopeOf (f.imm / 8)) (rs f.a) (rs f.b)
  | 0xb2 => (ordOf (md % 8)).map fun k => .mAadd ⟨k, bit0 (md / 8), scopeOf (f.imm / 8)⟩ (rs f.d) (rs f.a) (rs f.b)
  | 0xb3 => (ordOf (md % 8)).map fun k => .mAmin ⟨k, bit0 (md / 8), scopeOf (f.imm / 8)⟩ (rs f.d) (rs f.a) (rs f.b)
  | 0xb4 => (ordOf (md % 8)).map fun k => .mAmax ⟨k, bit0 (md / 8), scopeOf (f.imm / 8)⟩ (rs f.d) (rs f.a) (rs f.b)
  | 0xb5 => (ordOf (md % 8)).map fun k => .mAand ⟨k, bit0 (md / 8), scopeOf (f.imm / 8)⟩ (rs f.d) (rs f.a) (rs f.b)
  | 0xb6 => (ordOf (md % 8)).map fun k => .mAor ⟨k, bit0 (md / 8), scopeOf (f.imm / 8)⟩ (rs f.d) (rs f.a) (rs f.b)
  | 0xb7 => (ordOf (md % 8)).map fun k => .mAxor ⟨k, bit0 (md / 8), scopeOf (f.imm / 8)⟩ (rs f.d) (rs f.a) (rs f.b)
  | 0xb8 => (ordOf (md % 8)).map fun k => .mSwap ⟨k, bit0 (md / 8), scopeOf (f.imm / 8)⟩ (rs f.d) (rs f.a) (rs f.b)
  | 0xb9 => (ordOf (md % 8)).map fun k => .mCas ⟨k, bit0 (md / 8), scopeOf (f.imm / 8)⟩ ((ordOf (f.imm % 8)).getD .relaxed) (rs f.d) (rs f.a) (rs f.b) (rs f.c)
  | 0xba => match md with
    | 1 => some (.mFence .acquire (scopeOf (f.imm / 8)))
    | 2 => some (.mFence .release (scopeOf (f.imm / 8)))
    | 3 => some (.mFence .acqRel (scopeOf (f.imm / 8)))
    | 4 => some (.mFence .seq (scopeOf (f.imm / 8)))
    | 5 => some .mFenceStamp
    | _ => none
  | 0xbb => (styOf (md / 4)).map fun ty => .mSts ty (rs f.d) (rs f.a) (rs f.b) (bv f.imm)
  | 0xbc => (clsOf (md % 4)).bind fun c => (styOf (md / 4)).map fun ty => .mLdas c ty (rs f.d) (rs f.a) (rs f.b) (bv f.imm)
  | 0xbd => some (.mPref (rs f.a) (bv f.imm))
  | 0xbe => (clsOf (md % 4)).bind fun c => (styOf (md / 4)).map fun ty => .mGld c ty (rs f.d) (rs f.a) (rp f.c) (bv f.imm)
  | 0xbf => (styOf (md / 4)).map fun ty => .mGst ty (rs f.a) (rs f.b) (rp f.c) (bv f.imm)
  | 0xc0 => some (.mTinv (rs f.a))
  | 0xc1 => some (.mZero (rs f.a) (bv f.imm))
  | 0xc4 => some (.xMma (ra f.d) (tid f.tida) (tid f.tidb))
  | 0xc5 => some (.xMmac (ra f.d) (tid f.tida) (tid f.tidb))
  | 0xc6 => some (.xAclr (bit0 md) (ra f.d))
  | 0xc7 => some (.xAmov (ra f.d) (ra f.imm))
  | 0xc8 => some (.xAload (ra f.d) (tid f.tida))
  | 0xc9 => some (.xAsave (ra f.d) (tid f.tida) (tid f.tag))
  | 0xca => some (.xMode (bit0 md))
  | 0xcb => some (.xMirr (bit0 md))
  | 0xcc => some .xFence
  | 0xcd => some (.xStat (rs f.d))
  | 0xd0 => some (.cCopy (tid f.tida) (tid f.tidb) (tid f.tag))
  | 0xd1 => some (.cCopy2d (tid f.tida) (tid f.tidb) (tid f.tag))
  | 0xd2 => some (.cFill (rs f.d) (tid f.tidb) (tid f.tag))
  | 0xd3 => some (.cFill2d (rs f.d) (tid f.tidb) (tid f.tag))
  | 0xd4 => some (.cGath (tid f.tida) (tid f.tidb) (tid f.tag))
  | 0xd5 => some (.cScat (tid f.tida) (tid f.tidb) (tid f.tag))
  | 0xd6 => some (.cXpose (tid f.tida) (tid f.tidb) (tid f.tag))
  | 0xd7 => some (.cPlane (bit0 f.imm) (tid f.tida) (tid f.tidb) (tid f.tag))
  | 0xd8 => some (.cConv (convOf f.imm) (tid f.tida) (tid f.tidb) (tid f.tag))
  | 0xd9 => some (.cXch (tid f.tida) (tid f.tidb) (tid f.tag) (bv f.imm))
  | 0xda => some (.cTclr (rs f.a))
  | 0xdb => some (.cPref (tid f.tida) (tid f.tag))
  | 0xdc => some (if bit0 md then .lOpenRecv (Fin.ofNat 16 f.imm) else .lOpenSend (Fin.ofNat 16 f.imm))
  | 0xdd => some (.lSend (tid f.tida) (Fin.ofNat 16 f.imm) (tid f.tag))
  | 0xde => some (.lSendst (rs f.d) (tid f.tida) (Fin.ofNat 16 f.imm) (tid f.tag))
  | 0xdf => some (.lRecv (tid f.tidb) (Fin.ofNat 16 f.imm) (tid f.tag))
  | 0xe0 => some (.lPeek (rs f.d) (Fin.ofNat 16 f.imm))
  | 0xe1 => some (.lClose (Fin.ofNat 16 f.imm))
  | 0xe2 => some (.lStat (rs f.d) (Fin.ofNat 16 f.imm))
  | 0xe4 => some (.dPp (ra f.d) (tid f.tida) (tid f.tidb) (tid f.tag) (ppFnOf f.imm))
  | 0xe5 => some (.dPpcmp (ra f.d) (tid f.tida) (tid f.tidb) (tid f.tag) (ppFnOf f.imm))
  | 0xe6 => some (.dPpcfg (rv f.a))
  | 0xe7 => some (.dPpact (rs f.d))
  | 0xe8 => some (.dJpeg (tid f.tida) (tid f.tag))
  | 0xe9 => some (.dG4 (tid f.tida) (tid f.tag))
  | 0xea => some (.dRaw (bit0 f.imm) (tid f.tida) (tid f.tag))
  | 0xeb => some (if bit0 md then .dRingFree (rs f.a) else .dRingSet (rs f.a) (rs f.b))
  | 0xec => some (if bit0 md then .dPortSkip (rs f.d) else .dPortCount (rs f.d))
  | 0xed => some (.dDstat (rs f.d))
  | 0xee => some .dDabort
  | 0xef => some .dDfence
  | 0xf0 => some (.zw1Madd (rs f.d) (rs f.a) (rs f.b) (rs f.c))
  | 0xf1 => some (.zw1Ldpair (rs f.d) (rs f.a) (bv f.imm))
  | 0xf2 => some (.zw1Vsum (rs f.d) (rv f.a))
  | 0xf3 => some (.zw1Dbnz (rs f.a) (bv f.imm))
  | _ => none

/-- OPC, MOD and the fields of an instruction, from the same encoding tables (R61, R64, the entries); none for an
event, which no syllable carries. -/
def Instr.enc : Instr → Option Enc
  | .sNop imm => some ⟨0x0, 0, ⟨0, 0, 0, 0, imm.toNat, 0, 0, 0⟩⟩
  | .sAdd d a b => some ⟨0x1, 0, ⟨d.val, a.val, b.val, 0, 0, 0, 0, 0⟩⟩
  | .sSub d a b => some ⟨0x2, 0, ⟨d.val, a.val, b.val, 0, 0, 0, 0, 0⟩⟩
  | .sAddi d a imm => some ⟨0x3, 0, ⟨d.val, a.val, 0, 0, imm.toNat, 0, 0, 0⟩⟩
  | .sMovi d imm => some ⟨0x4, 0, ⟨d.val, 0, 0, 0, imm.toNat, 0, 0, 0⟩⟩
  | .sMovhi d a imm => some ⟨0x5, 0, ⟨d.val, a.val, 0, 0, imm.toNat, 0, 0, 0⟩⟩
  | .sAnd d a b => some ⟨0x6, 0, ⟨d.val, a.val, b.val, 0, 0, 0, 0, 0⟩⟩
  | .sOr d a b => some ⟨0x7, 0, ⟨d.val, a.val, b.val, 0, 0, 0, 0, 0⟩⟩
  | .sXor d a b => some ⟨0x8, 0, ⟨d.val, a.val, b.val, 0, 0, 0, 0, 0⟩⟩
  | .sAndn d a b => some ⟨0x9, 0, ⟨d.val, a.val, b.val, 0, 0, 0, 0, 0⟩⟩
  | .sAndi d a imm => some ⟨0xa, 0, ⟨d.val, a.val, 0, 0, imm.toNat, 0, 0, 0⟩⟩
  | .sOri d a imm => some ⟨0xb, 0, ⟨d.val, a.val, 0, 0, imm.toNat, 0, 0, 0⟩⟩
  | .sXori d a imm => some ⟨0xc, 0, ⟨d.val, a.val, 0, 0, imm.toNat, 0, 0, 0⟩⟩
  | .sShl d a b => some ⟨0xd, 0, ⟨d.val, a.val, b.val, 0, 0, 0, 0, 0⟩⟩
  | .sShr d a b => some ⟨0xe, 0, ⟨d.val, a.val, b.val, 0, 0, 0, 0, 0⟩⟩
  | .sSar d a b => some ⟨0xf, 0, ⟨d.val, a.val, b.val, 0, 0, 0, 0, 0⟩⟩
  | .sShli d a pos => some ⟨0x10, 0, ⟨d.val, a.val, 0, 0, pos.val, 0, 0, 0⟩⟩
  | .sShri d a pos => some ⟨0x11, 0, ⟨d.val, a.val, 0, 0, pos.val, 0, 0, 0⟩⟩
  | .sSari d a pos => some ⟨0x12, 0, ⟨d.val, a.val, 0, 0, pos.val, 0, 0, 0⟩⟩
  | .sRor d a b => some ⟨0x13, 0, ⟨d.val, a.val, b.val, 0, 0, 0, 0, 0⟩⟩
  | .sMin d a b => some ⟨0x14, 0, ⟨d.val, a.val, b.val, 0, 0, 0, 0, 0⟩⟩
  | .sMax d a b => some ⟨0x15, 0, ⟨d.val, a.val, b.val, 0, 0, 0, 0, 0⟩⟩
  | .sAbs d a => some ⟨0x16, 0, ⟨d.val, a.val, 0, 0, 0, 0, 0, 0⟩⟩
  | .sNeg d a => some ⟨0x17, 0, ⟨d.val, a.val, 0, 0, 0, 0, 0, 0⟩⟩
  | .sClz d a => some ⟨0x18, 0, ⟨d.val, a.val, 0, 0, 0, 0, 0, 0⟩⟩
  | .sCtz d a => some ⟨0x19, 0, ⟨d.val, a.val, 0, 0, 0, 0, 0, 0⟩⟩
  | .sPopc d a => some ⟨0x1a, 0, ⟨d.val, a.val, 0, 0, 0, 0, 0, 0⟩⟩
  | .sBswap d a => some ⟨0x1b, 0, ⟨d.val, a.val, 0, 0, 0, 0, 0, 0⟩⟩
  | .sSext d a w1 => some ⟨0x1c, 0, ⟨d.val, a.val, 0, 0, 64 * w1.val, 0, 0, 0⟩⟩
  | .sZext d a w1 => some ⟨0x1d, 0, ⟨d.val, a.val, 0, 0, 64 * w1.val, 0, 0, 0⟩⟩
  | .sBfx sg d a pos w1 => some ⟨0x1e, sg.toNat, ⟨d.val, a.val, 0, 0, pos.val + 64 * w1.val, 0, 0, 0⟩⟩
  | .sBfi d a b pos w1 => some ⟨0x1f, 0, ⟨d.val, a.val, b.val, 0, pos.val + 64 * w1.val, 0, 0, 0⟩⟩
  | .sSel d a b c => some ⟨0x20, 0, ⟨d.val, a.val, b.val, numP c, 0, 0, 0, 0⟩⟩
  | .sMul d a b => some ⟨0x21, 0, ⟨d.val, a.val, b.val, 0, 0, 0, 0, 0⟩⟩
  | .sMulh d a b => some ⟨0x22, 0, ⟨d.val, a.val, b.val, 0, 0, 0, 0, 0⟩⟩
  | .sMulhu d a b => some ⟨0x23, 0, ⟨d.val, a.val, b.val, 0, 0, 0, 0, 0⟩⟩
  | .sMadd d a b c => some ⟨0x24, 0, ⟨d.val, a.val, b.val, c.val, 0, 0, 0, 0⟩⟩
  | .sCmp cond d a b => some ⟨0x25, cond.code, ⟨numP d, a.val, b.val, 0, 0, 0, 0, 0⟩⟩
  | .sCmpi cond d a imm => some ⟨0x26, cond.code, ⟨numP d, a.val, 0, 0, imm.toNat, 0, 0, 0⟩⟩
  | .sPand d a b => some ⟨0x27, 0, ⟨numP d, numP a, numP b, 0, 0, 0, 0, 0⟩⟩
  | .sPor d a b => some ⟨0x28, 0, ⟨numP d, numP a, numP b, 0, 0, 0, 0, 0⟩⟩
  | .sPxor d a b => some ⟨0x29, 0, ⟨numP d, numP a, numP b, 0, 0, 0, 0, 0⟩⟩
  | .sPnot d a => some ⟨0x2a, 0, ⟨numP d, numP a, 0, 0, 0, 0, 0, 0⟩⟩
  | .sLea k d a b imm => some ⟨0x2b, k.val, ⟨d.val, a.val, b.val, 0, imm.toNat, 0, 0, 0⟩⟩
  | .sMov d a => some ⟨0x2c, 0, ⟨d.val, a.val, 0, 0, 0, 0, 0, 0⟩⟩
  | .sCrd d r => some ⟨0x2d, 0, ⟨d.val, 0, 0, 0, r.num, 0, 0, 0⟩⟩
  | .sCwr r a => some ⟨0x2e, 0, ⟨0, a.val, 0, 0, r.num, 0, 0, 0⟩⟩
  | .sClk st d => some ⟨0x2f, st.toNat, ⟨d.val, 0, 0, 0, 0, 0, 0, 0⟩⟩
  | .sChk (.s a b) => some ⟨0x30, 0, ⟨0, a.val, b.val, 0, 0, 0, 0, 0⟩⟩
  | .sChk (.p a b) => some ⟨0x30, 0, ⟨0, numP a, numP b, 0, 0, 0, 0, 0⟩⟩
  | .sChk (.m a b) => some ⟨0x30, 0, ⟨0, numM a, numM b, 0, 0, 0, 0, 0⟩⟩
  | .sMskIns q d a b => some ⟨0x31, 2 * q.val, ⟨numM d, a.val, numM b, 0, 0, 0, 0, 0⟩⟩
  | .sMskExt q d a => some ⟨0x31, 2 * q.val + 1, ⟨d.val, numM a, 0, 0, 0, 0, 0, 0⟩⟩
  | .sMski d n => some ⟨0x32, 0, ⟨numM d, 0, 0, 0, n.val, 0, 0, 0⟩⟩
  | .sGwr g a => some ⟨0x33, 0, ⟨0, a.val, 0, 0, g.num, 0, 0, 0⟩⟩
  | .sGrd d g => some ⟨0x34, 0, ⟨d.val, 0, 0, 0, g.num, 0, 0, 0⟩⟩
  | .sSpl d slot => some ⟨0x35, 0, ⟨d.val, 0, 0, 0, 8 * slot.val, 0, 0, 0⟩⟩
  | .sSps a slot => some ⟨0x36, 0, ⟨0, a.val, 0, 0, 8 * slot.val, 0, 0, 0⟩⟩
  | .sMinu d a b => some ⟨0x37, 0, ⟨d.val, a.val, b.val, 0, 0, 0, 0, 0⟩⟩
  | .sMaxu d a b => some ⟨0x38, 0, ⟨d.val, a.val, b.val, 0, 0, 0, 0, 0⟩⟩
  | .sPset d a => some ⟨0x39, 0, ⟨numP d, a.val, 0, 0, 0, 0, 0, 0⟩⟩
  | .bBr off => some ⟨0x40, 0, ⟨0, 0, 0, 0, off.toNat, 0, 0, 0⟩⟩
  | .bCall off => some ⟨0x41, 0, ⟨0, 0, 0, 0, off.toNat, 0, 0, 0⟩⟩
  | .bRet a => some ⟨0x42, 0, ⟨0, a.val, 0, 0, 0, 0, 0, 0⟩⟩
  | .bJmpi a => some ⟨0x43, 0, ⟨0, a.val, 0, 0, 0, 0, 0, 0⟩⟩
  | .bCalli a cls => some ⟨0x44, 0, ⟨0, a.val, 0, 0, cls.toNat, 0, 0, 0⟩⟩
  | .bLoop lvl a off => some ⟨0x45, lvl.val, ⟨0, a.val, 0, 0, off.toNat, 0, 0, 0⟩⟩
  | .bPloop lvl k1 a off => some ⟨0x46, lvl.val + 4 * k1.val, ⟨0, a.val, 0, 0, off.toNat, 0, 0, 0⟩⟩
  | .bRep none count stride fmask => some ⟨0x47, 0, ⟨0, 0, 0, 0, repImm count stride fmask, 0, 0, 0⟩⟩
  | .bRep (some r) count stride fmask => some ⟨0x47, 1, ⟨0, r.val, 0, 0, repImm count stride fmask, 0, 0, 0⟩⟩
  | .bCkpt => some ⟨0x48, 0, ⟨0, 0, 0, 0, 0, 0, 0, 0⟩⟩
  | .bRvz a slot mask => some ⟨0x49, 0, ⟨0, a.val, 0, 0, slot.val + 16 * mask.toNat, 0, 0, 0⟩⟩
  | .bCbar d => some ⟨0x4a, 0, ⟨d.val, 0, 0, 0, 0, 0, 0, 0⟩⟩
  | .bYield a q => some ⟨0x4b, 0, ⟨0, a.val, 0, 0, q.val, 0, 0, 0⟩⟩
  | .bWaitTime a b => some ⟨0x4c, 0, ⟨0, a.val, b.val, 0, 0, 0, 0, 0⟩⟩
  | .bWaitMbox b => some ⟨0x4c, 1, ⟨0, 0, b.val, 0, 0, 0, 0, 0⟩⟩
  | .bWaitCrewq b q => some ⟨0x4c, 2, ⟨0, 0, b.val, 0, q.val, 0, 0, 0⟩⟩
  | .bWaitRecv b n => some ⟨0x4c, 3, ⟨0, 0, b.val, 0, n.val, 0, 0, 0⟩⟩
  | .bMwait a b c => some ⟨0x4d, 0, ⟨0, a.val, b.val, c.val, 0, 0, 0, 0⟩⟩
  | .bPhase b => some ⟨0x4e, 0, ⟨0, 0, b.val, 0, 0, 0, 0, 0⟩⟩
  | .bEnd => some ⟨0x4f, 0, ⟨0, 0, 0, 0, 0, 0, 0, 0⟩⟩
  | .bSpawn a q => some ⟨0x50, 0, ⟨0, a.val, 0, 0, q.val, 0, 0, 0⟩⟩
  | .bWany d a => some ⟨0x51, 0, ⟨d.val, a.val, 0, 0, 0, 0, 0, 0⟩⟩
  | .bWall d a => some ⟨0x52, 0, ⟨d.val, a.val, 0, 0, 0, 0, 0, 0⟩⟩
  | .bFfr d a => some ⟨0x53, 0, ⟨d.val, a.val, 0, 0, 0, 0, 0, 0⟩⟩
  | .bTrap code => some ⟨0x54, 0, ⟨0, 0, 0, 0, code.toNat, 0, 0, 0⟩⟩
  | .bGroupQuery d a => some ⟨0x55, 0, ⟨d.val, a.val, 0, 0, 0, 0, 0, 0⟩⟩
  | .bGroupForm a b => some ⟨0x55, 1, ⟨0, a.val, b.val, 0, 0, 0, 0, 0⟩⟩
  | .bGroupDissolve a => some ⟨0x55, 2, ⟨0, a.val, 0, 0, 0, 0, 0, 0⟩⟩
  | .vAdd t d a b m => some ⟨0x58, t.code, ⟨numV d, numV a, b.num, 0, m.num, 0, 0, 0⟩⟩
  | .vSub t d a b m => some ⟨0x59, t.code, ⟨numV d, numV a, b.num, 0, m.num, 0, 0, 0⟩⟩
  | .vMul t d a b m => some ⟨0x5a, t.code, ⟨numV d, numV a, b.num, 0, m.num, 0, 0, 0⟩⟩
  | .vMulh t d a b m => some ⟨0x5b, t.code, ⟨numV d, numV a, b.num, 0, m.num, 0, 0, 0⟩⟩
  | .vFma t d a b c m => some ⟨0x5c, t.code, ⟨numV d, numV a, b.num, c.num, m.num, 0, 0, 0⟩⟩
  | .vFms t d a b c m => some ⟨0x5d, t.code, ⟨numV d, numV a, b.num, c.num, m.num, 0, 0, 0⟩⟩
  | .vFnma t d a b c m => some ⟨0x5e, t.code, ⟨numV d, numV a, b.num, c.num, m.num, 0, 0, 0⟩⟩
  | .vMin t d a b m => some ⟨0x5f, t.code, ⟨numV d, numV a, b.num, 0, m.num, 0, 0, 0⟩⟩
  | .vMax t d a b m => some ⟨0x60, t.code, ⟨numV d, numV a, b.num, 0, m.num, 0, 0, 0⟩⟩
  | .vAbs t d a m => some ⟨0x61, t.code, ⟨numV d, numV a, 0, 0, m.num, 0, 0, 0⟩⟩
  | .vNeg t d a m => some ⟨0x62, t.code, ⟨numV d, numV a, 0, 0, m.num, 0, 0, 0⟩⟩
  | .vClamp t d a b c m => some ⟨0x63, t.code, ⟨numV d, numV a, b.num, c.num, m.num, 0, 0, 0⟩⟩
  | .vAnd t d a b m => some ⟨0x64, t.code, ⟨numV d, numV a, b.num, 0, m.num, 0, 0, 0⟩⟩
  | .vOr t d a b m => some ⟨0x65, t.code, ⟨numV d, numV a, b.num, 0, m.num, 0, 0, 0⟩⟩
  | .vXor t d a b m => some ⟨0x66, t.code, ⟨numV d, numV a, b.num, 0, m.num, 0, 0, 0⟩⟩
  | .vNot t d a m => some ⟨0x67, t.code, ⟨numV d, numV a, 0, 0, m.num, 0, 0, 0⟩⟩
  | .vShl t d a b m => some ⟨0x68, t.code, ⟨numV d, numV a, b.num, 0, m.num, 0, 0, 0⟩⟩
  | .vShr t d a b m => some ⟨0x69, t.code, ⟨numV d, numV a, b.num, 0, m.num, 0, 0, 0⟩⟩
  | .vSar t d a b m => some ⟨0x6a, t.code, ⟨numV d, numV a, b.num, 0, m.num, 0, 0, 0⟩⟩
  | .vFshl t d a b c m => some ⟨0x6b, t.code, ⟨numV d, numV a, b.num, c.num, m.num, 0, 0, 0⟩⟩
  | .vFshr t d a b c m => some ⟨0x6c, t.code, ⟨numV d, numV a, b.num, c.num, m.num, 0, 0, 0⟩⟩
  | .vCmp t d a b cond => some ⟨0x6d, t.code, ⟨numM d, numV a, b.num, 0, 128 * cond.code, 0, 0, 0⟩⟩
  | .vSel t d a b k => some ⟨0x6e, t.code, ⟨numV d, numV a, b.num, 0, k.val, 0, 0, 0⟩⟩
  | .vMov t d a m => some ⟨0x6f, t.code, ⟨numV d, numV a, 0, 0, m.num, 0, 0, 0⟩⟩
  | .vBcast t d b m => some ⟨0x70, t.code, ⟨numV d, 0, b.val, 0, m.num, 0, 0, 0⟩⟩
  | .vIota t d b m step => some ⟨0x71, t.code, ⟨numV d, 0, b.val, 0, m.num + 128 * step.toNat, 0, 0, 0⟩⟩
  | .vExtr t d a b idx => some ⟨0x72, t.code, ⟨d.val, numV a, b.val, 0, 128 * idx.toNat, 0, 0, 0⟩⟩
  | .vIns t d a b c idx => some ⟨0x73, t.code, ⟨numV d, numV a, b.val, c.val, 128 * idx.toNat, 0, 0, 0⟩⟩
  | .vPerm t d a b m => some ⟨0x74, t.code, ⟨numV d, numV a, numV b, 0, m.num, 0, 0, 0⟩⟩
  | .vSlide t d a b m => some ⟨0x75, t.code, ⟨numV d, numV a, b.val, 0, m.num, 0, 0, 0⟩⟩
  | .vCvt t d a dst part m => some ⟨0x76, t.code, ⟨numV d, numV a, 0, 0, m.num + 128 * (dst.code + 32 * part.val), 0, 0, 0⟩⟩
  | .vMaxexp a k => some ⟨0x77, 7, ⟨0, numV a, 0, 0, k.val, 0, 0, 0⟩⟩
  | .vPxpose sg d a p g => some ⟨0x78, 1 - sg.toNat, ⟨numV d, numV a, 0, 0, 128 * (p.val + 8 * g.toNat), 0, 0, 0⟩⟩
  | .vCmprs t d a k => some ⟨0x79, t.code, ⟨numV d, numV a, 0, 0, k.val, 0, 0, 0⟩⟩
  | .vRsum t d a m => some ⟨0x7a, t.code, ⟨numV d, numV a, 0, 0, m.num, 0, 0, 0⟩⟩
  | .vRmax t d a m => some ⟨0x7b, t.code, ⟨numV d, numV a, 0, 0, m.num, 0, 0, 0⟩⟩
  | .vRmin t d a m => some ⟨0x7c, t.code, ⟨numV d, numV a, 0, 0, m.num, 0, 0, 0⟩⟩
  | .vGmax t d a m g ab => some ⟨0x7d, t.code, ⟨numV d, numV a, 0, 0, m.num + 128 * (g.val + 8 * ab.toNat), 0, 0, 0⟩⟩
  | .vRowsum t d a m => some ⟨0x7e, t.code, ⟨numV d, numV a, 0, 0, m.num, 0, 0, 0⟩⟩
  | .vColsum t d a m => some ⟨0x7f, t.code, ⟨numV d, numV a, 0, 0, m.num, 0, 0, 0⟩⟩
  | .vAread d a b q => some ⟨0x80, 0, ⟨numV d, numA a, b.val, 0, 128 * q.val, 0, 0, 0⟩⟩
  | .vAwrite d a b q => some ⟨0x81, 0, ⟨numA d, numV a, b.val, 0, 128 * q.val, 0, 0, 0⟩⟩
  | .vMcnt d a => some ⟨0x82, 0, ⟨d.val, numM a, 0, 0, 0, 0, 0, 0⟩⟩
  | .vPopc t d a m => some ⟨0x83, t.code, ⟨numV d, numV a, 0, 0, m.num, 0, 0, 0⟩⟩
  | .vClz t d a m => some ⟨0x84, t.code, ⟨numV d, numV a, 0, 0, m.num, 0, 0, 0⟩⟩
  | .vRound t d a m => some ⟨0x85, t.code, ⟨numV d, numV a, 0, 0, m.num, 0, 0, 0⟩⟩
  | .vScale t d a b m => some ⟨0x86, t.code, ⟨numV d, numV a, b.val, 0, m.num, 0, 0, 0⟩⟩
  | .vAvg t d a b m => some ⟨0x87, t.code, ⟨numV d, numV a, b.num, 0, m.num, 0, 0, 0⟩⟩
  | .vAbd t d a b m => some ⟨0x88, t.code, ⟨numV d, numV a, b.num, 0, m.num, 0, 0, 0⟩⟩
  | .vMset d a => some ⟨0x89, 0, ⟨numM d, numV a, 0, 0, 0, 0, 0, 0⟩⟩
  | .vMand op d a b => some ⟨0x8a, 0, ⟨numM d, numM a, numM b, 0, 128 * op.code, 0, 0, 0⟩⟩
  | .vZip t d a b m h => some ⟨0x8b, t.code, ⟨numV d, numV a, numV b, 0, m.num + 128 * h.toNat, 0, 0, 0⟩⟩
  | .fTbl t d a b m k => some ⟨0x90, t.code, ⟨numV d, numV a, b.val, 0, m.num + 128 * k.val, 0, 0, 0⟩⟩
  | .fTblwr a k => some ⟨0x91, 0, ⟨0, numV a, 0, 0, 128 * k.val, 0, 0, 0⟩⟩
  | .fTblrd d k => some ⟨0x92, 0, ⟨numV d, 0, 0, 0, 128 * k.val, 0, 0, 0⟩⟩
  | .fRcp t d a m => some ⟨0x93, t.code, ⟨numV d, numV a, 0, 0, m.num, 0, 0, 0⟩⟩
  | .fRsq t d a m => some ⟨0x94, t.code, ⟨numV d, numV a, 0, 0, m.num, 0, 0, 0⟩⟩
  | .fSqrt t d a m => some ⟨0x95, t.code, ⟨numV d, numV a, 0, 0, m.num, 0, 0, 0⟩⟩
  | .fDiv t d a b m => some ⟨0x96, t.code, ⟨numV d, numV a, b.num, 0, m.num, 0, 0, 0⟩⟩
  | .fExp2 t d a m => some ⟨0x97, t.code, ⟨numV d, numV a, 0, 0, m.num, 0, 0, 0⟩⟩
  | .fLog2 t d a m => some ⟨0x98, t.code, ⟨numV d, numV a, 0, 0, m.num, 0, 0, 0⟩⟩
  | .fGeo p o a k => some ⟨0x99, p.code + 8 * o.code, ⟨0, numV a, 0, 0, k.val, 0, 0, 0⟩⟩
  | .fGeoidx d a b => some ⟨0x9a, 0, ⟨numV d, numV a, b.val, 0, 0, 0, 0, 0⟩⟩
  | .fLq d a b => some ⟨0x9b, 7, ⟨numV d, numV a, b.val, 0, 0, 0, 0, 0⟩⟩
  | .fLdq t d a b m => some ⟨0x9c, t.code, ⟨numV d, numV a, b.val, 0, m.num, 0, 0, 0⟩⟩
  | .fLqcnt d => some ⟨0x9d, 0, ⟨d.val, 0, 0, 0, 0, 0, 0, 0⟩⟩
  | .fLscale d a adj => some ⟨0x9e, 7, ⟨d.val, numV a, 0, 0, 128 * adj.toNat, 0, 0, 0⟩⟩
  | .fExp t d a m => some ⟨0x9f, t.code, ⟨numV d, numV a, 0, 0, m.num, 0, 0, 0⟩⟩
  | .fLog t d a m => some ⟨0xa0, t.code, ⟨numV d, numV a, 0, 0, m.num, 0, 0, 0⟩⟩
  | .mLd c ty d a imm => some ⟨0xa4, c.code + 4 * ty.code, ⟨d.val, a.val, 0, 0, imm.toNat, 0, 0, 0⟩⟩
  | .mSt ty a b imm => some ⟨0xa5, 4 * ty.code, ⟨0, a.val, b.val, 0, imm.toNat, 0, 0, 0⟩⟩
  | .mLdp c d a imm => some ⟨0xa6, c.code, ⟨d.val, a.val, 0, 0, imm.toNat, 0, 0, 0⟩⟩
  | .mStp a b imm => some ⟨0xa7, 0, ⟨0, a.val, b.val, 0, imm.toNat, 0, 0, 0⟩⟩
  | .mVld c d a imm => some ⟨0xa8, c.code, ⟨numV d, a.val, 0, 0, imm.toNat, 0, 0, 0⟩⟩
  | .mVst a b imm => some ⟨0xa9, 0, ⟨0, a.val, numV b, 0, imm.toNat, 0, 0, 0⟩⟩
  | .mVstu a b c imm => some ⟨0xaa, 0, ⟨0, a.val, numV b, numV c, imm.toNat, 0, 0, 0⟩⟩
  | .mVlds c d a b imm => some ⟨0xab, c.code, ⟨numV d, a.val, b.val, 0, imm.toNat, 0, 0, 0⟩⟩
  | .mVsts a b c imm => some ⟨0xac, 0, ⟨0, a.val, numV b, c.val, imm.toNat, 0, 0, 0⟩⟩
  | .mVldb c d a t => some ⟨0xad, c.code, ⟨numV d, a.val, 0, 0, t.val, 0, 0, 0⟩⟩
  | .mVgath d a b k => some ⟨0xae, 0, ⟨numV d, a.val, numV b, 0, k.val, 0, 0, 0⟩⟩
  | .mVscat a b c k => some ⟨0xaf, 0, ⟨0, a.val, numV b, numV c, k.val, 0, 0, 0⟩⟩
  | .mLdaq c ty sc d a => some ⟨0xb0, c.code + 4 * ty.code, ⟨d.val, a.val, 0, 0, 8 * sc.code, 0, 0, 0⟩⟩
  | .mStrl ty sc a b => some ⟨0xb1, 4 * ty.code, ⟨0, a.val, b.val, 0, 8 * sc.code, 0, 0, 0⟩⟩
  | .mAadd o d a b => some ⟨0xb2, o.code, ⟨d.val, a.val, b.val, 0, 8 * o.scope.code, 0, 0, 0⟩⟩
  | .mAmin o d a b => some ⟨0xb3, o.code, ⟨d.val, a.val, b.val, 0, 8 * o.scope.code, 0, 0, 0⟩⟩
  | .mAmax o d a b => some ⟨0xb4, o.code, ⟨d.val, a.val, b.val, 0, 8 * o.scope.code, 0, 0, 0⟩⟩
  | .mAand o d a b => some ⟨0xb5, o.code, ⟨d.val, a.val, b.val, 0, 8 * o.scope.code, 0, 0, 0⟩⟩
  | .mAor o d a b => some ⟨0xb6, o.code, ⟨d.val, a.val, b.val, 0, 8 * o.scope.code, 0, 0, 0⟩⟩
  | .mAxor o d a b => some ⟨0xb7, o.code, ⟨d.val, a.val, b.val, 0, 8 * o.scope.code, 0, 0, 0⟩⟩
  | .mSwap o d a b => some ⟨0xb8, o.code, ⟨d.val, a.val, b.val, 0, 8 * o.scope.code, 0, 0, 0⟩⟩
  | .mCas o fo d a b c => some ⟨0xb9, o.code, ⟨d.val, a.val, b.val, c.val, fo.code + 8 * o.scope.code, 0, 0, 0⟩⟩
  | .mFence k sc => some ⟨0xba, k.code, ⟨0, 0, 0, 0, 8 * sc.code, 0, 0, 0⟩⟩
  | .mFenceStamp => some ⟨0xba, 5, ⟨0, 0, 0, 0, 0, 0, 0, 0⟩⟩
  | .mSts ty d a b imm => some ⟨0xbb, 4 * ty.code, ⟨d.val, a.val, b.val, 0, imm.toNat, 0, 0, 0⟩⟩
  | .mLdas c ty d a b imm => some ⟨0xbc, c.code + 4 * ty.code, ⟨d.val, a.val, b.val, 0, imm.toNat, 0, 0, 0⟩⟩
  | .mPref a imm => some ⟨0xbd, 0, ⟨0, a.val, 0, 0, imm.toNat, 0, 0, 0⟩⟩
  | .mGld c ty d a p imm => some ⟨0xbe, c.code + 4 * ty.code, ⟨d.val, a.val, 0, numP p, imm.toNat, 0, 0, 0⟩⟩
  | .mGst ty a b p imm => some ⟨0xbf, 4 * ty.code, ⟨0, a.val, b.val, numP p, imm.toNat, 0, 0, 0⟩⟩
  | .mTinv a => some ⟨0xc0, 0, ⟨0, a.val, 0, 0, 0, 0, 0, 0⟩⟩
  | .mZero a imm => some ⟨0xc1, 0, ⟨0, a.val, 0, 0, imm.toNat, 0, 0, 0⟩⟩
  | .xMma t p q => some ⟨0xc4, 0, ⟨numA t, 0, 0, 0, 0, p.val, q.val, 0⟩⟩
  | .xMmac t p q => some ⟨0xc5, 0, ⟨numA t, 0, 0, 0, 0, p.val, q.val, 0⟩⟩
  | .xAclr f32 t => some ⟨0xc6, f32.toNat, ⟨numA t, 0, 0, 0, 0, 0, 0, 0⟩⟩
  | .xAmov t r => some ⟨0xc7, 0, ⟨numA t, 0, 0, 0, numA r, 0, 0, 0⟩⟩
  | .xAload t p => some ⟨0xc8, 0, ⟨numA t, 0, 0, 0, 0, p.val, 0, 0⟩⟩
  | .xAsave t p g => some ⟨0xc9, 0, ⟨numA t, 0, 0, 0, 0, p.val, 0, g.val⟩⟩
  | .xMode k => some ⟨0xca, k.toNat, ⟨0, 0, 0, 0, 0, 0, 0, 0⟩⟩
  | .xMirr k => some ⟨0xcb, k.toNat, ⟨0, 0, 0, 0, 0, 0, 0, 0⟩⟩
  | .xFence => some ⟨0xcc, 0, ⟨0, 0, 0, 0, 0, 0, 0, 0⟩⟩
  | .xStat d => some ⟨0xcd, 0, ⟨d.val, 0, 0, 0, 0, 0, 0, 0⟩⟩
  | .cCopy p q g => some ⟨0xd0, 0, ⟨0, 0, 0, 0, 0, p.val, q.val, g.val⟩⟩
  | .cCopy2d p q g => some ⟨0xd1, 0, ⟨0, 0, 0, 0, 0, p.val, q.val, g.val⟩⟩
  | .cFill t q g => some ⟨0xd2, 0, ⟨t.val, 0, 0, 0, 0, 0, q.val, g.val⟩⟩
  | .cFill2d t q g => some ⟨0xd3, 0, ⟨t.val, 0, 0, 0, 0, 0, q.val, g.val⟩⟩
  | .cGath p q g => some ⟨0xd4, 0, ⟨0, 0, 0, 0, 0, p.val, q.val, g.val⟩⟩
  | .cScat p q g => some ⟨0xd5, 0, ⟨0, 0, 0, 0, 0, p.val, q.val, g.val⟩⟩
  | .cXpose p q g => some ⟨0xd6, 0, ⟨0, 0, 0, 0, 0, p.val, q.val, g.val⟩⟩
  | .cPlane k p q g => some ⟨0xd7, 0, ⟨0, 0, 0, 0, k.toNat, p.val, q.val, g.val⟩⟩
  | .cConv k p q g => some ⟨0xd8, 0, ⟨0, 0, 0, 0, k.code, p.val, q.val, g.val⟩⟩
  | .cXch p q g slot => some ⟨0xd9, 0, ⟨0, 0, 0, 0, slot.toNat, p.val, q.val, g.val⟩⟩
  | .cTclr a => some ⟨0xda, 0, ⟨0, a.val, 0, 0, 0, 0, 0, 0⟩⟩
  | .cPref p g => some ⟨0xdb, 0, ⟨0, 0, 0, 0, 0, p.val, 0, g.val⟩⟩
  | .lOpenSend n => some ⟨0xdc, 0, ⟨0, 0, 0, 0, n.val, 0, 0, 0⟩⟩
  | .lOpenRecv n => some ⟨0xdc, 1, ⟨0, 0, 0, 0, n.val, 0, 0, 0⟩⟩
  | .lSend p n g => some ⟨0xdd, 0, ⟨0, 0, 0, 0, n.val, p.val, 0, g.val⟩⟩
  | .lSendst t p n g => some ⟨0xde, 0, ⟨t.val, 0, 0, 0, n.val, p.val, 0, g.val⟩⟩
  | .lRecv q n g => some ⟨0xdf, 0, ⟨0, 0, 0, 0, n.val, 0, q.val, g.val⟩⟩
  | .lPeek d n => some ⟨0xe0, 0, ⟨d.val, 0, 0, 0, n.val, 0, 0, 0⟩⟩
  | .lClose n => some ⟨0xe1, 0, ⟨0, 0, 0, 0, n.val, 0, 0, 0⟩⟩
  | .lStat d n => some ⟨0xe2, 0, ⟨d.val, 0, 0, 0, n.val, 0, 0, 0⟩⟩
  | .dPp t p q g fn => some ⟨0xe4, 0, ⟨numA t, 0, 0, 0, fn.num, p.val, q.val, g.val⟩⟩
  | .dPpcmp t p q g fn => some ⟨0xe5, 0, ⟨numA t, 0, 0, 0, fn.num, p.val, q.val, g.val⟩⟩
  | .dPpcfg a => some ⟨0xe6, 0, ⟨0, numV a, 0, 0, 0, 0, 0, 0⟩⟩
  | .dPpact d => some ⟨0xe7, 0, ⟨d.val, 0, 0, 0, 0, 0, 0, 0⟩⟩
  | .dJpeg p g => some ⟨0xe8, 0, ⟨0, 0, 0, 0, 0, p.val, 0, g.val⟩⟩
  | .dG4 p g => some ⟨0xe9, 0, ⟨0, 0, 0, 0, 0, p.val, 0, g.val⟩⟩
  | .dRaw k p g => some ⟨0xea, 0, ⟨0, 0, 0, 0, k.toNat, p.val, 0, g.val⟩⟩
  | .dRingSet a b => some ⟨0xeb, 0, ⟨0, a.val, b.val, 0, 0, 0, 0, 0⟩⟩
  | .dRingFree a => some ⟨0xeb, 1, ⟨0, a.val, 0, 0, 0, 0, 0, 0⟩⟩
  | .dPortCount d => some ⟨0xec, 0, ⟨d.val, 0, 0, 0, 0, 0, 0, 0⟩⟩
  | .dPortSkip d => some ⟨0xec, 1, ⟨d.val, 0, 0, 0, 0, 0, 0, 0⟩⟩
  | .dDstat d => some ⟨0xed, 0, ⟨d.val, 0, 0, 0, 0, 0, 0, 0⟩⟩
  | .dDabort => some ⟨0xee, 0, ⟨0, 0, 0, 0, 0, 0, 0, 0⟩⟩
  | .dDfence => some ⟨0xef, 0, ⟨0, 0, 0, 0, 0, 0, 0, 0⟩⟩
  | .zw1Madd d a b c => some ⟨0xf0, 0, ⟨d.val, a.val, b.val, c.val, 0, 0, 0, 0⟩⟩
  | .zw1Ldpair d a imm => some ⟨0xf1, 0, ⟨d.val, a.val, 0, 0, imm.toNat, 0, 0, 0⟩⟩
  | .zw1Vsum d a => some ⟨0xf2, 0, ⟨d.val, numV a, 0, 0, 0, 0, 0, 0⟩⟩
  | .zw1Dbnz a off => some ⟨0xf3, 0, ⟨0, a.val, 0, 0, off.toNat, 0, 0, 0⟩⟩
  | _ => none

/-- A used register field is written as the instruction's register, an unused one is zero. -/
def fieldZero (u : Use) (n : Nat) : Bool := u != .no || n == 0

/-- Every unused field and every immediate bit is what the entry allows (R54). -/
def fieldsOk (x : Enc) (e : Enc) (i : Instr) : Bool :=
  let u := usesOf x.opc x.md
  fieldZero u.d x.f.d && fieldZero u.a x.f.a && fieldZero u.b x.f.b && fieldZero u.c x.f.c
    && (if x.opc == 0xC7 then x.f.imm / 128 == 0 else x.f.imm == e.f.imm)
    && x.f.tida == e.f.tida && x.f.tidb == e.f.tidb && x.f.tag == e.f.tag && i.fieldOk

/-- The checks of R63 on one syllable, in their order. -/
def decodeEnc (x : Enc) : Except Ill Instr :=
  if !assigned x.opc then .error .unassigned
  else match build x.opc x.md x.f with
    | none => .error .resmod
    | some i =>
      match i.enc with
      | none => .error .unassigned
      | some e =>
        if x.md != e.md || !i.modOk then .error .resmod
        else if !fieldsOk x e i then .error .resfield
        else if x != e || !i.kindOk then .error .regkind
        else .ok i

/-- The instruction in a 64-bit syllable. -/
def decodeWord (w : Nat) : Except Ill Instr := decodeEnc (encOf w)

/-- The instruction the decoder reads from the low `nbits` bits of `w`, bit 0 the least significant of byte 0 of
the syllable (R49); bits above are 0. A table row without bits is asked with all 64 bits of the syllable. -/
def decodeTableWord (nbits w : Nat) : Option Instr :=
  match decodeWord (w % 2 ^ (if nbits == 0 then 64 else min nbits 64)) with
  | .ok i => some i
  | .error _ => none

/-- The syllable that carries an instruction under a frame (R50); zero for an event. -/
def encode (fr : Frame) (i : Instr) : Nat :=
  match i.enc with
  | none => 0
  | some e =>
    fr.stop.toNat * 2 ^ 63 + fr.dup.toNat * 2 ^ 62 + fr.ginv.toNat * 2 ^ 61 + fr.gpred.val * 2 ^ 57
      + e.opc * 2 ^ 49 + e.md * 2 ^ 44 + pack (fmtOf e.opc) e.f

end Sys2Proof
end

