-- ==== Sys2Proof/Machine/Bits.lean ====
section
/-! DEFINITION. Bits, bytes and elements: the helpers of spec/04 R66 over the word types, the byte order of spec/00,
and the elements of a vector register (spec/07 R116). -/

namespace Sys2Proof.Machine

/-- Bit i of a natural number. -/
def bitAt (x i : Nat) : Bool := x / 2 ^ i % 2 == 1

/-- `sext(x, n)`: the low n bits of x read as two's complement (R66). -/
def sextN (x n : Nat) : Int :=
  if bitAt x (n - 1) && n != 0 then (x % 2 ^ n : Nat) - (2 ^ n : Nat) else (x % 2 ^ n : Nat)

/-- `trunc(x, n)` of an exact integer (R66). -/
def truncI (x : Int) (n : Nat) : Nat := (x % (2 ^ n : Nat)).toNat

/-- `clamp` (R66). -/
def clampI (x lo hi : Int) : Int := if x < lo then lo else if hi < x then hi else x

/-- A 64-bit word from an exact integer, modulo 2^64. -/
def wordI (x : Int) : Word := BitVec.ofInt 64 x

/-- A 64-bit word from a natural number, modulo 2^64. -/
def wordN (x : Nat) : Word := BitVec.ofNat 64 x

/-- The n bytes of x, byte 0 the least significant. -/
def bytesOf : Nat → Nat → List Byte
  | 0, _ => []
  | n + 1, x => BitVec.ofNat 8 x :: bytesOf n (x / 256)

/-- The natural number of little-endian bytes. -/
def natOf : List Byte → Nat
  | [] => 0
  | b :: t => b.toNat + 256 * natOf t

/-- Count of one bits among the low n. -/
def popcount : Nat → Nat → Nat
  | 0, _ => 0
  | n + 1, x => x % 2 + popcount n (x / 2)

/-- Count of leading zero bits of an n-bit number; n for 0. -/
def clzN (n x : Nat) : Nat := if x % 2 ^ n == 0 then n else n - 1 - (x % 2 ^ n).log2

/-- Count of trailing zero bits of an n-bit number; n for 0. -/
def ctzN : Nat → Nat → Nat
  | 0, _ => 0
  | n + 1, x => if x % 2 == 1 then 0 else 1 + ctzN n (x / 2)

/-- Element e of width w bytes, as its encoding (R116). -/
def elem (x : VWord) (w e : Nat) : Nat := x.toNat / 2 ^ (8 * w * e) % 2 ^ (8 * w)

/-- Byte k of a vector register. -/
def vbyte (x : VWord) (k : Nat) : Byte := BitVec.ofNat 8 (x.toNat / 2 ^ (8 * k))

/-- The natural number of elements of b bits each, element 0 lowest. -/
def packN (b : Nat) : List Nat → Nat
  | [] => 0
  | x :: t => x % 2 ^ b + 2 ^ b * packN b t

/-- The vector register whose elements of width w bytes are listed; bytes beyond are 0. -/
def ofElems (w : Nat) (l : List Nat) : VWord := BitVec.ofNat 8192 (packN (8 * w) l)

/-- The vector register of little-endian bytes; bytes beyond are 0. -/
def ofBytes (l : List Byte) : VWord := BitVec.ofNat 8192 (natOf l)

/-- The 1,024 bytes of a vector register. -/
def toBytes (x : VWord) : List Byte := bytesOf 1024 x.toNat

/-- Lane l of a mask. -/
def lane (m : Mask) (l : Nat) : Bool := m.toNat.testBit l

/-- The mask whose lane l is `f l`. -/
def maskOf (f : Nat → Bool) : Mask :=
  BitVec.ofNat 256 (packN 1 ((List.range 256).map fun l => (f l).toNat))

/-- Element i of a list, or a default. -/
def nth {α : Type} (l : List α) (i : Nat) (d : α) : α := (l[i]?).getD d

/-- The list with the first member that satisfies p replaced. -/
def replFirst {α : Type} (p : α → Bool) (f : α → α) : List α → List α
  | [] => []
  | x :: t => if p x then f x :: t else x :: replFirst p f t

/-- The list without the first member that satisfies p. -/
def dropFirst {α : Type} (p : α → Bool) : List α → List α
  | [] => []
  | x :: t => if p x then t else x :: dropFirst p t

/-- An element put before the first of a list that it may precede. -/
def insertBy {α : Type} (le : α → α → Bool) (x : α) : List α → List α
  | [] => [x]
  | y :: t => if le x y then x :: y :: t else y :: insertBy le x t

/-- The elements of a list in order, those of equal rank as they stood. -/
def sortBy {α : Type} (le : α → α → Bool) (l : List α) : List α := l.foldr (insertBy le) []

/-- The low part of a word: bits hi down to lo, as a natural number. -/
def wbits (x : Word) (hi lo : Nat) : Nat := bits x.toNat hi lo

end Sys2Proof.Machine
end

