-- ==== Sys2Proof/Machine/State.lean ====
section
/-! DEFINITION. The state of the package: the selected core, its die with every other core, the package with every
other die, the schedule (log 1) and the counter of free values (log 4). Every field is plain data. -/

namespace Sys2Proof.Machine

/-- Reasons for which the machine stops. No instruction or event of the spec stops the machine: a trap is a next
state and an access to a hole traps ABSENT (R9, R319). Raised by nobody; safe. -/
inductive Fault where
  /-- Kept for the interface; raised by nobody; safe. -/
  | none
  deriving DecidableEq, Repr

/-- Instructions without a meaning. -/
inductive Refusal where
  /-- Raised by `exec` for an instruction that has no meaning yet; safe. -/
  | notModelled (mnemonic : String)
  deriving DecidableEq, Repr

/-- A continuation record (R17), field by field. -/
structure Record where
  pc : Word
  fp : Word
  ttb : Word
  kid : BitVec 32
  stg : BitVec 16
  crew : BitVec 8
  place : BitVec 8
  rs : BitVec 32
  run : BitVec 32
  arg0 : Word
  arg1 : Word
  arg2 : Word
  deriving DecidableEq, Repr

/-- A release that an acquire may synchronise with (R214): who made it, at which scope, over which bytes, and the
writes that happen before it. -/
structure Head where
  sid : Nat
  crew : Nat
  scope : Scope
  lo : Nat
  len : Nat
  hb : List Nat
  deriving DecidableEq, Repr

/-- A write performed in the present phase (R212), in coherence order, with the releases it carries (R214). -/
structure WriteRec where
  id : Nat
  addr : Nat
  bytes : List Byte
  heads : List Head
  deriving DecidableEq, Repr

/-- What belongs to a strand and follows its record: its identity, its record's address, its view (R210), the writes
that happen before its next operation (R213), the releases it has read (R217), the scopes of its release fences, and
its performed stamped stores: stamp, address and bytes (R342, R345). -/
structure Strand where
  sid : Nat
  /-- The address its record was read from (R18). -/
  addr : Nat
  view : List Nat
  hb : List Nat
  readHeads : List Head
  relScopes : List Scope
  stamps : List (Nat × Nat × List Byte)
  deriving DecidableEq, Repr

/-- A queued or waiting continuation: the record, its strand, and the detail with which it traps RVZ at its pickup
(R231), if any (log 11, DEDUCED). -/
structure Cont where
  record : Record
  strand : Strand
  /-- The run queue it returns to (R19, log 11). -/
  q : Fin 64
  rvz : Option Nat
  deriving DecidableEq, Repr

/-- A private byte array. With `seed` none an unlisted byte reads 0; after a pickup it reads a free value (R20). -/
structure Store where
  seed : Option Nat
  cells : List Host.Cell
  deriving DecidableEq, Repr

/-- Cause codes of R301. -/
inductive Cause where
  | illbundle | illop | pendread | check | uecc | mirror | clkwide | badtarget | sigclass | loop | rep | allot
  | swtrap | vector | geoop | matrix | badtensor | format | memory | copy | segment | rvz | queue | group | barrier
  | badcont | absent | noread | nowrite | noexec | badpte | ptue | demand | horizon | stampspace | stampheld | link
  | decode
  deriving DecidableEq, Repr

/-- A trap: cause and the fields TRAPINFO takes (R300, R302). `addr` is used by the causes of FORM 1. -/
structure Trap where
  cause : Cause
  detail : Nat := 0
  arg : Nat := 0
  addr : Nat := 0
  syl : Nat := 0
  step : Bool := false
  deriving DecidableEq, Repr

/-- Why a core freezes before a bundle (R34, R36), in the order in which R36 meets the causes. -/
inductive Freeze where
  | emptyPort | queueFull | scoreboard
  /-- The scoreboard, for the rows alone that a V.AWRITE has in flight to a bank (R135; log 100). -/
  | rows (bank : Nat)
  deriving DecidableEq, Repr

/-- A result that lands after its latency (R30). -/
inductive Land where
  /-- A scalar register. -/
  | s (r : SReg) (x : Word)
  /-- A vector register. -/
  | v (r : VReg) (x : VWord)
  /-- A predicate. -/
  | p (r : PReg) (x : Bool)
  /-- A mask register. -/
  | m (r : MReg) (x : Mask)
  /-- A control register (R102, R132). -/
  | creg (c : CReg) (x : Word)
  /-- A staging register (R102). -/
  | greg (g : GReg) (x : Word)
  /-- Eight bytes of spill memory (R102). -/
  | spill (slot : Fin 512) (x : Word)
  /-- The overflow count of F.LQ (R178). -/
  | lqo (x : Word)
  /-- A table of the table memory (R164). -/
  | table (k : Fin 4) (x : VWord)
  /-- Fills a reserved entry of a write port (R58). -/
  | push (serial : Nat) (x : VWord)
  /-- Writes that join the view (R211). -/
  | gain (ids : List Nat)
  /-- The result of an ordering access not yet performed (R216). -/
  | ordPend (d : SReg) (serial : Nat)
  /-- An as-of load: the serial of the entry it reserved in a write port, its address, size type, stamp and bundle
  (R344). -/
  | asOf (d : SReg) (serial : Nat) (pa : Nat) (ty : SizeTy) (t : Nat) (ba : Nat)
  /-- A trap raised before the bundle at which the result is due (R229, R342), and the bundle TRAPPC names; none: the
  one about to issue. -/
  | trap (t : Trap) (ba : Option Nat)
  /-- Two rows of a tile (R135). -/
  | tile (a : AReg) (q : Nat) (x : VWord)
  /-- A statistics record (R92). -/
  | stat (kind unit count ba : Nat)
  deriving DecidableEq, Repr

/-- A result in flight and its remaining distance in bundles (R30, R224). -/
structure Inflight where
  due : Nat
  land : Land
  deriving DecidableEq, Repr

/-- One hardware loop level (R108, R110). -/
structure LoopLvl where
  rem : BitVec 32
  act : Bool
  pipe : Bool
  stg : Fin 4
  drained : Bool
  ls : BitVec 56
  le : BitVec 56
  deriving DecidableEq, Repr

/-- The repeat state (R111). -/
structure Rpc where
  iter : BitVec 16
  count : BitVec 16
  act : Bool
  /-- STRIDE and FMASK of the B.REP that is issuing (R111). -/
  stride : BitVec 3
  fmask : BitVec 4
  deriving DecidableEq, Repr

/-- The state a checkpoint saves and a rollback restores (R224). -/
structure Arch where
  s : Vector Word 64
  v : Vector VWord 32
  p : Preds
  m : Vector Mask 8
  spill : Store
  inflight : List Inflight
  shape : Word
  qsl : Word
  ttbase : Word
  loops : Vector LoopLvl 3
  rpc : Rpc
  mg : Vector Word 8
  cg : Vector Word 16
  dg : Vector Word 8
  lg : Vector Word 4
  tables : Store
  pptable : Store
  lqo : Word
  mirroff : Bool
  sendBind : Option (Fin 16)
  recvBind : Option (Fin 16)
  deriving DecidableEq, Repr

/-- An entry of a tensor identifier table (R89). -/
structure Tensor where
  base : Nat
  fmt : Nat
  planes : Nat
  cmp : Nat
  aper : Nat
  rows : Nat
  cols : Nat
  block : Nat
  stride : Nat
  scale : Nat
  super : Nat
  tlen : Nat
  raw : Nat
  deriving DecidableEq, Repr

/-- The issuer's view as it stood at an engine command's issue: its set of writes and its own withheld stores
(R218), and the scratchpad bytes that stores of the same bundle have overwritten since, the first of them first
(R149). -/
structure Snap where
  view : List Nat
  own : List (Nat × List Byte)
  /-- The issuer's own stamped stores: stamp, address, bytes (R342). -/
  sts : List (Nat × Nat × List Byte)
  spad : List (Nat × List Byte)
  deriving DecidableEq, Repr

/-- A range of scratchpad bytes in the range-overlap scoreboard (R206). -/
structure Foot where
  lo : Nat
  len : Nat
  wr : Bool
  deriving DecidableEq, Repr

/-- Which copy a command makes (R196). -/
inductive CopyKind where
  | copy | copy2d
  | fill (x : Word) | fill2d (x : Word)
  | gath | scat | xpose
  | plane (toBytes : Bool)
  | conv (k : ConvKind)
  | xch (slot : BitVec 16)
  | pref
  deriving DecidableEq, Repr

/-- What an engine writes to one byte: the bits it takes, and their values. -/
structure Put where
  va : Nat
  mask : Byte
  x : Byte
  deriving DecidableEq, Repr

/-- The arithmetic events of one element (R75): CVTSAT included (R69, R74). -/
structure Ev where
  inv : Bool
  div : Bool
  ovf : Bool
  udf : Bool
  sat : Bool
  deriving DecidableEq, Repr

/-- A copy command with everything it read at issue (R195 to R198). -/
structure CopyCmd where
  serial : Nat
  kind : CopyKind
  src : Tensor
  dst : Tensor
  srow : Nat
  scol : Nat
  drow : Nat
  dcol : Nat
  nrows : Nat
  ncols : Nat
  table : List (Int × Int)
  tag : Tag
  ba : Nat
  snap : Snap
  foots : List Foot
  /-- Held by the open segment (R202). -/
  held : Bool
  running : Bool
  /-- The virtual address of the page at which it is parked for DEMAND (R322). -/
  parked : Option Nat
  /-- Bytes written before the parked page (R322). -/
  done : Nat
  /-- A parked copy into a compressed destination: the blocks it has begun, and what it has still to write of the last
  of them (R322). -/
  blk : Nat
  rest : List Put
  /-- A parked copy: the steps of its walk that it has read, what they write, the scales that they write beside a
  compressed destination, their events, and the scratchpad as its first pass found it (R200, R322). -/
  step : Nat
  puts : List Put
  tail : List Put
  evs : List Ev
  spad : Option (List Host.Cell)
  deriving DecidableEq, Repr

/-- Work of the matrix engine (R153, R154). -/
inductive MatOp where
  | mma (fresh : Bool) (a b : Tensor) (mg0 mg1 mg2 : Word)
  | aclr (f32 : Bool)
  | amov (srcBank : Nat)
  /-- X.ALOAD with the rows it read from shared memory at its issue; none: a row of the scratchpad; and the trap that
  those rows' data raise (R229). -/
  | aload (t : Tensor) (rows : List (Option (List Byte))) (bad : Option Trap) (mg1 mg2 : Word)
  | asave (t : Tensor) (tag : Tag) (mg1 mg2 : Word)
  | mode (alt8 : Bool)
  | mirr (off : Bool)
  deriving DecidableEq, Repr

/-- A command of the matrix queue (R147). -/
structure MatCmd where
  serial : Nat
  op : MatOp
  tile : Nat
  bank : Nat
  ba : Nat
  snap : Snap
  foots : List Foot
  /-- Held by the open segment: X.ASAVE only (R152). -/
  held : Bool
  /-- Issued in the open segment, so that a rollback cancels it (R152). -/
  seg : Bool
  running : Bool
  mirrored : Bool
  /-- The virtual address of the page at which it is parked for DEMAND, and the bytes written before it (R322). -/
  parked : Option Nat
  done : Nat
  deriving DecidableEq, Repr

/-- What the D queue holds (R147, R349). -/
inductive DOp where
  | pp (cmp : Bool) (tile bank : Nat) (t : Tensor) (tb : Option Tensor) (fn : PpFn) (dg0 dg1 dg2 : Word)
  | ppcfg (x : VWord)
  | ringSet (base size : Word)
  | jpeg (t : Tensor) (dg3 dg4 : Word)
  | g4 (t : Tensor) (dg3 dg4 : Word)
  | raw (b1 : Bool) (t : Tensor) (dg3 dg4 : Word)
  deriving DecidableEq, Repr

/-- A running decode: the patch records still to be emitted, each as its 1 KiB entries, and the fields of its
page-end record (R355, R356). -/
structure DecodeRun where
  recs : List (List VWord)
  /-- For each record, the input bytes consumed when its patch row was complete. -/
  offs : List Nat
  /-- Entries of a whole record. -/
  rlenk : Nat
  emitted : Nat
  prows : Nat
  pcols : Nat
  w : Nat
  h : Nat
  status : Nat
  stopoff : Nat
  /-- Input bytes consumed for the records emitted so far. -/
  pos : Nat
  /-- What stopped the reading of the input, or the writing of the ring (R351). -/
  err : Option Trap
  /-- Its writes to the ring (R361). -/
  ids : List Nat
  deriving DecidableEq, Repr

/-- An entry of port v28, and whether it is the last of a page-end record (R362). -/
structure PatchEnt where
  x : VWord
  last : Bool
  deriving DecidableEq, Repr

/-- A command of the D queue. -/
structure DCmd where
  serial : Nat
  op : DOp
  tag : Option Tag
  ba : Nat
  snap : Snap
  foots : List Foot
  held : Bool
  seg : Bool
  /-- Waiting for a decode engine since this place in the die's order (R349). -/
  waiting : Option Nat
  /-- Ended by D.DABORT (R363). -/
  aborted : Bool
  run : Option DecodeRun
  /-- The virtual address of the page at which it is parked for DEMAND, and the bytes written before it (R322). -/
  parked : Option Nat
  done : Nat
  /-- A parked D.PPCMP: the blocks it has begun, and what it has still to write of the last of them (R322). -/
  blk : Nat
  rest : List Put
  /-- Scales and biases that a parked D.PP or D.PPCMP has read (R322). -/
  cols : List (Option (Nat × Nat))
  deriving DecidableEq, Repr

/-- A stream slot (R326), with its place in the order of arrival (R59). -/
structure Slot where
  no : Nat
  len : Nat
  bytes : List Byte
  stamp : Option Nat
  hb : List Nat
  deriving DecidableEq, Repr

/-- What an entry of the stream queue does (R328). -/
inductive StreamOp where
  /-- L.SEND and L.SENDST: address, length, stamp. -/
  | send (va len : Nat) (stamp : Option Nat)
  /-- A send that a swap has saved with its bytes (R336). -/
  | saved (b : List Byte) (stamp : Option Nat)
  /-- A write to s63 or v31: length, and the value once it has landed. -/
  | portSend (len : Nat) (x : Option VWord)
  /-- L.RECV: the popped slot and its destination. -/
  | recv (slot : Slot) (va : Nat)
  deriving DecidableEq, Repr

/-- An entry of the stream queue (R328). -/
structure StreamEnt where
  serial : Nat
  n : Fin 16
  op : StreamOp
  tag : Option Tag
  ba : Nat
  snap : Snap
  hb : List Nat
  foots : List Foot
  held : Bool
  /-- Its place in the order in which the sends of the die are performed (R334). -/
  order : Nat
  deriving DecidableEq, Repr

/-- One completion tag (R203): its count, its bits, the cause of a run-time fault, and the writes of its commands
(R211). -/
structure TagSt where
  out : Nat
  done : Bool
  since : Bool
  err : Bool
  cause : Nat
  detail : Nat
  /-- The virtual address at which a run-time fault was met (R320). -/
  va : Nat
  writes : List Nat
  deriving DecidableEq, Repr

/-- A reserved or filled record of port v29 (R174). -/
structure GeoRec where
  codes : List (BitVec 8)
  stages : List Nat
  nonfinite : Nat
  ba : Nat
  /-- Its slowest lane has finished. -/
  ready : Bool
  /-- Its statistics records are appended, which are those of the records before it first (R175, R384). -/
  counted : Bool
  seg : Bool
  deriving DecidableEq, Repr

/-- An entry popped in the open segment (R59); `mark` is its place in the order in which its queue was filled. -/
inductive Popped where
  | crewq (c : Nat) (q : Fin 4) (mark : Nat) (x : Word)
  /-- A half of a statistics record, and whether it is the second. -/
  | stat (x : BitVec 128) (second : Bool)
  | mbox (slot : Nat) (mark : Nat) (x : Word)
  /-- A slot, and whether a port popped it: its credit then returns at the commit. -/
  | slot (n : Fin 16) (x : Slot) (port : Bool)
  | geo (r : GeoRec)
  | patch (x : PatchEnt)
  deriving DecidableEq, Repr

/-- The operation of an atomic (R193, R194). -/
inductive AtomOp where
  | add | min | max | and | or | xor | swap
  | cas (new : Word) (ford : MemOrd)
  deriving DecidableEq, Repr

/-- An effect withheld until the segment commits, in program order (R216, R224). -/
inductive Held where
  /-- A plain store of bytes at a physical address. -/
  | store (pa : Nat) (bytes : List Byte)
  /-- A stamped store (R343). -/
  | sts (pa : Nat) (bytes : List Byte) (stamp : Nat)
  /-- An atomic: address, size, operand, order, scope, and the serial of its pending result. -/
  | atom (op : AtomOp) (pa : Nat) (w32 : Bool) (b : Word) (ord : MemOrd) (scope : Scope) (d : SReg) (serial : Nat)
  /-- M.LDAQ. -/
  | ldaq (pa : Nat) (ty : SizeTy) (scope : Scope) (d : SReg) (serial : Nat)
  /-- M.STRL. -/
  | strl (pa : Nat) (bytes : List Byte) (scope : Scope)
  /-- M.FENCE. -/
  | fence (k : FenceKind) (scope : Scope)
  /-- A push to a crew queue; the value once it has landed. -/
  | push (q : Fin 4) (serial : Nat) (x : Option Word)
  /-- Releases a send of the stream queue. -/
  | send (serial : Nat)
  /-- L.CLOSE. -/
  | close (n : Fin 16)
  /-- B.SPAWN: the queue, the record, and the address it was read from. -/
  | spawn (q : Fin 64) (r : Record) (addr : Nat)
  /-- B.GROUP.form. -/
  | form (c : Nat) (mask : BitVec 8)
  /-- B.GROUP.dissolve. -/
  | dissolve (c : Nat)
  /-- D.RING.free. -/
  | ringFree (n : Word)
  /-- D.DABORT, with the serial that its place in program order has. -/
  | dabort (serial : Nat)
  /-- Writes that a tag wait or a receive puts before the strand's later operations (R213). -/
  | past (ids : List Nat)
  deriving DecidableEq, Repr

/-- The suspension point a strand has issued (R19). -/
inductive Susp where
  | yield (q : Fin 64)
  | waitTime (t : Nat)
  | waitMbox
  | waitCrewq (q : Fin 4)
  | waitRecv (n : Fin 16)
  | mwait (va pa : Nat) (expect : Word)
  | rvz (slot : Fin 16) (mask : BitVec 8)
  | phase
  | done
  deriving DecidableEq, Repr

/-- What a core waits for after a bundle has issued: a freeze that the bundle's own effect ends. -/
inductive Wait where
  /-- B.CKPT: the segment's matrix commands (R225). -/
  | ckpt
  /-- B.CBAR before its commit (R292). -/
  | cbarCommit (d : SReg)
  /-- B.CBAR after its arrival: the GEN and the count of ended fillings at the arrival (R291). -/
  | cbar (d : SReg) (gen : BitVec 16) (n : Nat)
  /-- M.FENCE.stamp before its commit, and after it (R345). -/
  | stampCommit
  | stamp
  /-- A suspension point with its new stated run, before its commit and after it (R21). -/
  | suspCommit (p : Susp) (run : BitVec 32)
  | susp (p : Susp) (run : BitVec 32)
  deriving DecidableEq, Repr

/-- How the present issue ended, so far. -/
inductive Issued where
  | ok
  | frozen (f : Freeze)
  | trapped
  deriving DecidableEq, Repr

/-- The issue context of a bundle: the model's own (log 5, DESIGN CHOICE). -/
structure Issue where
  ba : Nat
  nb : Nat
  dup : Bool
  /-- A branch of the bundle was taken (R106). -/
  taken : Bool
  /-- The bundle's results in flight have advanced and its end test is made. -/
  finished : Bool
  status : Issued
  /-- Commands of this serial and later are of the bundle that issues: its other syllables do not see them (R27). -/
  since : Option Nat
  /-- The syllable reads the bound receive stream through s62 and v30; true: v30 is the later field, which takes the
  second slot (R330). -/
  twin : Option Bool
  /-- The receive binding before the bundle, once an L.OPEN.recv of the bundle has changed it: the ports of the bundle
  keep it (R330). -/
  rebound : Option (Option (Fin 16))
  deriving DecidableEq, Repr

/-- Counts of the open segment (R226, R274). -/
structure SegCount where
  bytes : Nat
  cmds : Nat
  sends : Nat
  pushes : Nat
  spawns : Nat
  deriving DecidableEq, Repr

/-- One core with the strand it runs. -/
structure Core where
  /-- Logical core number (R8). -/
  num : Nat
  arch : Arch
  /-- The duplicate set: the state at the last commit (R224). -/
  ck : Arch
  pc : BitVec 56
  /-- The record the core runs; none: the core holds no strand (R22). -/
  record : Option Record
  strand : Strand
  /-- The strand as the last commit left it: a rollback undoes what its view gained since (R211, R224). -/
  ckStrand : Strand
  /-- Halted by HALT, a fault or a demand fault (R307). -/
  halted : Bool
  /-- A halt that waits for the end of a repeat (R306). -/
  haltPend : Bool
  /-- The run queue its record came from (log 11). -/
  q : Fin 64
  wait : Option Wait
  /-- The bundle that began the wait. -/
  waitBa : Nat
  /-- A suspension point or a crew barrier shares its bundle with M.FENCE.stamp, whose wait it also makes (R345). -/
  stampWait : Bool
  dbgStop : Bool
  /-- The strand traps RVZ with this detail before any bundle issues (R231). -/
  rvzTrap : Option Nat
  spad : List Host.Cell
  /-- Old images of the scratchpad lines written in the open segment (R223). -/
  undo : List (Nat × List Byte)
  held : List Held
  seg : SegCount
  popped : List Popped
  retried : Bool
  hnd : Bool
  trappc : BitVec 56
  trapinfo : Word
  ckptpc : BitVec 56
  left : BitVec 32
  budgetStop : Bool
  pacedN : BitVec 32
  stretchN : BitVec 32
  /-- Charges of the seven previous positions, latest first (R42). -/
  hist : List Nat
  /-- Sustained accounts in order: bundles left and weight (R39). -/
  occ : List (Nat × Nat)
  matq : List MatCmd
  dq : List DCmd
  copyq : List CopyCmd
  sq : List StreamEnt
  tags : Vector TagSt 64
  geo : List GeoRec
  patch : List PatchEnt
  stats : List (BitVec 128)
  /-- The first half of the head record has been popped (R57). -/
  statHalf : Bool
  /-- Dropped records and the BA of the first of them (R92). -/
  lost : Nat
  lostBa : Nat
  ringBase : Word
  ringSize : Word
  ringWoff : Word
  ringFree : Word
  lastPage : BitVec 8
  xdone : BitVec 32
  /-- Checkpoint shadows of the tiles of this side: bank, type, contents (R152). -/
  shadow : List (Nat × Bool × Store)
  crewid : BitVec 8
  strandid : Word
  partid : Word
  /-- Registers whose ECC cannot be corrected, by number (R229). -/
  ueccRegs : List Nat
  /-- Scratchpad, spill and table words whose ECC cannot be corrected: level and byte offset (R229). -/
  ueccMem : List (Nat × Nat)
  ueccShadow : Bool
  issue : Issue
  deriving DecidableEq, Repr

/-- A matrix engine of a core pair (R138, R140). -/
structure Engine where
  mode : Fin 4
  banks : Vector Store 8
  fp : Vector Bool 8
  /-- Which side's D queue the post-processing engine takes next: true is side B (R147). -/
  ppNext : Bool
  deriving DecidableEq, Repr

/-- An aperture (R186). -/
structure Aperture where
  ctl : Word
  win : Word
  buf : Word
  aux : Word
  deriving DecidableEq, Repr

/-- A run queue (R270, R271). -/
structure RunQ where
  cfg : Word
  ring : Word
  hw : List Cont
  overflow : List Cont
  /-- The place of the ring at which its oldest record lies (R271). -/
  ringHead : Nat
  reserved : Nat
  age : Nat
  deriving DecidableEq, Repr

/-- An entry of a crew message queue; none until its value has landed (R58); `mark` is its place in the order of the
pushes (R59). -/
structure QEnt where
  serial : Nat
  mark : Nat
  x : Option Word
  deriving DecidableEq, Repr

/-- A rendezvous slot; with each arrived record the address of its B.RVZ bundle (R231). -/
structure RvzSlot where
  mask : BitVec 8
  arr : BitVec 8
  deadline : Option Nat
  conts : List (Cont × Nat)
  deriving DecidableEq, Repr

/-- The state of a logical crew (R277, R283, R290). -/
structure Crew where
  memb : BitVec 8
  next : BitVec 8
  pend : Bool
  live : BitVec 8
  epoch : BitVec 16
  queues : Vector (List QEnt) 4
  rvz : Vector RvzSlot 16
  arr : BitVec 8
  gen : BitVec 16
  deadline : Nat
  /-- How each filling of the barrier ended, oldest first: released, with the writes that happen before its arrivals
  (R293), or by timeout (none) (the model's own record, log 5). -/
  ends : List (Option (List Nat))
  /-- Writes that happen before the arrivals of the present filling (R293). -/
  hb : List Nat
  deriving DecidableEq, Repr

/-- An entry of the watch table (R295). -/
structure Watch where
  va : Nat
  pa : Nat
  expect : Word
  cont : Cont
  saved : Bool
  deriving DecidableEq, Repr

/-- What a suspended continuation waits for (R112, R289). -/
inductive WaitFor where
  | time (t : Nat)
  | mbox
  | crewq (c : Nat) (q : Fin 4)
  | recv (n : Fin 16)
  | phase
  deriving DecidableEq, Repr

/-- A waiting continuation and the queue it returns to. -/
structure Waiter where
  what : WaitFor
  cont : Cont
  deriving DecidableEq, Repr

/-- Phase barrier states (R287). -/
inductive PhaseSt where
  | compute | quiescent | exchange
  deriving DecidableEq, Repr

/-- An exchange copy in progress, with the core, the coordinate and the restart address of its issuer (R288, R304). -/
structure XchCmd where
  /-- The core of its issuer, whose identity the command keeps. -/
  core : Nat
  crew : Nat
  strand : Nat
  ckptpc : Nat
  cmd : CopyCmd
  deriving DecidableEq, Repr

/-- A receive stream of a die (R326). -/
structure RecvStream where
  slotsz : Nat
  slots : Nat
  present : List Slot
  /-- The end marker has arrived (R334). -/
  eos : Bool
  broken : Bool
  /-- Credits freed here and not yet returned to the sender (R326, R327). -/
  owed : Nat
  deriving DecidableEq, Repr

/-- A send stream of a die (R326). -/
structure SendStream where
  slotsz : Nat
  slots : Nat
  credits : Nat
  closed : Bool
  /-- The end marker not yet sent: its place in the order of sends (R334). -/
  marker : Option Nat
  broken : Bool
  next : Bool
  deriving DecidableEq, Repr

/-- A line of a stamped page: its base address and its versions, by rising stamp; each byte of a version carries the
stamp of the write it came from (R341). -/
structure StampLine where
  line : Nat
  vers : List (Nat × List (Nat × Byte))
  deriving DecidableEq, Repr

/-- Boot states (R367). -/
inductive Boot where
  | cold | rom | apply | bist | auth | online | fenced | cfgfail
  deriving DecidableEq, Repr

/-- Service states (R323). -/
inductive Service where
  | online | draining | offline | fenced
  deriving DecidableEq, Repr

/-- Permits of one ingress (R337): minima by class, permits held from the class reserves, from the partition
reserves and from the shared remainder. -/
structure Ingress where
  pmin : Word
  partmin : Vector Word 16
  clsHeld : Vector Nat 5
  partHeld : Vector Nat 16
  shared : Nat
  /-- Flits in the ingress, oldest first: class, partition slot, and which part lent the permit. -/
  flits : List (Nat × Nat × Nat)
  deriving DecidableEq, Repr

/-- One die. `cores` holds every core but the selected one when the die is the selected die (log 89, DEDUCED). -/
structure Die where
  num : Nat
  ncrew : Nat
  grade : BitVec 4
  cfgser : BitVec 16
  dbgPend : Bool
  dbgStep : Bool
  level : Fin 8
  changes : BitVec 16
  rvzto : BitVec 32
  clkw : BitVec 32
  horizon : BitVec 32
  feat : Word
  /-- FEAT as the configuration record gives it, before a partition's policy masks it (R12, R237). -/
  cfgFeat : Word
  mcrev : Word
  numv : Word
  stage : BitVec 16
  cores : List Core
  engines : Vector Engine 64
  aps : Vector Aperture 16
  ptroots : Vector Word 16
  /-- Memory at the start of the present phase (R210). -/
  base : List Host.Cell
  /-- Performed memory (R212). -/
  mem : List Host.Cell
  /-- Writes performed in the present phase, oldest first (R212). -/
  log : List WriteRec
  stampPages : List Nat
  stampLines : List StampLine
  queues : Vector RunQ 64
  last : Vector Nat 16
  crews : Vector Crew 16
  watches : List Watch
  waiters : List Waiter
  phase : PhaseSt
  k : Nat
  elapsed : Nat
  /-- Some agent has performed a write to shared memory in this compute part (R22). -/
  wrote : Bool
  /-- Idle cores whose last fill found no eligible record, and which have had no other fill event since (R22, R275). -/
  found : List Nat
  /-- Exchange copies in progress (R196, R287). -/
  xch : List XchCmd
  /-- PHASE_LATE has been posted in this exchange part (R287). -/
  latePosted : Bool
  /-- Writes that happen before every operation of the present phase, and those that the phase's own operations add
  (R213). -/
  past : List Nat
  acc : List Nat
  earliest : Nat
  latest : Nat
  floor : Nat
  /-- CLOCK_WIDE has been posted since the width last fell to CLKW (R338). -/
  widePosted : Bool
  recv : Vector (Option RecvStream) 16
  send : Vector (Option SendStream) 16
  boot : Boot
  service : Service
  tj : BitVec 12
  tin : BitVec 12
  pwr : BitVec 16
  trip : Bool
  /-- PWR values of the present tick (R374). -/
  pwrs : List Nat
  /-- Partition of the die (R297). -/
  part : Option Nat
  ingress : Ingress
  /-- Next place in the order of waiting decode commands (R349). -/
  dorder : Nat
  /-- Physical addresses of vault and DRAM lines whose ECC cannot be corrected (R229). -/
  ueccLines : List Nat
  /-- Writes of the present phase that the host sees: its own, and those its reads of .system releases gained (R222). -/
  hostView : List Nat
  /-- The .system releases that bytes of the memory at the start of the phase carry, for the host's reads (R222). -/
  released : List (Nat × List Head)
  /-- The evacuation check has passed, so that copying runs (R323). -/
  copying : Bool
  /-- The die's memory has left it for the evacuation store (R323). -/
  away : Bool
  deriving DecidableEq, Repr

/-- Context states (R298). -/
inductive CtxState where
  | empty | loading | ready | running | draining | halted | swapped | restoring | killed
  deriving DecidableEq, Repr

/-- Why a context is halted (R298, R321). -/
inductive HaltReason where
  | none | operator | fault | drain | demand
  deriving DecidableEq, Repr

/-- Kernel states (R235). -/
inductive KernelSt where
  | submitted | verified | resident
  deriving DecidableEq, Repr

/-- A stream declaration of an image (R255, R263). -/
structure StreamDecl where
  name : List Byte
  n : Fin 16
  send : Bool
  next : Bool
  slotsz : Nat
  slots : Nat
  deriving DecidableEq, Repr

/-- A kernel of a context: its state, its container, and the record of R239 with what LOAD adds (R235). -/
structure Kernel where
  kid : BitVec 32
  st : KernelSt
  container : List Byte
  rating : Fin 8
  regs : Nat
  vregs : Nat
  spill : Nat
  /-- Declared matrix mode for each pair named (R137). -/
  modes : List (Nat × Fin 4)
  crews : Nat
  stageLo : Nat
  stageHi : Nat
  phases : List (Nat × Nat)
  streams : List StreamDecl
  entries : List Nat
  /-- REV, REQ and OPT of the image chosen (R244). -/
  rev : Nat
  req : Nat
  opt : Nat
  /-- The loaded sections of the image chosen: address and bytes (R259). -/
  secs : List (Nat × List Byte)
  vector : Nat
  deriving DecidableEq, Repr

/-- A die's part of a swapped context (R309). -/
structure DieShadow where
  pos : Nat
  cores : List Core
  queues : Vector RunQ 64
  last : Vector Nat 16
  crews : Vector Crew 16
  watches : List Watch
  waiters : List Waiter
  k : Nat
  phase : PhaseSt
  elapsed : Nat
  recv : Vector (Option RecvStream) 16
  send : Vector (Option SendStream) 16
  xch : List XchCmd
  /-- Whether the phase has written, and what precedes every later operation of the die (R22, R213). -/
  wrote : Bool
  past : List Nat
  acc : List Nat
  /-- STAGE, the root of the context's tables and the apertures, for a restore at another place (R310). -/
  stage : BitVec 16
  ptroot : Word
  aps : Vector Aperture 16
  deriving DecidableEq, Repr

/-- A partition and its context (R297, R298). -/
structure Partition where
  num : Nat
  /-- Partition slot of PTROOT, PARTMIN and MBOX. -/
  slot : Fin 16
  first : Nat
  ndie : Nat
  ctx : BitVec 16
  state : CtxState
  reason : HaltReason
  pre : Bool
  prelimit : Nat
  /-- A SWAP accepted and held until parked commands finish (R322). -/
  swapHeld : Bool
  kernels : List Kernel
  hostOpen : Bool
  shadow : List DieShadow
  /-- The mailbox as a swap saved it (R309). -/
  savedMbox : List (Nat × Word)
  /-- The streams of the last die of the context before this one in the pipeline, and of the first die of the one after
  it, as the driver's ordered list gave them at START; none: there is no such context (R324, R325). -/
  pipePrev : Option (List PeerStream)
  pipeNext : Option (List PeerStream)
  deriving DecidableEq, Repr

/-- States of a connection table entry (R336). -/
inductive CircuitSt where
  | free | reserved | tuning | open | draining | closed
  deriving DecidableEq, Repr

/-- An entry of the connection table (R336): its ends are those of the send stream n of die `src`; 256 + d stands for
the sender in another package whose slots die d receives. -/
structure Circuit where
  st : CircuitSt
  owner : Nat
  wavelength : Nat
  port : Nat
  src : Nat
  n : Fin 16
  /-- Sends that were ready when it began to drain and are not yet delivered. -/
  flight : Nat
  /-- It drained, or is closed, by a swap. -/
  swap : Bool
  deriving DecidableEq, Repr

/-- Events the stewards post to partitions and the driver, and statuses they return (log 90, DEDUCED). -/
inductive Post where
  | phaseLate (part stage overrun : Nat)
  | segRetry (part stage crew strand cause : Nat)
  | queueQuota (part q : Nat)
  | promiseSuspended (part kid level : Nat)
  /-- The coordinate, the trap registers, and for COPY, FAULTED the virtual address of the fault (R304, R320). -/
  | contextFault (part stage crew strand trappc : Nat) (trapinfo : Word) (ckptpc va : Nat)
  | contextDone (part : Nat)
  /-- The die, the coordinate, the core, the address, the access kind (0 read, 1 write, 2 fetch), and the tag of a
  parked command (R321, R322). -/
  | demandFault (part die stage crew strand core va kind : Nat) (tag : Option Nat)
  | killed (part : Nat)
  | clockWide (die : Nat)
  | dieFenced (die stage : Nat) (reason : String)
  | railFault (die : Nat)
  | linkFail (circuit : Nat)
  | offlineRefused (die shortfall : Nat)
  | debugStop (die core : Nat)
  | budget (die core : Nat)
  | eccError (die addr : Nat)
  | status (request : String) (status : String) (arg : Nat)
  | spdm (request : String) (data : List Byte)
  | hostData (addr : Nat) (data : List Byte)
  | hostError (addr : Nat)
  /-- A register of BAR0 as the host reads it (R370). -/
  | hostWord (r : Bar0) (x : Word)
  deriving DecidableEq, Repr

/-- An entry of the translation cache: its key, the microcode and numeric version it was made under, and the native
image (R245). -/
structure CacheEnt where
  key : List Byte
  mcrev : Word
  numv : Word
  image : List Byte
  deriving DecidableEq, Repr

/-- What the evacuation store holds of a die: its memory with the views of it and its stamped pages, and how many bytes
that takes (R323). -/
structure Evacuated where
  die : Nat
  /-- The context whose pages they are: its partition, its number and the place of the die in it. -/
  part : Nat
  ctx : BitVec 16
  pos : Nat
  base : List Host.Cell
  mem : List Host.Cell
  log : List WriteRec
  stampPages : List Nat
  stampLines : List StampLine
  released : List (Nat × List Head)
  /-- The context's pages and the tables of its tree: first address and bytes. -/
  pages : List (Nat × Nat)
  tables : List (Nat × Nat)
  bytes : Nat
  deriving DecidableEq, Repr

/-- The package. `dies` holds every die but the selected one (log 89, DEDUCED). -/
structure Package where
  dies : List Die
  parts : List Partition
  /-- Mailbox entries, each with its place in the order of arrival (R59), and dropped writes of each partition slot
  (R278, R371). -/
  mbox : Vector (List (Nat × Word)) 16
  drops : Vector (BitVec 16) 16
  conns : List Circuit
  /-- The ingresses of the optical ports (R5, R337). -/
  ports : Vector Ingress 16
  /-- The selected ingress: that of an optical port, or that of the selected die (the model's own, log 51). -/
  ingress : Option (Fin 16)
  tup : BitVec 8
  tdown : BitVec 8
  hold : BitVec 8
  lmin : Fin 8
  pup : BitVec 12
  pdown : BitVec 12
  lvl : Fin 8
  calm : Nat
  bootCode : BitVec 4
  bootFenced : BitVec 12
  /-- The configuration record in flash, its signature, and the package serial of the flash header (R12). -/
  cfgRecord : List Byte
  signature : List Byte
  recSerial : Word
  flashSerial : Word
  mcrev : Word
  /-- Translation cache (R245). -/
  cache : List CacheEnt
  /-- The evacuation store (R323). -/
  evac : List Evacuated
  posts : List Post
  /-- Next identity of a write and of a continuation (the model's own, log 5). -/
  nextId : Nat
  deriving DecidableEq, Repr

/-- Who moves next, and the times that pass (DESIGN CHOICE, log 1, log 7). -/
inductive Move where
  /-- The core issues its next bundle. -/
  | core (die core : Nat)
  /-- An event happens to the selected core and die. -/
  | event (i : Instr)
  /-- The selection moves to a core of a die. -/
  | select (die core : Nat)
  /-- The selection moves to the ingress of an optical port, or to that of the selected die (R337). -/
  | ingress (port : Option (Fin 16))
  /-- The selected die's interval clock reaches these bounds. -/
  | clock (earliest latest : Nat)
  /-- Bundle times pass on the selected die. -/
  | elapse (n : Nat)
  /-- A soft error changes a scalar register of the selected core (R228, R393). -/
  | upset (r : Fin 64) (x : Word)
  deriving DecidableEq, Repr

/-- The whole machine. -/
structure State where
  core : Core
  die : Die
  pkg : Package
  /-- The moves to come (log 1). -/
  sched : List Move
  /-- Counter of free values: the model's own (log 4). -/
  free : Nat
  deriving DecidableEq, Repr

/-- No record: every field 0 (log 2). -/
def Record.zero : Record := ⟨0, 0, 0, 0, 0, 0, 0, 0, 0, 0, 0, 0⟩

/-- A strand that has done nothing. -/
def Strand.fresh (sid addr : Nat) : Strand := ⟨sid, addr, [], [], [], [], []⟩

/-- An array of zeros (log 2). -/
def Store.zero : Store := ⟨none, []⟩

/-- A loop level at reset (R110). -/
def LoopLvl.reset : LoopLvl := ⟨0, false, false, 0, false, 0, 0⟩

/-- SHAPE at reset: 16 rows, 16 columns, elements of 4 bytes (R117). -/
def shapeReset : Word := 0x0000000200100010

/-- The checkpointed state at reset: the Reset columns, and 0 where the spec gives none (log 2). -/
def Arch.reset : Arch where
  s := Vector.replicate 64 0
  v := Vector.replicate 32 0
  p := 0
  m := Vector.replicate 8 0
  spill := .zero
  inflight := []
  shape := shapeReset
  qsl := 0
  ttbase := 0
  loops := Vector.replicate 3 .reset
  rpc := ⟨0, 0, false, 0, 0⟩
  mg := Vector.replicate 8 0
  cg := Vector.replicate 16 0
  dg := Vector.replicate 8 0
  lg := Vector.replicate 4 0
  tables := .zero
  pptable := .zero
  lqo := 0
  mirroff := false
  sendBind := none
  recvBind := none

/-- No count. -/
def SegCount.zero : SegCount := ⟨0, 0, 0, 0, 0⟩

/-- A tag with every bit, count and state clear (R203). -/
def TagSt.clear : TagSt := ⟨0, false, false, false, 0, 0, 0, []⟩

/-- The issue context of no bundle (log 5). -/
def Issue.none : Issue := ⟨0, 0, false, false, false, .ok, Option.none, Option.none, Option.none⟩

/-- Core n at reset: it holds no strand (log 2, DESIGN CHOICE). -/
def Core.reset (n : Nat) : Core where
  num := n
  arch := .reset
  ck := .reset
  pc := 0
  record := none
  strand := .fresh 0 0
  ckStrand := .fresh 0 0
  halted := false
  haltPend := false
  q := 0
  wait := none
  waitBa := 0
  stampWait := false
  dbgStop := false
  rvzTrap := none
  spad := []
  undo := []
  held := []
  seg := .zero
  popped := []
  retried := false
  hnd := false
  trappc := 0
  trapinfo := 0
  ckptpc := 0
  left := 0
  budgetStop := false
  pacedN := 0
  stretchN := 0
  hist := [0, 0, 0, 0, 0, 0, 0]
  occ := []
  matq := []
  dq := []
  copyq := []
  sq := []
  tags := Vector.replicate 64 .clear
  geo := []
  patch := []
  stats := []
  statHalf := false
  lost := 0
  lostBa := 0
  ringBase := 0
  ringSize := 0
  ringWoff := 0
  ringFree := 0
  lastPage := 0
  xdone := 0
  shadow := []
  crewid := 0xFF
  strandid := 0
  partid := 0
  ueccRegs := []
  ueccMem := []
  ueccShadow := false
  issue := .none

/-- An engine at reset: ALT1, banks of zeros of type INT32 (R138, log 2). -/
def Engine.reset : Engine := ⟨0, Vector.replicate 8 .zero, Vector.replicate 8 false, false⟩

/-- An empty rendezvous slot. -/
def RvzSlot.empty : RvzSlot := ⟨0, 0, none, []⟩

/-- A crew at context start (R283, R290). -/
def Crew.start : Crew where
  memb := 0
  next := 0
  pend := false
  live := 0
  epoch := 0
  queues := Vector.replicate 4 []
  rvz := Vector.replicate 16 .empty
  arr := 0
  gen := 0
  deadline := 0
  ends := []
  hb := []

/-- PMIN at reset: 1,024, 256, 64, 256 and 64 (R337). -/
def pminReset : Word := 0x0040100040100400

/-- An ingress at reset (R337). -/
def Ingress.reset : Ingress :=
  ⟨pminReset, Vector.replicate 16 0, Vector.replicate 5 0, Vector.replicate 16 0, 0, []⟩

/-- Die d at reset: boot state COLD, every core but those of `skip` listed (DESIGN CHOICE, log 2; log 6, DESIGN
CHOICE) (log 7, DESIGN CHOICE). -/
def Die.reset (d : Nat) (skip : List Nat) : Die where
  num := d
  ncrew := Config.ncrew
  grade := Config.grade
  cfgser := 0
  dbgPend := false
  dbgStep := false
  level := 7
  changes := 0
  rvzto := 0x3E8
  clkw := 0x3E8
  horizon := 0x7D0
  feat := Config.feat
  cfgFeat := Config.feat
  mcrev := 0
  numv := 1
  stage := BitVec.ofNat 16 d
  cores := ((List.range (8 * Config.ncrew)).filter fun n => !skip.contains n).map Core.reset
  engines := Vector.replicate 64 .reset
  aps := Vector.replicate 16 ⟨0, 0, 0, 0⟩
  ptroots := Vector.replicate 16 0
  base := []
  mem := []
  log := []
  stampPages := []
  stampLines := []
  queues := Vector.replicate 64 ⟨0, 0, [], [], 0, 0, 0⟩
  last := Vector.replicate 16 0
  crews := Vector.replicate 16 .start
  watches := []
  waiters := []
  phase := .compute
  k := 0
  elapsed := 0
  wrote := false
  found := []
  xch := []
  latePosted := false
  past := []
  acc := []
  earliest := 0
  latest := 0
  floor := 0
  widePosted := false
  recv := Vector.replicate 16 none
  send := Vector.replicate 16 none
  boot := .cold
  service := .online
  tj := 0
  tin := 0
  pwr := 0
  trip := false
  pwrs := []
  part := none
  ingress := .reset
  dorder := 0
  ueccLines := []
  hostView := []
  released := []
  copying := false
  away := false

/-- The package at reset. -/
def Package.reset : Package where
  dies := (List.range' 1 11).map fun d => Die.reset d []
  parts := []
  mbox := Vector.replicate 16 []
  drops := Vector.replicate 16 0
  conns := []
  ports := Vector.replicate 16 .reset
  ingress := none
  tup := 95
  tdown := 85
  hold := 10
  lmin := 0
  pup := 2400
  pdown := 2200
  lvl := 7
  calm := 0
  bootCode := 0
  bootFenced := 0
  cfgRecord := []
  signature := []
  recSerial := 0
  flashSerial := 0
  mcrev := 0
  cache := []
  evac := []
  posts := []
  nextId := 1

/-- The machine right after reset: core 0 of die 0 selected, no move scheduled (DESIGN CHOICE, log 2; log 3, DESIGN
CHOICE). -/
def State.reset : State where
  core := .reset 0
  die := .reset 0 [0]
  pkg := .reset
  sched := []
  free := 0

end Sys2Proof.Machine
end

