-- ==== Sys2Proof/Machine/Fp.lean ====
section
/-! DEFINITION. Floating-point formats and the exact-then-round arithmetic of spec/05 R71 to R75, with the
correctly rounded functions of spec/09 R167 and the fixed algorithms of R168. -/

namespace Sys2Proof.Machine

/-- A value that an encoding denotes: NaN (signalling or quiet), an infinity, or ±m·2^e exactly (R66 `val`). -/
inductive FVal where
  | nan (sig : Bool)
  | inf (neg : Bool)
  | fin (neg : Bool) (m : Nat) (e : Int)
  deriving DecidableEq, Repr

/-- No event. -/
def Ev.none : Ev := ⟨false, false, false, false, false⟩
/-- INVALID alone. -/
def Ev.invalid : Ev := ⟨true, false, false, false, false⟩
/-- CVTSAT alone. -/
def Ev.cvtsat : Ev := ⟨false, false, false, false, true⟩
/-- Both sets of events. -/
def Ev.or (a b : Ev) : Ev :=
  ⟨a.inv || b.inv, a.div || b.div, a.ovf || b.ovf, a.udf || b.udf, a.sat || b.sat⟩

/-- A floating-point format of R71: fraction bits, bias, largest finite code, canonical NaN, width in bits. -/
structure FFmt where
  fb : Nat
  eb : Nat
  bias : Nat
  maxCode : Nat
  qnan : Nat
  hasInf : Bool
  deriving DecidableEq, Repr

/-- FP32. -/
def f32 : FFmt := ⟨23, 8, 127, 0x7F7FFFFF, 0x7FC00000, true⟩
/-- FP16. -/
def f16 : FFmt := ⟨10, 5, 15, 0x7BFF, 0x7E00, true⟩
/-- BF16. -/
def bf16 : FFmt := ⟨7, 8, 127, 0x7F7F, 0x7FC0, true⟩
/-- E4M3: no infinity; 0x7F and 0xFF alone are NaN. -/
def e4m3 : FFmt := ⟨3, 4, 7, 0x7E, 0x7F, false⟩
/-- E5M2. -/
def e5m2 : FFmt := ⟨2, 5, 15, 0x7B, 0x7E, true⟩
/-- FP64, in which stage A of the geometric predicates is evaluated (R173). -/
def f64 : FFmt := ⟨52, 11, 1023, 0x7FEFFFFFFFFFFFFF, 0x7FF8000000000000, true⟩

/-- The sign bit's weight. -/
def FFmt.signBit (f : FFmt) : Nat := 2 ^ (f.fb + f.eb)

/-- `val(e, fmt)` (R66, R71). -/
def FFmt.val (f : FFmt) (x : Nat) : FVal :=
  let neg := bitAt x (f.fb + f.eb)
  let ex := x / 2 ^ f.fb % 2 ^ f.eb
  let fr := x % 2 ^ f.fb
  let top := 2 ^ f.eb - 1
  if ex == top && f.hasInf then
    if fr == 0 then .inf neg else .nan (!bitAt fr (f.fb - 1))
  else if ex == top && fr == 2 ^ f.fb - 1 then .nan false
  else if ex == 0 then .fin neg fr (1 - (f.bias : Int) - f.fb)
  else .fin neg (fr + 2 ^ f.fb) ((ex : Int) - f.bias - f.fb)

/-- A signed code. -/
def FFmt.signed (f : FFmt) (neg : Bool) (x : Nat) : Nat := if neg then x + f.signBit else x

/-- The encoding of an infinity: E4M3 has none (R73). -/
def FFmt.encInf (f : FFmt) (sat neg : Bool) : Nat × Ev :=
  if f.hasInf then (f.signed neg (f.maxCode + 1), .none)
  else (if sat then f.signed neg f.maxCode else f.qnan, ⟨false, false, true, false, false⟩)

/-- Whether a magnitude q with the discarded part `rem` of `2 * half`, and more below when `sticky`, rounds up. -/
def roundUp (rm : RM) (neg : Bool) (q rem half : Nat) (sticky : Bool) : Bool :=
  match rm with
  | .rne => half < rem || (rem == half && (sticky || q % 2 == 1))
  | .rtz => false
  | .rdn => neg && (rem != 0 || sticky)
  | .rup => !neg && (rem != 0 || sticky)

/-- Twice the magnitude m·2^(-sh) as quotient and remainder: the quotient, the remainder and half a unit, in units
of 2^(-sh - 1). -/
def splitAt (m : Nat) (sh : Int) : Nat × Nat × Nat :=
  if sh ≤ 0 then (m * 2 ^ (-sh).toNat, 0, 1)
  else (m / 2 ^ sh.toNat, 2 * (m % 2 ^ sh.toNat), 2 ^ sh.toNat)

/-- `rnd` and `rndsat` (R66, R72, R73): ±m·2^e, and a positive amount below 2^e more when `sticky`, rounded to the
format. A zero keeps the sign given. -/
def FFmt.round (f : FFmt) (rm : RM) (sat neg : Bool) (m : Nat) (e : Int) (sticky : Bool := false) : Nat × Ev :=
  if m == 0 && !sticky then (f.signed neg 0, .none)
  else
    let emin : Int := 1 - f.bias
    let ex : Int := e + (m.log2 : Int)
    let q0 : Int := (if ex < emin then emin else ex) - f.fb
    let (q, rem, half) := splitAt m (q0 - e)
    let up := roundUp rm neg q rem half sticky
    let q' := if up then q + 1 else q
    let be : Nat := (q0 + f.fb + f.bias - 1).toNat
    let code := be * 2 ^ f.fb + q'
    let inexact := rem != 0 || sticky
    if f.maxCode < code then
      let toInf := match rm with
        | .rne => true
        | .rtz => false
        | .rdn => neg
        | .rup => !neg
      let ev : Ev := ⟨false, false, true, false, false⟩
      if sat || !toInf then (f.signed neg f.maxCode, ev)
      else ((f.encInf false neg).1, ev)
    else (f.signed neg code, ⟨false, false, false, ex < emin && inexact, false⟩)

/-- An exact result before rounding. -/
inductive FRes where
  | nan (inv : Bool)
  | inf (neg : Bool) (div : Bool)
  | num (neg : Bool) (m : Nat) (e : Int) (sticky : Bool)
  deriving DecidableEq, Repr

/-- A result encoded in a format. -/
def FFmt.enc (f : FFmt) (rm : RM) (sat : Bool) : FRes → Nat × Ev
  | .nan inv => (f.qnan, ⟨inv, false, false, false, false⟩)
  | .inf neg dv => let r := f.encInf sat neg; (r.1, { r.2 with div := dv })
  | .num neg m e st => f.round rm sat neg m e st

/-- Whether a value is a signalling NaN. -/
def FVal.sig : FVal → Bool
  | .nan s => s
  | .inf _ => false
  | .fin .. => false

/-- Whether a value is a NaN. -/
def FVal.isNan : FVal → Bool
  | .nan _ => true
  | .inf _ => false
  | .fin .. => false

/-- Whether a value is finite. -/
def FVal.isFin : FVal → Bool
  | .nan _ => false
  | .inf _ => false
  | .fin .. => true

/-- The signed magnitude of a finite value at the exponent e, which is no greater than its own. -/
def alignTo (neg : Bool) (m : Nat) (e0 e : Int) : Int :=
  let x : Int := (m * 2 ^ (e0 - e).toNat : Nat)
  if neg then -x else x

/-- The exact sum of two finite values; a zero sum takes the sign of IEEE 754 (R72). -/
def addFin (rm : RM) (n1 : Bool) (m1 : Nat) (e1 : Int) (n2 : Bool) (m2 : Nat) (e2 : Int) : FRes :=
  let e := min e1 e2
  let s := alignTo n1 m1 e1 e + alignTo n2 m2 e2 e
  if s == 0 then
    .num (if m1 == 0 && m2 == 0 && n1 == n2 then n1 else rm == .rdn) 0 e false
  else .num (s < 0) s.natAbs e false

/-- Negation. -/
def FVal.negate : FVal → FVal
  | .nan s => .nan s
  | .inf n => .inf (!n)
  | .fin n m e => .fin (!n) m e

/-- a + b. -/
def fAdd (rm : RM) (a b : FVal) : FRes :=
  if a.isNan || b.isNan then .nan (a.sig || b.sig)
  else match a, b with
    | .inf x, .inf y => if x == y then .inf x false else .nan true
    | .inf x, _ => .inf x false
    | _, .inf y => .inf y false
    | .fin n1 m1 e1, .fin n2 m2 e2 => addFin rm n1 m1 e1 n2 m2 e2
    | .nan _, _ => .nan false
    | _, .nan _ => .nan false

/-- The sign of a value. -/
def FVal.isNeg : FVal → Bool
  | .nan _ => false
  | .inf n => n
  | .fin n _ _ => n

/-- Whether a value is a zero. -/
def FVal.isZero : FVal → Bool
  | .nan _ => false
  | .inf _ => false
  | .fin _ m _ => m == 0

/-- a·b. -/
def fMul (a b : FVal) : FRes :=
  if a.isNan || b.isNan then .nan (a.sig || b.sig)
  else match a, b with
    | .fin n1 m1 e1, .fin n2 m2 e2 => .num (n1 != n2) (m1 * m2) (e1 + e2) false
    | x, y => if x.isZero || y.isZero then .nan true else .inf (x.isNeg != y.isNeg) false

/-- Whether a·b is 0·∞ (R73). -/
def zeroTimesInf (a b : FVal) : Bool :=
  (a.isZero && !b.isNan && !b.isFin) || (b.isZero && !a.isNan && !a.isFin)

/-- a·b + c, exact (R72); 0·∞ counts as INVALID whatever c is (R73; log 58, DEDUCED). -/
def fMulAdd (rm : RM) (a b c : FVal) : FRes :=
  if a.isNan || b.isNan || c.isNan then
    .nan (a.sig || b.sig || c.sig || zeroTimesInf a b)
  else match fMul a b with
    | .nan i => .nan i
    | .inf n _ => match c with
      | .inf k => if n == k then .inf n false else .nan true
      | _ => .inf n false
    | .num n m e _ => match c with
      | .inf k => .inf k false
      | .fin nc mc ec => addFin rm n m e nc mc ec
      | .nan s => .nan s

/-- a/b (R167): 70 bits of quotient, the rest sticky. -/
def fDivide (a b : FVal) : FRes :=
  if a.isNan || b.isNan then .nan (a.sig || b.sig)
  else match a, b with
    | .inf _, .inf _ => .nan true
    | .inf x, y => .inf (x != y.isNeg) false
    | .fin n _ _, .inf y => .num (n != y) 0 0 false
    | .fin n1 m1 e1, .fin n2 m2 e2 =>
      if m2 == 0 then (if m1 == 0 then .nan true else .inf (n1 != n2) true)
      else
        let k := 70 + m2.log2
        let x := m1 * 2 ^ k
        .num (n1 != n2) (x / m2) (e1 - e2 - k) (x % m2 != 0)
    | .nan _, _ => .nan false
    | _, .nan _ => .nan false

/-- The greatest r below 2^(k+…) with r² ≤ n, by bits from k − 1 down. -/
def isqrtFrom (n : Nat) : Nat → Nat → Nat
  | 0, r => r
  | k + 1, r => if (r + 2 ^ k) * (r + 2 ^ k) ≤ n then isqrtFrom n k (r + 2 ^ k) else isqrtFrom n k r

/-- The integer square root. -/
def isqrt (n : Nat) : Nat := isqrtFrom n (n.log2 / 2 + 1) 0

/-- √a (R167): at least 60 bits of root, the rest sticky. -/
def fSqrtOf (a : FVal) : FRes :=
  match a with
  | .nan s => .nan s
  | .inf n => if n then .nan true else .inf false false
  | .fin n m e =>
    if m == 0 then .num n 0 0 false
    else if n then .nan true
    else
      let sh := 120 + (e % 2).toNat
      let x := m * 2 ^ sh
      let r := isqrt x
      .num false r ((e - sh) / 2) (r * r != x)

/-- −1, 0 or 1 as a compares with b; none when unordered. −0 equals +0 (R127). -/
def fCompare (a b : FVal) : Option Int :=
  match a, b with
  | .nan _, _ => none
  | _, .nan _ => none
  | .inf x, .inf y => some (if x == y then 0 else if x then -1 else 1)
  | .inf x, .fin .. => some (if x then -1 else 1)
  | .fin .., .inf y => some (if y then 1 else -1)
  | .fin n1 m1 e1, .fin n2 m2 e2 =>
    let e := min e1 e2
    let d := alignTo n1 m1 e1 e - alignTo n2 m2 e2 e
    some (if d < 0 then -1 else if d == 0 then 0 else 1)

/-- Whether a is below b, with −0 below +0 (R125). -/
def fLess (a b : FVal) : Bool :=
  match fCompare a b with
  | none => false
  | some d => d < 0 || (d == 0 && a.isZero && b.isZero && a.isNeg && !b.isNeg)

/-- A value rounded to an integer in a mode (R66): ±m·2^e. -/
def roundInt (rm : RM) (neg : Bool) (m : Nat) (e : Int) : Int :=
  let (q, rem, half) := splitAt m (-e)
  let r := if roundUp rm neg q rem half false then q + 1 else q
  if neg then -(r : Int) else (r : Int)

/-- An exact integer as a result. -/
def ofInt (x : Int) : FRes := .num (x < 0) x.natAbs 0 false

/-- The value of an encoding as a result, a signalling NaN raising INVALID (R73). -/
def FVal.res : FVal → FRes
  | .nan s => .nan s
  | .inf n => .inf n false
  | .fin n m e => .num n m e false

/-! Correctly rounded exponentials and logarithms: enclosures in fixed point at `p` fraction bits, refined until both
ends round alike. -/

/-- The sum of z^(2k+1)/(2k+1) for k from the present term on, z and the power in fixed point of p bits. -/
def atanhSum (p z2 : Nat) : Nat → Nat → Nat → Nat
  | 0, _, _ => 0
  | fuel + 1, t, k => t / (2 * k + 1) + atanhSum p z2 fuel (t * z2 / 2 ^ p) (k + 1)

/-- 2·atanh(a/b) for 0 ≤ a/b ≤ 1/3, in fixed point of p bits, within p units from below. -/
def twoAtanh (p a b : Nat) : Nat :=
  let z := a * 2 ^ p / b
  2 * atanhSum p (z * z / 2 ^ p) (p / 3 + 2) z 0

/-- ln 2 in fixed point of p bits. -/
def ln2Fix (p : Nat) : Nat := twoAtanh p 1 3

/-- The sum of r^k/k! from the present term on, in fixed point of p bits. -/
def expSum (p r : Nat) : Nat → Nat → Nat → Nat
  | 0, _, _ => 0
  | fuel + 1, t, k => t + expSum p r fuel (t * r / (2 ^ p * k)) (k + 1)

/-- e^r for 0 ≤ r < 1 in fixed point of p bits. -/
def expFix (p r : Nat) : Nat := expSum p r (p / 2 + 10) (2 ^ p) 1

/-- x·2^e as a fixed-point integer of p bits, rounded down. -/
def toFix (p : Nat) (neg : Bool) (m : Nat) (e : Int) : Int :=
  let s : Int := e + p
  let x : Int := if 0 ≤ s then (m * 2 ^ s.toNat : Nat) else (m / 2 ^ (-s).toNat : Nat)
  if neg then (if s < 0 && m % 2 ^ (-s).toNat != 0 then -x - 1 else -x) else x

/-- The rounding of a magnitude that lies between lo and hi, in units of 2^e, when both ends round alike. -/
def FFmt.encloses (f : FFmt) (rm : RM) (sat neg : Bool) (lo hi : Nat) (e : Int) : Option (Nat × Ev) :=
  let a := f.round rm sat neg lo e true
  let b := f.round rm sat neg hi e true
  if a == b then some a else none

/-- Fraction bits tried, in order. -/
def precisions : List Nat := [224, 448, 896]

/-- The first precision whose enclosure decides; the last one's lower end otherwise. -/
def FFmt.decide (f : FFmt) (rm : RM) (sat : Bool) (encl : Nat → Bool × Nat × Nat × Int) : List Nat → Nat × Ev
  | [] => (f.qnan, .none)
  | p :: t =>
    let (neg, lo, hi, e) := encl p
    match f.encloses rm sat neg lo hi e with
    | some r => r
    | none => match t with
      | [] => f.round rm sat neg lo e true
      | _ => f.decide rm sat encl t

/-- Enclosure of e^x or 2^x at p bits: x is ±m·2^e, |x| < 2^12. -/
def expEncl (two neg : Bool) (m : Nat) (e : Int) (p : Nat) : Bool × Nat × Nat × Int :=
  let l := ln2Fix p
  let x := toFix p neg m e
  let y : Int := if two then x * l / 2 ^ p else x
  let n := y / l
  let r := (y % l).toNat
  let v := expFix p r
  -- the slack covers every rounding down above
  (false, v - 2 ^ 24, v + 2 ^ 24, n - p)

/-- e^a or 2^a (R167). -/
def fExpOf (two : Bool) (f : FFmt) (rm : RM) (sat : Bool) (a : FVal) : Nat × Ev :=
  match a with
  | .nan s => f.enc rm sat (.nan s)
  | .inf n => if n then f.enc rm sat (.num false 0 0 false) else f.enc rm sat (.inf false false)
  | .fin n m e =>
    if m == 0 then f.round rm sat false 1 0
    else if 12 ≤ e + (m.log2 : Int) then
      (if n then f.round rm sat false 1 (-5000) true else f.round rm sat false 1 5000 true)
    else if two && (0 ≤ e || m % 2 ^ (-e).toNat == 0) then
      let x := roundInt .rtz n m e
      f.round rm sat false 1 x
    else f.decide rm sat (expEncl two n m e) precisions

/-- Enclosure of ln x or log2 x at p bits: x = m·2^e > 0, not a power of two. -/
def logEncl (two : Bool) (m : Nat) (e : Int) (p : Nat) : Bool × Nat × Nat × Int :=
  let k := m.log2
  let l := ln2Fix p
  -- x = (m / 2^k)·2^(e+k), 1 ≤ m / 2^k < 2
  let lm := twoAtanh p (m - 2 ^ k) (m + 2 ^ k)
  let y : Int := (e + k) * l + lm
  let z : Int := if two then y * 2 ^ p / l else y
  let slack : Nat := 2 ^ 30
  (z < 0, z.natAbs - slack, z.natAbs + slack, -(p : Int))

/-- ln a or log2 a (R167). -/
def fLogOf (two : Bool) (f : FFmt) (rm : RM) (sat : Bool) (a : FVal) : Nat × Ev :=
  match a with
  | .nan s => f.enc rm sat (.nan s)
  | .inf n => if n then f.enc rm sat (.nan true) else f.enc rm sat (.inf false false)
  | .fin n m e =>
    if m == 0 then f.enc rm sat (.inf true true)
    else if n then f.enc rm sat (.nan true)
    else if m == 2 ^ m.log2 && (two || e + (m.log2 : Int) == 0) then f.enc rm sat (ofInt (e + m.log2))
    else f.decide rm sat (logEncl two m e) precisions

/-! F.RCP and F.RSQ, step by step (R168). Intermediate FP32 values are kept as encodings. -/

/-- `rne(x, f32)` of an exact result. -/
def rne32 (r : FRes) : Nat := (f32.enc .rne false r).1

/-- Nearest integer to n/d, ties to even. -/
def nearest (n d : Nat) : Nat :=
  let q := n / d
  let r := 2 * (n % d)
  if d < r || (r == d && q % 2 == 1) then q + 1 else q

/-- One iteration of F.RCP on y, with m as an exact value. -/
def rcpStep (m : FVal) (y : Nat) : Nat :=
  let e := rne32 (fMulAdd .rne (m.negate) (f32.val y) (.fin false 1 0))
  rne32 (fMulAdd .rne (f32.val y) (f32.val e) (f32.val y))

/-- F.RCP (R167, R168). -/
def fRcpOf (f : FFmt) (rm : RM) (sat : Bool) (a : FVal) : Nat × Ev :=
  match a with
  | .nan s => f.enc rm sat (.nan s)
  | .inf n => f.enc rm sat (.num n 0 0 false)
  | .fin n m e =>
    if m == 0 then f.enc rm sat (.inf n true)
    else
      let k := m.log2
      let mv : FVal := .fin false m (-(k : Int))
      let i := (m - 2 ^ k) * 256 / 2 ^ k
      let y0 := (f32.round .rne false false (nearest (512 * 4096) (513 + 2 * i)) (-12)).1
      match f32.val (rcpStep mv (rcpStep mv y0)) with
      | .fin _ my ey => f.round rm sat n my (ey - (e + k))
      | .inf _ => f.enc rm sat (.nan false)
      | .nan _ => f.enc rm sat (.nan false)

/-- One iteration of F.RSQ on y, with m as an exact value. -/
def rsqStep (m : FVal) (y : Nat) : Nat :=
  let t := rne32 (fMul (f32.val y) (f32.val y))
  let e := rne32 (fMulAdd .rne (m.negate) (f32.val t) (.fin false 1 0))
  let v := rne32 (fMul (f32.val e) (.fin false 1 (-1)))
  rne32 (fMulAdd .rne (f32.val y) (f32.val v) (f32.val y))

/-- 4,096 / √(1 + (i + ½)/64), to the nearest integer. -/
def rsqSeed (i : Nat) : Nat :=
  let n := 4096 * 4096 * 128
  let d := 129 + 2 * i
  let r := isqrt (n / d)
  if (2 * r + 1) * (2 * r + 1) * d < 4 * n then r + 1 else r

/-- F.RSQ (R167, R168). -/
def fRsqOf (f : FFmt) (rm : RM) (sat : Bool) (a : FVal) : Nat × Ev :=
  match a with
  | .nan s => f.enc rm sat (.nan s)
  | .inf n => if n then f.enc rm sat (.nan true) else f.enc rm sat (.num false 0 0 false)
  | .fin n m e =>
    if m == 0 then f.enc rm sat (.inf n true)
    else if n then f.enc rm sat (.nan true)
    else
      let k := m.log2
      let ex : Int := e + k
      let odd := (ex % 2).toNat
      -- a = m·2^(odd − k) · 2^(2q), 1 ≤ m·2^(odd − k) < 4
      let q : Int := (ex - odd) / 2
      let mv : FVal := .fin false m ((odd : Int) - k)
      let i := (m * 2 ^ odd - 2 ^ k) * 64 / 2 ^ k
      let y0 := (f32.round .rne false false (rsqSeed i) (-12)).1
      match f32.val (rsqStep mv (rsqStep mv y0)) with
      | .fin _ my ey => f.round rm sat false my (ey - q)
      | .inf _ => f.enc rm sat (.nan false)
      | .nan _ => f.enc rm sat (.nan false)

end Sys2Proof.Machine
end

