-- ==== Sys2Proof/Machine/Formats.lean ====
section
/-! DEFINITION. Element types and the block formats of spec/05: integers (R68 to R70), conversions (R74), MX (R76 to
R78), QN4 (R79), the E8 lattice code (R81 to R85) and fixed-rate compressed blocks (R86 to R88). -/

namespace Sys2Proof

/-- Width in bytes (R68, R71). -/
def EType.width : EType → Nat
  | .i8 | .n8 | .e4m3 | .e5m2 => 1
  | .i16 | .n16 | .f16 | .bf16 => 2
  | .i32 | .n32 | .f32 => 4
  | .i64 => 8

/-- A signed integer type. -/
def EType.signed : EType → Bool
  | .i8 | .i16 | .i32 | .i64 => true
  | .n8 | .n16 | .n32 | .f32 | .f16 | .bf16 | .e4m3 | .e5m2 => false

/-- The floating-point format of a type, FP32 for the integers, which do not use it. -/
def EType.ffmt : EType → Machine.FFmt
  | .f32 => Machine.f32
  | .f16 => Machine.f16
  | .bf16 => Machine.bf16
  | .e4m3 => Machine.e4m3
  | .e5m2 => Machine.e5m2
  | .i8 | .n8 | .i16 | .n16 | .i32 | .n32 | .i64 => Machine.f32

/-- Least value of an integer type (R68). -/
def EType.lo (t : EType) : Int := if t.signed then -(2 ^ (8 * t.width - 1) : Nat) else 0
/-- Greatest value of an integer type (R68). -/
def EType.hi (t : EType) : Int :=
  if t.signed then (2 ^ (8 * t.width - 1) : Nat) - 1 else (2 ^ (8 * t.width) : Nat) - 1

/-- The exact value of an integer encoding. -/
def EType.int (t : EType) (x : Nat) : Int :=
  if t.signed then Machine.sextN x (8 * t.width) else (x % 2 ^ (8 * t.width) : Nat)

/-- The exact value of an encoding (R66 `val`). -/
def EType.val (t : EType) (x : Nat) : Machine.FVal :=
  if t.isInt then .fin (t.int x < 0) (t.int x).natAbs 0 else t.ffmt.val x

/-- An exact integer narrowed: it wraps, or is clamped with CVTSAT under SAT (R69). -/
def EType.narrow (t : EType) (sat : Bool) (x : Int) : Nat × Machine.Ev :=
  if sat then
    let y := Machine.clampI x t.lo t.hi
    (Machine.truncI y (8 * t.width), if y == x then .none else .cvtsat)
  else (Machine.truncI x (8 * t.width), .none)

namespace Machine

/-- An exact integer clamped to a type's range, with CVTSAT when it was outside (R74). -/
def clampTo (t : EType) (x : Int) : Nat × Ev := t.narrow true x

/-- A floating-point value converted to a type (R74). -/
def convertVal (dst : EType) (rm : RM) (sat : Bool) (v : FVal) : Nat × Ev :=
  match v with
  | .nan s => if dst.isInt then (0, .invalid) else dst.ffmt.enc rm sat (.nan s)
  | .inf n =>
    if dst.isInt then (truncI (if n then dst.lo else dst.hi) (8 * dst.width), .cvtsat)
    else dst.ffmt.enc rm sat (.inf n false)
  | .fin n m e => if dst.isInt then clampTo dst (roundInt rm n m e) else dst.ffmt.round rm sat n m e

/-- An exact integer converted to a type (R74). -/
def convertInt (dst : EType) (rm : RM) (sat : Bool) (x : Int) : Nat × Ev :=
  if dst.isInt then dst.narrow sat x else dst.ffmt.enc rm sat (Machine.ofInt x)

/-- An encoding converted to a type (R74). -/
def convert (src dst : EType) (rm : RM) (sat : Bool) (x : Nat) : Nat × Ev :=
  if src.isInt then convertInt dst rm sat (src.int x) else convertVal dst rm sat (src.ffmt.val x)

/-! MX blocks. -/

/-- floor(log2 |x|) of a finite non-zero value. -/
def ilog2 (m : Nat) (e : Int) : Int := e + (m.log2 : Int)

/-- Whether any value is NaN or infinite. -/
def anyNonFinite (l : List FVal) : Bool := l.any fun x => !x.isFin

/-- The greatest exponent floor(log2 |x|) of the non-zero finite values, if there is one. -/
def maxExp : List FVal → Option Int
  | [] => none
  | .fin _ m e :: t =>
    if m == 0 then maxExp t
    else match maxExp t with
      | none => some (ilog2 m e)
      | some k => some (max k (ilog2 m e))
  | .nan _ :: t => maxExp t
  | .inf _ :: t => maxExp t

/-- Steps 1 to 3 of R78: the E8M0 code of a block, and whether the block is INVALID. -/
def mxScale (l : List FVal) : Nat × Bool :=
  if anyNonFinite l then (0xFF, true)
  else match maxExp l with
    | none => (0, false)
    | some e => ((clampI (e + 127) 0 254).toNat, false)

/-- One element against a scale code, with `f` fraction bits and limit `lim` (R78 step 3, R133): the code as an
exact integer. -/
def mxElem (f lim : Nat) (code : Nat) (x : FVal) : Int × Ev :=
  match x with
  | .fin n m e =>
    if code == 0xFF then (0, .invalid)
    else
      let y := roundInt .rne n m (e + f - ((code : Int) - 127))
      let z := clampI y (-(lim : Int)) lim
      (z, if z == y then .none else .cvtsat)
  | .nan _ => (0, .invalid)
  | .inf _ => (0, .invalid)

/-! QN4. -/

/-- Numerators by index (R79). -/
def qn4Table : List Int := [-127, -94, -72, -55, -41, -28, -15, 0, 12, 25, 38, 52, 67, 84, 103, 127]

/-- The expanded scale σ of a block from its super-scale and its n8 code (R79), as an FP32 encoding. -/
def qn4Scale (super code : Nat) : Nat :=
  let sc := rne32 (fMul (f32.val super) (.fin false code 0))
  rne32 (fDivide (f32.val sc) (.fin false 32385 0))

/-! The E8 lattice code. -/

/-- Twice the coordinates of a code (R81): 2·x_i. -/
def l8Twice (code i : Nat) : Int :=
  let coset : Int := if bitAt code 15 then 1 else 0
  let c (j : Nat) : Nat := code / 2 ^ (2 * j) % 4
  let low : Nat := (c 0 + c 1 + c 2 + c 3 + c 4 + c 5 + c 6) % 2
  let ci : Nat := if i == 7 then 2 * (if bitAt code 14 then 1 else 0) + low else c i
  2 * ((ci : Int) - 2) + coset

/-- The code of coset k and coordinates d (R81). -/
def l8Code (k : Nat) (d : List Int) : Nat :=
  let c (j : Nat) : Nat := (nth d j 0 + 2).toNat
  packN 2 ((List.range 7).map c) + 2 ^ 14 * (c 7 / 2 % 2) + 2 ^ 15 * k

/-- rne of z / 2^k to an integer. -/
def rneShift (z : Int) (k : Nat) : Int := roundInt .rne (z < 0) z.natAbs (-(k : Int))

/-- The index of the greatest key, the lowest on ties. -/
def argMax (l : List (Nat × Int)) : Option Nat :=
  match l with
  | [] => none
  | (i, x) :: t => some (t.foldl (fun (a : Nat × Int) b => if a.2 < b.2 then b else a) (i, x)).1

/-- `fix` of R82: z and d in units of 2^(-k). -/
def l8Fix (k : Nat) (z d : List Int) (clamping : Bool) : List Int :=
  let zi (i : Nat) := nth z i 0
  let di (i : Nat) := nth d i 0
  let u : Int := (2 ^ k : Nat)
  let step (i : Nat) : Int := if u * di i ≤ zi i then di i + 1 else di i - 1
  let cand := (List.range 8).filter fun i => !clamping || (-2 ≤ step i && step i ≤ 1)
  match argMax (cand.map fun i => (i, ((zi i - u * di i).natAbs : Int))) with
  | some i => d.set i (step i)
  | none =>
    let n (i : Nat) : Int := if di i == 1 then 0 else -1
    let cost (i : Nat) : Int := (zi i - u * n i) * (zi i - u * n i) - (zi i - u * di i) * (zi i - u * di i)
    match argMax ((List.range 8).map fun i => (i, -cost i)) with
    | some i => d.set i (n i)
    | none => d

/-- One coset of `best` (R82): the coordinates and the squared distance, y in units of 2^(-k), k ≥ 1. -/
def l8Coset (k c : Nat) (y : List Int) (clamping : Bool) : List Int × Int :=
  let u : Int := (2 ^ k : Nat)
  let z := y.map fun v => v - (c : Int) * (2 ^ (k - 1) : Nat)
  let d0 := z.map fun v => let r := rneShift v k; if clamping then clampI r (-2) 1 else r
  let d := if d0.foldl (· + ·) 0 % 2 != 0 then l8Fix k z d0 clamping else d0
  (d, ((z.zip d).map fun p => (p.1 - u * p.2) * (p.1 - u * p.2)).foldl (· + ·) 0)

/-- `best` (R82). -/
def l8Best (k : Nat) (y : List Int) (clamping : Bool) : Nat × List Int :=
  let a := l8Coset k 0 y clamping
  let b := l8Coset k 1 y clamping
  if b.2 < a.2 then (1, b.1) else (0, a.1)

/-- The common exponent of eight finite values, at most −1. -/
def l8Exp : List FVal → Int
  | [] => -1
  | .fin _ m e :: t => if m == 0 then l8Exp t else min e (l8Exp t)
  | .nan _ :: t => l8Exp t
  | .inf _ :: t => l8Exp t

/-- The code of eight exact inputs (R82, R83): code, INVALID, shell overflow. -/
def l8Quant (y : List FVal) : Nat × Bool × Bool :=
  if anyNonFinite y then (0, true, false)
  else
    let e := l8Exp y
    let k := (-e).toNat
    let z := y.map fun v => match v with
      | .fin n m ev => if m == 0 then 0 else alignTo n m ev e
      | .nan _ => 0
      | .inf _ => 0
    let a := l8Best k z true
    let b := l8Best k z false
    (l8Code a.1 a.2, false, a != b)

/-! Compressed blocks. -/

/-- The least N of 0 to 8 whose two's-complement range holds every value (R86). -/
def groupWidth (l : List Int) : Nat :=
  let fits (n : Nat) : Bool :=
    if n == 0 then l.all (· == 0)
    else l.all fun v => -(2 ^ (n - 1) : Nat) ≤ v && v ≤ (2 ^ (n - 1) : Nat) - 1
  ((List.range 8).find? fits).getD 8

/-- Group g of a block's 256 bytes as signed values. -/
def groupOf (bytes : List Byte) (g : Nat) : List Int :=
  ((bytes.drop (16 * g)).take 16).map BitVec.toInt

/-- The stored T bytes of a raw block, and whether it escaped (R86). -/
def compressBlock (t : Nat) (bytes : List Byte) : List Byte × Bool :=
  let ws := (List.range 16).map fun g => groupWidth (groupOf bytes g)
  if 8 + 2 * ws.foldl (· + ·) 0 ≤ t then
    let body := (List.range 16).flatMap fun g =>
      let w := nth ws g 0
      bytesOf (2 * w) (packN w ((groupOf bytes g).map fun v => truncI v w))
    let all := bytesOf 8 (packN 4 ws) ++ body
    (all ++ List.replicate (t - all.length) 0, false)
  else (0x0F :: List.replicate (t - 1) 0, true)

/-- Whether a header has a nibble that R86 forbids. -/
def headerBad (hdr : Nat) : Bool :=
  (List.range 16).any fun g =>
    let n := hdr / 16 ^ g % 16
    (9 ≤ n && n ≤ 14) || (n == 15 && g != 0)

/-- Whether a header marks an escaped block. -/
def headerEscapes (hdr : Nat) : Bool := hdr % 16 == 15

/-- Values of the groups from g on, from the bytes that follow the header (R86, R87). -/
def expandGroups (hdr : Nat) : Nat → Nat → List Byte → List Byte
  | 0, _, _ => []
  | fuel + 1, g, rest =>
    let w := hdr / 16 ^ g % 16
    let have' := rest.take (2 * w)
    let miss := (List.range (2 * w - have'.length)).map Config.freePast
    let x := natOf (have' ++ miss)
    ((List.range 16).map fun i => BitVec.ofInt 8 (sextN (x / 2 ^ (w * i)) w))
      ++ expandGroups hdr fuel (g + 1) (rest.drop (2 * w))

/-- The 256 bytes of a stored block; `raw` is its escape area; none when it is corrupt (R86, R87; log 10, DESIGN
CHOICE). -/
def expandBlock (stored raw : List Byte) : Option (List Byte) :=
  let hdr := natOf (stored.take 8)
  if headerBad hdr then none
  else if headerEscapes hdr then some raw
  else some (expandGroups hdr 16 0 (stored.drop 8))

/-! Planar integers. -/

/-- Address of plane k's byte that holds element e of a planar row, and the bit (R70). -/
def planarAt (rowBase planes e k : Nat) : Nat × Nat :=
  (rowBase + 64 * planes * (e / 512) + 64 * k + e % 512 / 8, e % 8)

/-- Least and greatest value of an N-plane integer (R68). -/
def planarLo (signed : Bool) (n : Nat) : Int := if signed then -(2 ^ (n - 1) : Nat) else 0
/-- Greatest value of an N-plane integer (R68). -/
def planarHi (signed : Bool) (n : Nat) : Int :=
  if signed then (2 ^ (n - 1) : Nat) - 1 else (2 ^ n : Nat) - 1

end Machine

end Sys2Proof
end

