-- ==== Sys2Proof/Machine/Mem.lean ====
section
/-! DEFINITION. Byte memory in its canonical form, private arrays, and the physical map (spec/10 R182, R183). -/

namespace Sys2Proof.Machine

/-- The byte at an address; an address that is not listed reads 0 (log 3, DESIGN CHOICE). -/
def memGet : List Host.Cell → Nat → Byte
  | [], _ => 0
  | (k, b) :: t, a => if a == k then b else if a < k then 0 else memGet t a

/-- The memory with one byte written: addresses stay strictly rising, and a byte that an unlisted address reads as is
not listed. -/
def memSet : List Host.Cell → Nat → Byte → List Host.Cell
  | [], a, b => if b == 0 then [] else [(a, b)]
  | (k, c) :: t, a, b =>
    if a < k then (if b == 0 then (k, c) :: t else (a, b) :: (k, c) :: t)
    else if a == k then (if b == 0 then t else (a, b) :: t)
    else (k, c) :: memSet t a b

/-- The canonical form: every address above `lo`, strictly rising, no listed byte 0. -/
def memOkFrom : Option Nat → List Host.Cell → Bool
  | _, [] => true
  | lo, (k, b) :: t => (match lo with
      | none => true
      | some l => l < k) && b != 0 && memOkFrom (some k) t

/-- The canonical form of a memory. -/
def memOk (m : List Host.Cell) : Bool := memOkFrom none m

/-- The canonical form of a memory, by its interface name. -/
abbrev Memory.wf (m : List Host.Cell) : Bool := memOk m

/-- n bytes from an address up (log 3, DESIGN CHOICE). -/
def memGetN (m : List Host.Cell) (a : Nat) : Nat → List Byte
  | 0 => []
  | n + 1 => memGet m a :: memGetN m (a + 1) n

/-- A memory in which chosen bytes are those of another. -/
def overlay (pick : Nat → Bool) (new old : List Host.Cell) : List Host.Cell :=
  (new.filter fun x => pick x.1).foldl (fun m x => memSet m x.1 x.2) (old.filter fun x => !pick x.1)

/-- Bytes written from an address up. -/
def memSetN (m : List Host.Cell) (a : Nat) : List Byte → List Host.Cell
  | [] => m
  | b :: t => memSetN (memSet m a b) (a + 1) t

/-- A cell put in a private array whose unlisted bytes are free: addresses stay strictly rising. -/
def cellPut : List Host.Cell → Nat → Byte → List Host.Cell
  | [], a, b => [(a, b)]
  | (k, c) :: t, a, b =>
    if a < k then (a, b) :: (k, c) :: t
    else if a == k then (a, b) :: t
    else (k, c) :: cellPut t a b

/-- The listed byte, if any. -/
def cellGet : List Host.Cell → Nat → Option Byte
  | [], _ => none
  | (k, b) :: t, a => if a == k then some b else if a < k then none else cellGet t a

/-- A byte of a private array (log 2, log 4). -/
def Store.get (st : Store) (a : Nat) : Byte :=
  match cellGet st.cells a with
  | some b => b
  | none => match st.seed with
    | none => 0
    | some k => Config.freeByte k a

/-- A byte of a private array written. -/
def Store.set (st : Store) (a : Nat) (b : Byte) : Store :=
  match st.seed with
  | none => { st with cells := memSet st.cells a b }
  | some _ => { st with cells := cellPut st.cells a b }

/-- n bytes of a private array. -/
def Store.getN (st : Store) (a : Nat) : Nat → List Byte
  | 0 => []
  | n + 1 => st.get a :: st.getN (a + 1) n

/-- Bytes of a private array written. -/
def Store.setN (st : Store) (a : Nat) : List Byte → Store
  | [] => st
  | b :: t => (st.set a b).setN (a + 1) t

/-- The cells of bytes from an address up, those that are 0 left out. -/
def cellsOf (a : Nat) : List Byte → List Host.Cell
  | [] => []
  | b :: t => if b == 0 then cellsOf (a + 1) t else (a, b) :: cellsOf (a + 1) t

/-- A private array whose every byte is written: nothing is free any more. -/
def Store.ofBytes (l : List Byte) : Store := ⟨none, cellsOf 0 l⟩

/-- A byte of a private array that is not listed (log 2, log 4). -/
def Store.bare (st : Store) (a : Nat) : Byte := match st.seed with
  | none => 0
  | some k => Config.freeByte k a

/-- n bytes from an address up, the cells in rising order before it dropped as they are met. -/
def Store.scan (st : Store) : Nat → Nat → List Host.Cell → List Byte
  | 0, _, _ => []
  | n + 1, a, [] => st.bare a :: st.scan n (a + 1) []
  | n + 1, a, (k, b) :: t =>
    if k == a then b :: st.scan n (a + 1) t else st.bare a :: st.scan n (a + 1) ((k, b) :: t)

/-- The first n bytes of a private array. -/
def Store.firstN (st : Store) (n : Nat) : List Byte := st.scan n 0 st.cells

/-- The scratchpad's size (R182). -/
def spadSize : Nat := 0x80000

/-- What a die physical address reaches (R183). -/
inductive Level where
  | vault | dram | window | hole
  deriving DecidableEq, Repr

/-- The die physical map with C logical crews (R183). -/
def levelOf (c pa : Nat) : Level :=
  if pa < 0x1000000 * (8 * c) then .vault
  else if 0x800000000 ≤ pa && pa < 0x800000000 + 0x10000000 * (8 * c) then .dram
  else if 0x2000000000000 ≤ pa && pa < 0x3000000000000 then .window
  else .hole

/-- Whether an address lies in the local window (R183). -/
def inLocal (va : Nat) : Bool := va < spadSize

end Sys2Proof.Machine
end

