-- ==== Sys2Proof/Machine/Walk.lean ====
section
/-! DEFINITION. Translation of virtual addresses: the page tables and the walk (spec/19 R313 to R319). -/

namespace Sys2Proof.Machine

/-- What an access does at its page (R318). -/
inductive Access where
  | rd | wr | ex | atom
  deriving DecidableEq, Repr

/-- A translated address. -/
structure Xlat where
  pa : Nat
  stamp : Bool
  deriving DecidableEq, Repr

/-- log2 of the page size that a leaf's SIZE names (R314). -/
def pageBits (size : Nat) : Nat :=
  match size with
  | 0 => 14
  | 1 => 18
  | 2 => 22
  | 3 => 26
  | _ => 30

/-- The leaf sizes a level allows (R313). -/
def sizeAllowed (lvl size : Nat) : Bool :=
  match lvl with
  | 0 => size == 0 || size == 1
  | 1 => size == 2 || size == 3
  | 2 => size == 4
  | _ => false

/-- Whether a page lies wholly in the die's vault sections. -/
def pageInVault (c base size : Nat) : Bool := base + 2 ^ pageBits size ≤ 0x1000000 * (8 * c)

/-- A valid entry that breaks R314. -/
def pteBad (c lvl e : Nat) : Bool :=
  let leaf := bitAt e 1
  let size := bits e 7 5
  let base := bits e 49 11 * 2 ^ 11
  bitAt e 10 || bits e 55 50 != 0
    || (!leaf && (bits e 5 2 != 0 || bits e 9 8 != 0 || lvl == 0))
    || (leaf && (!sizeAllowed lvl size || base % 2 ^ pageBits size != 0
        || (bitAt e 8 && !pageInVault c base size)))

/-- The first bit of the index of a level (R313). -/
def lvlBit (lvl : Nat) : Nat := 14 + 8 * lvl

/-- How many bits a level indexes (R313). -/
def lvlWidth (lvl : Nat) : Nat := if lvl == 4 then 10 else 8

/-- The walk from a table of level `lvl`, in `fuel` levels (R315, R318 step 1): the leaf entry. -/
def walk (d : Die) (va : Nat) : Nat → Nat → Nat → Except Cause Nat
  | 0, _, _ => .error .badpte
  | fuel + 1, lvl, table =>
    let ea := table + 8 * (va / 2 ^ lvlBit lvl % 2 ^ lvlWidth lvl)
    let e := natOf (memGetN d.mem ea 8)
    if d.ueccLines.contains (ea / 64 * 64) then .error .ptue
    else if bitAt e 0 then
      if pteBad d.ncrew lvl e then .error .badpte
      else if bitAt e 1 then .ok e
      else walk d va fuel (lvl - 1) (bits e 49 11 * 2 ^ 11)
    else if bitAt e 10 || bits e 55 50 != 0 then .error .badpte
    else if bitAt e 9 then (if d.feat.toNat.testBit 7 then .error .demand else .error .absent)
    else .error .absent

/-- The permission a leaf must give (R318 step 2). -/
def leafDenies (e : Nat) (k : Access) : Option Cause :=
  match k with
  | .rd => if bitAt e 2 then none else some .noread
  | .wr => if bitAt e 3 then none else some .nowrite
  | .ex => if bitAt e 4 then none else some .noexec
  | .atom => if !bitAt e 2 then some .noread else if !bitAt e 3 then some .nowrite else none

/-- The aperture whose enabled window holds a physical address, for a partition; of windows that overlap, the lowest
numbered (R186, R187; log 111, DESIGN CHOICE). -/
def apertureAt (d : Die) (part pa : Nat) : Option (Fin 16) :=
  (List.finRange 16).find? fun i =>
    let ap := d.aps[i]
    ap.ctl.toNat.testBit 0 && wbits ap.ctl 31 16 == part
      && wbits ap.win 49 0 ≤ pa && pa < wbits ap.win 49 0 + 2 ^ wbits ap.ctl 11 6

/-- Whether a physical address is a hole for the die and the partition (R183, R187, R14, R323). -/
def isHole (d : Die) (part pa : Nat) : Bool :=
  d.boot == .fenced || d.service == .fenced || d.service == .offline ||
  match levelOf d.ncrew pa with
  | .vault | .dram => false
  | .window => (apertureAt d part pa).isNone
  | .hole => true

/-- The partition slot whose PTROOT translates for a partition number. -/
def slotOf (p : Package) (part : Nat) : Option (Fin 16) :=
  (p.parts.find? fun x => x.num == part).map Partition.slot

/-- The physical address that the page tables give, whatever it reaches (R318 steps 1 and 2). -/
def translateLeaf (p : Package) (d : Die) (part va : Nat) (k : Access) : Except Cause Xlat :=
  match slotOf p part with
  | none => .error .absent
  | some sl =>
    let root := d.ptroots[sl].toNat
    if !bitAt root 0 then .error .absent
    else match walk d va 5 4 (bits root 49 13 * 2 ^ 13) with
      | .error c => .error c
      | .ok e =>
        match leafDenies e k with
        | some c => .error c
        | none =>
          let sz := 2 ^ pageBits (bits e 7 5)
          .ok ⟨bits e 49 11 * 2 ^ 11 + va % sz, bitAt e 8⟩

/-- One address translated for an access (R318). -/
def translate (p : Package) (d : Die) (part va : Nat) (k : Access) : Except Cause Xlat :=
  match translateLeaf p d part va k with
  | .error c => .error c
  | .ok x => if isHole d part x.pa then .error .absent else .ok x

/-- The pieces of a range of virtual bytes, cut at the boundaries of the smallest page: address and length. -/
def pagePieces : Nat → Nat → Nat → List (Nat × Nat)
  | 0, _, _ => []
  | fuel + 1, va, len =>
    if len == 0 then []
    else
      let n := min len (0x4000 - va % 0x4000)
      (va, n) :: pagePieces fuel (va + n) (len - n)

/-- The pieces of a range of at most 16 KiB. -/
def pieces (va len : Nat) : List (Nat × Nat) := pagePieces 2 va len

end Sys2Proof.Machine
end

