-- ==== Sys2Proof/Machine/Ops.lean ====
section
/-! DEFINITION. The named operations every meaning shares: selection of a core, registers and ports (spec/04 R56 to
R59), landing (spec/03 R30), views and performed writes (spec/11), taking a trap, rollback and halting (spec/12 R227,
R224; spec/18 R303, R307), and the run queues (spec/15 R271). -/

namespace Sys2Proof.Machine

/-! Updates of one part of the state. -/

/-- Changes the selected core. -/
def State.upCore (s : State) (f : Core → Core) : State := { s with core := f s.core }
/-- Changes the selected die. -/
def State.upDie (s : State) (f : Die → Die) : State := { s with die := f s.die }
/-- Changes the package. -/
def State.upPkg (s : State) (f : Package → Package) : State := { s with pkg := f s.pkg }
/-- Changes the checkpointed state of the selected core. -/
def State.upArch (s : State) (f : Arch → Arch) : State := { s with core := { s.core with arch := f s.core.arch } }
/-- Changes the selected core's strand. -/
def State.upStrand (s : State) (f : Strand → Strand) : State :=
  { s with core := { s.core with strand := f s.core.strand } }
/-- Posts an event or a status. -/
def State.post (s : State) (p : Post) : State := s.upPkg fun k => { k with posts := k.posts ++ [p] }
/-- Sets how the present issue ended. -/
def State.ended (s : State) (x : Issued) : State :=
  s.upCore fun c => { c with issue := { c.issue with status := x } }
/-- The next identity (log 5, DESIGN CHOICE). -/
def State.fresh (s : State) : Nat := s.pkg.nextId
/-- Counts one identity as used. -/
def State.useId (s : State) : State := s.upPkg fun k => { k with nextId := k.nextId + 1 }

/-- Entry i of a vector, or a default outside it. -/
def vget {α : Type} {n : Nat} (v : Vector α n) (i : Nat) (d : α) : α := if h : i < n then v[i] else d
/-- A vector with entry i changed. -/
def vmod {α : Type} {n : Nat} (v : Vector α n) (i : Nat) (f : α → α) : Vector α n :=
  if h : i < n then v.set i (f v[i]) else v

/-- The members of two lists of identities, without repeats of the first in the second. -/
def joinIds (a b : List Nat) : List Nat := a ++ b.filter fun x => !a.contains x

/-! Selection: the state holds one core and one die apart (log 1). -/

/-- A core put back in its place. -/
def insertCore (c : Core) : List Core → List Core
  | [] => [c]
  | x :: t => if c.num < x.num then c :: x :: t else x :: insertCore c t

/-- A die put back in its place. -/
def insertDie (d : Die) : List Die → List Die
  | [] => [d]
  | x :: t => if d.num < x.num then d :: x :: t else x :: insertDie d t

/-- Core n of the selected die is selected; no such core: unchanged. -/
def selCore (n : Nat) (s : State) : State :=
  if s.core.num == n then s
  else match s.die.cores.find? (fun c => c.num == n) with
    | none => s
    | some c =>
      { s with core := c
               die := { s.die with cores := insertCore s.core (s.die.cores.filter fun x => x.num != n) } }

/-- Die d is selected, with its lowest core; no such die: unchanged. -/
def selDie (d : Nat) (s : State) : State :=
  if s.die.num == d then s
  else match s.pkg.dies.find? (fun x => x.num == d) with
    | none => s
    | some x =>
      match x.cores with
      | [] => s
      | c :: t =>
        let old := { s.die with cores := insertCore s.core s.die.cores }
        { s with core := c, die := { x with cores := t }
                 pkg := { s.pkg with dies := insertDie old (s.pkg.dies.filter fun y => y.num != d) } }

/-- Core n of die d is selected. -/
def selAt (d n : Nat) (s : State) : State := selCore n (selDie d s)

/-- Every core of the selected die, the selected one included, by number. -/
def State.cores (s : State) : List Core := insertCore s.core s.die.cores

/-- Every die, the selected one included, by number; the selected die without its selected core. -/
def State.dies (s : State) : List Die := insertDie s.die s.pkg.dies

/-- An operation on each of the listed cores of the selected die, with that core selected. -/
def onCores (f : State → State) : List Nat → State → State
  | [], s => s
  | n :: t, s => onCores f t (f (selCore n s))

/-- An operation on every core of the selected die; the selection is as before. -/
def eachCore (f : State → State) (s : State) : State :=
  selCore s.core.num (onCores f (s.cores.map Core.num) s)

/-- An operation with one core of the selected die selected; the selection is as before. -/
def withCore (n : Nat) (f : State → State) (s : State) : State := selCore s.core.num (f (selCore n s))

/-- An operation on each of the listed dies, with that die selected. -/
def onDies (f : State → State) : List Nat → State → State
  | [], s => s
  | d :: t, s => onDies f t (f (selDie d s))

/-- An operation with each of the listed dies selected; the selection is as before. -/
def eachDie (l : List Nat) (f : State → State) (s : State) : State :=
  selAt s.die.num s.core.num (onDies f l s)

/-! Partition, context and kernel. -/

/-- The partition of the selected die (R297). -/
def partOf (s : State) : Option Partition :=
  match s.die.part with
  | none => none
  | some n => s.pkg.parts.find? fun p => p.num == n

/-- Changes the partition of a number. -/
def State.upPartN (s : State) (n : Nat) (f : Partition → Partition) : State :=
  s.upPkg fun k => { k with parts := k.parts.map fun p => if p.num == n then f p else p }

/-- Changes the partition of the selected die. -/
def State.upPart (s : State) (f : Partition → Partition) : State :=
  match s.die.part with
  | none => s
  | some n => s.upPartN n f

/-- The dies of a partition. -/
def diesOf (n : Nat) (s : State) : List Nat := (s.dies.filter fun d => d.part == some n).map Die.num

/-- The pre-emption bit of the context (R306). -/
def preOf (s : State) : Bool := match partOf s with
  | none => false
  | some p => p.pre

/-- A RESIDENT kernel of the context, by its id (R235). -/
def kernelOf (s : State) (kid : BitVec 32) : Option Kernel :=
  match partOf s with
  | none => none
  | some p => p.kernels.find? fun k => k.kid == kid && k.st == .resident

/-- The kernel of the running strand. -/
def curKernel (s : State) : Option Kernel :=
  match s.core.record with
  | none => none
  | some r => kernelOf s r.kid

/-- The number the strand knows its partition by: PARTID.PART (R297). -/
def partNum (s : State) : Nat := wbits s.core.partid 15 0

/-- The side of the core in its pair: true is B (R138). -/
def sideB (c : Core) : Bool := c.num % 2 == 1

/-- The matrix engine of the core's pair. -/
def engineOf (s : State) : Engine := vget s.die.engines (s.core.num / 2) .reset

/-- Changes the matrix engine of the core's pair. -/
def State.upEngine (s : State) (f : Engine → Engine) : State :=
  s.upDie fun d => { d with engines := vmod d.engines (s.core.num / 2) f }

/-- The bank of tile k for a side under a mode; none when the core does not hold the tile (R140). -/
def bankFor (mode : Nat) (side : Bool) (k : Nat) : Option Nat :=
  match mode, side with
  | 2, false => if k < 8 then some k else none
  | 3, true => if k < 8 then some k else none
  | 0, _ | 1, _ => if k < 4 then some (if side then k + 4 else k) else none
  | _, _ => none

/-- The bank of tile k of the selected core (R140). -/
def bankOf (s : State) (k : Nat) : Option Nat := bankFor (engineOf s).mode.val (sideB s.core) k

/-! Crews. -/

/-- Whether the strand is crewed (R282). -/
def crewed (c : Core) : Bool := c.crewid != 0xFF
/-- A crew of the die. -/
def crewOf (s : State) (c : Nat) : Crew := vget s.die.crews c .start
/-- Changes a crew of the die. -/
def State.upCrew (s : State) (c : Nat) (f : Crew → Crew) : State :=
  s.upDie fun d => { d with crews := vmod d.crews c f }
/-- The strand's STRAND number (R282). -/
def strandNum (c : Core) : Nat := wbits c.strandid 2 0
/-- A message queue of the strand's own crew (R277). -/
def crewQ (s : State) (q : Fin 4) : List QEnt := (crewOf s s.core.crewid.toNat).queues[q]

/-! Run queues (R270, R271). -/

/-- A record with its STATUS byte set. -/
def Record.setStatus (r : Record) (x : Nat) : Record :=
  { r with rs := BitVec.ofNat 32 (r.rs.toNat % 256 + 256 * (x % 256) + r.rs.toNat / 65536 * 65536) }
/-- STATUS of a record. -/
def Record.status (r : Record) : Nat := bits r.rs.toNat 15 8
/-- STRAND of a record (R17). -/
def Record.slotNum (r : Record) : Nat := bits r.place.toNat 2 0
/-- PIN of a record (R17). -/
def Record.pin (r : Record) : Nat := bits r.place.toNat 5 4
/-- The record with RS.RANK set to the queue's rank (R270). -/
def Record.setRank (r : Record) (x : Nat) : Record :=
  { r with rs := BitVec.ofNat 32 (r.rs.toNat / 16 * 16 + x % 16) }

/-- A record becomes runnable or enters a queue: quiescence ends, and every idle core has a fill event (R22, R275,
R287). A write that wakes a watch, and so ends quiescence, does not count as performed in the compute part that begins
(log 93, DESIGN CHOICE). -/
def Die.roused (d : Die) : Die :=
  if d.phase == .quiescent then { d with phase := .compute, elapsed := 0, wrote := false, found := [] }
  else { d with found := [] }

/-- The same of the selected die. -/
def rouse (s : State) : State := s.upDie Die.roused

/-- A queue with a record appended: to the hardware part when it has room and the ring is empty (R271; log 66,
DEDUCED). -/
def RunQ.append (q : RunQ) (c : Cont) : RunQ :=
  let c' := { c with record := c.record.setRank (wbits q.cfg 3 0) }
  if q.overflow.isEmpty && q.hw.length < 32 then { q with hw := q.hw ++ [c'] }
  else { q with overflow := q.overflow ++ [c'] }

/-- The 64 bytes of a record (R17). -/
def Record.bytes (r : Record) : List Byte :=
  bytesOf 8 r.pc.toNat ++ bytesOf 8 r.fp.toNat ++ bytesOf 8 r.ttb.toNat ++ bytesOf 4 r.kid.toNat ++ bytesOf 2 r.stg.toNat
    ++ bytesOf 1 r.crew.toNat ++ bytesOf 1 r.place.toNat ++ bytesOf 4 r.rs.toNat ++ bytesOf 4 r.run.toNat
    ++ bytesOf 8 r.arg0.toNat ++ bytesOf 8 r.arg1.toNat ++ bytesOf 8 r.arg2.toNat

/-- Places of a queue's ring: QUOTA (R270, R271). -/
def RunQ.places (q : RunQ) : Nat := max 1 (wbits q.cfg 47 32)

/-- The physical address at which the next record of a queue's ring is written: RBASE and the places that ring records
take (R271). -/
def RunQ.ringNext (q : RunQ) : Nat := wbits q.ring 49 0 + 64 * ((q.ringHead + q.overflow.length) % q.places)

/-- The oldest ring record leaves the ring (R271). -/
def RunQ.dropRing (q : RunQ) : RunQ :=
  { q with overflow := q.overflow.drop 1
           ringHead := if q.overflow.isEmpty then q.ringHead else (q.ringHead + 1) % q.places }

/-- A queue's place of the ring for a record that enters, if it goes to the ring, and the record's bytes there (R271;
log 66, DEDUCED). -/
def ringWrites (old new : RunQ) : Option (Nat × List Byte) :=
  if new.overflow.length == old.overflow.length then none
  else new.overflow.getLast?.map fun c => (old.ringNext, c.record.bytes)

/-- A continuation enters run queue q of a die; one that goes to the ring is written there (R271). -/
def Die.appended (q : Fin 64) (c : Cont) (d : Die) : Die :=
  let x := d.queues[q].append { c with q := q }
  let d1 := { d with queues := d.queues.set q x }
  Die.roused (match ringWrites d.queues[q] x with
    | none => d1
    | some w => { d1 with mem := memSetN d.mem w.1 w.2, base := memSetN d.base w.1 w.2 })

/-- The same of the selected die. -/
def appendRun (q : Fin 64) (c : Cont) (s : State) : State := s.upDie (Die.appended q c)

/-- A waiting continuation becomes runnable with a STATUS, at the tail of its queue (R19, DEDUCED, log 11). -/
def makeRunnable (status : Nat) (c : Cont) (s : State) : State :=
  appendRun c.q { c with record := c.record.setStatus status } s

/-- Every waiting continuation of a die whose event holds becomes runnable with STATUS 0, in the order in which they
began to wait (R19, R112). -/
def Die.woken (f : WaitFor → Bool) (d : Die) : Die :=
  (d.waiters.filter fun w => f w.what).foldl
    (fun x w => x.appended w.cont.q { w.cont with record := w.cont.record.setStatus 0 })
    { d with waiters := d.waiters.filter fun w => !f w.what }

/-- The same of the selected die. -/
def wakeAll (f : WaitFor → Bool) (s : State) : State := s.upDie (Die.woken f)

/-- Whether a slot is present: a stamped one only while the clock's earliest bound exceeds its stamp (R332). -/
def Slot.ready (d : Die) (x : Slot) : Bool := match x.stamp with
  | none => true
  | some t => t < d.earliest

/-- Slot k of a receive stream, if it and those before it are present (R326, R332). -/
def slotNth (d : Die) (n : Fin 16) (k : Nat) : Option Slot :=
  match d.recv[n] with
  | none => none
  | some r => if (r.present.take (k + 1)).all (Slot.ready d) then r.present[k]? else none

/-- The head slot of a receive stream, if it is present (R332). -/
def headSlot (d : Die) (n : Fin 16) : Option Slot := slotNth d n 0

/-- The partition slot of the selected die's partition. -/
def partSlot (s : State) : Fin 16 := match partOf s with
  | none => 0
  | some p => p.slot

/-- Whether the event a waiter waits for holds (R112). -/
def waitHolds (s : State) (slot : Nat) : WaitFor → Bool
  | .time t => t ≤ s.die.earliest
  | .mbox => !(vget s.pkg.mbox slot []).isEmpty
  | .crewq c q => match (crewOf s c).queues[q] with
    | [] => false
    | e :: _ => e.x.isSome
  | .recv n => (headSlot s.die n).isSome
  | .phase => false

/-- Every waiter whose event holds becomes runnable. -/
def settleWaiters (s : State) : State := wakeAll (waitHolds s (partSlot s)) s

/-- Whether a queue is usable by a partition (R270). -/
def queueUsable (d : Die) (part : Nat) (q : Fin 64) : Bool :=
  d.queues[q].cfg.toNat.testBit 4 && wbits d.queues[q].cfg 31 16 == part

/-- Whether a queue has a free place (R272). -/
def queueRoom (d : Die) (q : Fin 64) : Bool :=
  let x := d.queues[q]
  x.hw.length + x.overflow.length + x.reserved < 32 + wbits x.cfg 47 32

/-- Places reserved in a queue, changed. -/
def reservePlaces (q : Fin 64) (f : Nat → Nat) (s : State) : State :=
  s.upDie fun d => { d with queues := d.queues.set q { d.queues[q] with reserved := f d.queues[q].reserved } }

/-! Statistics (R91, R92). -/

/-- Records that hold a place: those in the queue and those popped and not yet freed. -/
def statHeld (c : Core) : Nat :=
  c.stats.length + (c.popped.filter fun p => match p with
    | .stat _ second => second
    | _ => false).length

/-- A statistics record as 128 bits (R91). -/
def statRec (kind unit count ba : Nat) : BitVec 128 :=
  BitVec.ofNat 128 (kind + unit * 2 ^ 16 + min count (2 ^ 32 - 1) * 2 ^ 32 + ba % 2 ^ 56 * 2 ^ 64)

/-- Appends a record; one that arrives while the queue is full is dropped and counted (R92). -/
def Core.stat (c : Core) (kind unit count ba : Nat) : Core :=
  if 64 ≤ statHeld c then { c with lost := c.lost + 1, lostBa := if c.lost == 0 then ba else c.lostBa }
  else { c with stats := c.stats ++ [statRec kind unit count ba] }

/-- When a place frees after drops, a LOST record is appended (R92), of unit 0 (log 95, DESIGN CHOICE). -/
def Core.lostRecord (c : Core) : Core :=
  if c.lost != 0 && statHeld c < 64 then
    { c with stats := c.stats ++ [statRec 13 0 c.lost c.lostBa], lost := 0, lostBa := 0 }
  else c

/-! Streams (R326, R330). -/

/-- Whether a receive stream is at its end for one that takes slot k (R334). -/
def atEnd (d : Die) (n : Fin 16) (k : Nat) : Bool :=
  match d.recv[n] with
  | none => false
  | some r => r.eos && r.present.length ≤ k

/-- Whether a receive stream's circuit is broken and slot k is not present (R335). -/
def recvBroken (d : Die) (n : Fin 16) (k : Nat) : Bool :=
  match d.recv[n] with
  | none => false
  | some r => r.broken && (slotNth d n k).isNone

/-- The receive stream that the ports of the bundle pop: an L.OPEN.recv binds them from the next bundle on (R330). -/
def recvPort (c : Core) : Option (Fin 16) := c.issue.rebound.getD c.arch.recvBind

/-- Which slot of its stream s62 (false) or v30 (true) takes: the head, and the second for the later of two fields of
one syllable (R330). -/
def slotTaken (c : Core) (v : Bool) : Nat := if c.issue.twin == some v then 1 else 0

/-- The first k bytes of a slot, 0 beyond its length (R330). -/
def slotBytes (k : Nat) (x : Slot) : List Byte := (x.bytes ++ List.replicate (k - x.bytes.length) 0).take k

/-- The register image of a record of port v29 (R57, R174). -/
def geoImage (r : GeoRec) : VWord := ofBytes r.codes

/-! Registers and ports (R56 to R58). -/

/-- The head entry of a scalar read port, if one is there (R57, R58; log 60, DEDUCED). -/
def portS (s : State) (r : SReg) : Option Word :=
  match r.val with
  | 60 =>
    match s.core.stats with
    | [] => some 0
    | x :: _ => some (BitVec.ofNat 64 (if s.core.statHalf then x.toNat / 2 ^ 64 else x.toNat))
  | 61 => (vget s.pkg.mbox (partSlot s) []).head?.map Prod.snd
  | 62 =>
    match recvPort s.core with
    | none => none
    | some n => (slotNth s.die n (slotTaken s.core false)).map fun x => wordN (natOf (slotBytes 8 x))
  | n =>
    if 56 ≤ n && n < 60 && crewed s.core then
      match crewQ s (Fin.ofNat 4 n) with
      | [] => none
      | e :: _ => e.x
    else none

/-- The head entry of a vector read port, if one is there. -/
def portV (s : State) (r : VReg) : Option VWord :=
  match r.val with
  | 28 => s.core.patch.head?.map PatchEnt.x
  | 29 => match s.core.geo with
    | [] => none
    | x :: _ => if x.ready then some (geoImage x) else none
  | 30 => match recvPort s.core with
    | none => none
    | some n => (slotNth s.die n (slotTaken s.core true)).map fun x => ofBytes (slotBytes 1024 x)
  | _ => none

/-- A scalar operand: s0 reads 0, a port reads its head entry (R56, R58). -/
def regS (s : State) (r : SReg) : Word :=
  if r.val == 0 then 0 else if r.val < 56 then s.core.arch.s[r] else (portS s r).getD 0

/-- A vector operand (R56, R58). -/
def regV (s : State) (r : VReg) : VWord :=
  if r.val < 28 then s.core.arch.v[r] else (portV s r).getD 0

/-- A predicate operand: p0 reads 1 (R56). -/
def regP (s : State) (r : PReg) : Bool := r.val == 0 || s.core.arch.p[r]

/-- A mask operand: m0 reads all ones (R56). -/
def regM (s : State) (r : MReg) : Mask := if r.val == 0 then BitVec.allOnes 256 else s.core.arch.m[r]

/-- Whether a pipelined loop level is active (R100; log 33, DEDUCED). -/
def piping (a : Arch) : Bool := a.loops.toList.any fun l => l.act && l.pipe

/-- The predicates with one written; p0 discards, and p12 to p15 discard while a pipelined level is active (R56, R100;
log 33, DEDUCED). -/
def setPred (a : Arch) (r : PReg) (x : Bool) : Preds :=
  if r.val == 0 || (12 ≤ r.val && piping a) then a.p
  else if x then a.p ||| BitVec.twoPow 16 r.val else a.p &&& ~~~(BitVec.twoPow 16 r.val)

/-- A result placed in flight, to land k bundles on (R30). -/
def State.flight (s : State) (k : Nat) (l : Land) : State :=
  s.upArch fun a => { a with inflight := a.inflight ++ [⟨k, l⟩] }

/-- Reserves the next entry of a write port and returns the serial that its value will fill (R58): a push to a crew
queue, or a slot of the bound send stream of the length given. -/
def reservePush (q : Fin 4) (s : State) : State :=
  (s.upCore fun c => { c with held := c.held ++ [.push q s.fresh none]
                              seg := { c.seg with pushes := c.seg.pushes + 1 } }).useId

/-- The issuer's own withheld plain stores, latest first (R185). -/
def ownStores (c : Core) : List (Nat × List Byte) :=
  (c.held.filterMap fun h => match h with
    | .store pa b => some (pa, b)
    | .strl pa b _ => some (pa, b)
    | _ => none).reverse

/-- The issuer's own stamped stores: stamp, address, bytes; later ones last (R342). -/
def ownSts (c : Core) : List (Nat × Nat × List Byte) :=
  c.strand.stamps ++ c.held.filterMap fun h => match h with
    | .sts pa b t => some (t, pa, b)
    | _ => none

/-- The issuer's view as it stands (R218). -/
def snapOf (s : State) : Snap := ⟨s.core.strand.view, ownStores s.core, ownSts s.core, []⟩

/-- Reserves an entry of the stream queue for a write to s63 or v31 (R328, R330). -/
def reserveSend (len : Nat) (s : State) : State :=
  match s.core.arch.sendBind with
  | none => s
  | some n =>
    (s.upCore fun c => { c with
      sq := c.sq ++ [{ serial := s.fresh, n := n, op := .portSend len none, tag := none, ba := c.issue.ba
                       snap := ⟨[], [], [], []⟩, hb := [], foots := [], held := true, order := 0 }]
      held := c.held ++ [.send s.fresh]
      seg := { c.seg with sends := c.seg.sends + 1 } }).useId

/-- A scalar result: to a register it is in flight; to a write port its entry is reserved now and filled when the
result lands (R30, R58). -/
def wrS (r : SReg) (k : Nat) (x : Word) (s : State) : State :=
  if r.val < 56 then s.flight k (.s r x)
  else if r.val < 60 then (reservePush (Fin.ofNat 4 r.val) s).flight k (.push s.fresh (BitVec.setWidth 8192 x))
  else (reserveSend 8 s).flight k (.push s.fresh (BitVec.setWidth 8192 x))

/-- A vector result (R30, R58). -/
def wrV (r : VReg) (k : Nat) (x : VWord) (s : State) : State :=
  if r.val < 28 then s.flight k (.v r x)
  else (reserveSend 1024 s).flight k (.push s.fresh x)

/-- A predicate result. -/
def wrP (r : PReg) (k : Nat) (x : Bool) (s : State) : State := s.flight k (.p r x)
/-- A mask result. -/
def wrM (r : MReg) (k : Nat) (x : Mask) (s : State) : State := s.flight k (.m r x)

/-! Pops (R58, R59). -/

/-- A popped slot joins the view from the next bundle on (R211), and what happens before its send happens before the
strand's later operations (R213). -/
def popSlot (port : Bool) (n : Fin 16) (s : State) : State :=
  match headSlot s.die n with
  | none => s
  | some x =>
    let s1 := s.upDie fun d => { d with recv := d.recv.set n (d.recv[n].map fun r =>
      { r with present := r.present.drop 1 }) }
    (s1.upCore fun c => { c with popped := c.popped ++ [.slot n x port], held := c.held ++ [.past x.hb] }).flight 1
      (.gain x.hb)

/-- Pops the head entry of a scalar read port (log 60, DEDUCED). -/
def popS (r : SReg) (s : State) : State :=
  match r.val with
  | 60 =>
    match s.core.stats with
    | [] => s
    | x :: t => s.upCore fun c =>
      if c.statHalf then { c with stats := t, statHalf := false, popped := c.popped ++ [.stat x true] }
      else { c with statHalf := true, popped := c.popped ++ [.stat x false] }
  | 61 =>
    match vget s.pkg.mbox (partSlot s) [] with
    | [] => s
    | x :: t =>
      (s.upPkg fun k => { k with mbox := vmod k.mbox (partSlot s) fun _ => t }).upCore
        fun c => { c with popped := c.popped ++ [.mbox (partSlot s) x.1 x.2] }
  | 62 => match recvPort s.core with
    | none => s
    | some n => popSlot true n s
  | n =>
    if 56 ≤ n && n < 60 && crewed s.core then
      match crewQ s (Fin.ofNat 4 n) with
      | ⟨_, mark, some x⟩ :: t =>
        (s.upCrew s.core.crewid.toNat fun w => { w with queues := w.queues.set (Fin.ofNat 4 n) t }).upCore
          fun c => { c with popped := c.popped ++ [.crewq c.crewid.toNat (Fin.ofNat 4 n) mark x] }
      | _ => s
    else s

/-- Pops the head entry of a vector read port. -/
def popV (r : VReg) (s : State) : State :=
  match r.val with
  | 28 => match s.core.patch with
    | [] => s
    | x :: t => s.upCore fun c => { c with patch := t, popped := c.popped ++ [.patch x] }
  | 29 => match s.core.geo with
    | [] => s
    | x :: t => s.upCore fun c => { c with geo := t, popped := c.popped ++ [.geo x] }
  | 30 => match recvPort s.core with
    | none => s
    | some n => popSlot true n s
  | _ => s

/-- Whether a register is a read port. -/
def isPort : Reg → Bool
  | .s r => 56 ≤ r.val
  | .v r => 28 ≤ r.val
  | .p _ => false
  | .m _ => false
  | .a _ => false

/-- Pops the ports among the source registers, each once (R58). -/
def popAll : List Reg → State → State
  | [], s => s
  | .s r :: t, s => popAll t (if 56 ≤ r.val then popS r s else s)
  | .v r :: t, s => popAll t (if 28 ≤ r.val then popV r s else s)
  | .p _ :: t, s => popAll t s
  | .m _ :: t, s => popAll t s
  | .a _ :: t, s => popAll t s

/-- The distinct members of a list of registers, in order. -/
def dedupR : List Reg → List Reg
  | [] => []
  | x :: t => x :: (dedupR t).filter fun y => y != x

/-- Whether a read port among the sources has no entry, so that its bundle freezes (R34, R36 step 1); a port that the
strand may not use does not freeze, since its use traps. -/
def portEmpty (s : State) : Reg → Bool
  | .s r =>
    match r.val with
    | 62 => match recvPort s.core with
      | none => false
      | some n =>
        let k := slotTaken s.core false
        (portS s r).isNone && !atEnd s.die n k && !recvBroken s.die n k
    | 61 => (portS s r).isNone
    | n => 56 ≤ n && n < 60 && crewed s.core && (portS s r).isNone
  | .v r =>
    match r.val with
    | 30 => match recvPort s.core with
      | none => false
      | some n =>
        let k := slotTaken s.core true
        (portV s r).isNone && !atEnd s.die n k && !recvBroken s.die n k
    | n => 28 ≤ n && n < 30 && (portV s r).isNone
  | .p _ => false
  | .m _ => false
  | .a _ => false

/-- Entries of a crew queue that hold a place: present, reserved by a push of any core, and popped by a segment that
has not committed (R58, R59). -/
def crewqUsed (s : State) (c : Nat) (q : Fin 4) : Nat :=
  (crewOf s c).queues[q].length + (s.cores.map fun k =>
    (k.held.filter fun h => match h with
      | .push q' _ _ => q' == q && k.crewid.toNat == c
      | _ => false).length
    + (k.popped.filter fun p => match p with
      | .crewq c' q' _ _ => c' == c && q' == q
      | _ => false).length).foldl (· + ·) 0

/-- Whether a write port among the destinations is full (R34, R36 step 3). -/
def portFull (s : State) : Reg → Bool
  | .s r =>
    if 56 ≤ r.val && r.val < 60 then 32 ≤ crewqUsed s s.core.crewid.toNat (Fin.ofNat 4 r.val)
    else if r.val == 63 then 16 ≤ s.core.sq.length else false
  | .v r => if r.val == 31 then 16 ≤ s.core.sq.length else false
  | .p _ => false
  | .m _ => false
  | .a _ => false

/-! Traps (R300 to R304). -/

/-- Cause codes (R301, R319, R335, R347, R365). -/
def Cause.code : Cause → Nat
  | .illbundle => 1 | .illop => 2 | .pendread => 3 | .check => 5 | .uecc => 6 | .mirror => 7 | .clkwide => 8
  | .badtarget => 9 | .sigclass => 10 | .loop => 11 | .rep => 12 | .allot => 13 | .swtrap => 14 | .vector => 15
  | .geoop => 16 | .matrix => 17 | .badtensor => 18 | .format => 19 | .memory => 20 | .copy => 21 | .segment => 22
  | .rvz => 23 | .queue => 24 | .group => 25 | .barrier => 26 | .badcont => 27 | .absent => 40 | .noread => 41
  | .nowrite => 42 | .noexec => 43 | .badpte => 44 | .ptue => 45 | .demand => 46 | .horizon => 48
  | .stampspace => 49 | .stampheld => 50 | .link => 52 | .decode => 56

/-- Causes whose TRAPINFO has the ADDR form (R301). -/
def Cause.addrForm : Cause → Bool
  | .badtarget | .sigclass | .badcont | .absent | .noread | .nowrite | .noexec | .badpte | .ptue | .demand => true
  | .illbundle | .illop | .pendread | .check | .uecc | .mirror | .clkwide | .loop | .rep | .allot | .swtrap
  | .vector | .geoop | .matrix | .badtensor | .format | .memory | .copy | .segment | .rvz | .queue | .group
  | .barrier | .horizon | .stampspace | .stampheld | .link | .decode => false

/-- TRAPINFO (R300). -/
def Trap.info (t : Trap) : Word :=
  let low := t.cause.code + 64 * t.step.toNat
  if t.cause.addrForm then wordN (low + 128 + t.addr % 2 ^ 56 * 256)
  else wordN (low + t.detail % 256 * 256 + t.syl % 16 * 2 ^ 16 + t.arg % 2 ^ 44 * 2 ^ 20)

/-- Retry causes (R228); SHADOW is not retried (R229). -/
def Trap.retries (t : Trap) : Bool :=
  match t.cause with
  | .check | .mirror => true
  | .uecc => t.detail != 8
  | _ => false

/-! The D queue (R147, R349). -/

/-- Whether an operation of the D queue is a decode command (R349). -/
def DOp.isDecode : DOp → Bool
  | .jpeg .. | .g4 .. | .raw .. => true
  | .pp .. | .ppcfg _ | .ringSet .. => false

/-- Whether an operation of the D queue is one of spec/22. -/
def DOp.isIngest : DOp → Bool
  | .jpeg .. | .g4 .. | .raw .. | .ringSet .. => true
  | .pp .. | .ppcfg _ => false

/-- A decode command that has come to the head of the selected core's D queue begins to wait for an engine (R349). -/
def waitHead (s : State) : State :=
  match s.core.dq.find? fun m => !m.held with
  | none => s
  | some m =>
    if m.op.isDecode && m.run.isNone && m.waiting.isNone then
      (s.upCore fun c => { c with dq := c.dq.map fun x =>
        if x.serial == m.serial then { x with waiting := some s.die.dorder } else x }).upDie
        fun d => { d with dorder := d.dorder + 1 }
    else s

/-! Segments: rollback (R224, R152, R203). -/

/-- The banks of this core's tiles with their contents and types: the checkpoint shadows (R152). -/
def tileShadows (s : State) : List (Nat × Bool × Store) :=
  (List.range 8).filterMap fun k => (bankOf s k).map fun b =>
    (b, vget (engineOf s).fp b false, vget (engineOf s).banks b .zero)

/-- The engine with banks restored from shadows. -/
def Engine.restore (e : Engine) : List (Nat × Bool × Store) → Engine
  | [] => e
  | (b, f, x) :: t => Engine.restore { e with banks := vmod e.banks b fun _ => x, fp := vmod e.fp b fun _ => f } t

/-- An entry put among others that stand in the order of a mark. -/
def insertMark {α : Type} (mark : α → Nat) (x : α) : List α → List α
  | [] => [x]
  | y :: t => if mark x < mark y then x :: y :: t else y :: insertMark mark x t

/-- One popped entry returned to its queue, in the original order (R59). -/
def unpop (s : State) : Popped → State
  | .crewq c q k x => s.upCrew c fun w =>
    { w with queues := w.queues.set q (insertMark QEnt.mark ⟨0, k, some x⟩ w.queues[q]) }
  | .stat x second => s.upCore fun c =>
    if second then { c with stats := x :: c.stats, statHalf := true } else { c with statHalf := false }
  | .mbox n k x => s.upPkg fun p => { p with mbox := vmod p.mbox n fun l => insertMark Prod.fst (k, x) l }
  | .slot n x _ => s.upDie fun d => { d with recv := d.recv.set n (d.recv[n].map fun r =>
      { r with present := insertMark Slot.no x r.present }) }
  | .geo r => if r.seg then s else s.upCore fun c => { c with geo := r :: c.geo }
  | .patch x => s.upCore fun c => { c with patch := x :: c.patch }

/-- One command leaves a tag that a rollback discards it from (R203). -/
def tagDrop (t : Option Tag) (tags : Vector TagSt 64) : Vector TagSt 64 :=
  match t with
  | none => tags
  | some k => tags.set k { tags[k] with out := tags[k].out - 1 }

/-- The tags after a rollback: TAGDONE by R203. -/
def tagsSettled (tags : Vector TagSt 64) : Vector TagSt 64 :=
  tags.map fun x => { x with done := x.out == 0 && x.since }

/-- The queue places that the segment's spawns, and a yield that has not left its core, have reserved (R272). -/
def placesHeld (c : Core) : List (Fin 64) :=
  (c.held.filterMap fun h => match h with
    | .spawn q _ _ => some q
    | _ => none)
  ++ (match c.wait with
    | some (.suspCommit (.yield q) _) | some (.susp (.yield q) _) => [q]
    | _ => [])

/-- The core's private part of a rollback: everything since the last commit is undone (R224). What the duplicate set,
the shadows and the undo log restore has good ECC again (R229; log 62, DEDUCED). -/
def Core.rolledBack (c : Core) : Core :=
  let dropped := (c.matq.filter (·.seg)).filterMap (fun m => match m.op with
      | .asave _ tag _ _ => some tag
      | _ => none)
    ++ (c.dq.filter (·.held)).filterMap (·.tag)
    ++ (c.copyq.filter (·.held)).map (·.tag)
    ++ (c.sq.filter (·.held)).filterMap (·.tag)
  { c with
    arch := c.ck
    strand := c.ckStrand
    spad := c.undo.foldl (fun m p => memSetN m p.1 p.2) c.spad
    undo := []
    ueccRegs := []
    ueccMem := c.ueccMem.filter fun w => w.1 == 3 && !(c.undo.any fun u => u.1 == w.2 / 64 * 64)
    held := []
    seg := .zero
    popped := []
    hist := [0, 0, 0, 0, 0, 0, 0]
    occ := []
    matq := c.matq.filter fun m => !m.seg
    dq := c.dq.filter fun m => !m.held
    copyq := c.copyq.filter fun m => !m.held
    sq := c.sq.filter fun m => !m.held
    tags := tagsSettled (dropped.foldl (fun v t => tagDrop (some t) v) c.tags)
    geo := c.geo.filter fun g => !g.seg
    wait := none
    stampWait := false
    pc := c.ckptpc }

/-- Whether the segment has popped an entry of the partition's mailbox. -/
def mboxTaken (c : Core) : Bool := c.popped.any fun p => match p with
  | .mbox .. => true
  | _ => false

/-- Every waiter of the selected die whose event holds becomes runnable, and those for a mailbox that holds an entry on
every die of the partition (R112, R278). -/
def settlePart (s : State) : State :=
  let full := !(vget s.pkg.mbox (partSlot s) []).isEmpty
  let mine (d : Die) : Bool := full && s.die.part.isSome && d.part == s.die.part
  let wake (d : Die) : Die := if mine d then d.woken (· == .mbox) else d
  settleWaiters (s.upPkg fun k => { k with dies := k.dies.map wake })

/-- The rollback of R224: popped entries return, reserved places free, tiles return to their shadows, and the core
restarts at CKPTPC (DEDUCED, log 61; log 62, DEDUCED). -/
def rollback (s : State) : State :=
  let s1 := s.core.popped.reverse.foldl unpop s
  let s2 := (placesHeld s.core).foldl (fun t q => reservePlaces q (· - 1) t) s1
  let s3 := s2.upEngine fun e => e.restore s.core.shadow
  (if mboxTaken s.core then settlePart else settleWaiters) (s3.upCore Core.rolledBack)

/-! Halting and faults (R304, R307, R321). -/

/-- The selected core is halted (R307): a strand whose suspension has committed is not; a core inside a repeat is
halted after its last iteration, unless it is stopped there (R306, R308); a core frozen at a crew barrier, or at an
M.FENCE.stamp that has committed, keeps its wait (R345; DEDUCED, log 35; log 65, DEDUCED). -/
def haltCore (s : State) : State :=
  match s.core.record with
  | none => s
  | some _ =>
    if s.core.halted then s
    else match s.core.wait with
      | some (.susp _ _) => s
      | some (.cbar d g n) =>
        (rollback s).upCore fun c => { c with
          halted := true, haltPend := false, dbgStop := false, wait := some (.cbar d g n), stampWait := s.core.stampWait }
      | some .stamp =>
        (rollback s).upCore fun c => { c with halted := true, haltPend := false, dbgStop := false, wait := some .stamp }
      | _ =>
        if s.core.arch.rpc.act && !s.core.budgetStop && !s.core.dbgStop then
          s.upCore fun c => { c with haltPend := true }
        else
          (rollback s).upCore fun c => { c with halted := true, haltPend := false, dbgStop := false }

/-- Every core of the context is halted (R307). -/
def haltContext (s : State) : State :=
  match s.die.part with
  | none => haltCore s
  | some n => eachDie (diesOf n s) (eachCore haltCore) s

/-- The state of the context, with a reason of a halt (R298). -/
def setContext (st : CtxState) (r : HaltReason) (s : State) : State :=
  s.upPart fun p => { p with state := st, reason := r }

/-- Whether the context is RUNNING or DRAINING, the states that a demand fault changes (R298, R321). -/
def ctxActive (s : State) : Bool := match partOf s with
  | none => true
  | some p => p.state == .running || p.state == .draining

/-- Whether the context has been killed. -/
def ctxKilled (s : State) : Bool := match partOf s with
  | none => false
  | some p => p.state == .killed

/-- A core that is at rest loses its commands and its record (R311 steps 2 and 3). -/
def Core.discarded (c : Core) : Core :=
  { c with
    record := none, halted := false, haltPend := false, wait := none, stampWait := false, dbgStop := false
    budgetStop := false, rvzTrap := none, held := [], popped := [], undo := [], matq := [], dq := [], copyq := [], sq := []
    geo := [], patch := [], stats := [], statHalf := false, lost := 0 }

/-- The core of a fault is at rest; in a killed context it is discarded (R304, R311, R321). -/
def faultHalt (s : State) : State :=
  s.upCore fun c => if ctxKilled s then c.discarded else { c with halted := c.record.isSome, haltPend := false }

/-- A context fault: every core of the context halts, the context is HALTED with reason FAULT, and CONTEXT_FAULT is
posted (R304), with the virtual address of a copy's fault (R320), also from a core that finishes its repeat in a context
already halted (R306; log 82, DEDUCED) (log 90, DEDUCED). -/
def contextFault (va : Nat) (s : State) : State :=
  let s1 := faultHalt s
  if ctxKilled s then s1
  else
    (setContext .halted .fault (haltContext s1)).post
      (.contextFault (s.die.part.getD 0) s.die.stage.toNat s.core.crewid.toNat (strandNum s.core)
        s.core.trappc.toNat s.core.trapinfo s.core.ckptpc.toNat va)

/-- DEMAND_FAULT with the coordinate of the selected core's strand, the address and the access kind (R321, R322). -/
def postDemand (va kind : Nat) (tag : Option Nat) (s : State) : State :=
  s.post (.demandFault (s.die.part.getD 0) s.die.num s.die.stage.toNat s.core.crewid.toNat (strandNum s.core)
    s.core.num va kind tag)

/-- A demand fault of a core: it has rolled back and does not vector; the context halts with reason DEMAND, and
DEMAND_FAULT is posted for each faulting core, one that finishes its repeat in a context already halted included, which
is left as it is (R306, R321; log 82, DEDUCED). A killed context posts nothing (R311). -/
def demandFault (va kind : Nat) (s : State) : State :=
  let s1 := faultHalt s
  if ctxKilled s then s1
  else postDemand va kind none (if ctxActive s then setContext .halted .demand (haltContext s1) else s1)

/-- The vector of the running strand's kernel; 0 for none (R303). -/
def vectorOf (s : State) : Nat := match curKernel s with
  | none => 0
  | some k => k.vector

/-- The virtual address of the fault that COPY, FAULTED reports; 0 for another trap (R320). -/
def faultVa (t : Trap) (c : Core) : Nat :=
  if t.cause == .copy && t.detail == 9 then (vget c.tags (t.arg % 64) .clear).va else 0

/-- Where a trap goes after the rollback (R303, R228, R304). -/
def vectorTrap (t : Trap) (s : State) : State :=
  if t.cause == .badcont || (t.cause == .uecc && t.detail == 8) then contextFault 0 s
  else if t.retries then
    if s.core.retried then contextFault 0 s
    else (s.upCore fun c => { c with retried := true }).post
      (.segRetry (s.die.part.getD 0) s.die.stage.toNat s.core.crewid.toNat (strandNum s.core) t.cause.code)
  else if s.core.hnd || vectorOf s == 0 then contextFault (faultVa t s.core) s
  else s.upCore fun c => { c with hnd := true, pc := BitVec.ofNat 56 (vectorOf s) }

/-- The access kind of a demand fault, carried in `arg`: 0 read, 1 write, 2 fetch (R321). -/
def Trap.kind (t : Trap) : Nat := t.arg % 4

/-- TAKING A TRAP (R227): TRAPPC and TRAPINFO are set, the core rolls back, and it retries, vectors or faults; a demand
fault rolls back without vectoring (R321), and QUEUE, QUOTA is posted besides (R272). -/
def takeTrap (t : Trap) (pc : Nat) (s : State) : State :=
  let s1 := s.upCore fun c => { c with trappc := BitVec.ofNat 56 pc, trapinfo := t.info }
  let s2 := rollback s1
  let s3 := if t.cause == .demand then demandFault t.addr t.kind s2 else vectorTrap t s2
  let s4 := if t.cause == .queue && t.detail == 3 then s3.post (.queueQuota (s.die.part.getD 0) t.arg) else s3
  s4.ended .trapped

/-- The trap of a syllable of the bundle that issues. -/
def trapHere (t : Trap) (s : State) : State := takeTrap t s.core.issue.ba s

end Sys2Proof.Machine
end

