-- ==== Sys2Proof/Machine/Segment.lean ====
section
/-! DEFINITION. What a bundle's end does: landing (spec/03 R30), the loop end test (spec/06 R109), performed writes and
acquires (spec/11 R210 to R217, spec/21 R341), the commit of a segment (spec/12 R225), and the order of checks at issue
(spec/03 R36). -/

namespace Sys2Proof

/-- Whether an order acquires (R214). -/
def MemOrd.acquires : MemOrd → Bool
  | .acquire | .acqRel | .seq => true
  | .relaxed | .release => false
/-- Whether an order releases (R214). -/
def MemOrd.releases : MemOrd → Bool
  | .release | .acqRel | .seq => true
  | .relaxed | .acquire => false

/-- Whether a fence acquires, and whether it releases (R217). -/
def FenceKind.acquires : FenceKind → Bool
  | .acquire | .acqRel | .seq => true
  | .release => false
/-- Whether a fence releases (R217). -/
def FenceKind.releases : FenceKind → Bool
  | .release | .acqRel | .seq => true
  | .acquire => false

/-- Bytes of a size type (R189). -/
def SizeTy.bytes : SizeTy → Nat
  | .i8 | .n8 => 1
  | .i16 | .n16 => 2
  | .i32 | .n32 => 4
  | .i64 => 8

/-- A loaded value extended to 64 bits (R189, R190). -/
def SizeTy.extend (ty : SizeTy) (x : Nat) : Word :=
  match ty with
  | .n8 | .n16 | .n32 => Machine.wordN x
  | .i8 | .i16 | .i32 | .i64 => Machine.wordI (Machine.sextN x (8 * ty.bytes))

namespace Machine

/-! Apertures (R186, R187). -/

/-- Where the byte at a physical address is served from (R187). -/
inductive Served where
  /-- A byte of vault or DRAM. -/
  | mem (pa : Nat)
  /-- Byte `off` of an expanded block: the block's address, its stored size, its raw area. -/
  | expand (at' t raw off : Nat)
  /-- Coordinate j of the code at an address; padding reads 0 (R84). -/
  | l8 (code j : Nat) (pad : Bool)
  deriving DecidableEq, Repr

/-- The mapping of an aperture at window offset o (R187). -/
def Aperture.serve (ap : Aperture) (o : Nat) : Served :=
  let b := wbits ap.buf 49 0
  match wbits ap.ctl 3 1 with
  | 0 => .mem (b + o)
  | 1 =>
    let t := 64 * wbits ap.ctl 5 4
    .expand (b + t * (o / 256)) t (wbits ap.aux 49 0 + 256 * (o / 256)) (o % 256)
  | 2 =>
    let i := o / 64 % 16
    let j := o / 4 % 16
    .mem (b + o / 1024 * 1024 + 64 * j + 4 * i + o % 4)
  | _ =>
    let cols := wbits ap.aux 63 32
    let i := o / cols
    let j := o % cols
    .l8 (b + 2 * ((i * cols + j) / 8)) (j % 8) (wbits ap.aux 31 0 ≤ j)

/-- Where a physical byte is served from for a partition: outside the windows it is itself. -/
def serve (d : Die) (part pa : Nat) : Served :=
  match apertureAt d part pa with
  | none => .mem pa
  | some i => d.aps[i].serve (pa - wbits d.aps[i].win 49 0)

/-- The address by which withheld stores and views know a byte: its buffer byte where one byte serves it, else its
window address (R187). -/
def homeOf (d : Die) (part pa : Nat) : Nat :=
  match serve d part pa with
  | .mem b => b
  | .expand .. => pa
  | .l8 .. => pa

/-! Views (R210, R341). -/

/-- Whether a list of bytes from an address covers a byte. -/
def covers (lo : Nat) (b : List Byte) (pa : Nat) : Bool := lo ≤ pa && pa < lo + b.length

/-- The latest of own stores to a byte (log 20, DEDUCED). -/
def ownByte (own : List (Nat × List Byte)) (pa : Nat) : Option Byte :=
  (own.find? fun p => covers p.1 p.2 pa).map fun p => nth p.2 (pa - p.1) 0

/-- The latest write of a byte among those of a view, else the byte at the start of the phase (R210; log 20, DEDUCED).
-/
def viewByte (d : Die) (view : List Nat) (pa : Nat) : Byte :=
  match d.log.reverse.find? fun w => view.contains w.id && covers w.addr w.bytes pa with
  | some w => nth w.bytes (pa - w.addr) 0
  | none => memGet d.base pa

/-- A byte of shared memory as an issuer sees it (R210, R218; log 8, DESIGN CHOICE) (log 20, DEDUCED). -/
def seeByte (d : Die) (sn : Snap) (pa : Nat) : Byte :=
  match ownByte sn.own pa with
  | some b => b
  | none => viewByte d sn.view pa

/-- The bytes of vault or DRAM that serve a physical byte: itself, the coded block with its raw area, or a code
(R187). -/
def Served.homes : Served → List Nat
  | .mem a => [a]
  | .expand at' t raw _ => (List.range t).map (at' + ·) ++ (List.range 256).map (raw + ·)
  | .l8 code _ pad => if pad then [] else [code, code + 1]

/-- Whether a physical byte lies in a stamped page (R341). -/
def isStamped (d : Die) (pa : Nat) : Bool := d.stampPages.contains (pa / 0x4000)

/-- The versions of the line of a byte; a line that no M.STS has written holds its base alone (R341). -/
def versionsOf (d : Die) (pa : Nat) : List (Nat × List (Nat × Byte)) :=
  let la := pa / 64 * 64
  match d.stampLines.find? fun l => l.line == la with
  | some l => l.vers
  | none => [(0, (memGetN d.mem la 64).map fun b => (0, b))]

/-- The greatest version whose stamp is below a bound (log 36, DEDUCED). -/
def versionBelow (lim : Nat) : List (Nat × List (Nat × Byte)) → Option (Nat × List (Nat × Byte))
  | [] => none
  | v :: t => match versionBelow lim t with
    | some w => some w
    | none => if v.1 < lim then some v else none

/-- The as-of value of a byte at the greatest stamp below a bound, with the stamp it came from; none when it is no
longer held (R341, R342; log 36, DEDUCED). -/
def asOfBelow (d : Die) (lim pa : Nat) : Option (Nat × Byte) :=
  match versionBelow lim (versionsOf d pa) with
  | some v => some (nth v.2 (pa % 64) (0, 0))
  | none => if lim == 0 then (versionsOf d pa).head?.bind fun v =>
      if v.1 == 0 then some (nth v.2 (pa % 64) (0, 0)) else none
    else none

/-- Stamps of the M.STS that a core withholds (R340). -/
def withheldStamps (c : Core) : List Nat := c.held.filterMap fun h => match h with
  | .sts _ _ t => some t
  | _ => none

/-- A stamp is surely past on the selected die when it is below this bound (R340). -/
def pastLimit (s : State) : Nat := ((s.cores.flatMap withheldStamps).foldl min s.die.floor)

/-- The own stamped store of the greatest stamp that covers a byte, the later one on ties (log 36, DEDUCED). -/
def ownStsByte (pa : Nat) : List (Nat × Nat × List Byte) → Option (Nat × Byte)
  | [] => none
  | (t, a, b) :: l =>
    match ownStsByte pa l with
    | some r => if covers a b pa && r.1 < t then some (t, nth b (pa - a) 0) else some r
    | none => if covers a b pa then some (t, nth b (pa - a) 0) else none

/-- A byte of a stamped page as an issuer with its own M.STS reads it: its own of a stamp that is not yet surely past,
else the as-of value at the greatest surely past stamp, in which its past ones stand; none when that value is no longer
held (R341, R342). -/
def stampedByte (s : State) (own : List (Nat × Nat × List Byte)) (pa : Nat) : Option Byte :=
  match ownStsByte pa (own.filter fun o => pastLimit s ≤ o.1) with
  | some o => some o.2
  | none => (asOfBelow s.die (pastLimit s) pa).map Prod.snd

/-! Acquires and releases (R214, R215). -/

/-- The identity of the host as an agent; no strand has it (R222, DESIGN CHOICE, log 5). -/
def hostSid : Nat := 2 ^ 64

/-- Whether a second agent lies within a scope of a first, both on one die; the host lies within .system alone
(R215, R222). -/
def within' (sc : Scope) (sid crew sid2 crew2 : Nat) : Bool :=
  sid == sid2 || match sc with
    | .strand => false
    | .crew => crew == crew2 && crew != 0xFF
    | .die | .package => sid != hostSid && sid2 != hostSid
    | .system => true

/-- The writes that an acquire gains from the releases it reads (R211, R214). -/
def syncIds (sc : Scope) (sid crew : Nat) (heads : List Head) : List Nat :=
  heads.foldl (fun l h =>
    if within' h.scope h.sid h.crew sid crew && within' sc sid crew h.sid h.crew then joinIds l h.hb else l) []

/-- The releases carried by the latest writers of n bytes from an address (R214; log 21, DEDUCED). -/
def headsRead (d : Die) (pa n : Nat) : List Head :=
  ((List.range n).flatMap fun k =>
    match d.log.reverse.find? fun w => covers w.addr w.bytes (pa + k) with
    | some w => w.heads
    | none => []).eraseDups

/-- The releases whose sequence an atomic on n bytes joins (R214; log 21, DEDUCED). -/
def headsJoined (d : Die) (pa n : Nat) : List Head :=
  ((d.log.flatMap fun w => w.heads).filter fun h => h.lo < pa + n && pa < h.lo + h.len).eraseDups

/-- What happens before the strand's next operation: what its own operations have put there, and every operation of an
earlier phase of the die (R213; log 99, DEDUCED). -/
def hbOf (s : State) : List Nat := joinIds s.die.past s.core.strand.hb

/-- The releases that the strand's store of n bytes carries: its own, and those of its release fences (R214, R217; log
21, DEDUCED). -/
def headsMade (s : State) (scopes : List Scope) (pa n : Nat) : List Head :=
  scopes.map fun sc =>
    { sid := s.core.strand.sid, crew := s.core.crewid.toNat, scope := sc, lo := pa, len := n
      hb := joinIds (hbOf s) [s.fresh] }

/-! Performed writes (R212, R295). -/

/-- A write to the word of a watch frees it: its record becomes runnable with STATUS 0, as if it had loaded the word
with M.LDAQ.die (R295). -/
def wakeWatches (pa n id : Nat) (heads : List Head) (s : State) : State :=
  let hit (w : Watch) : Bool := !w.saved && w.pa < pa + n && pa < w.pa + 8
  let l := s.die.watches.filter hit
  let s1 := s.upDie fun d => { d with watches := d.watches.filter fun w => !hit w }
  l.foldl (fun t w =>
    let st := w.cont.strand
    let ids := joinIds [id] (syncIds .die st.sid w.cont.record.crew.toNat heads)
    makeRunnable 0 { w.cont with strand := { st with
        view := joinIds st.view ids, hb := joinIds st.hb ids, readHeads := (st.readHeads ++ heads).eraseDups } }
      (t.upDie fun d => { d with acc := joinIds d.acc ids })) s1

/-- A write of bytes to vault or DRAM is performed: memory and the coherence order take it (R212). -/
def writeMem (pa : Nat) (b : List Byte) (heads : List Head) (s : State) : State :=
  let id := s.fresh
  let s1 := s.upDie fun d => { d with
    mem := memSetN d.mem pa b, log := d.log ++ [⟨id, pa, b, heads⟩], wrote := true
    ueccLines := d.ueccLines.filter fun l => !(pa ≤ l && l + 64 ≤ pa + b.length) }
  wakeWatches pa b.length id heads s1.useId

/-- A write through an EXPAND window recompresses the block (R87); a block that has become corrupt is left (log 8,
DESIGN CHOICE). -/
def writeExpand (at' t raw off : Nat) (b : List Byte) (s : State) : State :=
  match expandBlock (memGetN s.die.mem at' t) (memGetN s.die.mem raw 256) with
  | none => s
  | some old =>
    let new := old.take off ++ b ++ old.drop (off + b.length)
    let (st, esc) := compressBlock t new
    let s1 := writeMem at' st [] s
    if esc then writeMem raw new [] s1 else s1

/-- The strand's view and its past gain the writes with identities from a first up to the next (R210, R213). -/
def ownWrites (first : Nat) (s : State) : State :=
  let ids := (List.range (s.fresh - first)).map (first + ·)
  s.upStrand fun x => { x with view := joinIds x.view ids, hb := joinIds x.hb ids }

/-- A store of the strand is performed (R212, R214). -/
def performStore (pa : Nat) (b : List Byte) (rel : List Scope) (s : State) : State :=
  let id := s.fresh
  match serve s.die (partNum s) pa with
  | .mem a => ownWrites id (writeMem a b (headsMade s (rel ++ s.core.strand.relScopes) a b.length) s)
  | .expand at' t raw off => ownWrites id (writeExpand at' t raw off b s)
  | .l8 .. => s

/-- The versions of a line with one byte written at a stamp: later versions whose byte came from no later write take
it too (R341). -/
def putVersion (t off : Nat) (b : Byte) (vers : List (Nat × List (Nat × Byte))) : List (Nat × List (Nat × Byte)) :=
  vers.map fun v =>
    if t ≤ v.1 && (nth v.2 off (0, 0)).1 ≤ t then (v.1, v.2.set off (t, b)) else v

/-- A version of a new stamp is a copy of the one below it (R341). -/
def addVersion (t : Nat) (vers : List (Nat × List (Nat × Byte))) : List (Nat × List (Nat × Byte)) :=
  if vers.any fun v => v.1 == t then vers
  else
    let below := match versionBelow t vers with
      | some v => v.2
      | none => match vers with
        | [] => List.replicate 64 (0, 0)
        | v :: _ => v.2.map fun p => (0, p.2)
    (vers.filter fun v => v.1 < t) ++ [(t, below)] ++ vers.filter fun v => t < v.1

/-- Bytes put into the versions at a stamp, from an offset on. -/
def putBytes (t : Nat) : Nat → List Byte → List (Nat × List (Nat × Byte)) → List (Nat × List (Nat × Byte))
  | _, [], v => v
  | off, b :: l, v => putBytes t (off + 1) l (putVersion t off b v)

/-- A stamped store is performed; beyond eight versions the lowest stamp is dropped (R341). -/
def performSts (pa : Nat) (b : List Byte) (t : Nat) (s : State) : State :=
  let la := pa / 64 * 64
  let v := putBytes t (pa % 64) b (addVersion t (versionsOf s.die pa))
  let v' := if 8 < v.length then v.drop 1 else v
  let s1 := s.upDie fun d => { d with
    stampLines := ⟨la, v'⟩ :: d.stampLines.filter (fun l => l.line != la), wrote := true }
  let s2 := s1.upStrand fun x => { x with stamps := x.stamps ++ [(t, pa, b)] }
  wakeWatches pa b.length s2.fresh [] s2.useId

/-- The result of an ordering access takes its place in flight, with what its acquire gains (R216, R211). -/
def resolve (serial : Nat) (x : Word) (ids : List Nat) (l : List Inflight) : List Inflight :=
  l.flatMap fun e => match e.land with
    | .ordPend d k =>
      if k == serial then
        [⟨e.due, if d.val < 56 then .s d x else .push serial (BitVec.setWidth 8192 x)⟩, ⟨e.due, .gain ids⟩]
      else [e]
    | _ => [e]

/-- The new value of an atomic, for an operand of n bits; none when a compare fails (R193, R194). -/
def AtomOp.apply (op : AtomOp) (n old b : Nat) : Option Nat :=
  let m := b % 2 ^ n
  match op with
  | .add => some ((old + m) % 2 ^ n)
  | .min => some (if sextN old n ≤ sextN m n then old else m)
  | .max => some (if sextN old n ≤ sextN m n then m else old)
  | .and => some (old &&& m)
  | .or => some (old ||| m)
  | .xor => some (old ^^^ m)
  | .swap => some m
  | .cas new _ => if old == m then some (new.toNat % 2 ^ n) else none

/-- The order under which an atomic acts: a failed compare takes its failure order (R194). -/
def AtomOp.order (op : AtomOp) (done : Bool) (o : MemOrd) : MemOrd :=
  match op with
  | .cas _ f => if done then o else f
  | .add | .min | .max | .and | .or | .xor | .swap => o

/-- The strand's past and the releases it has read grow by an acquire (R213, R214, R217). -/
def gainPast (ids : List Nat) (heads : List Head) (s : State) : State :=
  s.upStrand fun y => { y with hb := joinIds y.hb ids, readHeads := (y.readHeads ++ heads).eraseDups }

/-- The first line with uncorrectable data that a range of vault or DRAM meets, as the cause UECC that names it (R229,
R302). -/
def ueccShared (d : Die) (pa n : Nat) : Option Trap :=
  (d.ueccLines.find? fun l => l < pa + n && pa < l + 64).map fun l =>
    { cause := .uecc, detail := if l < 0x800000000 then 4 else 5, arg := l / 64 }

/-- A result in flight replaced by a trap, taken before the bundle at which it is due (R229, R342). -/
def spoil (serial : Nat) (t : Trap) (l : List Inflight) : List Inflight :=
  l.map fun e => match e.land with
    | .ordPend d k => if k == serial then { e with land := .trap t none } else { e with land := .ordPend d k }
    | _ => e

/-- An atomic is performed: it reads and writes the word as it stands in memory (R193, R216). -/
def atomNow (op : AtomOp) (pa : Nat) (w32 : Bool) (b : Word) (o : MemOrd) (sc : Scope) (serial : Nat)
    (s : State) : State :=
  let w := if w32 then 4 else 8
  let old := natOf (memGetN s.die.mem pa w)
  let new := op.apply (8 * w) old b.toNat
  let o' := op.order new.isSome o
  let heads := headsRead s.die pa w
  let ids := if o'.acquires then syncIds sc s.core.strand.sid s.core.crewid.toNat heads else []
  let s2 := (gainPast ids heads s).upArch fun a => { a with inflight := resolve serial (wordI (sextN old (8 * w))) ids a.inflight }
  match new with
  | none => s2
  | some x =>
    let scopes := (if o'.releases then [sc] else []) ++ s.core.strand.relScopes
    ownWrites s2.fresh (writeMem pa (bytesOf w x) (headsJoined s2.die pa w ++ headsMade s2 scopes pa w) s2)

/-- An atomic on a word whose ECC cannot be corrected writes nothing, and its result traps UECC (R229; log 98, DESIGN
CHOICE). -/
def performAtom (op : AtomOp) (pa : Nat) (w32 : Bool) (b : Word) (o : MemOrd) (sc : Scope) (serial : Nat)
    (s : State) : State :=
  match ueccShared s.die pa (if w32 then 4 else 8) with
  | some t => s.upArch fun a => { a with inflight := spoil serial t a.inflight }
  | none => atomNow op pa w32 b o sc serial s

/-- n bytes of a stamped page as a strand reads them now; none when a value is no longer held (R342; log 38, DEDUCED).
-/
def stampedBytes (s : State) (pa n : Nat) : Option (List Byte) :=
  ((List.range n).map fun k => stampedByte s (ownSts s.core) (pa + k)).foldr (fun b l => match b, l with
    | some x, some y => some (x :: y)
    | _, _ => none) (some [])

/-- M.LDAQ is performed (R193, R216); on a stamped page it reads as M.LD does (R342; log 38, DEDUCED); data whose ECC
cannot be corrected spoils its result (R229). -/
def performLdaq (pa : Nat) (ty : SizeTy) (sc : Scope) (serial : Nat) (s : State) : State :=
  match ueccShared s.die pa ty.bytes with
  | some t => s.upArch fun a => { a with inflight := spoil serial t a.inflight }
  | none =>
  if isStamped s.die pa then
    match stampedBytes s pa ty.bytes with
    | some b => s.upArch fun a => { a with inflight := resolve serial (ty.extend (natOf b)) [] a.inflight }
    | none => s.upArch fun a => { a with inflight := spoil serial { cause := .horizon, detail := 2 } a.inflight }
  else
    let heads := headsRead s.die pa ty.bytes
    let ids := syncIds sc s.core.strand.sid s.core.crewid.toNat heads
    let x := ty.extend (natOf (memGetN s.die.mem pa ty.bytes))
    (gainPast ids heads s).upArch fun a => { a with inflight := resolve serial x ids a.inflight }

/-- M.FENCE is performed (R217). -/
def performFence (k : FenceKind) (sc : Scope) (s : State) : State :=
  s.upStrand fun x =>
    let ids := if k.acquires then syncIds sc x.sid s.core.crewid.toNat x.readHeads else []
    { x with view := joinIds x.view ids, hb := joinIds x.hb ids
             relScopes := if k.releases then (x.relScopes ++ [sc]).eraseDups else x.relScopes }

/-- B.GROUP.form is performed (R285). -/
def Crew.form (w : Crew) (mask : BitVec 8) : Crew :=
  if w.memb == 0 then { w with memb := mask, pend := false, epoch := w.epoch + 1 }
  else { w with next := mask, pend := true }

/-- B.GROUP.dissolve is performed (R285). -/
def Crew.dissolve (w : Crew) : Crew := if w.memb != 0 || w.pend then { w with next := 0, pend := true } else w

/-- A bit of an 8-bit mask set. -/
def setBit8 (m : BitVec 8) (j : Nat) : BitVec 8 := m ||| BitVec.twoPow 8 j
/-- A bit of an 8-bit mask cleared. -/
def clrBit8 (m : BitVec 8) (j : Nat) : BitVec 8 := m &&& ~~~(BitVec.twoPow 8 j)

/-- The spawn of a record is performed: the new strand begins with its own view (R274, R284). -/
def performSpawn (q : Fin 64) (r : Record) (addr : Nat) (s : State) : State :=
  let s1 := reservePlaces q (· - 1) s
  let s2 := if r.crew == 0xFF then s1
    else s1.upCrew r.crew.toNat fun w => { w with live := setBit8 w.live r.slotNum }
  appendRun q ⟨r, .fresh s.fresh addr, q, none⟩ s2.useId

/-- One withheld effect is performed (R216, R224, R225). -/
def perform (s : State) : Held → State
  | .store pa b => performStore pa b [] s
  | .sts pa b t => performSts pa b t s
  | .atom op pa w32 b o sc _ serial => performAtom op pa w32 b o sc serial s
  | .ldaq pa ty sc _ serial => performLdaq pa ty sc serial s
  | .strl pa b sc => performStore pa b [sc] s
  | .fence k sc => performFence k sc s
  | .push q serial x =>
    settleWaiters (s.upCrew s.core.crewid.toNat fun w =>
      { w with queues := w.queues.set q (w.queues[q] ++ [⟨serial, s.fresh, x⟩]) }).useId
  | .send serial =>
    (s.upCore fun c => { c with sq := c.sq.map fun e =>
      if e.serial == serial then { e with held := false, order := s.fresh, hb := hbOf s } else e }).useId
  | .close n => (s.upDie fun d => { d with send := d.send.set n (d.send[n].map fun x =>
      if x.closed then x else { x with closed := true, marker := some s.fresh }) }).useId
  | .spawn q r a => performSpawn q r a s
  | .form c mask => s.upCrew c fun w => w.form mask
  | .dissolve c => s.upCrew c Crew.dissolve
  | .ringFree n => s.upCore fun c =>
      { c with ringFree := if c.ringSize.toNat ≤ c.ringFree.toNat + n.toNat then c.ringSize else c.ringFree + n }
  | .dabort serial => s.upCore fun c => { c with dq := c.dq.map fun m =>
      if m.serial < serial then { m with aborted := true } else m }
  | .past ids => s.upStrand fun y => { y with hb := joinIds y.hb ids }

/-- Withheld effects are performed in order, each leaving what is withheld (R216, R225). -/
def performAll : List Held → State → State
  | [], s => s
  | h :: t, s => performAll t (perform (s.upCore fun c => { c with held := t }) h)

/-! Landing (R30, R32). -/

/-- The value of a reserved entry of a write port has landed (R58). -/
def fillPush (serial : Nat) (x : VWord) (s : State) : State :=
  let w : Word := BitVec.ofNat 64 x.toNat
  let q (l : List QEnt) : List QEnt := l.map fun e => if e.serial == serial && e.x.isNone then { e with x := some w } else e
  let s1 := s.upCore fun c => { c with
    held := c.held.map fun h => match h with
      | .push k n y => if n == serial then .push k n (some w) else .push k n y
      | h => h
    sq := c.sq.map fun e => match e.op with
      | .portSend len none => if e.serial == serial then { e with op := .portSend len (some x) } else e
      | _ => e }
  settleWaiters (s1.upCrew s.core.crewid.toNat fun k => { k with queues := k.queues.map q })

/-- Two rows of a tile from a register image (R135). -/
def putTile (k q : Nat) (x : VWord) (s : State) : State :=
  match bankOf s k with
  | none => s
  | some b => s.upEngine fun e => { e with banks := vmod e.banks b fun st => st.setN (1024 * q) (toBytes x) }

/-- A control register takes a value written by S.CWR: only the registers that strands may write (R102, R103; log 80,
DEDUCED). -/
def Arch.setCreg (a : Arch) (c : CReg) (x : Word) : Arch :=
  match c with
  | .shape => { a with shape := x &&& 0x0000000307FF01FF }
  | .qsl => { a with qsl := x }
  | .ttbase => { a with ttbase := x &&& ~~~(0x3F : Word) }
  | .lc n => { a with loops := a.loops.set n { a.loops[n] with rem := BitVec.ofNat 32 x.toNat } }
  | .allow | .paced | .budget | .diecfg | .dbgctl | .trappc | .trapinfo | .ckptpc | .rpc | .matmode | .tagdone
  | .tagerr | .crewid | .strandid | .stage | .partid | .rvzto | .clkw | .horizon | .feat | .mcrev | .numv
  | .ls _ | .le _ => a

/-- A staging register takes a value (R102). -/
def Arch.setGreg (a : Arch) (g : GReg) (x : Word) : Arch :=
  match g with
  | .mg n => { a with mg := a.mg.set n x }
  | .cg n => { a with cg := a.cg.set n x }
  | .dg n => { a with dg := a.dg.set n x }
  | .lg n => { a with lg := a.lg.set n x }

/-- A register written anew has good ECC (R229; log 62, DEDUCED). -/
def Core.mend (c : Core) (n : Nat) : Core := { c with ueccRegs := c.ueccRegs.filter (· != n) }

/-- Whether an 8-byte word overlaps a range. -/
def wordHits (w lo n : Nat) : Bool := w / 8 * 8 < lo + n && lo < w / 8 * 8 + 8

/-- Bytes of a level written anew have good ECC where whole words are covered (R229). -/
def Core.mendMem (c : Core) (level lo n : Nat) : Core :=
  { c with ueccMem := c.ueccMem.filter fun w => !(w.1 == level && lo ≤ w.2 / 8 * 8 && w.2 / 8 * 8 + 8 ≤ lo + n) }

/-- One result lands (R30, R56, R100; log 33, DEDUCED). -/
def landOne (s : State) : Land → State
  | .s r x => (if r.val == 0 then s else s.upArch fun a => { a with s := a.s.set r x }).upCore (·.mend r.val)
  | .v r x => (s.upArch fun a => { a with v := a.v.set r x }).upCore (·.mend (64 + r.val))
  | .p r x => (s.upArch fun a => { a with p := setPred a r x }).upCore (·.mend (96 + r.val))
  | .m r x => (if r.val == 0 then s else s.upArch fun a => { a with m := a.m.set r x }).upCore (·.mend (112 + r.val))
  | .creg c x => s.upArch fun a => a.setCreg c x
  | .greg g x => s.upArch fun a => a.setGreg g x
  | .spill k x => (s.upArch fun a => { a with spill := a.spill.setN (8 * k.val) (bytesOf 8 x.toNat) }).upCore
      (·.mendMem 2 (8 * k.val) 8)
  | .lqo x => s.upArch fun a => { a with lqo := x }
  | .table k x => (s.upArch fun a => { a with tables := a.tables.setN (1024 * k.val) (toBytes x) }).upCore
      (·.mendMem 6 (1024 * k.val) 1024)
  | .push serial x => fillPush serial x s
  | .gain ids => s.upStrand fun y => { y with view := joinIds y.view ids }
  | .tile a q x => putTile a.val q x s
  | .stat k u n ba => s.upCore fun c => c.stat k u n ba
  | .ordPend .. => s
  | .asOf .. => s
  | .trap .. => s

/-- Whether a result lands by itself when it is due; the others are settled before the bundle at which they are due
(R216, R229, R344). -/
def Land.ripe : Land → Bool
  | .ordPend .. | .asOf .. | .trap .. => false
  | _ => true

/-- The scalar register that a result is for. -/
def Land.sreg : Land → Option SReg
  | .s r _ | .ordPend r _ | .asOf r .. => if r.val < 56 then some r else none
  | _ => none

/-- The results that land now, in the order of their issue, and those that stay in flight. A result that is due and is
settled later holds back those of its register that were issued after it (R32). -/
def splitDue : List SReg → List Inflight → List Land × List Inflight
  | _, [] => ([], [])
  | held, e :: t =>
    if e.due != 0 then let r := splitDue held t; (r.1, e :: r.2)
    else if !e.land.ripe then let r := splitDue (e.land.sreg.toList ++ held) t; (r.1, e :: r.2)
    else if e.land.sreg.any held.contains then let r := splitDue held t; (r.1, e :: r.2)
    else let r := splitDue held t; (e.land :: r.1, r.2)

/-- The results that are due land, those issued later last (R32). -/
def landDue (s : State) : State :=
  let r := splitDue [] s.core.arch.inflight
  r.1.foldl landOne (s.upArch fun a => { a with inflight := r.2 })

/-- Every result in flight comes one bundle nearer (R30). -/
def advance (s : State) : State :=
  s.upArch fun a => { a with inflight := a.inflight.map fun e => { e with due := e.due - 1 } }

/-! The loop end test (R109). -/

/-- The predicates of the stages shifted: p(12+k) takes p(11+k) for k = K down to 1, and p12 the value given. -/
def shiftStages (p : Preds) (k : Nat) (x : Bool) : Preds :=
  let get (i : Nat) : Nat := (p.toNat / 2 ^ i) % 2
  let bit (i : Nat) : Nat := if i == 12 then x.toNat else if 13 ≤ i && i ≤ 12 + k then get (i - 1) else get i
  BitVec.ofNat 16 (packN 1 ((List.range 16).map bit))

/-- Whether any of p12 to p(12+k) is 1. -/
def anyStage (p : Preds) (k : Nat) : Bool := (List.range (k + 1)).any fun i => p.toNat.testBit (12 + i)

/-- The end test of one level at the bundle that ends it: the new state, and whether it loops back. -/
def levelTest (a : Arch) (n : Fin 3) (pre : Bool) : Arch × Bool :=
  let l := a.loops[n]
  let start := l.rem != 0 && !pre
  let l1 := if start then { l with rem := l.rem - 1 } else l
  let p := if l.pipe then shiftStages a.p l.stg.val start else a.p
  let again := if l.pipe then anyStage p l.stg.val else start
  let l2 := if again then l1 else { l1 with act := false, drained := l1.rem != 0 }
  ({ a with loops := a.loops.set n l2, p := p }, again)

/-- `endtest` (R109): levels 2 down to 0; the first that loops back gives the next bundle. -/
def endTest (ba : Nat) (pre : Bool) : List (Fin 3) → Arch → Arch × Option (BitVec 56)
  | [], a => (a, none)
  | n :: t, a =>
    if a.loops[n].act && a.loops[n].le.toNat == ba then
      let r := levelTest a n pre
      if r.2 then (r.1, some r.1.loops[n].ls) else endTest ba pre t r.1
    else endTest ba pre t a

/-- The sustained accounts after one issued bundle (R39). -/
def occNext : List (Nat × Nat) → List (Nat × Nat)
  | [] => []
  | (n, w) :: t => if n ≤ 1 then t else (n - 1, w) :: t

/-- The end of an issued bundle: the repeat's next iteration or the end test gives the next bundle, BUDGET falls,
the sustained accounts advance, and the results that are due land (R30, R39, R109, R111, R276; log 34, DEDUCED). -/
def finishBundle (s : State) : State :=
  if s.core.issue.finished then s
  else
    let c := s.core
    let rpc := c.arch.rpc
    let s1 :=
      if rpc.act && !c.issue.taken then
        if rpc.iter.toNat + 1 < rpc.count.toNat then
          s.upCore fun k => { k with pc := BitVec.ofNat 56 c.issue.ba
                                     arch := { k.arch with rpc := { rpc with iter := rpc.iter + 1 } } }
        else s.upCore fun k => { k with pc := BitVec.ofNat 56 c.issue.nb
                                        arch := { k.arch with rpc := { rpc with act := false } } }
      else if c.issue.taken then s
      else
        let r := if c.hnd then (c.arch, none) else endTest c.issue.ba (preOf s) [2, 1, 0] c.arch
        s.upCore fun k => { k with arch := r.1, pc := r.2.getD (BitVec.ofNat 56 c.issue.nb) }
    landDue (advance (s1.upCore fun k => { k with
      left := k.left - 1, occ := occNext k.occ, issue := { k.issue with finished := true } }))

/-! The commit (R225). -/

/-- An entry popped in the segment is freed; a slot popped by a port returns its credit (R59, R326). -/
def freePopped (s : State) : Popped → State
  | .slot n _ true => s.upDie fun d => { d with recv := d.recv.set n (d.recv[n].map fun r =>
      { r with owed := r.owed + 1 }) }
  | _ => s

/-- Held commands are released (R152, R202, R328, R364). -/
def Core.released (c : Core) : Core :=
  { c with
    matq := c.matq.map fun m => { m with held := false, seg := false }
    dq := c.dq.map fun m => { m with held := false, seg := false }
    copyq := c.copyq.map fun m => { m with held := false }
    sq := c.sq.map fun m => { m with held := false }
    geo := c.geo.map fun g => { g with seg := false } }

/-- The checkpoint of R224, with the restart address and the tiles' shadows; what the strand's operations have put
before its next ones happens before the next phase too (R213). -/
def takeCheckpoint (next : BitVec 56) (s : State) : State :=
  (s.upCore fun c => { c with
    ck := c.arch, ckStrand := c.strand, undo := [], seg := .zero, retried := false, hnd := false, ckptpc := next
    shadow := tileShadows s }).upDie fun d => { d with acc := joinIds d.acc s.core.strand.hb }

/-- The commit of a segment: withheld effects in program order, releases, freed entries, then the checkpoint
(R225, R216). -/
def commitSegment (next : BitVec 56) (s : State) : State :=
  let s1 := performAll s.core.held s
  let s2 := waitHead (s1.upCore fun c => { c.released with held := [] })
  let s3 := landDue s2
  let s4 := s3.core.popped.foldl freePopped s3
  takeCheckpoint next (s4.upCore fun c => { c with popped := [] }.lostRecord)

/-- Whether some matrix command of the open segment that the commit waits for has not finished: every one but an
X.ASAVE, which starts only after the commit (R152, R225). -/
def matrixPending (c : Core) : Bool := c.matq.any fun m => m.seg && !m.held

/-! The order of checks at issue (R36). -/

/-- What a syllable does at issue: the registers its entry names, the traps it raises, the conditions that freeze it,
and its effect once its ports are popped. -/
structure Syl where
  /-- Registers read at issue. -/
  srcs : List Reg := []
  /-- Registers written. -/
  dsts : List Reg := []
  /-- Registers read beyond the source fields: a masked merge (R35). -/
  also : List Reg := []
  /-- Source fields of which no word is read (R35). -/
  quiet : List Reg := []
  /-- Data not yet there: an absent slot (R34). -/
  late : Bool := false
  /-- The entry's own checks (R36 step 2). -/
  trap : Option Trap := none
  /-- The limits of R226. -/
  limit : Option Trap := none
  /-- A full queue or the scoreboard (R36 step 3). -/
  stall : Option Freeze := none

/-- Whether a result is in flight to a register; an entry of a port is never pending (R35; log 28, DEDUCED). -/
def pending (a : Arch) (r : Reg) : Bool :=
  a.inflight.any fun e => match e.land, r with
    | .s x _, .s y => x == y && y.val != 0 && y.val < 56
    | .ordPend x _, .s y => x == y && y.val != 0 && y.val < 56
    | .asOf x _ _ _ _ _, .s y => x == y && y.val != 0 && y.val < 56
    | .v x _, .v y => x == y && y.val < 28
    | .p x _, .p y => x == y && y.val != 0
    | .m x _, .m y => x == y && y.val != 0
    | _, _ => false

/-- The registers of which a syllable reads a word at issue (R35). -/
def Syl.reads (y : Syl) : List Reg := (y.srcs.filter fun r => !y.quiet.contains r) ++ y.also

/-- PENDREAD under DBGCTL.PEND (R35; log 28, DEDUCED). -/
def pendTrap (s : State) (l : List Reg) : Option Trap :=
  if s.die.dbgPend then (l.find? (pending s.core.arch)).map fun r => { cause := .pendread, arg := r.num } else none

/-- Whether a register lies within the strand's allotment (R241; log 81, DEDUCED). -/
def allotted (k : Option Kernel) : Reg → Bool
  | .s r => match k with
    | none => true
    | some k => r.val < 10 + k.regs || 56 ≤ r.val || r.val < 10
  | .v r => match k with
    | none => true
    | some k => r.val < k.vregs || 28 ≤ r.val
  | .p _ => true
  | .m _ => true
  | .a _ => true

/-- ALLOT (R241; log 81, DEDUCED). -/
def allotTrap (s : State) (l : List Reg) : Option Trap :=
  (l.find? fun r => !allotted (curKernel s) r).map fun r => { cause := .allot, arg := r.num }

/-- The trap of one port use (R277, R328, R330, R334, R335). -/
def portTrap (s : State) : Reg → Option Trap
  | .s r => portUse s (slotTaken s.core false) r.val
  | .v r => portUse s (slotTaken s.core true) (if r.val == 30 then 62 else if r.val == 31 then 63 else 0)
  | .p _ => none
  | .m _ => none
  | .a _ => none
where
  /-- A use of the port that scalar number n names, taking a slot of the receive stream; v30 and v31 share the streams
  of s62 and s63. -/
  portUse (s : State) (slot n : Nat) : Option Trap :=
    if 56 ≤ n && n < 60 then (if crewed s.core then none else some { cause := .group, detail := 2 })
    else if n == 62 then
      match recvPort s.core with
      | none => some { cause := .link, detail := 2 }
      | some k =>
        if atEnd s.die k slot then some { cause := .link, detail := 4, arg := k.val }
        else if recvBroken s.die k slot then some { cause := .link, detail := 5, arg := k.val }
        else none
    else if n == 63 then
      match s.core.arch.sendBind with
      | none => some { cause := .link, detail := 2 }
      | some k => match s.die.send[k] with
        | none => some { cause := .link, detail := 1, arg := k.val }
        | some x =>
          if x.closed then some { cause := .link, detail := 4, arg := k.val }
          else if x.broken then some { cause := .link, detail := 5, arg := k.val }
          else if 16 ≤ s.core.sq.length && s.core.sq.all (·.held) then
            some { cause := .link, detail := 6, arg := k.val }
          else none
    else none

/-- An uncorrectable register read at issue (R229). -/
def ueccTrap (s : State) (l : List Reg) : Option Trap :=
  (l.find? fun r => s.core.ueccRegs.contains r.num).map fun r => { cause := .uecc, detail := 1, arg := r.num }

/-- The limits of R226 on writes to ports. -/
def portLimit (s : State) : Reg → Option Trap
  | .s r =>
    if 56 ≤ r.val && r.val < 60 && 16 ≤ s.core.seg.pushes then some { cause := .segment, detail := 5 }
    else if r.val == 63 && 16 ≤ s.core.seg.sends then some { cause := .segment, detail := 4 }
    else none
  | .v r => if r.val == 31 && 16 ≤ s.core.seg.sends then some { cause := .segment, detail := 4 } else none
  | .p _ => none
  | .m _ => none
  | .a _ => none

/-- The first trap of a syllable at issue (R36 step 2; log 19, DEDUCED). -/
def sylTrap (s : State) (y : Syl) : Option Trap :=
  (pendTrap s y.reads).orElse fun _ =>
  (allotTrap s (y.dsts ++ y.srcs)).orElse fun _ =>
  ((y.srcs ++ y.dsts).findSome? (portTrap s)).orElse fun _ =>
  (ueccTrap s y.reads).orElse fun _ =>
  y.trap.orElse fun _ =>
  y.limit.orElse fun _ =>
  y.dsts.findSome? (portLimit s)

/-- The freeze of a syllable at issue (R36 step 3). -/
def sylStall (s : State) (y : Syl) : Option Freeze :=
  if y.dsts.any (portFull s) then some .scoreboard else y.stall

/-- THE ISSUE of one syllable whose guard is true, in the order of R36: data not there, then traps, then a full queue
or the scoreboard, then its effect. -/
def issue (s : State) (y : Syl) (effect : State → State) : Host.Outcome State Fault Refusal :=
  if y.late || y.srcs.any (portEmpty s) then .next (s.ended (.frozen .emptyPort))
  else match sylTrap s y with
    | some t => .next (trapHere t s)
    | none => match sylStall s y with
      | some f => .next (s.ended (.frozen f))
      | none => .next (effect (popAll (dedupR y.srcs) s))

end Machine

end Sys2Proof
end

