-- ==== Sys2Proof/Machine/Access.lean ====
section
/-! DEFINITION. Accesses of the core to its scratchpad and to shared memory: the checks of spec/10 R188 in order, the
scoreboard of R206 to R208, what is read (spec/10 R185, spec/11 R210, spec/21 R342) and what is withheld (R224). -/

namespace Sys2Proof.Machine

/-- A piece of an access: scratchpad bytes, or physical bytes of one page. -/
inductive Piece where
  | spad (off n : Nat)
  | mem (pa n : Nat) (stamp : Bool)
  deriving DecidableEq, Repr

/-- Cause MEMORY (R188). -/
def memTrap (detail : Nat) : Trap := { cause := .memory, detail := detail }

/-- The kind of an access, carried in `arg` for a demand fault: 0 read, 1 write, 2 fetch (R321). -/
def Access.kind : Access → Nat
  | .rd => 0
  | .wr | .atom => 1
  | .ex => 2

/-- The bytes of vault or DRAM that a read of a physical byte consumes (R187, R229). -/
def readHomes (d : Die) (part pa : Nat) : List Nat :=
  match serve d part pa with
  | .mem a => [a]
  | .expand at' t raw off => (List.range t).map (at' + ·)
      ++ if headerEscapes (natOf (memGetN d.mem at' 8)) then [raw + off] else []
  | .l8 code _ pad => if pad then [] else [code, code + 1]

/-- Whether a physical byte lies in the vault or the DRAM of a die (R9, R183). -/
def hasMemory (d : Die) (a : Nat) : Bool := levelOf d.ncrew a == .vault || levelOf d.ncrew a == .dram

/-- The first of n bytes of a window whose buffer does not lie in vault or DRAM, as in the hole that a lesser grade leaves
(R9, R186); a write may need the raw area too (log 105, DEDUCED). -/
def bufferHole (d : Die) (part : Nat) (k : Access) (pa n : Nat) : Option Nat :=
  if levelOf d.ncrew pa != .window then none
  else (List.range n).find? fun i =>
    !(if k.kind == 1 then (serve d part (pa + i)).homes else readHomes d part (pa + i)).all (hasMemory d)

/-- Pieces of virtual bytes translated in order; a fault names the lowest address that fails (R318, R319; log 42,
DEDUCED). -/
def locatePieces (s : State) (k : Access) : List (Nat × Nat) → Except Trap (List Piece)
  | [] => .ok []
  | (va, n) :: t =>
    match translate s.pkg s.die (partNum s) va k with
    | .error c => .error { cause := c, addr := va, arg := k.kind }
    | .ok x => match bufferHole s.die (partNum s) k x.pa n with
      | some i => .error { cause := .absent, addr := va + i, arg := k.kind }
      | none => match locatePieces s k t with
        | .error e => .error e
        | .ok l => .ok (.mem x.pa n x.stamp :: l)

/-- The pieces of a range outside the local window, translated (R318). -/
def locateShared (s : State) (k : Access) (va n : Nat) : Except Trap (List Piece) := locatePieces s k (pieces va n)

/-- Steps 2 and 4 of R188 for one range, after its alignment is checked. -/
def locate (s : State) (k : Access) (va n : Nat) : Except Trap (List Piece) :=
  if inLocal va then
    if spadSize < va + n then .error (memTrap 2) else .ok [.spad va n]
  else locateShared s k va n

/-- The failure of an attempt, if any. -/
def errOf {α : Type} : Except Trap α → Option Trap
  | .error t => some t
  | .ok _ => none

/-- What an attempt gives, or a default. -/
def okOr {α : Type} (d : α) : Except Trap α → α
  | .error _ => d
  | .ok a => a

/-- Several ranges: the failure of the lowest virtual address traps, whatever the order of the ranges; the pieces are
in their order (R318, R319). -/
def locateAll (s : State) (k : Access) (n : Nat) (vas : List Nat) : Except Trap (List Piece) :=
  match (sortBy (fun a b => a ≤ b) vas).findSome? fun va => errOf (locate s k va n) with
  | some t => .error t
  | none => .ok (vas.flatMap fun va => okOr [] (locate s k va n))

/-- Whether a piece goes through an aperture other than IDENTITY (R193). -/
def notIdentity (s : State) : Piece → Bool
  | .spad .. => true
  | .mem pa _ _ => match apertureAt s.die (partNum s) pa with
    | none => false
    | some i => wbits s.die.aps[i].ctl 3 1 != 0

/-- Whether a piece lies in an L8VIEW window (R187). -/
def inL8View (s : State) : Piece → Bool
  | .spad .. => false
  | .mem pa _ _ => match apertureAt s.die (partNum s) pa with
    | none => false
    | some i => 3 ≤ wbits s.die.aps[i].ctl 3 1

/-- Whether a piece lies in a stamped page, or is served through a window from bytes that do (R341, R342). -/
def inStamped (s : State) : Piece → Bool
  | .spad .. => false
  | .mem pa n st => st || (!s.die.stampPages.isEmpty && (List.range n).any fun k =>
      (serve s.die (partNum s) (pa + k)).homes.any (isStamped s.die))

/-- A byte of vault or DRAM as an issuer sees it: through stamps in a stamped page, else in its view (R210, R342). -/
def seeMem (s : State) (sn : Snap) (stamp : Bool) (a : Nat) : Except Trap Byte :=
  if stamp || isStamped s.die a then
    match stampedByte s sn.sts a with
    | some b => .ok b
    | none => .error { cause := .horizon, detail := 2 }
  else .ok (seeByte s.die sn a)

/-- n bytes of vault or DRAM as an issuer sees them. -/
def seeMemN (s : State) (sn : Snap) (a : Nat) : Nat → Except Trap (List Byte)
  | 0 => .ok []
  | n + 1 => match seeMem s sn false a with
    | .error t => .error t
    | .ok b => match seeMemN s sn (a + 1) n with
      | .error t => .error t
      | .ok l => .ok (b :: l)

/-- The bytes of an expanded block as an issuer sees them (R86, R87). -/
def seeBlock (s : State) (sn : Snap) (at' t raw : Nat) : Except Trap (List Byte) :=
  match seeMemN s sn at' t with
  | .error e => .error e
  | .ok st => match (if headerEscapes (natOf (st.take 8)) then seeMemN s sn raw 256 else .ok []) with
    | .error e => .error e
    | .ok r => match expandBlock st r with
      | some l => .ok l
      | none => .error { cause := .format, detail := 3 }

/-- A byte of shared memory as an issuer sees it, through apertures and stamps (R187, R210, R342). -/
def seeShared (s : State) (sn : Snap) (part : Nat) (stamp : Bool) (pa : Nat) : Except Trap Byte :=
  match serve s.die part pa with
  | .mem a => seeMem s sn stamp a
  | .expand at' t raw off =>
    match ownByte sn.own pa with
    | some b => .ok b
    | none => match seeBlock s sn at' t raw with
      | .error e => .error e
      | .ok l => .ok (nth l off 0)
  | .l8 code j pad =>
    if pad then .ok 0
    else match seeMemN s sn code 2 with
      | .error e => .error e
      | .ok c => .ok (BitVec.ofInt 8 (l8Twice (natOf c) j))

/-- n bytes as an issuer sees them. -/
def seeN (s : State) (sn : Snap) (part : Nat) (stamp : Bool) (pa : Nat) : Nat → Except Trap (List Byte)
  | 0 => .ok []
  | n + 1 =>
    match seeShared s sn part stamp pa with
    | .error t => .error t
    | .ok b => match seeN s sn part stamp (pa + 1) n with
      | .error t => .error t
      | .ok l => .ok (b :: l)

/-- n bytes of the scratchpad as a command reads them: a store of the command's own bundle does not change them (R27,
R149). -/
def seeSpad (c : Core) (sn : Snap) (off n : Nat) : List Byte :=
  if sn.spad.isEmpty then memGetN c.spad off n
  else (List.range n).map fun k => (ownByte sn.spad (off + k)).getD (memGet c.spad (off + k))

/-- The bytes of an access, in order. -/
def readPieces (s : State) (sn : Snap) : List Piece → Except Trap (List Byte)
  | [] => .ok []
  | .spad off n :: t =>
    match readPieces s sn t with
    | .error e => .error e
    | .ok l => .ok (seeSpad s.core sn off n ++ l)
  | .mem pa n st :: t =>
    match seeN s sn (partNum s) st pa n with
    | .error e => .error e
    | .ok b => match readPieces s sn t with
      | .error e => .error e
      | .ok l => .ok (b ++ l)

/-! The scoreboard (R206 to R208). -/

/-- A command's footprints, with the trap that an access takes which would wait on it while it is held by the access's
own segment (R208, R152). -/
structure Watcher where
  foots : List Foot
  held : Bool
  trap : Trap

/-- COPY, HELD (R208). -/
def copyHeld (tag : Nat) : Trap := { cause := .copy, detail := 5, arg := tag }
/-- MATRIX, HELD (R152). -/
def matrixHeld (k : Nat) : Trap := { cause := .matrix, detail := 9, arg := 120 + k }

/-- Whether a command is none of those that the issuing bundle itself has entered (R27). -/
def Issue.before (i : Issue) (serial : Nat) : Bool := match i.since with
  | Option.none => true
  | Option.some n => serial < n

/-- Every command with footprints in the core's scoreboard, those of the issuing bundle apart. -/
def watchers (c : Core) : List Watcher :=
  (c.matq.filter fun m => c.issue.before m.serial).map (fun m => ⟨m.foots, m.held, matrixHeld m.tile⟩)
  ++ (c.dq.filter fun m => c.issue.before m.serial).map (fun m => ⟨m.foots, m.held, match m.op with
      | .pp _ k _ _ _ _ _ _ _ => matrixHeld k
      | _ => copyHeld ((m.tag.getD 0).val)⟩)
  ++ (c.copyq.filter fun m => c.issue.before m.serial).map (fun m => ⟨m.foots, m.held, copyHeld m.tag.val⟩)
  ++ (c.sq.filter fun m => c.issue.before m.serial).map fun m => ⟨m.foots, m.held, copyHeld ((m.tag.getD 0).val)⟩

/-- Whether a range of scratchpad bytes overlaps a footprint that the access must wait for: a load waits on write
ranges, a store on any (R207). -/
def Foot.blocks (f : Foot) (wr : Bool) (off n : Nat) : Bool :=
  (wr || f.wr) && f.len != 0 && n != 0 && f.lo < off + n && off < f.lo + f.len

/-- The commands that scratchpad ranges must wait for. -/
def blockers (c : Core) (wr : Bool) (l : List (Nat × Nat)) : List Watcher :=
  (watchers c).filter fun w => w.foots.any fun f => l.any fun r => f.blocks wr r.1 r.2

/-- The scratchpad ranges of an access. -/
def spadRanges (l : List Piece) : List (Nat × Nat) := l.filterMap fun p => match p with
  | .spad off n => some (off, n)
  | .mem .. => none

/-- The trap of an access that would wait on a command held by its own segment (R208). -/
def heldTrap (c : Core) (wr : Bool) (l : List (Nat × Nat)) : Option Trap :=
  ((blockers c wr l).find? (·.held)).map (·.trap)

/-- The freeze of an access that waits on a footprint (R207; log 83, DEDUCED). -/
def spadStall (c : Core) (wr : Bool) (l : List (Nat × Nat)) : Option Freeze :=
  if (blockers c wr l).isEmpty then none else some .scoreboard

/-! Uncorrectable data that a load receives (R229). -/

/-- The first bad word or line among the pieces of a load, with the cause UECC that names it (R302). -/
def ueccPieces (s : State) : List Piece → Option Trap
  | [] => none
  | .spad off n :: t =>
    match s.core.ueccMem.find? fun w => w.1 == 3 && wordHits w.2 off n with
    | some w => some { cause := .uecc, detail := 3, arg := w.2 / 8 * 8 }
    | none => ueccPieces s t
  | .mem pa n _ :: t =>
    if s.die.ueccLines.isEmpty then ueccPieces s t
    else match (List.range n).findSome? fun k =>
        (readHomes s.die (partNum s) (pa + k)).findSome? fun a => ueccShared s.die a 1 with
      | some e => some e
      | none => ueccPieces s t

/-! Loads. -/

/-- What a load finds: a trap at issue, or bytes, with the trap that its result meets when it lands. -/
inductive Loaded where
  | trap (t : Trap)
  | got (ps : List Piece) (b : List Byte) (landing : Option Trap)
  deriving DecidableEq, Repr

/-- What reading the pieces of a load of n bytes finds (R185, R229, R342). -/
def loadPieces (s : State) (n : Nat) (ps : List Piece) : Loaded :=
  match readPieces s (snapOf s) ps with
  | .ok b => .got ps b (ueccPieces s ps)
  | .error t => if t.cause == .horizon then .got ps (List.replicate n 0) (some t) else .trap t

/-- A load of ranges of n bytes each at the addresses given, aligned to `align` (R188, R185, R342, R229). -/
def loadAt (s : State) (align n : Nat) (vas : List Nat) : Loaded :=
  if vas.any fun va => va % align != 0 then .trap (memTrap 1)
  else match locateAll s .rd n vas with
    | .error t => .trap t
    | .ok ps =>
      match heldTrap s.core false (spadRanges ps) with
      | some t => .trap t
      | none => loadPieces s (n * vas.length) ps

/-- The trap of a load at issue. -/
def Loaded.fault : Loaded → Option Trap
  | .trap t => some t
  | .got .. => none
/-- The bytes of a load. -/
def Loaded.bytes : Loaded → List Byte
  | .trap _ => []
  | .got _ b _ => b
/-- The scoreboard freeze of a load. -/
def Loaded.stall (c : Core) : Loaded → Option Freeze
  | .trap _ => none
  | .got ps _ _ => spadStall c false (spadRanges ps)
/-- The trap that the result meets, placed in flight at the load's latency: EVICTED names the load's bundle, UECC the
bundle at which the result is due (R229, R342). -/
def Loaded.landing (l : Loaded) (k : Nat) (s : State) : State :=
  match l with
  | .got _ _ (some t) =>
    s.flight k (.trap t (if t.cause == .horizon then some s.core.issue.ba else none))
  | _ => s

/-! Stores. -/

/-- What a store finds: a trap at issue, or the pieces it writes. -/
inductive Stored where
  | trap (t : Trap)
  | at' (ps : List Piece)
  deriving DecidableEq, Repr

/-- Whether a piece lies in an EXPAND window, so that a write of it reads the old block (R87). -/
def inExpand (s : State) : Piece → Bool
  | .spad .. => false
  | .mem pa _ _ => match serve s.die (partNum s) pa with
    | .expand .. => true
    | .mem _ => false
    | .l8 .. => false

/-- Whether a block that a store through an EXPAND window rewrites is corrupt (R87, R88). -/
def corruptBlock (s : State) : Piece → Bool
  | .spad .. => false
  | .mem pa n _ => (List.range n).any fun k => match serve s.die (partNum s) (pa + k) with
    | .expand at' t raw _ => (k == 0 || (pa + k) % 256 == 0)
      && (errOf (seeBlock s (snapOf s) at' t raw)).any fun e => e.cause == .format
    | .mem _ => false
    | .l8 .. => false

/-- A store to ranges of n bytes each (R188 steps 1 to 5, R342, R229, R88, R208). -/
def storeAt (s : State) (align n : Nat) (vas : List Nat) : Stored :=
  if vas.any fun va => va % align != 0 then .trap (memTrap 1)
  else match locateAll s .wr n vas with
    | .error t => .trap t
    | .ok ps =>
      if ps.any (inL8View s) then .trap (memTrap 4)
      else if ps.any (inStamped s) then .trap { cause := .stampspace, detail := 2 }
      else match (ueccPieces s (ps.filter (inExpand s))).orElse fun _ =>
          if ps.any (corruptBlock s) then some { cause := .format, detail := 3 }
          else heldTrap s.core true (spadRanges ps) with
        | some t => .trap t
        | none => .at' ps

/-- The trap of a store at issue. -/
def Stored.fault : Stored → Option Trap
  | .trap t => some t
  | .at' _ => none
/-- The pieces of a store. -/
def Stored.pieces : Stored → List Piece
  | .trap _ => []
  | .at' ps => ps
/-- The scoreboard freeze of a store. -/
def Stored.stall (c : Core) : Stored → Option Freeze
  | .trap _ => none
  | .at' ps => spadStall c true (spadRanges ps)

/-- The 64-byte lines of a scratchpad range. -/
def linesOf (off n : Nat) : List Nat :=
  if n == 0 then [] else (List.range ((off + n - 1) / 64 - off / 64 + 1)).map (off / 64 + ·)

/-- The lines that the segment has not yet written. -/
def newLines (c : Core) (l : List (Nat × Nat)) : List Nat :=
  ((l.flatMap fun r => linesOf r.1 r.2).eraseDups).filter fun x => !(c.undo.any fun u => u.1 == 64 * x)

/-- The limit on scratchpad lines and on bytes of other stores (R226). -/
def storeLimit (c : Core) (spad : List (Nat × Nat)) (bytes : Nat) : Option Trap :=
  if 512 < c.undo.length + (newLines c spad).length then some { cause := .segment, detail := 1 }
  else if 16384 < c.seg.bytes + (bytes + 7) / 8 * 8 then some { cause := .segment, detail := 2 }
  else none

/-- Bytes of a store that go to vault or DRAM. -/
def sharedBytes (l : List Piece) : Nat := (l.map fun p => match p with
  | .spad .. => 0
  | .mem _ n _ => n).foldl (· + ·) 0

/-- The snapshot of a command of the issuing bundle keeps the bytes of its footprints that a store of the bundle
overwrites (R27, R149). -/
def Core.keepOld (c : Core) (off n : Nat) (serial : Nat) (foots : List Foot) (sn : Snap) : Snap :=
  if !c.issue.before serial && foots.any (fun f => f.blocks true off n) then
    { sn with spad := sn.spad ++ [(off, memGetN c.spad off n)] }
  else sn

/-- Bytes written into the scratchpad: the old image of each new line is kept in the undo log (R185, R224), and the
commands of the bundle keep what they read (R149). -/
def Core.putSpad (c : Core) (off : Nat) (b : List Byte) : Core :=
  let keep := c.keepOld off b.length
  { c.mendMem 3 off b.length with
    undo := c.undo ++ (newLines c [(off, b.length)]).map fun x => (64 * x, memGetN c.spad (64 * x) 64)
    spad := memSetN c.spad off b
    matq := c.matq.map fun m => { m with snap := keep m.serial m.foots m.snap }
    dq := c.dq.map fun m => { m with snap := keep m.serial m.foots m.snap }
    copyq := c.copyq.map fun m => { m with snap := keep m.serial m.foots m.snap }
    sq := c.sq.map fun m => { m with snap := keep m.serial m.foots m.snap } }

/-- The stretches of physical bytes that lie together at their home: cut where a byte's home does not follow the one
before it, and at each block of an EXPAND window (R187). -/
def homeRuns (d : Die) (part pa : Nat) : List Byte → List (Nat × List Byte)
  | [] => []
  | b :: t =>
    let h := homeOf d part pa
    match homeRuns d part (pa + 1) t with
    | (h2, l) :: r => if h2 == h + 1 && (h2 % 256 != 0 || h2 < 0x2000000000000) then (h, b :: l) :: r else (h, [b]) :: (h2, l) :: r
    | [] => [(h, [b])]

/-- Bytes of a store to shared memory, withheld (R224). -/
def withhold (f : Nat → List Byte → Held) (pa : Nat) (b : List Byte) (s : State) : State :=
  s.upCore fun c => { c with
    held := c.held ++ (homeRuns s.die (partNum s) pa b).map fun r => f r.1 r.2 }

/-- The bytes of a store put at its pieces: scratchpad bytes at once, others withheld (R185, R224). -/
def putPieces (f : Nat → List Byte → Held) : List Piece → List Byte → State → State
  | [], _, s => s
  | .spad off n :: t, b, s => putPieces f t (b.drop n) (s.upCore fun c => c.putSpad off (b.take n))
  | .mem pa n _ :: t, b, s => putPieces f t (b.drop n) (withhold f pa (b.take n) s)

/-- Bytes of other stores counted toward R226. -/
def countBytes (n : Nat) (s : State) : State :=
  s.upCore fun c => { c with seg := { c.seg with bytes := c.seg.bytes + (n + 7) / 8 * 8 } }

/-- A plain store. -/
def storePut (ps : List Piece) (b : List Byte) (s : State) : State :=
  countBytes (sharedBytes ps) (putPieces .store ps b s)

/-- The effective address of R188. -/
def effAddr (a : Word) (imm : BitVec 16) : Nat := (wordI (a.toNat + imm.toInt)).toNat % 2 ^ 56

end Sys2Proof.Machine
end

