-- ==== Sys2Proof/Machine/Flags.lean ====
section
/-! DEFINITION. The flags of this hardware: the events of spec/05 R69 to R75 counted by kind and appended as
statistics records when a syllable's results land (R75, R91). There is no flag register. -/

namespace Sys2Proof.Machine

/-- Units of a statistics record (R91). -/
inductive StatUnit where
  | scalar | vector | special | matrix | postproc | copy | decode | stream
  deriving DecidableEq, Repr

/-- The code of a unit (R91). -/
def StatUnit.code : StatUnit → Nat
  | .scalar => 0 | .vector => 1 | .special => 2 | .matrix => 3 | .postproc => 4 | .copy => 5 | .decode => 6
  | .stream => 7

/-- How many elements of a list satisfy p. -/
def countIf {α : Type} (p : α → Bool) (l : List α) : Nat := (l.filter p).length

/-- The counts of a syllable's events by KIND, ascending, those of zero left out (R75, R91, R92; log 59, DEDUCED). -/
def tally (l : List Ev) : List (Nat × Nat) :=
  [(1, countIf Ev.inv l), (2, countIf Ev.div l), (3, countIf Ev.ovf l), (4, countIf Ev.udf l),
    (5, countIf Ev.sat l)].filter fun p => p.2 != 0

/-- Records of given counts, to be appended when the results land k bundles on (log 59, DEDUCED). -/
def statFlight (u : StatUnit) (k : Nat) (counts : List (Nat × Nat)) (s : State) : State :=
  s.upArch fun a => { a with
    inflight := a.inflight ++ counts.map fun p => ⟨k, .stat p.1 u.code p.2 s.core.issue.ba⟩ }

/-- The events of one syllable (R75; log 59, DEDUCED). -/
def raise (u : StatUnit) (k : Nat) (l : List Ev) (s : State) : State := statFlight u k (tally l) s

/-- Records appended at once, by an engine command of the bundle at `ba` (R75, R77, R175). -/
def statNow (u : StatUnit) (ba : Nat) (counts : List (Nat × Nat)) (c : Core) : Core :=
  counts.foldl (fun c p => if p.2 == 0 then c else c.stat p.1 u.code p.2 ba) c

end Sys2Proof.Machine
end

