-- ==== Sys2Proof/Machine/Operands.lean ====
section
/-! DEFINITION. Operand forms: elements of vector registers under SHAPE and masks (spec/07 R116 to R123), broadcast
operands (R120), and tensor identifiers (spec/05 R89, R90). -/

namespace Sys2Proof

/-- The register an operand of kind V or S names (R120). -/
def SV.reg : SV → Reg
  | .v r => .v r
  | .s r => .s r

namespace Machine

/-! SHAPE (R117). -/

/-- ROWS. -/
def shRows (s : State) : Nat := wbits s.core.arch.shape 8 0
/-- COLS. -/
def shCols (s : State) : Nat := wbits s.core.arch.shape 26 16
/-- 2^WB. -/
def shWidth (s : State) : Nat := 2 ^ wbits s.core.arch.shape 33 32
/-- The element count n (R116). -/
def shCount (s : State) : Nat := shRows s * shCols s

/-- Whether SHAPE is valid (R117). -/
def shValid (s : State) : Bool :=
  1 ≤ shRows s && shRows s ≤ 256 && 1 ≤ shCols s && shCols s ≤ 1024 && shRows s * shCols s * shWidth s ≤ 1024

/-- The trap of a V or F syllable that reads SHAPE, for elements of w bytes (R123). -/
def shapeTrap (s : State) (w : Nat) : Option Trap :=
  if shWidth s != w then some { cause := .vector, detail := 1 }
  else if !shValid s then some { cause := .vector, detail := 2 }
  else none

/-- The trap of a syllable that reads SHAPE and has no type of its own. -/
def shapeOnly (s : State) : Option Trap := if shValid s then none else some { cause := .vector, detail := 2 }

/-! Elements. -/

/-- Whether element e of width w bytes is enabled by a mask (R121). -/
def enabled (m : Mask) (w e : Nat) : Bool := lane m (e * w / 4)

/-- Element e of an operand, as an encoding of w bytes; kind S is broadcast (R120). -/
def opElem (s : State) (w : Nat) (o : SV) (e : Nat) : Nat :=
  match o with
  | .v r => elem (regV s r) w e
  | .s r => (regS s r).toNat % 2 ^ (8 * w)

/-- Whether disabled elements become 0: under ZERO, and always to v31, which cannot be read (R120, R121). -/
def zeroing (m : VMod) (d : VReg) : Bool := m.zero || d.val == 31

/-- The register a masked merge reads: D, when some element e < n is disabled and kept (R35, R121). -/
def mergeRead (s : State) (w : Nat) (m : VMod) (d : VReg) : List Reg :=
  if shValid s && !zeroing m d && (List.range (shCount s)).any (fun e => !enabled (regM s m.mask) w e) then [.v d]
  else []

/-- The elements of a masked result and the events of the enabled ones (R121). -/
def maskedElems (s : State) (w : Nat) (m : VMod) (d : VReg) (f : Nat → Nat × Ev) : List Nat × List Ev :=
  let mk := regM s m.mask
  let old := regV s d
  let one (e : Nat) : Nat × Option Ev :=
    if enabled mk w e then let r := f e; (r.1, some r.2)
    else if zeroing m d then (0, none)
    else (elem old w e, none)
  let l := (List.range (shCount s)).map one
  (l.map Prod.fst, l.filterMap Prod.snd)

/-- `velem` of R121: a masked element-wise result of w-byte elements, landed k bundles on with its events. -/
def velem (s : State) (u : StatUnit) (w k : Nat) (m : VMod) (d : VReg) (f : Nat → Nat × Ev) (t : State) : State :=
  let r := maskedElems s w m d f
  raise u k r.2 (wrV d k (ofElems w r.1) t)

/-- The mask register of a masked syllable. -/
def maskReg (m : VMod) : Reg := .m m.mask

/-! Tensor identifiers (R89, R90). -/

/-- Width in bits of one element of a format code (R60, R197). -/
def fmtBits (fmt : Nat) : Nat :=
  match fmt with
  | 0 | 1 | 10 | 11 | 12 => 8
  | 2 | 3 | 8 | 9 => 16
  | 4 | 5 | 7 => 32
  | 6 => 64
  | 13 | 14 => 4
  | 15 => 2
  | n => if n < 24 then n - 15 else n - 23

/-- The entry at 64 bytes (R89). -/
def entryOf (b : List Byte) : Tensor :=
  let at' (o n : Nat) : Nat := natOf ((b.drop o).take n)
  { base := at' 0 8, fmt := at' 8 1, planes := at' 9 1, cmp := at' 10 1, aper := at' 11 1, rows := at' 12 4
    cols := at' 16 4, block := at' 20 4, stride := at' 24 8, scale := at' 32 8, super := at' 40 8, tlen := at' 48 8
    raw := at' 56 8 }

/-- Whether PLANES agrees with FMT (R90); PLANES above 8 is refused for every FMT below 7, though R90 names only 0 and 1
(log 94, DESIGN CHOICE). -/
def planesOk (t : Tensor) : Bool :=
  if t.fmt < 2 then t.planes == 0 || t.planes == 8
  else if t.fmt < 7 then t.planes ≤ 8
  else if t.fmt < 16 then t.planes == 0
  else t.planes == fmtBits t.fmt

/-- Whether BLOCK agrees with FMT and SCALE (R90). -/
def blockOk (t : Tensor) : Bool :=
  let anyBlock := t.block == 32 || t.block == 64 || t.block == 128 || t.block == 256
  match t.fmt with
  | 12 | 13 => t.block == 32
  | 14 => t.block == 64
  | 15 => t.block == 256
  | n => if n < 7 || 16 ≤ n then (if t.scale == 0 then t.block == 0 else anyBlock)
    else t.scale == 0 || anyBlock

/-- The control register of an aperture named by an entry. -/
def aperCtl (d : Die) (aper : Nat) : Word := (vget d.aps aper ⟨0, 0, 0, 0⟩).ctl

/-- Whether an entry has a format, a compression or an EXPAND aperture that FEAT masks (R237). -/
def fmtMasked (d : Die) (t : Tensor) : Bool :=
  (t.fmt == 15 && !d.feat.toNat.testBit 1) || ((t.fmt == 13 || t.fmt == 14) && !d.feat.toNat.testBit 4)
    || ((t.cmp != 0 || (t.aper < 16 && wbits (aperCtl d t.aper) 3 1 == 1)) && !d.feat.toNat.testBit 5)

/-- Whether APER is allowed: none, or an aperture enabled for the partition (R90). -/
def aperOk (d : Die) (part : Nat) (t : Tensor) : Bool :=
  t.aper == 0xFF ||
    (t.aper < 16 && (aperCtl d t.aper).toNat.testBit 0 && wbits (aperCtl d t.aper) 31 16 == part)

/-- The conditions of R90. -/
def entryOk (d : Die) (part : Nat) (t : Tensor) : Bool :=
  t.base < 2 ^ 56 && t.cmp < 4 && (t.fmt < 31 && t.fmt != 23) && planesOk t && blockOk t && (t.fmt != 14 || t.super != 0)
    && (t.fmt != 15 || t.cols % 8 == 0)
    && (t.cmp == 0 || (t.raw != 0 && t.planes == 0 && t.stride % 256 == 0))
    && t.tlen ≤ t.cols && aperOk d part t && !fmtMasked d t

/-- The load of an identifier's entry, as the strand sees memory (R89, R90). -/
def tensorLoad (s : State) (k : TId) : Loaded :=
  loadAt s 64 64 [(s.core.arch.ttbase.toNat / 64 * 64 + 64 * k.val) % 2 ^ 56]

/-- The entry of an identifier (R90). -/
def readTensor (s : State) (k : TId) : Except Trap Tensor :=
  match tensorLoad s k with
  | .trap t => .error t
  | .got _ _ (some t) => .error t
  | .got _ b none =>
    let t := entryOf b
    if entryOk s.die (partNum s) t then .ok t else .error { cause := .badtensor, arg := k.val }

/-- The freeze of a command whose entry lies under a footprint (R207; log 83, DEDUCED). -/
def tensorStall (s : State) (k : TId) : Option Freeze := (tensorLoad s k).stall s.core

/-- An entry with every field 0, for a command that names none. -/
def Tensor.none : Tensor := ⟨0, 0, 0, 0, 0, 0, 0, 0, 0, 0, 0, 0, 0⟩

/-- T of a compressed tensor (R89). -/
def Tensor.stored (t : Tensor) : Nat := 64 * t.cmp

end Machine

end Sys2Proof
end

