-- ==== Sys2Proof/Machine/Bundle.lean ====
section
/-! DEFINITION. Bundles: slot classes and weights (spec/03 R27, R38 to R41), the fetch of spec/04 R63 with
spec/19 R320, the masks of spec/13 R237, and the checks of spec/03 R28. -/

namespace Sys2Proof.Machine

/-! Slot classes and weights. -/

/-- Slot classes (R27). -/
inductive SlotClass where
  | s | b | v | f | m | x | c | l | d
  deriving DecidableEq, Repr

/-- Every class, in the order of R27. -/
def SlotClass.all : List SlotClass := [.s, .b, .v, .f, .m, .x, .c, .l, .d]

/-- Syllables of a class that a bundle may hold (R27). -/
def SlotClass.slots : SlotClass → Nat
  | .s => 2 | .b => 1 | .v => 3 | .f => 1 | .m => 2 | .x => 1 | .c => 1 | .l => 1 | .d => 1

/-- The class of an assigned opcode (R27, R64). -/
def classOf (opc : Nat) : SlotClass :=
  if opc < 0x40 then .s else if opc < 0x58 then .b else if opc < 0x90 then .v else if opc < 0xA4 then .f
  else if opc < 0xC4 then .m else if opc < 0xD0 then .x else if opc < 0xDC then .c else if opc < 0xE4 then .l
  else if opc < 0xF0 then .d
  else if opc == 0xF0 then .s else if opc == 0xF1 then .m else if opc == 0xF2 then .v else .b

/-- The weight that follows the type (R122). -/
def typeWeight (md : Nat) : Nat := if md == 7 then 38 else if md == 8 || md == 9 then 22 else 14

/-- The architected weight of a syllable by opcode and MOD (R38 and the entries). -/
def weightOf (opc md : Nat) : Nat :=
  if opc < 0x40 then
    if opc == 0 then 0
    else if (0x21 ≤ opc && opc ≤ 0x24) then 3
    else if opc == 0x30 || opc == 0x35 || opc == 0x36 then 2
    else 1
  else if opc < 0x58 then (if opc == 0x50 then 6 else 1)
  else if opc < 0x90 then
    if opc == 0x5B || (0x64 ≤ opc && opc ≤ 0x6C) || (0x6E ≤ opc && opc ≤ 0x75) || opc == 0x79
        || (0x82 ≤ opc && opc ≤ 0x84) || (0x87 ≤ opc && opc ≤ 0x8B) then 14
    else if opc == 0x76 || opc == 0x78 then 18
    else if opc == 0x77 || (0x7A ≤ opc && opc ≤ 0x7F) then 20
    else if opc == 0x80 then 26
    else if opc == 0x81 then 30
    else typeWeight md
  else if opc < 0xA4 then
    match opc with
    | 0x90 | 0x93 | 0x94 => 30
    | 0x91 | 0x92 => 26
    | 0x95 => 34
    | 0x96 => 40
    | 0x99 => 60
    | 0x9A => 14
    | 0x9B => 45
    | 0x9C => 22
    | 0x9D => 1
    | 0x9E => 20
    | _ => 36
  else if opc < 0xC4 then
    match opc with
    | 0xA4 | 0xB0 => 4
    | 0xA5 | 0xB1 | 0xBE | 0xC1 => 5
    | 0xA6 => 8
    | 0xA7 => 10
    | 0xA8 | 0xAB => 26
    | 0xA9 | 0xAC | 0xAD => 30
    | 0xAA => 34
    | 0xAE => 40
    | 0xAF => 44
    | 0xBA | 0xBD => 2
    | 0xBB | 0xBC | 0xBF => 6
    | 0xC0 => 1
    | _ => 12
  else if opc < 0xD0 then
    match opc with
    | 0xC4 | 0xC5 => 10
    | 0xC6 => 4
    | 0xC7 => 12
    | 0xC8 | 0xC9 => 40
    | _ => 1
  else if opc < 0xDC then 6
  else if opc < 0xE4 then (if 0xDD ≤ opc && opc ≤ 0xDF then 8 else 1)
  else
    match opc with
    | 0xE4 => 24
    | 0xE5 => 30
    | 0xE6 => 26
    | 0xE8 | 0xE9 => 12
    | 0xEA => 10
    | 0xEC => 2
    | 0xF0 => 4
    | 0xF1 => 8
    | 0xF2 => 34
    | 0xF3 => 2
    | _ => 1

/-! A decoded bundle. -/

/-- One syllable of a bundle: its word, frame, fields and instruction. -/
structure Slotted where
  word : Nat
  frame : Frame
  enc : Enc
  instr : Instr
  deriving DecidableEq, Repr

/-- The number space of registers, by which R28 compares them (R56). -/
def numsIf (u : Use) (wr : Bool) (n : Nat) : List Nat :=
  match u with
  | .no | .tile => []
  | .rd => if wr then [] else [n]
  | .wr => if wr then [n] else []
  | .rw => [n]

/-- The opcodes whose IMM16[2:0] names a mask register that they read (R119, R162, R191). -/
def maskedOp (opc : Nat) : Bool :=
  (0x58 ≤ opc && opc ≤ 0x6C) || (0x6E ≤ opc && opc ≤ 0x71) || (0x74 ≤ opc && opc ≤ 0x77)
    || (0x79 ≤ opc && opc ≤ 0x7F) || (0x83 ≤ opc && opc ≤ 0x88) || opc == 0x8B || opc == 0x90
    || (0x93 ≤ opc && opc ≤ 0x99) || opc == 0x9C || opc == 0x9F || opc == 0xA0 || opc == 0xAE || opc == 0xAF

/-- Registers a syllable reads beyond its fields (R28, R51, R169, R189, R362; log 24, DEDUCED). -/
def moreReads (x : Slotted) : List Nat :=
  (if x.frame.gpred.val == 0 then [] else [numP x.frame.gpred])
  ++ (if maskedOp x.enc.opc then [112 + x.enc.f.imm % 8] else [])
  ++ match x.instr with
    | .mStp _ b _ => [b.val + 1]
    | .fGeo p _ a _ => (List.range (p.points - 1)).map fun k => numV a + 1 + k
    | .dPortSkip _ => [92]
    | _ => []

/-- Registers a syllable writes beyond its fields (R64, R104, R106, R108, R189; log 24, DEDUCED). -/
def moreWrites (i : Instr) : List Nat :=
  match i with
  | .sClk _ d | .mLdp _ d _ _ | .zw1Ldpair d _ _ => [d.val + 1]
  | .bCall _ | .bCalli _ _ => [1]
  | .bPloop _ _ _ _ => [108, 109, 110, 111]
  | _ => []

/-- Every register a syllable reads for R28. -/
def readNums (x : Slotted) : List Nat :=
  let u := usesOf x.enc.opc x.enc.md
  numsIf u.d false x.enc.f.d ++ numsIf u.a false x.enc.f.a ++ numsIf u.b false x.enc.f.b
    ++ numsIf u.c false x.enc.f.c ++ moreReads x

/-- Every register a syllable writes for R28. -/
def writeNums (x : Slotted) : List Nat :=
  let u := usesOf x.enc.opc x.enc.md
  numsIf u.d true x.enc.f.d ++ numsIf u.a true x.enc.f.a ++ numsIf u.b true x.enc.f.b
    ++ numsIf u.c true x.enc.f.c ++ moreWrites x.instr

/-- The tiles a syllable accesses; different tiles of one core lie in different banks (R140). -/
def tileNums (x : Slotted) : List Nat :=
  let u := usesOf x.enc.opc x.enc.md
  (if u.d == .tile then [x.enc.f.d] else []) ++ (if u.a == .tile then [x.enc.f.a] else [])
    ++ match x.instr with
      | .xAmov _ r => [numA r]
      | _ => []

/-- What a syllable writes that is no register but falls under WAW: a control register, a staging register or a spill
slot (R102, R132). LCn, which a B.LOOP or B.PLOOP sets as it issues, is not among them: R102 speaks of S.CWR, and the
value of an S.CWR of the same LCn lands a bundle later and stands (log 24, DEDUCED). -/
inductive Named where
  | creg (c : CReg)
  | greg (g : GReg)
  | spill (k : Fin 512)
  deriving DecidableEq, Repr

/-- The named places a syllable writes. -/
def namedWrites : Instr → List Named
  | .sCwr c _ => [.creg c]
  | .sGwr g _ => [.greg g]
  | .sSps _ k => [.spill k]
  | .vMaxexp _ _ => [.creg .qsl]
  | _ => []

/-- Whether a number is a port of R57. -/
def isPortNum (n : Nat) : Bool := (56 ≤ n && n < 64) || (92 ≤ n && n < 96)
/-- Whether a number is a crew queue. -/
def isCrewNum (n : Nat) : Bool := 56 ≤ n && n < 60
/-- s0, p0 and m0, exempt as destinations (R28). -/
def exemptNum (n : Nat) : Bool := n == 0 || n == 96 || n == 112
/-- Ports that may only be written (R57). -/
def writeOnly (n : Nat) : Bool := n == 63 || n == 95
/-- Ports that may only be read (R57). -/
def readOnly (n : Nat) : Bool := (60 ≤ n && n < 63) || (92 ≤ n && n < 95)

/-- Whether two lists share a member that satisfies p. -/
def shares {α : Type} [DecidableEq α] (p : α → Bool) (a b : List α) : Bool := a.any fun x => p x && b.contains x

/-- Whether a relation holds of some two different syllables of a bundle, in this order or the other. -/
def anyPair (f : Slotted → Slotted → Bool) : List Slotted → Bool
  | [] => false
  | x :: t => t.any (fun y => f x y || f y x) || anyPair f t

/-- Opcodes on which DUP always fails: M syllables that write memory and M.FENCE (R188, R217), F.TBLWR, F.GEO and
F.LQCNT (R163), X and D syllables that write a tile or memory, X.MODE and X.MIRR (R153), the decode commands (R358), and
every syllable of class B, C or L (R225, R286, R289, R292, R294, R328). -/
def noDup (opc : Nat) : Bool :=
  [0xA5, 0xA7, 0xA9, 0xAA, 0xAC, 0xAF, 0xB1, 0xB2, 0xB3, 0xB4, 0xB5, 0xB6, 0xB7, 0xB8, 0xB9, 0xBA, 0xBB, 0xBF,
    0xC1].contains opc || opc == 0x91 || opc == 0x99 || opc == 0x9D
  || (0xC4 ≤ opc && opc ≤ 0xCB) || opc == 0xE4 || opc == 0xE5 || (0xE8 ≤ opc && opc ≤ 0xEF)
  || classOf opc == .b || classOf opc == .c || classOf opc == .l

/-- What a dup syllable shares with its sibling: everything but STOP, DUP and the destination (R28, R52; log 25,
DEDUCED). -/
def dupKey (x : Slotted) : Frame × Enc :=
  ({ x.frame with stop := false, dup := false },
   { x.enc with f := { x.enc.f with d := if fmtOf x.enc.opc == .e then x.enc.f.d else 0
                                    c := if x.enc.opc == 0xBE then 0 else x.enc.f.c } })

/-- Whether a sibling of a syllable stands in the bundle. -/
def hasSibling (l : List Slotted) (x : Slotted) : Bool := l.any fun y => !y.frame.dup && dupKey y == dupKey x

/-- Whether a dup syllable fails: it has no sibling, or its entry treats it so. -/
def dupBad (l : List Slotted) (x : Slotted) : Bool := x.frame.dup && (noDup x.enc.opc || !hasSibling l x)

/-- Syllables of a class that count against its slots. In a class with one slot, a dup syllable beside its sibling does
not count, so that it runs, or fails with detail DUP, as its entry says (R27, R153, R163, R328, R358; log 97, DEDUCED).
-/
def slotsUsed (k : SlotClass) (l : List Slotted) : Nat :=
  let m := l.filter fun x => classOf x.enc.opc == k
  let twins := m.filter fun x => x.frame.dup && hasSibling l x
  if k.slots == 1 then m.length - min 1 twins.length else m.length

/-- Whether a bundle holds more syllables of a class than R27 allows. -/
def overfull (l : List Slotted) : Bool := SlotClass.all.any fun k => k.slots < slotsUsed k l

/-- RAW (R28, R58). -/
def rawBad (l : List Slotted) : Bool :=
  anyPair (fun x y => shares (fun n => !exemptNum n && (!isPortNum n || isCrewNum n)) (writeNums x) (readNums y)) l

/-- WAW (R28, R102). -/
def wawBad (l : List Slotted) : Bool :=
  anyPair (fun x y => shares (fun n => !exemptNum n && !isPortNum n) (writeNums x) (writeNums y)
    || shares (fun _ => true) (namedWrites x.instr) (namedWrites y.instr)) l

/-- BANK (R28). -/
def bankBad (l : List Slotted) : Bool :=
  anyPair (fun x y => shares (fun _ => true) (tileNums x) (tileNums y)) l

/-- PORTDIR (R57). -/
def portDirBad (l : List Slotted) : Bool :=
  l.any fun x => (readNums x).any writeOnly || (writeNums x).any readOnly

/-- PORTTWICE (R28). -/
def portTwiceBad (l : List Slotted) : Bool :=
  anyPair (fun x y => shares (fun n => isPortNum n && !writeOnly n) (readNums x) (readNums y)
    || shares (fun n => isPortNum n && !readOnly n) (writeNums x) (writeNums y)) l

/-- The first detail of R28, WEIGHT apart, that applies (log 24, DEDUCED). -/
def bundleBad (l : List Slotted) : Option Nat :=
  if overfull l then some 1 else if rawBad l then some 2 else if wawBad l then some 3 else if bankBad l then some 4
  else if l.any (dupBad l) then some 5 else if portDirBad l then some 6 else if portTwiceBad l then some 7 else none

/-- Cause ILLBUNDLE. -/
def illBundle (detail : Nat) : Trap := { cause := .illbundle, detail := detail }

/-! Masked features (R237). -/

/-- How FEAT masks an instruction. -/
def featMasks (feat : Word) (i : Instr) : Option Ill :=
  let off (k : Nat) : Bool := !feat.toNat.testBit k
  match i with
  | .fGeo .. | .fGeoidx .. => if off 0 then some .unassigned else none
  | .fLq .. | .fLdq .. | .fLqcnt .. | .fLscale .. => if off 1 then some .unassigned else none
  | .dJpeg .. | .dG4 .. | .dRaw .. | .dRingSet .. | .dRingFree .. | .dPortCount .. | .dPortSkip .. | .dDstat ..
  | .dDabort | .dDfence => if off 2 then some .unassigned else none
  | .mSts .. | .mLdas .. | .lSendst .. => if off 3 then some .unassigned else none
  | .mFenceStamp => if off 3 then some .resmod else none
  | .vCvt _ _ _ .mx4 _ _ => if off 4 then some .resfield else none
  | .dPpcmp .. | .mVldb .. => if off 5 then some .unassigned else none
  | .zw1Madd .. | .zw1Ldpair .. | .zw1Vsum .. | .zw1Dbnz .. => if off 6 then some .unassigned else none
  | _ => none

/-- Whether the opcode of an undecodable syllable belongs to a masked feature, so that it is UNASSIGNED (R237). -/
def opcMasked (feat : Word) (opc : Nat) : Bool :=
  let off (k : Nat) : Bool := !feat.toNat.testBit k
  ((opc == 0x99 || opc == 0x9A) && off 0) || ((0x9B ≤ opc && opc ≤ 0x9E) && off 1)
    || ((0xE8 ≤ opc && opc ≤ 0xEF) && off 2) || ((opc == 0xBB || opc == 0xBC || opc == 0xDE) && off 3)
    || ((opc == 0xE5 || opc == 0xAD) && off 5) || ((0xF0 ≤ opc && opc ≤ 0xF3) && off 6)

/-- Whether a syllable is M.FENCE of kind .stamp while STAMP is masked: a reserved MOD value (R217, R237). -/
def stampMasked (feat : Word) (w : Nat) : Bool :=
  bits w 56 49 == 0xBA && bits w 46 44 == 5 && !feat.toNat.testBit 3

/-- Whether a syllable is V.CVT to type .mx4 while MX4 is masked: its X field is not allowed (R131, R237). -/
def mx4Masked (feat : Word) (w : Nat) : Bool :=
  bits w 56 49 == 0x76 && (encOf w).f.imm / 128 % 32 == 13 && !feat.toNat.testBit 4

/-- The decode of one syllable under FEAT, its masks taking their place in the order of R63 (R63, R237). -/
def decodeFeat (feat : Word) (w : Nat) : Except Ill Instr :=
  if opcMasked feat (bits w 56 49) then .error .unassigned
  else if stampMasked feat w then .error .resmod
  else match decodeWord w with
    | .error e =>
      if mx4Masked feat w && e != .unassigned && e != .resmod then .error .resfield else .error e
    | .ok i => match featMasks feat i with
      | some e => .error e
      | none => .ok i

/-! Fetch (R63, R313, R320). -/

/-- A byte of code as it stands in memory, through the apertures (log 26, DEDUCED). -/
def codeByte (d : Die) (part pa : Nat) : Except Trap Byte :=
  match serve d part pa with
  | .mem a => .ok (memGet d.mem a)
  | .expand at' t raw off => match expandBlock (memGetN d.mem at' t) (memGetN d.mem raw 256) with
    | some l => .ok (nth l off 0)
    | none => .error { cause := .format, detail := 3 }
  | .l8 code j pad => .ok (if pad then 0 else BitVec.ofInt 8 (l8Twice (natOf (memGetN d.mem code 2)) j))

/-- n bytes of code (log 26, DEDUCED). -/
def codeBytes (d : Die) (part pa : Nat) : Nat → Except Trap (List Byte)
  | 0 => .ok []
  | n + 1 => match codeByte d part pa with
    | .error t => .error t
    | .ok b => match codeBytes d part (pa + 1) n with
      | .error t => .error t
      | .ok l => .ok (b :: l)

/-- The syllable at a virtual address (`fetch64` of R66). -/
def fetchSyl (s : State) (va : Nat) : Except Trap Nat :=
  match translate s.pkg s.die (partNum s) (va % 2 ^ 56) .ex with
  | .error c => .error { cause := c, addr := va % 2 ^ 56, arg := Access.ex.kind }
  | .ok x => match bufferHole s.die (partNum s) .ex x.pa 8 with
    | some i => .error { cause := .absent, addr := va % 2 ^ 56 + i, arg := Access.ex.kind }
    | none => match codeBytes s.die (partNum s) x.pa 8 with
      | .error t => .error t
      | .ok b => .ok (natOf b)

/-- The syllables from an address to the first STOP, at most n of them (R26, R63; log 26, DEDUCED). -/
def fetchWords (s : State) (va : Nat) : Nat → Except Trap (List Nat)
  | 0 => .error (illBundle 1)
  | n + 1 => match fetchSyl s va with
    | .error t => .error t
    | .ok w =>
      if bits w 63 63 == 1 then .ok [w]
      else match fetchWords s (va + 8) n with
        | .error t => .error t
        | .ok l => .ok (w :: l)

/-- Each syllable decoded; the first that is no instruction traps ILLOP with its index (R63). -/
def decodeAll (feat : Word) (k : Nat) : List Nat → Except Trap (List Slotted)
  | [] => .ok []
  | w :: t => match decodeFeat feat w with
    | .error e => .error { cause := .illop, detail := e.code, syl := k }
    | .ok i => match decodeAll feat (k + 1) t with
      | .error e => .error e
      | .ok l => .ok (⟨w, frameOf w, encOf w, i⟩ :: l)

/-- The checks of R63 on fetched syllables, the weight apart. -/
def checkWords (feat : Word) (ws : List Nat) : Except Trap (List Slotted) :=
  match decodeAll feat 0 ws with
  | .error t => .error t
  | .ok l => match bundleBad l with
    | some k => .error (illBundle k)
    | none => .ok l

/-! Charges and allowances (R40 to R42). -/

/-- Whether the core issues for a pair in a SOLO mode (R41). -/
def soloSide (s : State) : Bool :=
  let m := (engineOf s).mode.val
  (m == 2 && !sideB s.core) || (m == 3 && sideB s.core)

/-- The factor on the allowances of a core (R41). -/
def allowFactor (s : State) : Nat := if soloSide s then 2 else 1
/-- The decode limit (R42). -/
def decodeLimit (s : State) : Nat := 240 * allowFactor s
/-- The bundle allowance BA (R42). -/
def bundleAllow (s : State) : Nat := (240 - 20 * s.die.level.val) * allowFactor s
/-- The window allowance WA (R42). -/
def windowAllow (s : State) : Nat := (1200 - 120 * s.die.level.val) * allowFactor s

/-- The sustained weight that counts the next bundle (R39). -/
def sustained (occ : List (Nat × Nat)) : Nat := match occ with
  | [] => 0
  | o :: _ => o.2

/-- The weights of the syllables of a bundle. -/
def weightSum (l : List Slotted) : Nat := (l.map fun x => weightOf x.enc.opc x.enc.md).foldl (· + ·) 0

/-- The charge of a bundle (R40). -/
def charge (c : Core) (l : List Slotted) : Nat := weightSum l + sustained c.occ

/-! The repeat prefix's stepping (R111). -/

/-- Where the fields of FMASK lie in a syllable of format A or I, with the bit of FMASK that selects each. -/
def stepFields (u : Uses) (k : Fmt) : List (Nat × Use × Nat) :=
  match k with
  | .a => [(0, u.d, 37), (1, u.a, 30), (2, u.b, 23), (3, u.c, 16)]
  | .i => [(0, u.d, 37), (1, u.a, 30)]
  | .j | .e => []

/-- One field stepped; a number that passes the allotment traps (R111, R241; log 27, DEDUCED). -/
def stepField (k : Option Kernel) (delta w lo : Nat) : Except Trap Nat :=
  let n := bits w (lo + 6) lo
  let m := n + delta
  let regs := match k with
    | none => 46
    | some k => k.regs
  let vregs := match k with
    | none => 28
    | some k => k.vregs
  if 96 ≤ n then .ok w
  else if n < 64 then
    if 55 < m || (10 ≤ m && 9 + regs < m) then .error { cause := .allot, arg := m % 128 } else .ok (w + delta * 2 ^ lo)
  else if 91 < m || 64 + vregs ≤ m then .error { cause := .allot, arg := m % 128 }
  else .ok (w + delta * 2 ^ lo)

/-- The selected fields of a syllable stepped in order. -/
def stepList (k : Option Kernel) (delta : Nat) (fmask : BitVec 4) : List (Nat × Use × Nat) → Nat → Except Trap Nat
  | [], w => .ok w
  | (b, u, lo) :: t, w =>
    if fmask.toNat.testBit b && (u == .rd || u == .wr || u == .rw) then
      match stepField k delta w lo with
      | .error e => .error e
      | .ok w' => stepList k delta fmask t w'
    else stepList k delta fmask t w

/-- A syllable as an iteration of a repeat issues it. -/
def stepWord (k : Option Kernel) (delta : Nat) (fmask : BitVec 4) (w : Nat) : Except Trap Nat :=
  if delta == 0 then .ok w
  else
    let e := encOf w
    stepList k delta fmask (stepFields (usesOf e.opc e.md) (fmtOf e.opc)) w

/-- The syllables of an iteration; one whose guard is false takes no trap for a number that passes the allotment, and
stays as it is (R51, R241; log 27, DEDUCED). -/
def stepWords (k : Option Kernel) (on : Nat → Bool) (delta : Nat) (fmask : BitVec 4) : List Nat → Except Trap (List Nat)
  | [] => .ok []
  | w :: t => match (match stepWord k delta fmask w with
      | .error e => if on w then .error e else .ok w
      | .ok x => .ok x : Except Trap Nat) with
    | .error e => .error e
    | .ok x => match stepWords k on delta fmask t with
      | .error e => .error e
      | .ok l => .ok (x :: l)

end Sys2Proof.Machine
end

