-- ==== Sys2Proof/Machine/Suspend.lean ====
section
/-! DEFINITION. What holds a core after its bundle has issued: the wait of a commit (spec/12 R225), suspension points
(spec/02 R19 to R21), the crew barrier (spec/17 R291 to R293), rendezvous (spec/12 R231) and the stamp fence
(spec/21 R345). -/

namespace Sys2Proof.Machine

/-! Halts that were pending, and those of a killed context (R306, R308, R311). -/

/-- The commands of a core whose suspension has committed are discarded (R311 step 2). -/
def Core.dropped (c : Core) : Core := { c with matq := [], dq := [], copyq := [], sq := [], geo := [] }

/-- Whether the suspension of a core has committed, so that it completes (R307). -/
def suspending (c : Core) : Bool := match c.wait with
  | some (.susp _ _) => true
  | _ => false

/-- Steps 1 to 3 of R311 on a core: it is halted as R307 gives, and its commands and its record are discarded. A core
inside a repeat goes on to the end of it first (R306); one whose suspension has committed loses its commands, completes
the suspension, and its record is discarded where it then stands (R307; log 71, DEDUCED). -/
def killCore (s : State) : State :=
  let t := haltCore s
  if t.core.haltPend then t
  else t.upCore fun c => if suspending c then c.dropped else c.discarded

/-- A core whose halt was pending is halted; that of a killed context is discarded with it (R306, R311). -/
def haltHere (s : State) : State := if ctxKilled s then killCore s else haltCore s

/-- A stop of a core whose halt is pending halts it at once (R308). -/
def stopped (s : State) : State := if s.core.haltPend then haltHere s else s

/-- The core holds no strand any more and is due for a fill (R22, R275); a debug stop holds it until the steward
releases it (R305). -/
def idleCore (s : State) : State :=
  (s.upCore fun c => { c with
    record := none, wait := none, halted := false, haltPend := false, budgetStop := false, stampWait := false }).upDie
    fun d => { d with found := d.found.filter (· != s.core.num) }

/-- Whether a die holds anything of its context that could still run: strands, queued, waiting, watched or arrived
records (R298). -/
def dieBusy (cores : List Core) (d : Die) : Bool :=
  cores.any (fun c => c.record.isSome)
    || d.queues.toList.any (fun q => !q.hw.isEmpty || !q.overflow.isEmpty)
    || !d.waiters.isEmpty || !d.watches.isEmpty
    || d.crews.toList.any fun w => w.rvz.toList.any fun r => !r.conts.isEmpty

/-- The dies of a partition with all their cores. -/
def partDies (n : Nat) (s : State) : List (List Core × Die) :=
  (s.dies.filter fun d => d.part == some n).map fun d => (if d.num == s.die.num then s.cores else d.cores, d)

/-- After a core has fallen idle: the context is done when every continuation has retired, and a draining context
halts when no core runs a strand (R298). -/
def settleContext (s : State) : State :=
  match partOf s with
  | none => s
  | some p =>
    let ds := partDies p.num s
    if p.state == .running && !(ds.any fun x => dieBusy x.1 x.2) then
      (setContext .ready .none s).post (.contextDone p.num)
    else if p.state == .draining && !(ds.any fun x => x.1.any fun c => c.record.isSome) then
      setContext .halted .drain s
    else s

/-! The crew barrier (R290 to R293). -/

/-- A crew barrier releases: GEN rises, the arrivals clear, and every arrival synchronises with every departure
(R291, R293). -/
def Crew.release (w : Crew) : Crew := { w with gen := w.gen + 1, arr := 0, ends := w.ends ++ [some w.hb], hb := [] }

/-- A barrier that holds an arrival releases when its arrivals cover MEMB (R291). -/
def Crew.settle (w : Crew) : Crew := if w.arr != 0 && w.memb &&& ~~~w.arr == 0 then w.release else w

/-- Strand j arrives (R291). -/
def Crew.arrive (w : Crew) (j limit now : Nat) (hb : List Nat) : Crew :=
  let w1 := if w.arr == 0 then { w with deadline := now + 1000 * limit } else w
  Crew.settle { w1 with arr := setBit8 w1.arr j, hb := joinIds w1.hb hb }

/-- A strand with what a departure gains (R293). -/
def Strand.gains (y : Strand) (ids : List Nat) : Strand := { y with view := joinIds y.view ids, hb := joinIds y.hb ids }

/-- A strand departs after a release: GEN lands in D, and its view gains what happens before the arrivals (R292,
R293). Both hold from the first bundle after the departure, so that a later rollback, which restarts there, keeps them
(R224). -/
def departBarrier (d : SReg) (gen : BitVec 16) (ids : List Nat) (s : State) : State :=
  let x := wordN (gen.toNat)
  let s1 := s.upCore fun c => { c with
    strand := c.strand.gains ids, ckStrand := c.ckStrand.gains ids
    ck := if d.val == 0 then c.ck else { c.ck with s := c.ck.s.set d x }
    wait := if c.stampWait then some .stamp else none, stampWait := false }
  landDue ((s1.upDie fun y => { y with acc := joinIds y.acc ids }).flight 0 (.s d x))

/-- How the filling of number n of the strand's barrier ended, if it has (R291). -/
def barrierEnd (s : State) (n : Nat) : Option (Option (List Nat)) := (crewOf s s.core.crewid.toNat).ends[n]?

/-- A frozen member of a barrier: it departs once its filling is released, and traps if it ended by timeout (R291,
R292). -/
def leaveBarrier (d : SReg) (gen : BitVec 16) (n : Nat) (s : State) : State :=
  match barrierEnd s n with
  | some (some ids) => departBarrier d (gen + 1) ids s
  | some none => takeTrap { cause := .barrier, detail := 3 } s.core.waitBa s
  | none => s

/-- The arrival at the crew barrier, after the commit (R292). -/
def arriveBarrier (d : SReg) (s : State) : State :=
  let c := s.core.crewid.toNat
  let w := crewOf s c
  let s1 := s.upCrew c fun w => w.arrive (strandNum s.core) s.die.rvzto.toNat s.die.earliest (hbOf s)
  leaveBarrier d w.gen w.ends.length (s1.upCore fun k => { k with wait := some (.cbar d w.gen w.ends.length) })

/-! Rendezvous (R231). -/

/-- Records arrived at a slot are returned to their B.RVZ, where they trap RVZ with a detail (R231; log 11, DEDUCED).
-/
def returnArrived (detail : Nat) (l : List (Cont × Nat)) (s : State) : State :=
  l.foldl (fun t p => appendRun p.1.q
    { p.1 with record := { p.1.record with pc := wordN p.2 }, rvz := some detail } t) s

/-- Changes a rendezvous slot of a crew. -/
def State.upRvz (s : State) (c : Nat) (n : Fin 16) (f : RvzSlot → RvzSlot) : State :=
  s.upCrew c fun w => { w with rvz := w.rvz.set n (f w.rvz[n]) }

/-- Whether the arrival of strand j with mask k breaks the rules of a slot (R231). -/
def rvzBad (r : RvzSlot) (j : Nat) (k : BitVec 8) : Bool :=
  !k.toNat.testBit j || (r.arr != 0 && (k != r.mask || r.arr.toNat.testBit j))

/-- The slot after an arrival that breaks no rule (R231). -/
def RvzSlot.arrive (r : RvzSlot) (j : Nat) (k : BitVec 8) (limit now : Nat) (c : Cont) (ba : Nat) : RvzSlot :=
  if r.arr == 0 then
    ⟨k, setBit8 0 j, if limit == 0 then none else some (now + 1000 * limit), [(c, ba)]⟩
  else { r with arr := setBit8 r.arr j, conts := r.conts ++ [(c, ba)] }

/-- A record arrives at a slot; the last partner releases every arrived record with STATUS 0 (R231). -/
def arriveRvz (c : Nat) (n : Fin 16) (k : BitVec 8) (j ba : Nat) (x : Cont) (s : State) : State :=
  let s1 := s.upRvz c n fun r => r.arrive j k s.die.rvzto.toNat s.die.earliest x ba
  let r := (crewOf s1 c).rvz[n]
  if r.arr == r.mask then
    r.conts.foldl (fun t p => makeRunnable 0 p.1 t) (s1.upRvz c n fun _ => .empty)
  else s1

/-! Suspension points (R19 to R21). -/

/-- The lowest tag with a run-time fault (log 30, DEDUCED). -/
def errTag (c : Core) (m : Nat) : Option (Fin 64) :=
  (List.finRange 64).find? fun t => m.testBit t && c.tags[t].err

/-- COPY, FAULTED for a tag: the tag, the underlying cause and its detail (R204, R302). -/
def faultedTrap (c : Core) (t : Fin 64) : Trap :=
  { cause := .copy, detail := 9, arg := t.val + 256 * (c.tags[t].cause % 64) + 2 ^ 14 * (c.tags[t].detail % 256) }

/-- Whether every engine command of the strand has completed; a copy handed to the exchange schedule counts as
completed (R21, R288). -/
def enginesDone (c : Core) : Bool :=
  c.matq.isEmpty && c.dq.isEmpty && c.sq.isEmpty
    && c.copyq.all (fun m => match m.kind with
      | .xch _ => true
      | _ => false)
    && c.geo.all (·.ready)

/-- A member's retirement leaves the crew's state (R284, R285, R291). -/
def Crew.retire (w : Crew) (j : Nat) : Crew :=
  let w1 := { w with live := clrBit8 w.live j }
  if w1.memb.toNat.testBit j then
    Crew.settle { w1 with memb := clrBit8 w1.memb j, next := clrBit8 w1.next j, epoch := w1.epoch + 1 }
  else w1

/-- The record as it is written back (R20; log 31, DEDUCED). -/
def writtenBack (s : State) (r : Record) (run : BitVec 32) : Record :=
  { r with pc := wordN s.core.pc.toNat, arg0 := s.core.arch.s[2], arg1 := s.core.arch.s[3], arg2 := s.core.arch.s[4]
           run := run }

/-- Whether a command belongs to the exchange part (R22). -/
def CopyCmd.isXch (c : CopyCmd) : Bool := match c.kind with
  | .xch _ => true
  | _ => false

/-- The exchange copies of a strand that leaves its core stand in the exchange schedule (R288; log 84, DEDUCED). -/
def handOver (s : State) : State :=
  (s.upDie fun d => { d with xch := d.xch ++ (s.core.copyq.filter CopyCmd.isXch).map fun m =>
      ⟨s.core.num, s.core.crewid.toNat, strandNum s.core, s.core.ckptpc.toNat, m⟩ }).upCore
    fun c => { c with copyq := c.copyq.filter fun m => !m.isXch }

/-- A byte of vault or DRAM as it is performed: in a stamped page, as its line's latest version has it (R295, R341). -/
def performedByte (d : Die) (pa : Nat) : Byte :=
  if isStamped d pa then match (versionsOf d pa).getLast? with
    | some v => (nth v.2 (pa % 64) (0, 0)).2
    | none => memGet d.mem pa
  else memGet d.mem pa

/-- The strand leaves its core at its suspension point (R19, R112, R231, R273, R289, R295). -/
def leaveCore (p : Susp) (run : BitVec 32) (r : Record) (s : State) : State :=
  let x : Cont := ⟨writtenBack s r run, s.core.strand, s.core.q, none⟩
  let t := idleCore (handOver s)
  let wait (w : WaitFor) : State :=
    settleWaiters (t.upDie fun d => { d with waiters := d.waiters ++ [⟨w, x⟩] })
  match p with
  | .yield q => appendRun q x (reservePlaces q (· - 1) t)
  | .waitTime n => wait (.time n)
  | .waitMbox => wait .mbox
  | .waitCrewq q => wait (.crewq s.core.crewid.toNat q)
  | .waitRecv n => wait (.recv n)
  | .phase => wait .phase
  | .mwait va pa expect =>
    if natOf ((List.range 8).map fun k => performedByte t.die (pa + k)) == expect.toNat then
      t.upDie fun d => { d with watches := d.watches ++ [⟨va, pa, expect, x, false⟩] }
    else makeRunnable 0 x t
  | .rvz n k => arriveRvz s.core.crewid.toNat n k (strandNum s.core) s.core.waitBa x t
  | .done =>
    if crewed s.core then t.upCrew s.core.crewid.toNat fun w => w.retire (strandNum s.core) else t

/-- What a suspension point meets after its commit: a rendezvous that has come to break the rules of its slot since its
issue traps (R231; log 106, DEDUCED), and so does a watched word whose ECC cannot be corrected (R229, R295). -/
def lateSuspTrap (s : State) : Susp → Option Trap
  | .rvz n k =>
    if rvzBad (crewOf s s.core.crewid.toNat).rvz[n] (strandNum s.core) k then some { cause := .rvz, detail := 1 } else none
  | .mwait _ pa _ => ueccShared s.die pa 8
  | .yield _ | .waitTime _ | .waitMbox | .waitCrewq _ | .waitRecv _ | .phase | .done => none

/-- Whether every stamp of the strand is surely past (R345). -/
def stampsPast (s : State) : Bool := s.core.strand.stamps.all fun t => t.1 < pastLimit s

/-- After the commit of a suspension point: once every engine command has completed, a copy fault is reported or the
strand leaves its core (R21; log 30, DEDUCED). -/
def finishSuspension (p : Susp) (run : BitVec 32) (s : State) : State :=
  if !enginesDone s.core || (s.core.stampWait && !stampsPast s) then s
  else match errTag s.core (2 ^ 64 - 1) with
    | some t => takeTrap (faultedTrap s.core t) s.core.waitBa s
    | none => match lateSuspTrap s p with
      | some t => takeTrap t s.core.waitBa s
      | none => match s.core.record with
        | none => s
        | some r => settleContext (leaveCore p run r (s.upCore fun c => { c with geo := [] }))

/-- Every result that only the clock could hold back (R344). -/
def lateResult (l : Land) : Bool := match l with
  | .asOf .. => true
  | _ => false

/-- A result in flight that traps (R229, R342). -/
def trapInFlight (a : Arch) : Option (Trap × Option Nat) :=
  a.inflight.findSome? fun e => match e.land with
    | .trap t ba => some (t, ba)
    | _ => none

/-- Every result in flight lands, whatever its distance, in the order in which it was to land (R33, R32). -/
def landAll (s : State) : State :=
  landDue (s.upArch fun a => { a with
    inflight := (sortBy (fun x y => x.due ≤ y.due) a.inflight).map fun e => { e with due := 0 } })

/-- The as-of value at a stamp of n bytes of a line; none when it is no longer held (R341, R344). -/
def asOfBytes (d : Die) (t pa n : Nat) : Option (List Byte) :=
  ((List.range n).map fun k => (asOfBelow d (t + 1) (pa + k)).map Prod.snd).foldr
    (fun b l => match b, l with
      | some x, some y => some (x :: y)
      | _, _ => none) (some [])

/-- An as-of load whose stamp has come to be surely past has its value, or its trap: EVICTED, or UECC (R344, R229). -/
def settledAsOf (s : State) (e : Inflight) : Inflight :=
  match e.land with
  | .asOf d k pa ty t ba =>
    if t < pastLimit s then
      match ueccShared s.die pa ty.bytes with
      | some bad => { e with land := .trap bad none }
      | none => match asOfBytes s.die t pa ty.bytes with
      | some b =>
        let x := ty.extend (natOf b)
        { e with land := if d.val < 56 then .s d x else .push k (BitVec.setWidth 8192 x) }
      | none => { e with land := .trap { cause := .horizon, detail := 2 } (some ba) }
    else e
  | _ => e

/-- Every as-of load in flight whose stamp is surely past is settled (R344). -/
def settleAsOf (s : State) : State :=
  s.upArch fun a => { a with inflight := a.inflight.map (settledAsOf s) }

/-- A suspension point before its commit: results land, the segment's matrix commands finish, the segment commits, and
the results of its ordering accesses land (R21, R33, R225; log 30, DEDUCED). -/
def commitSuspension (p : Susp) (run : BitVec 32) (s0 : State) : State :=
  let s := settleAsOf s0
  match trapInFlight s.core.arch with
  | some (t, ba) => takeTrap t (ba.getD s.core.waitBa) s
  | none => match errTag s.core (2 ^ 64 - 1) with
    | some t => takeTrap (faultedTrap s.core t) s.core.waitBa s
    | none =>
      if matrixPending s.core || s.core.arch.inflight.any (fun e => lateResult e.land) then s
      else
        let s1 := landAll s
        let s2 := landAll (commitSegment s1.core.pc s1)
        finishSuspension p run (s2.upCore fun c => { c with wait := some (.susp p run) })

/-- A suspension point has issued (R19): no end test is made (R109), and its wait begins. -/
def suspend (p : Susp) (run : BitVec 32) (s : State) : State :=
  let nb := BitVec.ofNat 56 s.core.issue.nb
  let s1 := finishBundle (s.upCore fun c => { c with
    pc := nb, issue := { c.issue with taken := true }, wait := some (.suspCommit p run), waitBa := c.issue.ba,
    stampWait := c.wait == some .stampCommit })
  commitSuspension p run s1

/-! Waits after an issued bundle. -/

/-- B.CKPT after its bundle has issued (R225). -/
def tryCheckpoint (s : State) : State :=
  if matrixPending s.core then s
  else (commitSegment s.core.pc s).upCore fun c => { c with
    wait := if c.stampWait then some .stamp else none, stampWait := false }

/-- M.FENCE.stamp after its commit (R345; log 65, DEDUCED). -/
def tryStamps (s : State) : State :=
  if stampsPast s then s.upCore fun c => { c with wait := none } else s

/-- The begin of a wait after the bundle has issued; that of an M.FENCE.stamp in the same bundle is kept (R345). -/
def beginWait (w : Wait) (s : State) : State :=
  (finishBundle s).upCore fun c => { c with
    wait := some w, waitBa := c.issue.ba, stampWait := c.wait == some .stampCommit && w != .stampCommit }

/-- A core that waits tries again (R225, R291, R345, R21). -/
def resumeWait (w : Wait) (s : State) : State :=
  match w with
  | .ckpt => tryCheckpoint s
  | .cbarCommit d =>
    if matrixPending s.core then s else arriveBarrier d (commitSegment s.core.pc s)
  | .cbar d gen n => leaveBarrier d gen n s
  | .stampCommit =>
    if matrixPending s.core then s
    else tryStamps ((commitSegment s.core.pc s).upCore fun c => { c with wait := some .stamp })
  | .stamp => tryStamps s
  | .suspCommit p run => commitSuspension p run s
  | .susp p run => finishSuspension p run s

end Sys2Proof.Machine
end

