-- ==== Sys2Proof/Machine/Records.lean ====
section
/-! DEFINITION. Continuation records as bytes (spec/02 R17, R18), and what a suspension point, a spawn and a watch
check at issue (spec/02 R19, spec/06 R110, spec/15 R272 to R274, spec/17 R294). -/

namespace Sys2Proof.Machine

/-- The record at 64 bytes (R17). -/
def recordOf (b : List Byte) : Record :=
  let at' (o n : Nat) : Nat := natOf ((b.drop o).take n)
  { pc := wordN (at' 0 8), fp := wordN (at' 8 8), ttb := wordN (at' 16 8), kid := BitVec.ofNat 32 (at' 24 4)
    stg := BitVec.ofNat 16 (at' 28 2), crew := BitVec.ofNat 8 (at' 30 1), place := BitVec.ofNat 8 (at' 31 1)
    rs := BitVec.ofNat 32 (at' 32 4), run := BitVec.ofNat 32 (at' 36 4), arg0 := wordN (at' 40 8)
    arg1 := wordN (at' 48 8), arg2 := wordN (at' 56 8) }

/-- Whether a record breaks R17 or R18: a reserved bit, a PIN of 3, a pin on an uncrewed record, or a crew the die does
not have. -/
def recordBad (ncrew : Nat) (r : Record) : Bool :=
  wbits r.pc 63 56 != 0 || wbits r.fp 63 56 != 0 || wbits r.ttb 63 56 != 0
    || bits r.place.toNat 3 3 != 0 || bits r.place.toNat 7 6 != 0 || r.pin == 3
    || bits r.rs.toNat 7 4 != 0 || bits r.rs.toNat 31 16 != 0
    || (if r.crew == 0xFF then r.pin != 0 else ncrew ≤ r.crew.toNat)

/-- LOOP, SUSPEND: a suspension point while a loop level is active; a handler's B.END is exempt (R110, R304). -/
def suspTrap (s : State) : Option Trap :=
  if s.core.arch.loops.toList.any (·.act) then some { cause := .loop, detail := 4 } else none

/-- The stated run that a register gives (R112, R273). -/
def runOf (x : Word) : BitVec 32 := BitVec.ofNat 32 x.toNat

/-- QNUM and QUOTA of a queue that a record is to enter (R270, R272). -/
def queueTrap (s : State) (q : Fin 64) : Option Trap :=
  if !queueUsable s.die (partNum s) q then some { cause := .queue, detail := 1, arg := q.val } else none

/-- QUOTA (R272). -/
def quotaTrap (s : State) (q : Fin 64) : Option Trap :=
  if queueRoom s.die q then none else some { cause := .queue, detail := 3, arg := q.val }

/-- Watches that hold a place: those entered, and those whose suspension has issued (R294). -/
def watchesHeld (s : State) : Nat :=
  s.die.watches.length + (s.cores.filter fun c => match c.wait with
    | some (.suspCommit (.mwait ..) _) | some (.susp (.mwait ..) _) => true
    | _ => false).length

/-- Whether a crewed spawn held in the open segment carries a coordinate (R284). -/
def spawnHeld (c : Core) (r : Record) : Bool :=
  c.held.any fun h => match h with
    | .spawn _ x _ => x.crew == r.crew && x.slotNum == r.slotNum && x.crew != 0xFF
    | _ => false

/-- RECORD (R274, R284). -/
def spawnBad (s : State) (r : Record) : Bool :=
  recordBad s.die.ncrew r || r.stg != s.die.stage
    || (r.crew != 0xFF && ((crewOf s r.crew.toNat).live.toNat.testBit r.slotNum || spawnHeld s.core r))

/-- The traps of B.SPAWN after its load, in the order of R274. -/
def spawnTrap (s : State) (q : Fin 64) (r : Record) : Option Trap :=
  (queueTrap s q).orElse fun _ =>
  (if spawnBad s r then some { cause := .queue, detail := 2, arg := q.val } else none).orElse fun _ =>
  (if 16 ≤ s.core.seg.spawns then some { cause := .queue, detail := 4, arg := q.val } else none).orElse fun _ =>
  quotaTrap s q

/-- A record held until the segment commits, its place reserved (R272, R274). -/
def holdSpawn (q : Fin 64) (r : Record) (addr : Nat) (s : State) : State :=
  reservePlaces q (· + 1) (s.upCore fun c =>
    { c with held := c.held ++ [.spawn q r addr], seg := { c.seg with spawns := c.seg.spawns + 1 } })

end Sys2Proof.Machine
end

