-- ==== Sys2Proof/Machine/Scalar.lean ====
section
/-! DEFINITION. The meanings of the S class (spec/06 R93 to R105). -/

namespace Sys2Proof

/-- Whether a condition holds of two 64-bit values (R99). -/
def Cond.holds (c : Cond) (x y : Word) : Bool :=
  match c with
  | .eq => x == y
  | .ne => x != y
  | .lt => x.toInt < y.toInt
  | .le => x.toInt ≤ y.toInt
  | .gt => y.toInt < x.toInt
  | .ge => y.toInt ≤ x.toInt
  | .ltu => x.toNat < y.toNat
  | .leu => x.toNat ≤ y.toNat
  | .gtu => y.toNat < x.toNat
  | .geu => y.toNat ≤ x.toNat

namespace Machine

/-! Shapes of S syllables (R93 to R97). -/

/-- D := f(A, B), landing after k bundles. -/
def sBin (k : Nat) (f : Word → Word → Word) (d a b : SReg) (s : State) : Host.Outcome State Fault Refusal :=
  issue s { srcs := [.s a, .s b], dsts := [.s d] } (wrS d k (f (regS s a) (regS s b)))

/-- D := f(A), landing at latency 1. -/
def sUn (f : Word → Word) (d a : SReg) (s : State) : Host.Outcome State Fault Refusal :=
  issue s { srcs := [.s a], dsts := [.s d] } (wrS d 1 (f (regS s a)))

/-- D, a predicate, := a function of two predicates. -/
def pBin (f : Bool → Bool → Bool) (d a b : PReg) (s : State) : Host.Outcome State Fault Refusal :=
  issue s { srcs := [.p a, .p b], dsts := [.p d] } (wrP d 1 (f (regP s a) (regP s b)))

/-- The low six bits of a shift amount (R95). -/
def amount (b : Word) : Nat := b.toNat % 64

/-- Byte k moved to byte 7 − k (R96). -/
def byteSwap (x : Word) : Word := wordN (natOf (bytesOf 8 x.toNat).reverse)

/-- The W bits of x from POS up (R98). -/
def bitField (signed : Bool) (x : Word) (pos w : Nat) : Word :=
  let y := x.toNat / 2 ^ pos
  if signed then wordI (sextN y w) else wordN (y % 2 ^ w)

/-- W bits of x put at POS into y (R98). -/
def bitInsert (x y : Word) (pos w : Nat) : Word :=
  let m : Word := wordN ((2 ^ w - 1) * 2 ^ pos)
  (y &&& ~~~m) ||| ((x <<< pos) &&& m)

/-- sext(IMM30, 30). -/
def imm30 (i : BitVec 30) : Word := i.signExtend 64

/-! Control registers (R45, R11, R35, R103, R110, R111, R138, R203, R276, R299). -/

/-- A mask of 64 bits over the tags. -/
def tagBits (f : TagSt → Bool) (c : Core) : Word :=
  wordN (packN 1 ((List.finRange 64).map fun t => (f c.tags[t]).toNat))

/-- LCn (R110). -/
def LoopLvl.word (l : LoopLvl) : Word :=
  wordN (l.rem.toNat + l.act.toNat * 2 ^ 32 + l.pipe.toNat * 2 ^ 33 + l.stg.val * 2 ^ 34 + l.drained.toNat * 2 ^ 36)

/-- RPC (R111). -/
def Rpc.word (r : Rpc) : Word := wordN (r.iter.toNat + r.count.toNat * 2 ^ 16 + r.act.toNat * 2 ^ 32)

/-- MATMODE as the core reads it (R138). -/
def matmode (s : State) : Word :=
  wordN ((engineOf s).mode.val + (sideB s.core).toNat * 8 + s.core.arch.mirroff.toNat * 16)

/-- A control register as it stands at issue (R102, R103). -/
def cregValue (s : State) (r : CReg) : Word :=
  let c := s.core
  let d := s.die
  match r with
  | .allow => wordN (d.level.val + d.changes.toNat * 2 ^ 16)
  | .paced => wordN (c.pacedN.toNat + c.stretchN.toNat * 2 ^ 32)
  | .budget => wordN (c.left.toNat + c.budgetStop.toNat * 2 ^ 32)
  | .diecfg => wordN (d.ncrew % 32 + d.grade.toNat * 2 ^ 8 + d.cfgser.toNat * 2 ^ 16)
  | .dbgctl => wordN (d.dbgPend.toNat + d.dbgStep.toNat * 2)
  | .trappc => wordN c.trappc.toNat
  | .trapinfo => c.trapinfo
  | .ckptpc => wordN c.ckptpc.toNat
  | .rpc => c.arch.rpc.word
  | .shape => c.arch.shape
  | .qsl => c.arch.qsl
  | .matmode => matmode s
  | .ttbase => c.arch.ttbase
  | .tagdone => tagBits (·.done) c
  | .tagerr => tagBits (·.err) c
  | .crewid => wordN c.crewid.toNat
  | .strandid => c.strandid
  | .stage => wordN (d.stage.toNat + d.num % 16 * 2 ^ 16)
  | .partid => c.partid
  | .rvzto => wordN d.rvzto.toNat
  | .clkw => wordN d.clkw.toNat
  | .horizon => wordN d.horizon.toNat
  | .feat => d.feat
  | .mcrev => d.mcrev
  | .numv => d.numv
  | .lc n => c.arch.loops[n].word
  | .ls n => wordN c.arch.loops[n].ls.toNat
  | .le n => wordN c.arch.loops[n].le.toNat

/-- A staging register as it stands at issue (R102). -/
def gregValue (a : Arch) (g : GReg) : Word :=
  match g with
  | .mg n => a.mg[n]
  | .cg n => a.cg[n]
  | .dg n => a.dg[n]
  | .lg n => a.lg[n]

/-- A word of a memory level whose ECC cannot be corrected, read at issue (R229, R302). -/
def ueccWord (c : Core) (level lo n : Nat) : Option Trap :=
  (c.ueccMem.find? fun w => w.1 == level && wordHits w.2 lo n).map fun w =>
    { cause := .uecc, detail := level, arg := w.2 / 8 * 8 }

/-! Meanings. -/

/-- S.NOP (R96). -/
def execSNop (_imm : BitVec 16) (s : State) : Host.Outcome State Fault Refusal := issue s {} id
/-- S.ADD (R95). -/
def execSAdd (d a b : SReg) (s : State) : Host.Outcome State Fault Refusal := sBin 1 (· + ·) d a b s
/-- S.SUB (R95). -/
def execSSub (d a b : SReg) (s : State) : Host.Outcome State Fault Refusal := sBin 1 (· - ·) d a b s
/-- S.ADDI (R97). -/
def execSAddi (d a : SReg) (imm : BitVec 30) (s : State) : Host.Outcome State Fault Refusal :=
  sUn (· + imm30 imm) d a s
/-- S.MOVI (R97). -/
def execSMovi (d : SReg) (imm : BitVec 30) (s : State) : Host.Outcome State Fault Refusal :=
  issue s { dsts := [.s d] } (wrS d 1 (imm30 imm))
/-- S.MOVHI (R97): IMM30 above the low 30 bits of A, as a 60-bit integer. -/
def execSMovhi (d a : SReg) (imm : BitVec 30) (s : State) : Host.Outcome State Fault Refusal :=
  sUn (fun x => wordI (sextN (imm.toNat * 2 ^ 30 + x.toNat % 2 ^ 30) 60)) d a s
/-- S.AND (R95). -/
def execSAnd (d a b : SReg) (s : State) : Host.Outcome State Fault Refusal := sBin 1 (· &&& ·) d a b s
/-- S.OR (R95). -/
def execSOr (d a b : SReg) (s : State) : Host.Outcome State Fault Refusal := sBin 1 (· ||| ·) d a b s
/-- S.XOR (R95). -/
def execSXor (d a b : SReg) (s : State) : Host.Outcome State Fault Refusal := sBin 1 (· ^^^ ·) d a b s
/-- S.ANDN (R95). -/
def execSAndn (d a b : SReg) (s : State) : Host.Outcome State Fault Refusal := sBin 1 (fun x y => x &&& ~~~y) d a b s
/-- S.ANDI (R97). -/
def execSAndi (d a : SReg) (imm : BitVec 30) (s : State) : Host.Outcome State Fault Refusal :=
  sUn (· &&& imm30 imm) d a s
/-- S.ORI (R97). -/
def execSOri (d a : SReg) (imm : BitVec 30) (s : State) : Host.Outcome State Fault Refusal :=
  sUn (· ||| imm30 imm) d a s
/-- S.XORI (R97). -/
def execSXori (d a : SReg) (imm : BitVec 30) (s : State) : Host.Outcome State Fault Refusal :=
  sUn (· ^^^ imm30 imm) d a s
/-- S.SHL (R95). -/
def execSShl (d a b : SReg) (s : State) : Host.Outcome State Fault Refusal :=
  sBin 1 (fun x y => x <<< amount y) d a b s
/-- S.SHR (R95). -/
def execSShr (d a b : SReg) (s : State) : Host.Outcome State Fault Refusal :=
  sBin 1 (fun x y => x >>> amount y) d a b s
/-- S.SAR (R95). -/
def execSSar (d a b : SReg) (s : State) : Host.Outcome State Fault Refusal :=
  sBin 1 (fun x y => x.sshiftRight (amount y)) d a b s
/-- S.SHLI (R98). -/
def execSShli (d a : SReg) (pos : Fin 64) (s : State) : Host.Outcome State Fault Refusal :=
  sUn (· <<< pos.val) d a s
/-- S.SHRI (R98). -/
def execSShri (d a : SReg) (pos : Fin 64) (s : State) : Host.Outcome State Fault Refusal :=
  sUn (· >>> pos.val) d a s
/-- S.SARI (R98). -/
def execSSari (d a : SReg) (pos : Fin 64) (s : State) : Host.Outcome State Fault Refusal :=
  sUn (·.sshiftRight pos.val) d a s
/-- S.ROR (R95). -/
def execSRor (d a b : SReg) (s : State) : Host.Outcome State Fault Refusal :=
  sBin 1 (fun x y => x.rotateRight (amount y)) d a b s
/-- S.MIN (R95). -/
def execSMin (d a b : SReg) (s : State) : Host.Outcome State Fault Refusal :=
  sBin 1 (fun x y => if x.toInt ≤ y.toInt then x else y) d a b s
/-- S.MAX (R95). -/
def execSMax (d a b : SReg) (s : State) : Host.Outcome State Fault Refusal :=
  sBin 1 (fun x y => if x.toInt ≤ y.toInt then y else x) d a b s
/-- S.MINU (R95). -/
def execSMinu (d a b : SReg) (s : State) : Host.Outcome State Fault Refusal :=
  sBin 1 (fun x y => if x.toNat ≤ y.toNat then x else y) d a b s
/-- S.MAXU (R95). -/
def execSMaxu (d a b : SReg) (s : State) : Host.Outcome State Fault Refusal :=
  sBin 1 (fun x y => if x.toNat ≤ y.toNat then y else x) d a b s
/-- S.ABS (R96). -/
def execSAbs (d a : SReg) (s : State) : Host.Outcome State Fault Refusal :=
  sUn (fun x => if x.toInt < 0 then -x else x) d a s
/-- S.NEG (R96). -/
def execSNeg (d a : SReg) (s : State) : Host.Outcome State Fault Refusal := sUn (- ·) d a s
/-- S.CLZ (R96). -/
def execSClz (d a : SReg) (s : State) : Host.Outcome State Fault Refusal := sUn (fun x => wordN (clzN 64 x.toNat)) d a s
/-- S.CTZ (R96). -/
def execSCtz (d a : SReg) (s : State) : Host.Outcome State Fault Refusal := sUn (fun x => wordN (ctzN 64 x.toNat)) d a s
/-- S.POPC (R96). -/
def execSPopc (d a : SReg) (s : State) : Host.Outcome State Fault Refusal :=
  sUn (fun x => wordN (popcount 64 x.toNat)) d a s
/-- S.BSWAP (R96). -/
def execSBswap (d a : SReg) (s : State) : Host.Outcome State Fault Refusal := sUn byteSwap d a s
/-- S.SEXT (R98). -/
def execSSext (d a : SReg) (w1 : Fin 64) (s : State) : Host.Outcome State Fault Refusal :=
  sUn (fun x => bitField true x 0 (w1.val + 1)) d a s
/-- S.ZEXT (R98). -/
def execSZext (d a : SReg) (w1 : Fin 64) (s : State) : Host.Outcome State Fault Refusal :=
  sUn (fun x => bitField false x 0 (w1.val + 1)) d a s
/-- S.BFX (R98). -/
def execSBfx (signed : Bool) (d a : SReg) (pos w1 : Fin 64) (s : State) : Host.Outcome State Fault Refusal :=
  sUn (fun x => bitField signed x pos.val (w1.val + 1)) d a s
/-- S.BFI (R98). -/
def execSBfi (d a b : SReg) (pos w1 : Fin 64) (s : State) : Host.Outcome State Fault Refusal :=
  sBin 1 (fun x y => bitInsert x y pos.val (w1.val + 1)) d a b s
/-- S.SEL (R96). -/
def execSSel (d a b : SReg) (c : PReg) (s : State) : Host.Outcome State Fault Refusal :=
  issue s { srcs := [.s a, .s b, .p c], dsts := [.s d] } (wrS d 1 (if regP s c then regS s a else regS s b))
/-- S.MUL (R95). -/
def execSMul (d a b : SReg) (s : State) : Host.Outcome State Fault Refusal := sBin 3 (· * ·) d a b s
/-- S.MULH (R95). -/
def execSMulh (d a b : SReg) (s : State) : Host.Outcome State Fault Refusal :=
  sBin 3 (fun x y => wordI (x.toInt * y.toInt / 2 ^ 64)) d a b s
/-- S.MULHU (R95). -/
def execSMulhu (d a b : SReg) (s : State) : Host.Outcome State Fault Refusal :=
  sBin 3 (fun x y => wordN (x.toNat * y.toNat / 2 ^ 64)) d a b s
/-- S.MADD (R96). -/
def execSMadd (d a b c : SReg) (s : State) : Host.Outcome State Fault Refusal :=
  issue s { srcs := [.s a, .s b, .s c], dsts := [.s d] } (wrS d 3 (regS s a * regS s b + regS s c))
/-- S.CMP (R99). -/
def execSCmp (cond : Cond) (d : PReg) (a b : SReg) (s : State) : Host.Outcome State Fault Refusal :=
  issue s { srcs := [.s a, .s b], dsts := [.p d] } (wrP d 1 (cond.holds (regS s a) (regS s b)))
/-- S.CMPI (R99). -/
def execSCmpi (cond : Cond) (d : PReg) (a : SReg) (imm : BitVec 30) (s : State) :
    Host.Outcome State Fault Refusal :=
  issue s { srcs := [.s a], dsts := [.p d] } (wrP d 1 (cond.holds (regS s a) (imm30 imm)))
/-- S.PAND (R100). -/
def execSPand (d a b : PReg) (s : State) : Host.Outcome State Fault Refusal := pBin (fun x y => x && y) d a b s
/-- S.POR (R100). -/
def execSPor (d a b : PReg) (s : State) : Host.Outcome State Fault Refusal := pBin (fun x y => x || y) d a b s
/-- S.PXOR (R100). -/
def execSPxor (d a b : PReg) (s : State) : Host.Outcome State Fault Refusal := pBin (fun x y => x != y) d a b s
/-- S.PNOT (R100). -/
def execSPnot (d a : PReg) (s : State) : Host.Outcome State Fault Refusal :=
  issue s { srcs := [.p a], dsts := [.p d] } (wrP d 1 (!regP s a))
/-- S.PSET (R100). -/
def execSPset (d : PReg) (a : SReg) (s : State) : Host.Outcome State Fault Refusal :=
  issue s { srcs := [.s a], dsts := [.p d] } (wrP d 1 (regS s a != 0))
/-- S.LEA (R96). -/
def execSLea (k : Fin 4) (d a b : SReg) (imm : BitVec 16) (s : State) : Host.Outcome State Fault Refusal :=
  sBin 1 (fun x y => x + (y <<< k.val) + imm.signExtend 64) d a b s
/-- S.MOV (R96). -/
def execSMov (d a : SReg) (s : State) : Host.Outcome State Fault Refusal := sUn id d a s
/-- S.CRD (R102, R103). -/
def execSCrd (d : SReg) (c : CReg) (s : State) : Host.Outcome State Fault Refusal :=
  issue s { dsts := [.s d] } (wrS d 1 (cregValue s c))
/-- S.CWR (R102, R103): a write to a register that strands may only read is ignored. -/
def execSCwr (c : CReg) (a : SReg) (s : State) : Host.Outcome State Fault Refusal :=
  issue s { srcs := [.s a] } (fun t => t.flight 1 (.creg c (regS s a)))
/-- S.GRD (R102). -/
def execSGrd (d : SReg) (g : GReg) (s : State) : Host.Outcome State Fault Refusal :=
  issue s { dsts := [.s d] } (wrS d 1 (gregValue s.core.arch g))
/-- S.GWR (R102). -/
def execSGwr (g : GReg) (a : SReg) (s : State) : Host.Outcome State Fault Refusal :=
  issue s { srcs := [.s a] } (fun t => t.flight 1 (.greg g (regS s a)))
/-- S.SPL (R102). -/
def execSSpl (d : SReg) (slot : Fin 512) (s : State) : Host.Outcome State Fault Refusal :=
  issue s { dsts := [.s d], trap := ueccWord s.core 2 (8 * slot.val) 8 }
    (wrS d 1 (wordN (natOf (s.core.arch.spill.getN (8 * slot.val) 8))))
/-- S.SPS (R102). -/
def execSSps (a : SReg) (slot : Fin 512) (s : State) : Host.Outcome State Fault Refusal :=
  issue s { srcs := [.s a] } (fun t => t.flight 1 (.spill slot (regS s a)))
/-- S.CLK (R104). -/
def execSClk (strict : Bool) (d : SReg) (s : State) : Host.Outcome State Fault Refusal :=
  let d1 : SReg := d + 1
  issue s { dsts := [.s d, .s d1]
            trap := if strict && s.die.clkw.toNat < s.die.latest - s.die.earliest then some { cause := .clkwide }
              else none }
    (fun t => wrS d1 1 (wordN s.die.latest) (wrS d 1 (wordN s.die.earliest) t))
/-- S.CHK (R105). -/
def execSChk (x : ChkPair) (s : State) : Host.Outcome State Fault Refusal :=
  let chk (r q : Reg) (same : Bool) : Host.Outcome State Fault Refusal :=
    issue s { srcs := [r, q], trap := if same then none else some { cause := .check, arg := r.num } } id
  match x with
  | .s a b => chk (.s a) (.s b) (regS s a == regS s b)
  | .p a b => chk (.p a) (.p b) (regP s a == regP s b)
  | .m a b => chk (.m a) (.m b) (regM s a == regM s b)
/-- S.MSK.ins (R101). -/
def execSMskIns (q : Fin 4) (d : MReg) (a : SReg) (b : MReg) (s : State) : Host.Outcome State Fault Refusal :=
  let hole : Mask := ~~~((BitVec.allOnes 64).setWidth 256 <<< (64 * q.val))
  issue s { srcs := [.s a, .m b], dsts := [.m d] }
    (wrM d 1 ((regM s b &&& hole) ||| ((regS s a).setWidth 256 <<< (64 * q.val))))
/-- S.MSK.ext (R101). -/
def execSMskExt (q : Fin 4) (d : SReg) (a : MReg) (s : State) : Host.Outcome State Fault Refusal :=
  issue s { srcs := [.m a], dsts := [.s d] } (wrS d 1 ((regM s a >>> (64 * q.val)).setWidth 64))
/-- S.MSKI (R101). -/
def execSMski (d : MReg) (n : Fin 257) (s : State) : Host.Outcome State Fault Refusal :=
  issue s { dsts := [.m d] } (wrM d 1 (BitVec.ofNat 256 (2 ^ n.val - 1)))

end Machine

end Sys2Proof
end

