-- ==== Sys2Proof/Machine/Branch.lean ====
section
/-! DEFINITION. The meanings of the B class: branches, loops and the repeat prefix (spec/06 R106 to R114), the
checkpoint and rendezvous (spec/12 R225, R231, R232), yields and spawns (spec/15 R273, R274), groups (spec/16 R286),
barriers and the monitor (spec/17 R289, R292, R294) and the tag waits (spec/10 R204). -/

namespace Sys2Proof.Machine

/-! Branches (R106, R107). -/

/-- A target relative to the issuing bundle (R54). -/
def relTarget (s : State) (off : Int) : Nat := (((s.core.issue.ba : Int) + 8 * off) % 2 ^ 56).toNat

/-- A branch is taken: the next bundle is the target, and the end test is not made (R106, R109; log 8, DESIGN CHOICE).
-/
def jump (target : Nat) (s : State) : State :=
  s.upCore fun c => { c with pc := BitVec.ofNat 56 target, issue := { c.issue with taken := true } }

/-- BADTARGET of an indirect branch (R106). -/
def badTarget (x : Word) : Option Trap :=
  if x.toNat % 8 != 0 || wbits x 63 56 != 0 then some { cause := .badtarget, addr := x.toNat } else none

/-- The return link: s1 := nb at latency 1 (R106). -/
def link (s : State) : State := wrS 1 1 (wordN s.core.issue.nb) s

/-- Whether a syllable is the entry S.NOP of a signature class (R107; log 87, DEDUCED). -/
def entersClass (w : Nat) (cls : BitVec 16) : Bool :=
  (decodeWord w == .ok (.sNop cls)) && !(frameOf w).ginv && (frameOf w).gpred.val == 0

/-- The traps of B.CALLI (R106, R107; log 87, DEDUCED). -/
def calliTrap (s : State) (x : Word) (cls : BitVec 16) : Option Trap :=
  (badTarget x).orElse fun _ =>
  match fetchSyl s x.toNat with
  | .error t => some t
  | .ok w => if entersClass w cls then none else some { cause := .sigclass, addr := x.toNat }

/-- B.BR (R106). -/
def execBBr (off : BitVec 44) (s : State) : Host.Outcome State Fault Refusal :=
  issue s {} (jump (relTarget s off.toInt))
/-- B.CALL (R106). -/
def execBCall (off : BitVec 44) (s : State) : Host.Outcome State Fault Refusal :=
  issue s { dsts := [.s 1] } (fun t => link (jump (relTarget s off.toInt) t))
/-- B.RET (R106). -/
def execBRet (a : SReg) (s : State) : Host.Outcome State Fault Refusal :=
  issue s { srcs := [.s a], trap := badTarget (regS s a) } (jump (regS s a).toNat)
/-- B.JMPI (R106); a taken one clears HND (R304). -/
def execBJmpi (a : SReg) (s : State) : Host.Outcome State Fault Refusal :=
  issue s { srcs := [.s a], trap := badTarget (regS s a) }
    (fun t => (jump (regS s a).toNat t).upCore fun c => { c with hnd := false })
/-- B.CALLI (R106, R107). -/
def execBCalli (a : SReg) (cls : BitVec 16) (s : State) : Host.Outcome State Fault Refusal :=
  issue s { srcs := [.s a], dsts := [.s 1], trap := calliTrap s (regS s a) cls }
    (fun t => link (jump (regS s a).toNat t))

/-! Loops (R108). -/

/-- The traps of a loop start, the fetch of the bundle at the end of a skipped body included (R108). -/
def loopTrap (s : State) (lvl : Fin 3) (pipe : Bool) (n : Nat) (e : Nat) : Option Trap :=
  if 2 ^ 32 < n then some { cause := .loop, detail := 1 }
  else if e < s.core.issue.nb then some { cause := .loop, detail := 2 }
  else if pipe && (List.finRange 3).any (fun m => m != lvl && s.core.arch.loops[m].act && s.core.arch.loops[m].pipe)
  then some { cause := .loop, detail := 3 }
  else if n == 0 then
    match fetchWords s e 13 with
    | .error t => some t
    | .ok _ => none
  else none

/-- The address after the bundle at an address (log 88, DEDUCED). -/
def afterBundle (s : State) (a : Nat) : Nat :=
  match fetchWords s a 13 with
  | .error _ => a
  | .ok l => a + 8 * l.length

/-- A loop level starts (R108; log 23, DEDUCED). -/
def startLoop (lvl : Fin 3) (pipe : Bool) (k1 : Fin 4) (n e : Nat) (s : State) : State :=
  let nb := BitVec.ofNat 56 s.core.issue.nb
  let l : LoopLvl := ⟨BitVec.ofNat 32 (n - 1), true, pipe, k1, false, nb, BitVec.ofNat 56 e⟩
  jump s.core.issue.nb (s.upArch fun a =>
    { a with loops := a.loops.set lvl l
             p := if pipe then a.p &&& 0x0FFF ||| 0x1000 else a.p })

/-- `loopstart` (R108). -/
def loopStart (lvl : Fin 3) (pipe : Bool) (k1 : Fin 4) (a : SReg) (off : BitVec 30) (s : State) :
    Host.Outcome State Fault Refusal :=
  let n := (regS s a).toNat
  let e := relTarget s off.toInt
  issue s { srcs := [.s a], trap := loopTrap s lvl pipe n e }
    (fun t => if n == 0 then t.upCore fun c => { c with issue := { c.issue with nb := afterBundle s e } }
      else startLoop lvl pipe k1 n e t)

/-- B.LOOP (R108). -/
def execBLoop (lvl : Fin 3) (a : SReg) (off : BitVec 30) (s : State) : Host.Outcome State Fault Refusal :=
  loopStart lvl false 0 a off s
/-- B.PLOOP (R108; log 23, DEDUCED). -/
def execBPloop (lvl : Fin 3) (k1 : Fin 4) (a : SReg) (off : BitVec 30) (s : State) :
    Host.Outcome State Fault Refusal :=
  loopStart lvl true k1 a off s

/-! The repeat prefix (R111). -/

/-- Whether the bundle at an address ends an active level. -/
def endsLevel (a : Arch) (ba : Nat) : Bool := a.loops.toList.any fun l => l.act && l.le.toNat == ba

/-- The checks of R63 on the target of a repeat, the weight of R28 with the sustained weight that counts its first
iteration included (R111, R39, R40). -/
def checkTarget (s : State) (ws : List Nat) : Option Trap :=
  match checkWords s.die.feat ws with
  | .error t => some t
  | .ok l => if decodeLimit s < weightSum l + sustained (occNext s.core.occ) then some (illBundle 8) else none

/-- The traps of B.REP at its issue, in the order of R111. A decode trap of the target is one of the B.REP's bundle,
which TRAPPC holds (log 27, DEDUCED). -/
def repTrap (s : State) (byReg : Bool) (n : Nat) : Option Trap :=
  if byReg && 65535 < n then some { cause := .rep, detail := 1 }
  else match fetchWords s s.core.issue.nb 13 with
    | .error t => some t
    | .ok ws =>
      if ws.any (fun w => assigned (bits w 56 49) && classOf (bits w 56 49) == .b)
          || endsLevel s.core.arch s.core.issue.nb || endsLevel s.core.arch s.core.issue.ba
      then some { cause := .rep, detail := 2 }
      else if n == 0 then none
      else checkTarget s ws

/-- B.REP (R111; log 27, DEDUCED). -/
def execBRep (reg : Option SReg) (count : BitVec 12) (stride : BitVec 3) (fmask : BitVec 4) (s : State) :
    Host.Outcome State Fault Refusal :=
  let go (srcs : List Reg) (byReg : Bool) (n : Nat) : Host.Outcome State Fault Refusal :=
    issue s { srcs := srcs, trap := repTrap s byReg n }
      (fun t =>
        if n == 0 then
          t.upCore fun c => { c with issue := { c.issue with nb := afterBundle s c.issue.nb } }
        else
          jump s.core.issue.nb (t.upArch fun a =>
            { a with rpc := ⟨0, BitVec.ofNat 16 n, true, stride, fmask⟩ }))
  match reg with
  | some r => go [.s r] true (regS s r).toNat
  | none => go [] false count.toNat

/-! The checkpoint, the barrier and the traps of software. -/

/-- B.CKPT (R225). -/
def execBCkpt (s : State) : Host.Outcome State Fault Refusal := issue s {} (fun t => tryCheckpoint (beginWait .ckpt t))
/-- B.TRAP (R114). -/
def execBTrap (code : BitVec 16) (s : State) : Host.Outcome State Fault Refusal :=
  issue s { trap := some { cause := .swtrap, arg := code.toNat } } id
/-- B.CBAR (R292). -/
def execBCbar (d : SReg) (s : State) : Host.Outcome State Fault Refusal :=
  issue s { dsts := [.s d]
            trap :=
              if !crewed s.core then some { cause := .barrier, detail := 1 }
              else if !(crewOf s s.core.crewid.toNat).memb.toNat.testBit (strandNum s.core) then
                some { cause := .barrier, detail := 2 }
              else none }
    (fun t => resumeWait (.cbarCommit d) (beginWait (.cbarCommit d) t))

/-! Suspension points (R19). -/

/-- A suspension point: its own checks, then R110. -/
def suspPoint (srcs : List Reg) (trap : Option Trap) (p : Susp) (run : BitVec 32) (pre : State → State) (s : State) :
    Host.Outcome State Fault Refusal :=
  issue s { srcs := srcs, trap := trap.orElse fun _ => suspTrap s } (fun t => suspend p run (pre t))

/-- B.RVZ (R231, R232). -/
def execBRvz (a : SReg) (slot : Fin 16) (mask : BitVec 8) (s : State) : Host.Outcome State Fault Refusal :=
  suspPoint [.s a]
    (if !crewed s.core then some { cause := .rvz, detail := 3 }
     else if rvzBad (crewOf s s.core.crewid.toNat).rvz[slot] (strandNum s.core) mask then
       some { cause := .rvz, detail := 1 }
     else none)
    (.rvz slot mask) (runOf (regS s a)) id s
/-- B.YIELD (R273). -/
def execBYield (a : SReg) (q : Fin 64) (s : State) : Host.Outcome State Fault Refusal :=
  suspPoint [.s a] ((queueTrap s q).orElse fun _ => quotaTrap s q) (.yield q) (runOf (regS s a))
    (reservePlaces q (· + 1)) s
/-- B.WAIT.time (R112). -/
def execBWaitTime (a b : SReg) (s : State) : Host.Outcome State Fault Refusal :=
  suspPoint [.s a, .s b] none (.waitTime (regS s a).toNat) (runOf (regS s b)) id s
/-- B.WAIT.mbox (R112). -/
def execBWaitMbox (b : SReg) (s : State) : Host.Outcome State Fault Refusal :=
  suspPoint [.s b] none .waitMbox (runOf (regS s b)) id s
/-- B.WAIT.crewq (R112, R277). -/
def execBWaitCrewq (b : SReg) (q : Fin 4) (s : State) : Host.Outcome State Fault Refusal :=
  suspPoint [.s b] (if crewed s.core then none else some { cause := .group, detail := 2 }) (.waitCrewq q)
    (runOf (regS s b)) id s
/-- B.WAIT.recv (R112). -/
def execBWaitRecv (b : SReg) (n : Fin 16) (s : State) : Host.Outcome State Fault Refusal :=
  suspPoint [.s b] (if s.die.recv[n].isSome then none else some { cause := .link, detail := 1, arg := n.val })
    (.waitRecv n) (runOf (regS s b)) id s
/-- Where a watched word lies, or the trap of B.MWAIT (R294). -/
def watchAt (s : State) (w : Nat) : Except Trap Nat :=
  if w % 8 != 0 then .error (memTrap 1)
  else if inLocal w then .error (memTrap 3)
  else match locateShared s .rd w 8 with
    | .error t => .error t
    | .ok ps =>
      if ps.any (notIdentity s) then .error (memTrap 3)
      else match ps with
        | .mem pa _ _ :: _ =>
          if 128 ≤ watchesHeld s then .error { cause := .barrier, detail := 4 }
          else .ok (homeOf s.die (partNum s) pa)
        | _ => .error (memTrap 3)
/-- B.MWAIT (R294). -/
def execBMwait (a b c : SReg) (s : State) : Host.Outcome State Fault Refusal :=
  let w := (regS s a).toNat % 2 ^ 56
  match watchAt s w with
  | .error t => suspPoint [.s a, .s b, .s c] (some t) (.mwait w 0 (regS s c)) (runOf (regS s b)) id s
  | .ok pa => suspPoint [.s a, .s b, .s c] none (.mwait w pa (regS s c)) (runOf (regS s b)) id s
/-- B.PHASE (R289). -/
def execBPhase (b : SReg) (s : State) : Host.Outcome State Fault Refusal :=
  suspPoint [.s b] none .phase (runOf (regS s b)) id s
/-- B.END (R113); R110 does not apply to a handler's (R304; log 34, DEDUCED). -/
def execBEnd (s : State) : Host.Outcome State Fault Refusal :=
  issue s { trap := if s.core.hnd then none else suspTrap s } (suspend .done 0)

/-! B.SPAWN (R274). -/

/-- B.SPAWN (R274, R284). -/
def execBSpawn (a : SReg) (q : Fin 64) (s : State) : Host.Outcome State Fault Refusal :=
  let l := loadAt s 64 64 [(regS s a).toNat % 2 ^ 56]
  let r := recordOf l.bytes
  issue s { srcs := [.s a]
            stall := l.stall s.core
            trap := l.fault.orElse fun _ => match l with
              | .got _ _ (some t) => some t
              | _ => spawnTrap s q r }
    (holdSpawn q r ((regS s a).toNat % 2 ^ 56))

/-! Tag waits (R204). -/

/-- Tags that a command held by the open segment carries. -/
def heldTag (c : Core) (t : Fin 64) : Bool :=
  (c.copyq.any fun m => m.held && m.tag == t) || (c.sq.any fun m => m.held && m.tag == some t)
    || (c.dq.any fun m => m.held && m.tag == some t)
    || c.matq.any fun m => m.held && (match m.op with
      | .asave _ g _ _ => g == t
      | _ => false)

/-- The lowest masked tag that satisfies p. -/
def lowTag (m : Word) (p : Fin 64 → Bool) : Option (Fin 64) :=
  (List.finRange 64).find? fun t => m.toNat.testBit t && p t

/-- Cause COPY for a tag. -/
def copyTrap (detail : Nat) (t : Fin 64) : Trap := { cause := .copy, detail := detail, arg := t.val }

/-- IDLETAG, HELDWAIT, and FAULTED of a tag whose fault the wait observes (R204). -/
def tagWaitTrap (c : Core) (m : Word) (ready : Bool) : Option Trap :=
  match lowTag m fun t => c.tags[t].out == 0 && !c.tags[t].done with
  | some t => some (copyTrap 7 t)
  | none => match lowTag m (heldTag c) with
    | some t => some (copyTrap 6 t)
    | none =>
      if ready then (lowTag m fun t => c.tags[t].done && c.tags[t].err).map (faultedTrap c) else none

/-- The writes of the commands that carried the observed tags join the view from the next bundle on (R211; log 29,
DEDUCED), and happen before what the strand does after the wait (R213). -/
def observe (m : Word) (s : State) : State :=
  let ids := (List.finRange 64).flatMap fun (t : Fin 64) => if m.toNat.testBit t then s.core.tags[t].writes else []
  (s.upCore fun c => { c with held := c.held ++ [.past ids] }).flight 1 (.gain ids)

/-- B.WANY and B.WALL (log 29, DEDUCED). -/
def tagWait (ready : Bool) (d a : SReg) (s : State) : Host.Outcome State Fault Refusal :=
  let m := regS s a
  let got := tagBits (·.done) s.core &&& m
  issue s { srcs := [.s a], dsts := [.s d], trap := tagWaitTrap s.core m ready
            stall := if ready then none else some .scoreboard }
    (fun t => wrS d 1 got (observe got t))

/-- B.WANY (R204). -/
def execBWany (d a : SReg) (s : State) : Host.Outcome State Fault Refusal :=
  tagWait (tagBits (·.done) s.core &&& regS s a != 0) d a s
/-- B.WALL (R204). -/
def execBWall (d a : SReg) (s : State) : Host.Outcome State Fault Refusal :=
  tagWait (tagBits (·.done) s.core &&& regS s a == regS s a) d a s
/-- B.FFR (R204; log 29, DEDUCED). -/
def execBFfr (d a : SReg) (s : State) : Host.Outcome State Fault Refusal :=
  let m := regS s a
  let got := lowTag m fun t => s.core.tags[t].done
  issue s { srcs := [.s a], dsts := [.s d]
            trap := (lowTag m fun t => s.core.tags[t].err).map (faultedTrap s.core) }
    (fun t => match got with
      | none => wrS d 1 (wordI (-1)) t
      | some g => wrS d 1 (wordN g.val) (observe (wordN (2 ^ g.val)) t))

/-! B.GROUP (R286). -/

/-- The crew that a register names. -/
def crewNamed (c : Core) (x : Word) : Nat := if x.toNat % 256 == 0xFF then c.crewid.toNat else x.toNat % 256

/-- The checks of B.GROUP in their order. -/
def groupTrap (s : State) (x : Word) : Option Trap :=
  if x.toNat % 256 == 0xFF && !crewed s.core then some { cause := .group, detail := 2 }
  else if x.toNat % 256 != 0xFF && s.die.ncrew ≤ x.toNat % 256 then some { cause := .group, detail := 1 }
  else none

/-- The query word (R286). -/
def Crew.word (w : Crew) (c : Nat) : Word :=
  wordN (w.memb.toNat + w.next.toNat * 2 ^ 8 + w.live.toNat * 2 ^ 16 + w.pend.toNat * 2 ^ 24
    + w.epoch.toNat * 2 ^ 32 + c % 16 * 2 ^ 48)

/-- A change of membership held until the segment commits. -/
def holdGroup (h : Held) (s : State) : State := s.upCore fun c => { c with held := c.held ++ [h] }

/-- B.GROUP.query (R286). -/
def execBGroupQuery (d a : SReg) (s : State) : Host.Outcome State Fault Refusal :=
  let c := crewNamed s.core (regS s a)
  issue s { srcs := [.s a], dsts := [.s d], trap := groupTrap s (regS s a) } (wrS d 1 ((crewOf s c).word c))
/-- B.GROUP.form (R286). -/
def execBGroupForm (a b : SReg) (s : State) : Host.Outcome State Fault Refusal :=
  let mask := BitVec.ofNat 8 (regS s b).toNat
  issue s { srcs := [.s a, .s b]
            trap := (groupTrap s (regS s a)).orElse fun _ =>
              if mask == 0 then some { cause := .group, detail := 3 } else none }
    (holdGroup (.form (crewNamed s.core (regS s a)) mask))
/-- B.GROUP.dissolve (R286). -/
def execBGroupDissolve (a : SReg) (s : State) : Host.Outcome State Fault Refusal :=
  issue s { srcs := [.s a], trap := groupTrap s (regS s a) }
    (holdGroup (.dissolve (crewNamed s.core (regS s a))))

end Sys2Proof.Machine
end

