-- ==== Sys2Proof/Machine/Engine.lean ====
section
/-! DEFINITION. What every engine command shares: the scoreboard it enters (spec/10 R206, R207), tags (R203), where the
elements of a tensor lie (R197, spec/05 R70), what an engine reads and writes (spec/11 R218, R212), and the walk that
stops at a faulting page (spec/10 R205) or parks at it (spec/19 R322). -/

namespace Sys2Proof.Machine

/-! The scoreboard (R206, R207). -/

/-- The commands of a core with their serials and footprints. -/
def entered (c : Core) : List (Nat × List Foot) :=
  c.matq.map (fun m => (m.serial, m.foots)) ++ c.dq.map (fun m => (m.serial, m.foots))
    ++ c.copyq.map (fun m => (m.serial, m.foots)) ++ c.sq.map fun m => (m.serial, m.foots)

/-- Entries of the scoreboard in use. -/
def boardUsed (c : Core) : Nat := ((entered c).map fun p => p.2.length).foldl (· + ·) 0

/-- The freeze of a command whose footprints find too few of the 96 entries free (R206). -/
def boardStall (c : Core) (l : List Foot) : Option Freeze :=
  if 96 < boardUsed c + l.length then some .scoreboard else none

/-- Whether two footprints conflict: they overlap and one of them is written (R207). -/
def Foot.conflicts (f g : Foot) : Bool :=
  (f.wr || g.wr) && f.lo < g.lo + g.len && g.lo < f.lo + f.len

/-- Whether no earlier entry conflicts with the footprints of a command (R207). -/
def boardClear (c : Core) (serial : Nat) (l : List Foot) : Bool :=
  (entered c).all fun p => !(p.1 < serial) || !(p.2.any fun f => l.any fun g => f.conflicts g)

/-- A footprint of the bytes of a range that lie in the local window; none when there are none. -/
def footOf (lo hi : Nat) (wr : Bool) : List Foot :=
  let top := min hi spadSize
  if lo < top then [⟨lo, top - lo, wr⟩] else []

/-! Tags (R203). -/

/-- A command that carries a tag issues. -/
def tagIssue (t : Tag) (c : Core) : Core :=
  { c with tags := c.tags.set t { c.tags[t] with out := c.tags[t].out + 1, done := false } }

/-- A command that carries a tag ends: completed, or faulted with a cause (R203, R205). -/
def tagEnd (t : Tag) (err : Option Trap) (ids : List Nat) (c : Core) : Core :=
  let x := c.tags[t]
  let x1 := { x with out := x.out - 1, since := true, done := x.out - 1 == 0, writes := joinIds x.writes ids }
  let x2 := match err with
    | none => x1
    | some e => { x1 with err := true, cause := e.cause.code, detail := e.detail, va := e.addr }
  { c with tags := c.tags.set t x2 }

/-! Limits and counts (R226). -/

/-- The limit on engine commands of a segment (R226). -/
def cmdLimit (c : Core) : Option Trap := if 64 ≤ c.seg.cmds then some { cause := .segment, detail := 3 } else none

/-- One engine command more in the segment. -/
def countCmd (c : Core) : Core := { c with seg := { c.seg with cmds := c.seg.cmds + 1 } }

/-! Where elements lie (R197, R70). -/

/-- A piece of an element: byte address, first bit, bits; pieces stand lowest bits first. -/
structure Bit where
  va : Nat
  bit : Nat
  n : Nat
  deriving DecidableEq, Repr

/-- Bits of an element of a tensor. -/
def Tensor.width (t : Tensor) : Nat := if t.planes == 0 then fmtBits t.fmt else t.planes

/-- The pieces of element (i, j) (R197, R70). -/
def Tensor.at' (t : Tensor) (i j : Nat) : List Bit :=
  let row := t.base + i * t.stride
  if t.planes == 0 then [⟨(row + j * t.width / 8) % 2 ^ 56, j * t.width % 8, t.width⟩]
  else (List.range t.planes).map fun k => let p := planarAt row t.planes j k; ⟨p.1 % 2 ^ 56, p.2, 1⟩

/-- Bytes that a piece touches. -/
def Bit.bytes (b : Bit) : Nat := (b.bit + b.n + 7) / 8

/-- The bytes that the pieces of an element touch (log 46, DEDUCED). -/
def bitBytes (l : List Bit) : List Nat := l.flatMap fun b => (List.range b.bytes).map (b.va + ·)

/-! Reads (R218, R229). -/

/-- n bytes as an engine command reads them: shared memory in its issuer's view at issue, the scratchpad as it stands
(R218); data whose ECC cannot be corrected stops the command (R229). -/
def engRead (s : State) (sn : Snap) (va n : Nat) : Except Trap (List Byte) :=
  match locate s .rd va n with
  | .error t => .error t
  | .ok ps => match ueccPieces s ps with
    | some t => .error t
    | none => readPieces s sn ps

/-- Bytes read as an engine reads them, piece by piece of 4 KiB, of which there are at most k, until one cannot be
read. -/
def readUntil (s : State) (sn : Snap) : Nat → Nat → Nat → List Byte × Option Trap
  | 0, _, _ => ([], none)
  | k + 1, va, n =>
    if n == 0 then ([], none)
    else
      let m := min n (0x1000 - va % 0x1000)
      match engRead s sn (va % 2 ^ 56) m with
      | .error t => ([], some t)
      | .ok b => let r := readUntil s sn k (va + m) (n - m); (b ++ r.1, r.2)

/-- n bytes read as an engine reads them, across pages and the end of the local window. -/
def readRange (s : State) (sn : Snap) (va n : Nat) : Except Trap (List Byte) :=
  match readUntil s sn (n / 0x1000 + 2) va n with
  | (b, none) => .ok b
  | (_, some t) => .error t

/-- Block k of a compressed tensor as an engine reads it: its 256 bytes; a corrupt one stops the command (R87, R205). -/
def engBlock (s : State) (sn : Snap) (t : Tensor) (k : Nat) : Except Trap (List Byte) :=
  match engRead s sn ((t.base + t.stored * k) % 2 ^ 56) t.stored with
  | .error e => .error e
  | .ok b => match (if headerEscapes (natOf (b.take 8)) then engRead s sn ((t.raw + 256 * k) % 2 ^ 56) 256 else .ok []) with
    | .error e => .error e
    | .ok r => match expandBlock b r with
      | some x => .ok x
      | none => .error { cause := .format, detail := 3 }

/-- The byte of a tensor's image at an address of it (R86). -/
def Tensor.imageOff (t : Tensor) (va : Nat) : Nat := (va + 2 ^ 56 - t.base) % 2 ^ 56

/-- n bytes at an address of a tensor as an engine reads them: out of its expanded blocks when it is compressed (R87;
log 101, DEDUCED). -/
def Tensor.read (t : Tensor) (s : State) (sn : Snap) (va n : Nat) : Except Trap (List Byte) :=
  if t.cmp == 0 then engRead s sn va n
  else
    let o := t.imageOff va
    match engBlock s sn t (o / 256) with
    | .error e => .error e
    | .ok a =>
      if o % 256 + n ≤ 256 then .ok ((a.drop (o % 256)).take n)
      else match engBlock s sn t (o / 256 + 1) with
        | .error e => .error e
        | .ok b => .ok (((a ++ b).drop (o % 256)).take n)

/-- The encoding that the pieces of an element of a tensor hold, lowest bits first. -/
def engElem (s : State) (sn : Snap) (ten : Tensor) : List Bit → Except Trap Nat
  | [] => .ok 0
  | b :: t =>
    match ten.read s sn b.va b.bytes with
    | .error e => .error e
    | .ok x => match engElem s sn ten t with
      | .error e => .error e
      | .ok hi => .ok (natOf x / 2 ^ b.bit % 2 ^ b.n + 2 ^ b.n * hi)

/-- Source element (i, j): beyond ROWS or TLEN it reads as 0 (R197). -/
def Tensor.src (t : Tensor) (s : State) (sn : Snap) (i j : Nat) : Except Trap Nat :=
  if t.rows ≤ i || t.tlen ≤ j then .ok 0 else engElem s sn t (t.at' i j)

/-- A snapshot that sees memory as it is performed now: what a read-modify-write of stored data starts from (R158). -/
def nowSnap (s : State) : Snap := ⟨s.die.log.map WriteRec.id, [], [], []⟩

/-! Writes (R212, R218, R342). -/

/-- Whole bytes put from an address up. -/
def putBytesAt (va : Nat) : List Byte → List Put
  | [] => []
  | b :: t => ⟨va % 2 ^ 56, 0xFF, b⟩ :: putBytesAt (va + 1) t

/-- An encoding put at the pieces of an element: only its own bits change (R197). -/
def putElem : List Bit → Nat → List Put
  | [], _ => []
  | b :: t, x =>
    let v := x % 2 ^ b.n * 2 ^ b.bit
    let m := (2 ^ b.n - 1) * 2 ^ b.bit
    ((List.range b.bytes).map fun k => ⟨b.va + k, BitVec.ofNat 8 (m / 256 ^ k), BitVec.ofNat 8 (v / 256 ^ k)⟩)
      ++ putElem t (x / 2 ^ b.n)

/-- Whether a byte follows another in the same page of 16 KiB, or is that byte. -/
def follows (a b : Nat) : Bool := b == a + 1 && b % 0x4000 != 0

/-- Puts cut into runs of bytes that follow one another within a page. -/
def putRuns : List Put → List (List Put)
  | [] => []
  | p :: t => match putRuns t with
    | (q :: r) :: l => if follows p.va q.va then (p :: q :: r) :: l else [p] :: (q :: r) :: l
    | l => [p] :: l

/-- Bytes that a core's engine writes to its scratchpad: a later rollback does not undo them (R209). -/
def Core.engSpad (c : Core) (off : Nat) (b : List Byte) : Core :=
  let image (u : Nat × List Byte) : Nat × List Byte :=
    (u.1, (List.range 64).map fun k =>
      if off ≤ u.1 + k && u.1 + k < off + b.length then nth b (u.1 + k - off) 0 else nth u.2 k 0)
  { c.mendMem 3 off b.length with spad := memSetN c.spad off b, undo := c.undo.map image }

/-- Bytes that an engine writes to shared memory are performed (R212). -/
def engStore (pa : Nat) (b : List Byte) (s : State) : State :=
  (homeRuns s.die (partNum s) pa b).foldl (fun t r =>
    match serve t.die (partNum t) r.1 with
    | .mem a => writeMem a r.2 [] t
    | .expand at' k raw off => writeExpand at' k raw off r.2 t
    | .l8 .. => t) s

/-- The bytes of a run with the old bits kept where the mask leaves them. -/
def mergeBytes : List Put → List Byte → List Byte
  | p :: t, o :: l => ((o &&& ~~~p.mask) ||| (p.x &&& p.mask)) :: mergeBytes t l
  | _, _ => []

/-- One run of bytes written by an engine: the failure that stops it, or the next state (R205, R342; log 85, DEDUCED).
-/
def engWriteRun (l : List Put) (s : State) : Except Trap State :=
  match l with
  | [] => .ok s
  | p :: _ =>
    if inLocal p.va then
      match (if l.all fun p => p.mask == 0xFF then none else ueccPieces s [.spad p.va l.length]) with
      | some t => .error t
      | none => .ok (s.upCore fun c => c.engSpad p.va (mergeBytes l (memGetN c.spad p.va l.length)))
    else match locateShared s .wr p.va l.length with
      | .error t => .error { t with arg := 1 }
      | .ok ps =>
        if ps.any (inL8View s) then .error (memTrap 4)
        else if ps.any (inStamped s) then .error { cause := .stampspace, detail := 2 }
        else if ps.any (corruptBlock s) then .error { cause := .format, detail := 3 }
        else
          let part := !l.all fun p => p.mask == 0xFF
          match ueccPieces s (ps.filter fun p => part || inExpand s p) with
          | some t => .error t
          | none =>
          let old := if part then readPieces s (nowSnap s) ps else .ok (l.map fun _ => 0)
          match old, ps with
          | .error t, _ => .error t
          | .ok b, .mem pa _ _ :: _ => .ok (engStore pa (mergeBytes l b) s)
          | .ok _, _ => .ok s

/-- Runs written in order until one fails: the state, the bytes written, and the failure with the address of its page
(log 85, DEDUCED). -/
def engWriteAll : List (List Put) → State → State × Nat × Option Trap
  | [], s => (s, 0, none)
  | r :: t, s =>
    match engWriteRun r s with
    | .error e => (s, 0, some e)
    | .ok s' => let x := engWriteAll t s'; (x.1, r.length + x.2.1, x.2.2)

/-! The walk (R197, R205, R322). -/

/-- What a command has to write, in the order of its walk, with the events of its elements; `stop` is the failure that
its reading met after these bytes, and `read` how many of its steps it has read. -/
structure Walk where
  puts : List Put
  evs : List Ev
  stop : Option Trap
  read : Nat

/-- A walk with no step. -/
def Walk.nil : Walk := ⟨[], [], none, 0⟩

/-- A walk that writes bytes it need not read. -/
def Walk.ofPuts (l : List Put) : Walk := ⟨l, [], none, 0⟩

/-- Steps one after another: the first failure of a read ends the walk. -/
def walkOf {α : Type} (f : α → Except Trap (List Put × List Ev)) : List α → Walk
  | [] => .nil
  | a :: t =>
    match f a with
    | .error e => ⟨[], [], some e, 0⟩
    | .ok r => let w := walkOf f t; ⟨r.1 ++ w.puts, r.2 ++ w.evs, w.stop, w.read + 1⟩

/-- How a walk ended. -/
inductive WalkEnd where
  | done
  /-- A failure reported through the tag (R205). -/
  | failed (t : Trap)
  /-- A page that demand paging must bring in (R322). -/
  | parked (va kind : Nat)
  deriving DecidableEq, Repr

/-- How a failure ends a walk. -/
def endOf : Option Trap → WalkEnd
  | none => .done
  | some t => if t.cause == .demand then .parked t.addr t.kind else .failed t

/-- The identities of the writes performed between two states. -/
def idsSince (s t : State) : List Nat := (List.range (t.fresh - s.fresh)).map (s.fresh + ·)

/-- A walk performed from its first byte not yet written: the state, the bytes written in all, how it ended, and the
identities of its writes to shared memory (log 22, DEDUCED). -/
def runWalk (skip : Nat) (w : Walk) (s : State) : State × Nat × WalkEnd × List Nat :=
  let r := engWriteAll (putRuns (w.puts.drop skip)) s
  let e := match r.2.2 with
    | some t => some t
    | none => w.stop
  (r.1, skip + r.2.1, endOf e, idsSince s r.1)

/-! Compressed destinations (R87, R158). -/

/-- The blocks of a compressed tensor that hold the addresses of its image, in rising order. -/
def imageBlocks (t : Tensor) (vas : List Nat) : List Nat :=
  sortBy (fun a b => decide (a ≤ b)) (vas.map fun va => t.imageOff va / 256).eraseDups

/-- Block k with the puts at its image merged in, compressed again (R158); what it keeps is what memory holds now. -/
def blockPuts (s : State) (t : Tensor) (new : List Put) (k : Nat) : Except Trap (List Put) :=
  match engBlock s (nowSnap s) t k with
  | .error e => .error e
  | .ok old =>
    let put (l : List Byte) (p : Put) : List Byte :=
      let o := t.imageOff p.va
      if o / 256 == k then l.set (o % 256) ((nth l (o % 256) 0 &&& ~~~p.mask) ||| (p.x &&& p.mask)) else l
    let img := new.foldl put old
    let (st, esc) := compressBlock t.stored img
    .ok (putBytesAt (t.base + t.stored * k) st ++ if esc then putBytesAt (t.raw + 256 * k) img else [])

/-- What a command writes to a compressed destination in order: its blocks, then the bytes of other arrays; each item
reads the state in which it begins (R158). -/
def imageItems (t : Tensor) (puts tail : List Put) : List (State → Except Trap (List Put)) :=
  (imageBlocks t (puts.map Put.va)).map (fun k s => blockPuts s t puts k) ++ [fun _ => .ok tail]

/-- How far such a command has come: the state, the items begun, what it has still to write of the last of them, and the
failure that stopped it. -/
structure CmpRun where
  s : State
  blk : Nat
  rest : List Put
  stop : Option Trap

/-- The items from number n on, until one fails (R158, R205). -/
def runItems : List (State → Except Trap (List Put)) → Nat → State → CmpRun
  | [], n, s => ⟨s, n, [], none⟩
  | f :: t, n, s =>
    match f s with
    | .error e => ⟨s, n, [], some e⟩
    | .ok puts =>
      let r := engWriteAll (putRuns puts) s
      match r.2.2 with
      | some e => ⟨r.1, n + 1, puts.drop r.2.1, some e⟩
      | none => runItems t (n + 1) r.1

/-- The items from where the command parked: first what it has still to write of its last block, then the blocks that
follow (R322). -/
def runCmp (blk : Nat) (rest : List Put) (items : List (State → Except Trap (List Put))) (s : State) : CmpRun :=
  if rest.isEmpty then runItems (items.drop blk) blk s
  else runItems ((fun _ => .ok rest) :: items.drop blk) (blk - 1) s

/-- DEMAND_FAULT of a parked command (R322). -/
def postParked (va kind tag : Nat) (s : State) : State := postDemand va kind (some tag) s

end Sys2Proof.Machine
end

