-- ==== Sys2Proof/Machine/Vector.lean ====
section
/-! DEFINITION. The meanings of the V class (spec/07 R116 to R134), the accumulator ports apart. -/

namespace Sys2Proof

/-- Whether a condition holds of an order; none is an unordered compare (R127). -/
def Cond.ordered (c : Cond) (o : Option Int) : Bool :=
  match o with
  | none => c == .ne
  | some d => match c with
    | .eq => d == 0
    | .ne => d != 0
    | .lt | .ltu => d < 0
    | .le | .leu => d ≤ 0
    | .gt | .gtu => 0 < d
    | .ge | .geu => 0 ≤ d

/-- The lane operations of V.MAND (R127). -/
def MaskOp.apply (o : MaskOp) (x y : Mask) : Mask :=
  match o with
  | .and => x &&& y
  | .or => x ||| y
  | .xor => x ^^^ y
  | .andn => x &&& ~~~y

namespace Machine

/-! Shapes of V syllables. -/

/-- The latency by type (R122). -/
def vLat (t : EType) : Nat := if t.isInt then 2 else 4

/-- A masked element-wise syllable of a unit and a type, with vector sources and broadcast operands: f gives element
e; `more` is a trap of its own (R121, R162). -/
def elemwise (u : StatUnit) (more : Option Trap) (t : EType) (k : Nat) (m : VMod) (d : VReg) (srcs : List Reg)
    (f : Nat → Nat × Ev) (s : State) : Host.Outcome State Fault Refusal :=
  issue s { srcs := srcs ++ [maskReg m], dsts := [.v d], also := mergeRead s t.width m d
            trap := (shapeTrap s t.width).orElse fun _ => more } (velem s u t.width k m d f)

/-- A masked element-wise V syllable. -/
def vElem (t : EType) (k : Nat) (m : VMod) (d : VReg) (srcs : List Reg) (f : Nat → Nat × Ev) (s : State) :
    Host.Outcome State Fault Refusal := elemwise .vector none t k m d srcs f s

/-- An element-wise syllable of one vector operand. -/
def vUn (t : EType) (k : Nat) (m : VMod) (d a : VReg) (f : Nat → Nat × Ev) (s : State) :
    Host.Outcome State Fault Refusal :=
  vElem t k m d [.v a] (fun e => f (opElem s t.width (.v a) e)) s

/-- An element-wise syllable of a vector operand and one that may be broadcast. -/
def vBin (t : EType) (k : Nat) (m : VMod) (d a : VReg) (b : SV) (f : Nat → Nat → Nat × Ev) (s : State) :
    Host.Outcome State Fault Refusal :=
  vElem t k m d [.v a, b.reg] (fun e => f (opElem s t.width (.v a) e) (opElem s t.width b e)) s

/-- An element-wise syllable of three operands. -/
def vTri (t : EType) (k : Nat) (m : VMod) (d a : VReg) (b c : SV) (f : Nat → Nat → Nat → Nat × Ev) (s : State) :
    Host.Outcome State Fault Refusal :=
  vElem t k m d [.v a, b.reg, c.reg]
    (fun e => f (opElem s t.width (.v a) e) (opElem s t.width b e) (opElem s t.width c e)) s

/-- The result of an arithmetic entry: an exact integer narrowed, or a floating-point result rounded once (R122). -/
def arith (t : EType) (m : VMod) (x : Int) (r : FRes) : Nat × Ev :=
  if t.isInt then t.narrow m.sat x else t.ffmt.enc m.rm m.sat r

/-- An exact integer that wraps to a type. -/
def wrapTo (t : EType) (x : Int) : Nat × Ev := (truncI x (8 * t.width), .none)

/-- An encoding without events. -/
def bare (x : Nat) : Nat × Ev := (x, .none)

/-- The quiet NaN that NaN operands give (R73, R125). -/
def quiet (t : EType) (sig : Bool) : Nat × Ev := (t.ffmt.qnan, if sig then .invalid else .none)

/-- Whether encoding x is below y: integers by value, floating point with −0 below +0 (R125). -/
def below (t : EType) (x y : Nat) : Bool := if t.isInt then t.int x < t.int y else fLess (t.val x) (t.val y)

/-- min or max of two encodings (R124, R125). -/
def pick (t : EType) (max : Bool) (x y : Nat) : Nat × Ev :=
  if !t.isInt && ((t.val x).isNan || (t.val y).isNan) then quiet t ((t.val x).sig || (t.val y).sig)
  else bare (if max then (if below t x y then y else x) else (if below t y x then y else x))

/-- min(max(x, y), z) (R124, R125). -/
def clampElem (t : EType) (x y z : Nat) : Nat × Ev :=
  if !t.isInt && ((t.val x).isNan || (t.val y).isNan || (t.val z).isNan) then
    quiet t ((t.val x).sig || (t.val y).sig || (t.val z).sig)
  else pick t false (pick t true x y).1 z

/-- A floating-point encoding with its sign set by a function of the sign; a NaN gives the quiet NaN (R125). -/
def signElem (t : EType) (f : Bool → Bool) (x : Nat) : Nat × Ev :=
  let v := t.val x
  if v.isNan then quiet t v.sig else bare (t.ffmt.signed (f (bitAt x (8 * t.width - 1))) (x % t.ffmt.signBit))

/-- V.ABS of one element. -/
def absElem (t : EType) (sat : Bool) (x : Nat) : Nat × Ev :=
  if t.isInt then t.narrow sat (t.int x).natAbs else signElem t (fun _ => false) x

/-- V.NEG of one element. -/
def negElem (t : EType) (sat : Bool) (x : Nat) : Nat × Ev :=
  if t.isInt then t.narrow sat (-(t.int x)) else signElem t (!·) x

/-- V.ROUND of one element (R124, R125). -/
def roundElem (t : EType) (rm : RM) (x : Nat) : Nat × Ev :=
  match t.val x with
  | .nan sg => quiet t sg
  | .inf _ => bare x
  | .fin n m e => t.ffmt.round rm false n (roundInt rm n m e).natAbs 0

/-- V.SCALE of one element by 2^k (R124). -/
def scaleElem (t : EType) (m : VMod) (k : Int) (x : Nat) : Nat × Ev :=
  match t.val x with
  | .nan sg => quiet t sg
  | .inf n => t.ffmt.enc m.rm m.sat (.inf n false)
  | .fin n v e => arith t m (roundInt m.rm n v (e + k)) (.num n v (e + k) false)

/-- The order of two encodings; none when unordered (R127; log 58, DEDUCED). -/
def orderElem (t : EType) (x y : Nat) : Option Int :=
  if t.isInt then some (t.int x - t.int y) else fCompare (t.val x) (t.val y)

/-- The funnel of two encodings (R126). -/
def funnel (t : EType) (x y : Nat) : Nat := x * 2 ^ (8 * t.width) + y

/-! Element-wise arithmetic (R124). -/

/-- V.ADD. -/
def execVAdd (t : EType) (d a : VReg) (b : SV) (m : VMod) (s : State) : Host.Outcome State Fault Refusal :=
  vBin t (vLat t) m d a b (fun x y => arith t m (t.int x + t.int y) (fAdd m.rm (t.val x) (t.val y))) s
/-- V.SUB. -/
def execVSub (t : EType) (d a : VReg) (b : SV) (m : VMod) (s : State) : Host.Outcome State Fault Refusal :=
  vBin t (vLat t) m d a b (fun x y => arith t m (t.int x - t.int y) (fAdd m.rm (t.val x) (t.val y).negate)) s
/-- V.MUL. -/
def execVMul (t : EType) (d a : VReg) (b : SV) (m : VMod) (s : State) : Host.Outcome State Fault Refusal :=
  vBin t (vLat t) m d a b (fun x y => arith t m (t.int x * t.int y) (fMul (t.val x) (t.val y))) s
/-- V.MULH. -/
def execVMulh (t : EType) (d a : VReg) (b : SV) (m : VMod) (s : State) : Host.Outcome State Fault Refusal :=
  vBin t 2 m d a b (fun x y => wrapTo t (t.int x * t.int y / (2 ^ (8 * t.width) : Nat))) s
/-- V.FMA. -/
def execVFma (t : EType) (d a : VReg) (b c : SV) (m : VMod) (s : State) : Host.Outcome State Fault Refusal :=
  vTri t (vLat t) m d a b c (fun x y z =>
    arith t m (t.int x * t.int y + t.int z) (fMulAdd m.rm (t.val x) (t.val y) (t.val z))) s
/-- V.FMS. -/
def execVFms (t : EType) (d a : VReg) (b c : SV) (m : VMod) (s : State) : Host.Outcome State Fault Refusal :=
  vTri t (vLat t) m d a b c (fun x y z =>
    arith t m (t.int x * t.int y - t.int z) (fMulAdd m.rm (t.val x) (t.val y) (t.val z).negate)) s
/-- V.FNMA. -/
def execVFnma (t : EType) (d a : VReg) (b c : SV) (m : VMod) (s : State) : Host.Outcome State Fault Refusal :=
  vTri t (vLat t) m d a b c (fun x y z =>
    arith t m (t.int z - t.int x * t.int y) (fMulAdd m.rm (t.val x).negate (t.val y) (t.val z))) s
/-- V.MIN. -/
def execVMin (t : EType) (d a : VReg) (b : SV) (m : VMod) (s : State) : Host.Outcome State Fault Refusal :=
  vBin t (vLat t) m d a b (pick t false) s
/-- V.MAX. -/
def execVMax (t : EType) (d a : VReg) (b : SV) (m : VMod) (s : State) : Host.Outcome State Fault Refusal :=
  vBin t (vLat t) m d a b (pick t true) s
/-- V.ABS. -/
def execVAbs (t : EType) (d a : VReg) (m : VMod) (s : State) : Host.Outcome State Fault Refusal :=
  vUn t (vLat t) m d a (absElem t m.sat) s
/-- V.NEG. -/
def execVNeg (t : EType) (d a : VReg) (m : VMod) (s : State) : Host.Outcome State Fault Refusal :=
  vUn t (vLat t) m d a (negElem t m.sat) s
/-- V.CLAMP. -/
def execVClamp (t : EType) (d a : VReg) (b c : SV) (m : VMod) (s : State) : Host.Outcome State Fault Refusal :=
  vTri t (vLat t) m d a b c (clampElem t) s
/-- V.POPC. -/
def execVPopc (t : EType) (d a : VReg) (m : VMod) (s : State) : Host.Outcome State Fault Refusal :=
  vUn t 2 m d a (fun x => bare (popcount (8 * t.width) x)) s
/-- V.CLZ. -/
def execVClz (t : EType) (d a : VReg) (m : VMod) (s : State) : Host.Outcome State Fault Refusal :=
  vUn t 2 m d a (fun x => bare (clzN (8 * t.width) x)) s
/-- V.ROUND. -/
def execVRound (t : EType) (d a : VReg) (m : VMod) (s : State) : Host.Outcome State Fault Refusal :=
  vUn t (vLat t) m d a (roundElem t m.rm) s
/-- V.SCALE. -/
def execVScale (t : EType) (d a : VReg) (b : SReg) (m : VMod) (s : State) : Host.Outcome State Fault Refusal :=
  vElem t (vLat t) m d [.v a, .s b]
    (fun e => scaleElem t m (clampI (regS s b).toInt (-1024) 1024) (opElem s t.width (.v a) e)) s
/-- V.AVG. -/
def execVAvg (t : EType) (d a : VReg) (b : SV) (m : VMod) (s : State) : Host.Outcome State Fault Refusal :=
  vBin t 2 m d a b (fun x y => wrapTo t ((t.int x + t.int y + 1) / 2)) s
/-- V.ABD. -/
def execVAbd (t : EType) (d a : VReg) (b : SV) (m : VMod) (s : State) : Host.Outcome State Fault Refusal :=
  vBin t 2 m d a b (fun x y => t.narrow m.sat (t.int x - t.int y).natAbs) s

/-! Bits, shifts and funnels (R126). -/

/-- V.AND. -/
def execVAnd (t : EType) (d a : VReg) (b : SV) (m : VMod) (s : State) : Host.Outcome State Fault Refusal :=
  vBin t 2 m d a b (fun x y => bare (x &&& y)) s
/-- V.OR. -/
def execVOr (t : EType) (d a : VReg) (b : SV) (m : VMod) (s : State) : Host.Outcome State Fault Refusal :=
  vBin t 2 m d a b (fun x y => bare (x ||| y)) s
/-- V.XOR. -/
def execVXor (t : EType) (d a : VReg) (b : SV) (m : VMod) (s : State) : Host.Outcome State Fault Refusal :=
  vBin t 2 m d a b (fun x y => bare (x ^^^ y)) s
/-- V.NOT. -/
def execVNot (t : EType) (d a : VReg) (m : VMod) (s : State) : Host.Outcome State Fault Refusal :=
  vUn t 2 m d a (fun x => bare (2 ^ (8 * t.width) - 1 - x)) s
/-- V.SHL. -/
def execVShl (t : EType) (d a : VReg) (b : SV) (m : VMod) (s : State) : Host.Outcome State Fault Refusal :=
  vBin t 2 m d a b (fun x y => t.narrow m.sat (t.int x * (2 ^ (y % 256) : Nat))) s
/-- V.SHR. -/
def execVShr (t : EType) (d a : VReg) (b : SV) (m : VMod) (s : State) : Host.Outcome State Fault Refusal :=
  vBin t 2 m d a b (fun x y => bare (x / 2 ^ (y % 256))) s
/-- V.SAR. -/
def execVSar (t : EType) (d a : VReg) (b : SV) (m : VMod) (s : State) : Host.Outcome State Fault Refusal :=
  vBin t 2 m d a b (fun x y => wrapTo t (sextN x (8 * t.width) / (2 ^ (y % 256) : Nat))) s
/-- V.FSHL. -/
def execVFshl (t : EType) (d a : VReg) (b c : SV) (m : VMod) (s : State) : Host.Outcome State Fault Refusal :=
  vTri t 2 m d a b c (fun x y z =>
    bare (funnel t x y * 2 ^ (z % (8 * t.width)) / 2 ^ (8 * t.width) % 2 ^ (8 * t.width))) s
/-- V.FSHR. -/
def execVFshr (t : EType) (d a : VReg) (b c : SV) (m : VMod) (s : State) : Host.Outcome State Fault Refusal :=
  vTri t 2 m d a b c (fun x y z => bare (funnel t x y / 2 ^ (z % (8 * t.width)) % 2 ^ (8 * t.width))) s

/-! Compares, selection and masks (R127). -/

/-- V.CMP: a lane is 1 when it holds an element and the condition holds for every one of them; a signalling NaN
counts as INVALID (R73). -/
def execVCmp (t : EType) (d : MReg) (a : VReg) (b : SV) (cond : Cond) (s : State) :
    Host.Outcome State Fault Refusal :=
  let w := t.width
  let ok (e : Nat) : Bool := cond.ordered (orderElem t (opElem s w (.v a) e) (opElem s w b e))
  let inLane (l : Nat) : List Nat := (List.range' (4 * l / w) (max 1 (4 / w))).filter fun e =>
    e < shCount s && e * w / 4 == l
  let sig (e : Nat) : Ev :=
    if (t.val (opElem s w (.v a) e)).sig || (t.val (opElem s w b e)).sig then .invalid else .none
  issue s { srcs := [.v a, b.reg], dsts := [.m d], trap := shapeTrap s w }
    (fun u => raise .vector (vLat t) ((List.range (shCount s)).map sig)
      (wrM d (vLat t) (maskOf fun l => !(inLane l).isEmpty && (inLane l).all ok) u))
/-- V.SEL. -/
def execVSel (t : EType) (d a : VReg) (b : SV) (mask : MReg) (s : State) : Host.Outcome State Fault Refusal :=
  let w := t.width
  issue s { srcs := [.v a, b.reg, .m mask], dsts := [.v d], trap := shapeTrap s w }
    (wrV d 2 (ofElems w ((List.range (shCount s)).map fun e =>
      if enabled (regM s mask) w e then opElem s w (.v a) e else opElem s w b e)))
/-- V.MCNT. -/
def execVMcnt (d : SReg) (a : MReg) (s : State) : Host.Outcome State Fault Refusal :=
  issue s { srcs := [.m a], dsts := [.s d] } (wrS d 2 (wordN (popcount 256 (regM s a).toNat)))
/-- V.MSET. -/
def execVMset (d : MReg) (a : VReg) (s : State) : Host.Outcome State Fault Refusal :=
  issue s { srcs := [.v a], dsts := [.m d] } (wrM d 2 (maskOf fun l => elem (regV s a) 4 l != 0))
/-- V.MAND. -/
def execVMand (op : MaskOp) (d a b : MReg) (s : State) : Host.Outcome State Fault Refusal :=
  issue s { srcs := [.m a, .m b], dsts := [.m d] } (wrM d 2 (op.apply (regM s a) (regM s b)))

/-! Moves and permutations (R128). -/

/-- Element q of a vector operand, 0 outside the tile. -/
def tileElem (s : State) (w : Nat) (r : VReg) (q : Int) : Nat :=
  if 0 ≤ q && q < shCount s then elem (regV s r) w q.toNat else 0

/-- V.MOV. -/
def execVMov (t : EType) (d a : VReg) (m : VMod) (s : State) : Host.Outcome State Fault Refusal :=
  vUn t 2 m d a bare s
/-- V.BCAST. -/
def execVBcast (t : EType) (d : VReg) (b : SReg) (m : VMod) (s : State) : Host.Outcome State Fault Refusal :=
  vElem t 2 m d [.s b] (fun e => bare (opElem s t.width (.s b) e)) s
/-- V.IOTA. -/
def execVIota (t : EType) (d : VReg) (b : SReg) (m : VMod) (step : BitVec 9) (s : State) :
    Host.Outcome State Fault Refusal :=
  vElem t 2 m d [.s b] (fun e => wrapTo t ((regS s b).toNat + e * step.toInt)) s
/-- V.EXTR. -/
def execVExtr (t : EType) (d : SReg) (a : VReg) (b : SReg) (idx : BitVec 9) (s : State) :
    Host.Outcome State Fault Refusal :=
  let w := t.width
  let x := ((regS s b).toNat + idx.toNat) % 1024
  issue s { srcs := [.v a, .s b], dsts := [.s d], quiet := if 1024 ≤ w * x then [.v a] else [], trap := shapeTrap s w }
    (wrS d 2 (if shCount s ≤ x then 0
      else if t.signed then wordI (sextN (elem (regV s a) w x) (8 * w)) else wordN (elem (regV s a) w x)))
/-- V.INS. -/
def execVIns (t : EType) (d a : VReg) (b c : SReg) (idx : BitVec 9) (s : State) :
    Host.Outcome State Fault Refusal :=
  let w := t.width
  let x := ((regS s c).toNat + idx.toNat) % 1024
  let old := regV s a
  issue s { srcs := [.v a, .s b, .s c], dsts := [.v d], trap := shapeTrap s w }
    (wrV d 2 (if shCount s ≤ x then old
      else ofElems w ((List.range (1024 / w)).map fun e =>
        if e == x then opElem s w (.s b) e else elem old w e)))
/-- V.PERM. -/
def execVPerm (t : EType) (d a b : VReg) (m : VMod) (s : State) : Host.Outcome State Fault Refusal :=
  vElem t 2 m d [.v a, .v b] (fun e => bare (tileElem s t.width a (elem (regV s b) t.width e))) s
/-- V.SLIDE. -/
def execVSlide (t : EType) (d a : VReg) (b : SReg) (m : VMod) (s : State) : Host.Outcome State Fault Refusal :=
  vElem t 2 m d [.v a, .s b] (fun e => bare (tileElem s t.width a (e + (regS s b).toInt))) s
/-- V.ZIP. -/
def execVZip (t : EType) (d a b : VReg) (m : VMod) (h : Bool) (s : State) : Host.Outcome State Fault Refusal :=
  vElem t 2 m d [.v a, .v b] (fun e =>
    bare (tileElem s t.width (if e % 2 == 0 then a else b) (h.toNat * ((shCount s + 1) / 2) + e / 2 : Nat))) s
/-- V.CMPRS. -/
def execVCmprs (t : EType) (d a : VReg) (mask : MReg) (s : State) : Host.Outcome State Fault Refusal :=
  let w := t.width
  issue s { srcs := [.v a, .m mask], dsts := [.v d], trap := shapeTrap s w }
    (wrV d 2 (ofElems w (((List.range (shCount s)).filter fun e => enabled (regM s mask) w e).map fun e =>
      elem (regV s a) w e)))

/-! Reductions (R129, R130). -/

/-- One level of the tree: neighbours combined, an odd one passed on. -/
def pairUp {α : Type} (op : α → α → α × Ev) : List (Option α) → List (Option α) × Ev
  | some x :: some y :: t =>
    let r := op x y
    let q := pairUp op t
    (some r.1 :: q.1, r.2.or q.2)
  | some x :: none :: t => let q := pairUp op t; (some x :: q.1, q.2)
  | none :: y :: t => let q := pairUp op t; (y :: q.1, q.2)
  | [x] => ([x], .none)
  | [] => ([], .none)

/-- The root of the tree over leaves, of which there are at most 2^fuel, with the events of its nodes. -/
def treeRoot {α : Type} (op : α → α → α × Ev) : Nat → List (Option α) → Option α × Ev
  | 0, l => (l.head?.join, .none)
  | fuel + 1, l =>
    let r := pairUp op l
    let q := treeRoot op fuel r.1
    (q.1, r.2.or q.2)

/-- The leaves of a reduction: enabled elements of the tile at the flat indices given (R129). -/
def leaves (s : State) (w : Nat) (a : VReg) (mask : MReg) (idx : List Nat) : List (Option Nat) :=
  idx.map fun e => if e < shCount s && enabled (regM s mask) w e then some (elem (regV s a) w e) else none

/-- The result of one tree of encodings: an absent root gives 0. -/
def reduce (op : Nat → Nat → Nat × Ev) (l : List (Option Nat)) : Nat × Ev :=
  let r := treeRoot op 10 l
  (r.1.getD 0, r.2)

/-- A reduction syllable whose outputs are given, one for each element from 0 up. -/
def vReduce (t : EType) (d a : VReg) (m : VMod) (outs : List (Nat × Ev)) (s : State) :
    Host.Outcome State Fault Refusal :=
  issue s { srcs := [.v a, maskReg m], dsts := [.v d], trap := shapeTrap s t.width }
    (fun u => raise .vector (vLat t) (outs.map Prod.snd)
      (wrV d (vLat t) (ofElems t.width (outs.map Prod.fst)) u))

/-- One node of a sum (R129). -/
def sumNode (t : EType) (m : VMod) (x y : Nat) : Nat × Ev :=
  arith t m (t.int x + t.int y) (fAdd m.rm (t.val x) (t.val y))

/-- The flat indices of the tile. -/
def flatIdx (s : State) : List Nat := List.range (shCount s)

/-- The outputs of a reduction over several groups of flat indices; none where SHAPE is not valid. -/
def groupSums (op : Nat → Nat → Nat × Ev) (s : State) (w : Nat) (a : VReg) (mask : MReg) (l : List (List Nat)) :
    List (Nat × Ev) := l.map fun g => reduce op (leaves s w a mask g)

/-- V.RSUM. -/
def execVRsum (t : EType) (d a : VReg) (m : VMod) (s : State) : Host.Outcome State Fault Refusal :=
  vReduce t d a m (groupSums (sumNode t m) s t.width a m.mask [flatIdx s]) s
/-- V.RMAX. -/
def execVRmax (t : EType) (d a : VReg) (m : VMod) (s : State) : Host.Outcome State Fault Refusal :=
  vReduce t d a m (groupSums (pick t true) s t.width a m.mask [flatIdx s]) s
/-- V.RMIN. -/
def execVRmin (t : EType) (d a : VReg) (m : VMod) (s : State) : Host.Outcome State Fault Refusal :=
  vReduce t d a m (groupSums (pick t false) s t.width a m.mask [flatIdx s]) s
/-- V.ROWSUM. -/
def execVRowsum (t : EType) (d a : VReg) (m : VMod) (s : State) : Host.Outcome State Fault Refusal :=
  vReduce t d a m (groupSums (sumNode t m) s t.width a m.mask
    ((List.range (shRows s)).map fun i => (List.range (shCols s)).map fun j => i * shCols s + j)) s
/-- V.COLSUM. -/
def execVColsum (t : EType) (d a : VReg) (m : VMod) (s : State) : Host.Outcome State Fault Refusal :=
  vReduce t d a m (groupSums (sumNode t m) s t.width a m.mask
    ((List.range (shCols s)).map fun j => (List.range (shRows s)).map fun i => i * shCols s + j)) s

/-- One group of V.GMAX: for integers the leaves and their maximum are exact and the result wraps; for floating
point abs is V.ABS of the leaf (R130). -/
def gmaxGroup (t : EType) (ab : Bool) (l : List (Option Nat)) : Nat × Ev :=
  if t.isInt then
    let leaf (x : Nat) : Int := if ab then (t.int x).natAbs else t.int x
    let r := treeRoot (fun x y : Int => (max x y, Ev.none)) 10 (l.map fun o => o.map leaf)
    (truncI (r.1.getD 0) (8 * t.width), .none)
  else
    let p := l.map fun o => o.map fun x => if ab then absElem t false x else bare x
    let r := reduce (pick t true) (p.map fun o => o.map Prod.fst)
    (r.1, (p.filterMap id).foldl (fun e q => e.or q.2) r.2)

/-- V.GMAX. -/
def execVGmax (t : EType) (d a : VReg) (m : VMod) (g : Fin 8) (ab : Bool) (s : State) :
    Host.Outcome State Fault Refusal :=
  let size := 2 ^ (g.val + 1)
  vReduce t d a m ((List.range ((shCount s + size - 1) / size)).map fun k =>
    gmaxGroup t ab (leaves s t.width a m.mask (List.range' (k * size) size))) s

/-! Conversions and the quantise idiom (R131 to R133). -/

/-- Width of a destination element in bits. -/
def cvtBits : CvtDst → Nat
  | .ty t => 8 * t.width
  | .mx8 => 8
  | .mx4 => 4

/-- SCALEb of QSL (R132). -/
def qslCode (s : State) (b : Nat) : Nat := s.core.arch.qsl.toNat / 2 ^ (8 * b) % 256

/-- Source element e converted (R74, R133). -/
def cvtElem (s : State) (src : EType) (dst : CvtDst) (m : VMod) (e x : Nat) : Nat × Ev :=
  match dst with
  | .ty t => convert src t m.rm m.sat x
  | .mx8 => let r := mxElem 6 127 (qslCode s (e / 32)) (src.val x); (truncI r.1 8, r.2)
  | .mx4 => let r := mxElem 2 7 (qslCode s (e / 32)) (src.val x); (truncI r.1 4, r.2)

/-- V.CVT: element e' of D takes source element PART·c + e', under the mask of the source element. -/
def execVCvt (src : EType) (d a : VReg) (dst : CvtDst) (part : Fin 8) (m : VMod) (s : State) :
    Host.Outcome State Fault Refusal :=
  let w := src.width
  let b := cvtBits dst
  let c := 8192 / b
  let first := part.val * c
  let cnt := min c (shCount s - first)
  let on (i : Nat) : Bool := enabled (regM s m.mask) w (first + i)
  let old (i : Nat) : Nat := (regV s d).toNat / 2 ^ (b * i) % 2 ^ b
  let one (i : Nat) : Nat × Option Ev :=
    if on i then let r := cvtElem s src dst m (first + i) (elem (regV s a) w (first + i)); (r.1, some r.2)
    else (if zeroing m d then 0 else old i, none)
  let merges := shValid s && !zeroing m d && (List.range cnt).any fun i => !on i
  issue s { srcs := [.v a, maskReg m], dsts := [.v d], also := if merges then [.v d] else []
            trap := shapeTrap s w }
    (fun u =>
      let l := (List.range cnt).map one
      raise .vector 3 (l.filterMap Prod.snd) (wrV d 3 (BitVec.ofNat 8192 (packN b (l.map Prod.fst))) u))

/-- V.MAXEXP: the eight scale codes land together. -/
def execVMaxexp (a : VReg) (mask : MReg) (s : State) : Host.Outcome State Fault Refusal :=
  let val (e : Nat) : FVal :=
    if e < shCount s && enabled (regM s mask) 4 e then f32.val (elem (regV s a) 4 e) else .fin false 0 0
  let blocks := (List.range 8).map fun b => mxScale ((List.range' (32 * b) 32).map val)
  issue s { srcs := [.v a, .m mask], trap := shapeTrap s 4 }
    (fun u => raise .vector 3 (blocks.map fun r => if r.2 then .invalid else .none)
      (u.flight 3 (.creg .qsl (wordN (packN 8 (blocks.map Prod.fst))))))

/-! Plane transpose (R134). -/

/-- V.PXPOSE. -/
def execVPxpose (signed : Bool) (d a : VReg) (planes1 : Fin 8) (g : Bool) (s : State) :
    Host.Outcome State Fault Refusal :=
  let n := planes1.val + 1
  let t : EType := if signed then .i8 else .n8
  let one (i : Nat) : Int × Ev :=
    let e := 512 * g.toNat + i
    let x := if e < shCount s then t.int (elem (regV s a) 1 e) else 0
    let y := clampI x (planarLo signed n) (planarHi signed n)
    (y, if y == x then .none else .cvtsat)
  issue s { srcs := [.v a], dsts := [.v d], trap := shapeTrap s 1 }
    (fun u =>
      let l := (List.range 512).map one
      raise .vector 3 (l.map Prod.snd)
        (wrV d 3 (BitVec.ofNat 8192 (packN 512 ((List.range n).map fun k =>
          packN 1 (l.map fun p => truncI p.1 n / 2 ^ k)))) u))

end Machine

end Sys2Proof
end

