-- ==== Sys2Proof/Machine/Matrix.lean ====
section
/-! DEFINITION. The matrix engine (spec/08 R137 to R155): the checks of its commands, its queue and its order, what a
command computes, and the moves of tiles to and from vector registers (spec/07 R135). -/

namespace Sys2Proof.Machine

/-- Cause MATRIX for a command whose T field names tile k (R160, R302). -/
def matTrap (detail k : Nat) : Trap := { cause := .matrix, detail := detail, arg := 120 + k }

/-! Banks in use (R148). -/

/-- The banks a matrix command uses (R148). -/
def MatCmd.banks (m : MatCmd) : List Nat := match m.op with
  | .amov b => [m.bank, b]
  | .mode _ | .mirr _ => []
  | .mma .. | .aclr _ | .aload .. | .asave .. => [m.bank]

/-- The banks a command of the D queue uses (R148). -/
def DCmd.banks (m : DCmd) : List Nat := match m.op with
  | .pp _ _ b _ _ _ _ _ _ => [b]
  | .ppcfg _ | .ringSet .. | .jpeg .. | .g4 .. | .raw .. => []

/-- The banks whose busy bit commands hold, for the syllables of the bundle that issues (R148). -/
def commandBanks (c : Core) : List Nat :=
  ((c.matq.filter fun m => c.issue.before m.serial).flatMap MatCmd.banks)
    ++ (c.dq.filter fun m => c.issue.before m.serial).flatMap DCmd.banks

/-- The banks whose busy bit is set, by a command or by the rows that a V.AWRITE has in flight (R148, R135). -/
def busyBanks (s : State) : List Nat :=
  commandBanks s.core ++ s.core.arch.inflight.filterMap fun e => match e.land with
    | .tile a _ _ => bankOf s a.val
    | _ => none

/-- Whether tile k is busy (R148). -/
def tileBusy (s : State) (k : Nat) : Bool := match bankOf s k with
  | none => false
  | some b => (busyBanks s).contains b

/-- Whether a command held by the open segment uses one of some banks (R152). -/
def bankHeld (c : Core) (l : List Nat) : Bool :=
  (c.matq.any fun m => m.held && m.banks.any l.contains) || c.dq.any fun m => m.held && m.banks.any l.contains

/-- Whether a matrix command would wait on a command held by its own segment (R208, R152; log 44, DEDUCED). -/
def heldClash (c : Core) (banks : List Nat) (l : List Foot) : Bool :=
  let hits (f : List Foot) : Bool := f.any fun x => l.any fun y => x.conflicts y
  bankHeld c banks || (c.matq.any fun m => m.held && hits m.foots) || (c.dq.any fun m => m.held && hits m.foots)
    || (c.copyq.any fun m => m.held && hits m.foots) || c.sq.any fun m => m.held && hits m.foots

/-- The types of the eight banks after every command that has been issued (R145 step 6). -/
def pendingTypes (s : State) : List Bool :=
  s.core.matq.foldl (fun l m => match m.op with
    | .mma _ _ _ mg0 _ _ => l.set m.bank (wbits mg0 9 8 != 0)
    | .aclr f => l.set m.bank f
    | .amov b => l.set m.bank (nth l b false)
    | .aload t _ _ _ _ => l.set m.bank (t.fmt == 7)
    | .asave .. | .mode _ | .mirr _ => l) (engineOf s).fp.toList

/-! Operands (R141 to R146). -/

/-- PA or PB plus 1 (R143). -/
def mgPlanes (mg0 : Word) (b : Bool) : Nat := (if b then wbits mg0 6 4 else wbits mg0 2 0) + 1
/-- SGNA or SGNB (R143). -/
def mgSigned (mg0 : Word) (b : Bool) : Bool := mg0.toNat.testBit (if b then 7 else 3)
/-- SCM (R143). -/
def mgScm (mg0 : Word) : Nat := wbits mg0 9 8
/-- COSET (R143). -/
def mgCoset (mg0 : Word) : Bool := mg0.toNat.testBit 10
/-- KCNT plus 1 (R143). -/
def mgCount (mg0 : Word) : Nat := wbits mg0 21 16 + 1
/-- K0 (R143). -/
def mgK0 (mg1 : Word) : Nat := wbits mg1 31 0
/-- AROW0 (R143). -/
def mgARow (mg2 : Word) : Nat := wbits mg2 31 0
/-- BROW0 (R143). -/
def mgBRow (mg2 : Word) : Nat := wbits mg2 63 32

/-- A reserved bit of MG0 or MG1 is set, or K0 is no multiple of 64 (R145 step 2). -/
def stagingBad (mg0 mg1 : Word) : Bool :=
  wbits mg0 15 11 != 0 || wbits mg0 63 22 != 0 || wbits mg1 63 32 != 0 || mgK0 mg1 % 64 != 0

/-- Rows of a tensor from a first one, at most 128 (R141, R154, R156). -/
def rowsFrom (rows first : Nat) : Nat := min (rows - first) 128

/-- Whether a planar operand declares no more planes than it stores (R145 step 4). -/
def planarOk (t : Tensor) (p : Nat) : Bool := (t.fmt < 2 || 16 ≤ t.fmt) && p ≤ t.planes

/-- Whether detail PREC holds (R145 step 4, R146). -/
def precBad (a b : Tensor) (mg0 : Word) : Bool :=
  let scm := mgScm mg0
  !(planarOk a (mgPlanes mg0 false))
    || (if mgCoset mg0 then b.fmt != 15 || b.planes != 0 || mgPlanes mg0 true != 3 || !mgSigned mg0 true || scm != 3
        else !(planarOk b (mgPlanes mg0 true)))
    || (if scm == 1 || scm == 2 then a.scale == 0 || a.block != 32 || b.scale == 0 || b.block != 32
        else scm == 3 && (a.scale == 0 || b.scale == 0))

/-- ceil(n / k). -/
def ceilDiv (n k : Nat) : Nat := (n + k - 1) / k

/-- The bytes from the first to the last over rows r0 to r0 + rows − 1, where a row's bytes are lo to hi − 1 from its
base: start and length (R149). -/
def span (base r0 rows stride lo hi : Nat) : Nat × Nat := (base + r0 * stride + lo, (rows - 1) * stride + hi - lo)

/-- The ranges one operand reads: its elements and its scales (R149). -/
def operandRanges (t : Tensor) (r0 rows p : Nat) (coset : Bool) (scm k0 kc : Nat) : List (Nat × Nat) :=
  let top := min (k0 + kc) t.tlen
  if rows == 0 then []
  else
    (if top ≤ k0 then []
     else if coset then [span t.base r0 rows t.stride (2 * (k0 / 8)) (2 * ((top - 1) / 8) + 2)]
     else
       let g := 64 * t.planes * (k0 / 512)
       [span t.base r0 rows t.stride (g + k0 % 512 / 8) (g + 64 * (p - 1) + (top - 1) % 512 / 8 + 1)])
    ++ (if scm == 0 then []
        else if scm == 3 then
          [span t.scale r0 rows (4 * ceilDiv t.cols t.block) (4 * (k0 / t.block)) (4 * ((k0 + kc - 1) / t.block) + 4)]
        else [span t.scale r0 rows (ceilDiv t.cols 32) (k0 / 32) (k0 / 32 + ceilDiv kc 32)])

/-- The stretches of bytes that one operand reads: of each row the bytes of its planes, or its codes, and its scales
(R141, R142, R146). -/
def operandReads (t : Tensor) (r0 rows p : Nat) (coset : Bool) (scm k0 kc : Nat) : List (Nat × Nat) :=
  let top := min (k0 + kc) t.tlen
  (List.range rows).flatMap fun i =>
    let one := operandRanges t (r0 + i) 1 p coset scm k0 kc
    if coset || top ≤ k0 then one
    else
      (List.range p).map (fun j =>
        span t.base (r0 + i) 1 t.stride (64 * t.planes * (k0 / 512) + 64 * j + k0 % 512 / 8)
          (64 * t.planes * (k0 / 512) + 64 * j + (top - 1) % 512 / 8 + 1)) ++ one.drop 1

/-- The ranges an X.MMA or X.MMAC reads (R149). -/
def mmaRanges (a b : Tensor) (mg0 mg1 mg2 : Word) : List (Nat × Nat) :=
  let k0 := mgK0 mg1
  let kc := mgCount mg0
  operandRanges a (mgARow mg2) (rowsFrom a.rows (mgARow mg2)) (mgPlanes mg0 false) false (mgScm mg0) k0 kc
    ++ operandRanges b (mgBRow mg2) (rowsFrom b.rows (mgBRow mg2)) (mgPlanes mg0 true) (mgCoset mg0) (mgScm mg0) k0 kc

/-- Element (row, k) of a planar operand (R142). -/
def opnd (m : List Host.Cell) (t : Tensor) (row k p : Nat) (sgn : Bool) : Int :=
  if t.rows ≤ row || t.tlen ≤ k then 0
  else
    let line := t.base + row * t.stride + 64 * t.planes * (k / 512)
    let e := k % 512
    let v := packN 1 ((List.range p).map fun j => (memGet m (line + 64 * j + e / 8)).toNat / 2 ^ (e % 8) % 2)
    if sgn then sextN v p else v

/-- Element (row, k) through the coset-decoding port (R146). -/
def cosetOpnd (m : List Host.Cell) (t : Tensor) (row k : Nat) : Int :=
  if t.rows ≤ row || t.tlen ≤ k then 0
  else l8Twice (natOf (memGetN m (t.base + row * t.stride + 2 * (k / 8)) 2)) (k % 8)

/-! One word of a step (R144, R77, R80). -/

/-- rne(acc + p, f32), an infinite result put at the greatest finite value; and whether it was (R77). -/
def accAdd (acc p : Nat) : Nat × Bool :=
  let r := rne32 (fAdd .rne (f32.val acc) (f32.val p))
  if r % 2 ^ 31 == 0x7F800000 then (r - r % 2 ^ 31 + 0x7F7FFFFF, true) else (r, false)

/-- The exact sum of products of two lists. -/
def dotOf (a b : List Int) : Int := ((a.zip b).map fun p => p.1 * p.2).foldl (· + ·) 0

/-- `mxdot` from a block on: the accumulator, and whether ACCSAT and SCALENAN have occurred (R77). -/
def mxdot (fab : Nat) : List (Nat × Nat) → List Int → List Int → Nat × Bool × Bool → Nat × Bool × Bool
  | [], _, _, r => r
  | (ea, eb) :: t, a, b, (acc, sat, nan) =>
    let bad := ea == 0xFF || eb == 0xFF
    let s := dotOf (a.take 32) (b.take 32)
    let p := rne32 (.num (s < 0) s.natAbs ((ea : Int) + eb - 254 - fab) false)
    let r := accAdd (if bad then f32.qnan else acc) p
    mxdot fab t (a.drop 32) (b.drop 32) (r.1, sat || r.2, nan || bad)

/-- A value halved exactly (R146). -/
def FVal.half : FVal → FVal
  | .fin n m e => .fin n m (e - 1)
  | x => x

/-- One block of R80: partial sum, scales, and whether B's scale is halved. -/
def blockStep (half : Bool) (acc : Nat) (p : Int) (sa sb : Nat) : Nat × Bool :=
  let vb := f32.val sb
  let g := rne32 (fMul (f32.val sa) (if half then vb.half else vb))
  accAdd acc (rne32 (fMul (.fin (p < 0) p.natAbs 0) (f32.val g)))

/-- Blocks of R80 one after another: each with its partial sum and scales. -/
def blockSteps (half : Bool) : List (Int × Nat × Nat) → Nat × Bool → Nat × Bool
  | [], r => r
  | (p, sa, sb) :: t, (acc, sat) =>
    let r := blockStep half acc p sa sb
    blockSteps half t (r.1, sat || r.2)

/-- An operand's row as a step reads it: 64 elements, and its scales in block order. -/
structure OpRow where
  xs : List Int
  scales : List Nat

/-- A row of an operand, with the scales its SCM reads (R144). -/
def opRow (m : List Host.Cell) (t : Tensor) (row p : Nat) (sgn coset : Bool) (scm size k0 kc : Nat) : OpRow where
  xs := (List.range 64).map fun k =>
    if kc ≤ k then 0 else if coset then cosetOpnd m t row (k0 + k) else opnd m t row (k0 + k) p sgn
  scales :=
    if scm == 0 then []
    else if scm == 3 then
      (List.range (ceilDiv kc size)).map fun j =>
        natOf (memGetN m (t.scale + 4 * (row * ceilDiv t.cols t.block + (k0 + size * j) / t.block)) 4)
    else (List.range (ceilDiv kc 32)).map fun j => (memGet m (t.scale + row * ceilDiv t.cols 32 + k0 / 32 + j)).toNat

/-- The size of the blocks of a dot product: the smaller BLOCK (R80). -/
def dotBlock (a b : Tensor) : Nat := min a.block b.block

/-- One word of a step: the new word, ACCSAT and SCALENAN (R144). -/
def mmaWord (scm size : Nat) (half : Bool) (a b : OpRow) (acc : Nat) : Nat × Bool × Bool :=
  if scm == 0 then (truncI (acc + dotOf a.xs b.xs) 32, false, false)
  else if scm == 3 then
    let parts := ((a.scales.zip b.scales).zipIdx).map fun p =>
      (dotOf ((a.xs.drop (size * p.2)).take size) ((b.xs.drop (size * p.2)).take size), p.1.1, p.1.2)
    let r := blockSteps half parts (acc, false)
    (r.1, r.2, false)
  else mxdot (if scm == 1 then 12 else 4) (a.scales.zip b.scales) a.xs b.xs (acc, false, false)

/-- The words of a tile in order. -/
def tileWords (st : Store) : List Nat :=
  let rec go : Nat → List Byte → List Nat
    | 0, _ => []
    | n + 1, l => natOf (l.take 4) :: go n (l.drop 4)
  go 16384 (st.firstN 65536)

/-- A tile of words. -/
def tileOf (l : List Nat) : Store := .ofBytes (l.flatMap (bytesOf 4))

/-- The step of R144 on a tile: its new words, and the counts of ACCSAT and SCALENAN. -/
def mmaStep (m : List Host.Cell) (fresh : Bool) (a b : Tensor) (mg0 mg1 mg2 : Word) (st : Store) :
    List Nat × Nat × Nat :=
  let scm := mgScm mg0
  let k0 := mgK0 mg1
  let kc := mgCount mg0
  let size := if scm == 3 then dotBlock a b else 32
  let rowsA := (List.range (rowsFrom a.rows (mgARow mg2))).map fun i =>
    opRow m a (mgARow mg2 + i) (mgPlanes mg0 false) (mgSigned mg0 false) false scm size k0 kc
  let rowsB := (List.range (rowsFrom b.rows (mgBRow mg2))).map fun i =>
    opRow m b (mgBRow mg2 + i) (mgPlanes mg0 true) (mgSigned mg0 true) (mgCoset mg0) scm size k0 kc
  let old := if fresh then [] else tileWords st
  let word (ra : Option OpRow) (x : Nat) (j : Nat) : Nat × Bool × Bool :=
    match ra, rowsB[j]? with
    | some p, some q => mmaWord scm size (mgCoset mg0) p q x
    | _, _ => (x, false, false)
  let line (i : Nat) : List (Nat × Bool × Bool) :=
    let was := (old.drop (128 * i)).take 128
    (List.range 128).map fun j => word rowsA[i]? (nth was j 0) j
  let l := (List.range 128).flatMap line
  (l.map Prod.fst, countIf (fun w => w.2.1) l, countIf (fun w => w.2.2) l)

/-! Entering the queue (R145, R147, R149). -/

/-- What a matrix command has found at issue. -/
structure MatReq where
  op : MatOp
  bank : Nat
  foots : List Foot

/-- The banks a request will use. -/
def MatReq.banks (r : MatReq) : List Nat := match r.op with
  | .amov b => [r.bank, b]
  | .mode _ | .mirr _ => []
  | .mma .. | .aclr _ | .aload .. | .asave .. => [r.bank]

/-- The freeze of a full matrix queue: 8 commands, those held by the open segment apart (R147, R152). -/
def matqFull (c : Core) : Option Freeze := if 8 ≤ countIf (fun m => !m.held) c.matq then some .queueFull else none

/-- A matrix command joins its queue; X.ASAVE is held, with its tag (R147, R152). -/
def enterMat (k : Nat) (hold : Option Tag) (r : MatReq) (s : State) : State :=
  let s1 := (s.upCore fun c => { c with matq := c.matq ++
    [{ serial := s.fresh, op := r.op, tile := k, bank := r.bank, ba := c.issue.ba, snap := snapOf s
       foots := r.foots, held := hold.isSome, seg := true, running := false, mirrored := false
       parked := none, done := 0 }] }).useId
  match hold with
  | none => s1
  | some t => s1.upCore fun c => countCmd (tagIssue t c)

/-- Whether an identifier's entry lies under a footprint (R207; log 83, DEDUCED). -/
def entryLate (s : State) (k : TId) : Bool := (tensorStall s k).isSome

/-- The freeze of a command that reads these entries (R34, R207). -/
def entryStall (s : State) (l : List TId) : Option Freeze := if l.any (entryLate s) then some .scoreboard else none

/-- The syllable of a matrix command whose T field names tile k, and that reads these entries: its checks, then its place
in the queue. -/
def matSyl (reads : List TId) (k : Nat) (req : Except Trap MatReq) (hold : Option Tag) (more : State → State) (s : State) :
    Host.Outcome State Fault Refusal :=
  let trap := match req with
    | .error t => some t
    | .ok r => if hold.isNone && heldClash s.core r.banks r.foots then some (matTrap 9 k) else none
  let foots := match req with
    | .error _ => []
    | .ok r => r.foots
  issue s { trap := trap, limit := hold.bind fun _ => cmdLimit s.core
            stall := (matqFull s.core).orElse fun _ => (entryStall s reads).orElse fun _ => boardStall s.core foots }
    (fun u => match req with
      | .error _ => u
      | .ok r => more (enterMat k hold r u))

/-- The checks of R145 for X.MMA and X.MMAC. -/
def mmaReq (s : State) (fresh : Bool) (k : AReg) (ta tb : TId) : Except Trap MatReq :=
  let mg0 := s.core.arch.mg[0]
  let mg1 := s.core.arch.mg[1]
  let mg2 := s.core.arch.mg[2]
  match bankOf s k.val with
  | none => .error (matTrap 1 k.val)
  | some bank =>
    if stagingBad mg0 mg1 then .error (matTrap 2 k.val)
    else match readTensor s ta with
      | .error t => .error t
      | .ok a => match readTensor s tb with
        | .error t => .error t
        | .ok b =>
          let ranges := mmaRanges a b mg0 mg1 mg2
          if precBad a b mg0 then .error (matTrap 3 k.val)
          else if ranges.any fun r => spadSize < r.1 + r.2 then .error (matTrap 4 k.val)
          else if !fresh && nth (pendingTypes s) bank false != (mgScm mg0 != 0) then .error (matTrap 5 k.val)
          else .ok ⟨.mma fresh a b mg0 mg1 mg2, bank, ranges.map fun r => ⟨r.1, r.2, false⟩⟩

/-- The sustained account of an X.MMA or X.MMAC (R39). -/
def account (s : State) (mg0 : Word) : Nat × Nat :=
  let pp := mgPlanes mg0 false * mgPlanes mg0 true
  if 2 ≤ (engineOf s).mode.val then (pp, ceilDiv (15 * pp) 4) else (2 * pp, ceilDiv (15 * pp) 8)

/-- One account more: it begins with the bundle after the one that issues, or when the one before it ends (R39). -/
def addAccount (a : Nat × Nat) (occ : List (Nat × Nat)) : List (Nat × Nat) :=
  occ ++ [if occ.isEmpty then (a.1 + 1, a.2) else a]

/-- X.MMA and X.MMAC (R154). -/
def mmaSyl (fresh : Bool) (k : AReg) (ta tb : TId) (s : State) : Host.Outcome State Fault Refusal :=
  matSyl [ta, tb] k.val (mmaReq s fresh k ta tb) none
    (fun u => u.upCore fun c => { c with occ := addAccount (account s s.core.arch.mg[0]) c.occ }) s

/-- X.MMA. -/
def execXMma (t : AReg) (ta tb : TId) (s : State) : Host.Outcome State Fault Refusal := mmaSyl true t ta tb s
/-- X.MMAC. -/
def execXMmac (t : AReg) (ta tb : TId) (s : State) : Host.Outcome State Fault Refusal := mmaSyl false t ta tb s

/-- The bank of a tile, or ACCBANK (R145 step 1). -/
def tileReq (s : State) (k : AReg) (f : Nat → Except Trap MatReq) : Except Trap MatReq := match bankOf s k.val with
  | none => .error (matTrap 1 k.val)
  | some b => f b

/-- X.ACLR. -/
def execXAclr (f : Bool) (t : AReg) (s : State) : Host.Outcome State Fault Refusal :=
  matSyl [] t.val (tileReq s t fun b => .ok ⟨.aclr f, b, []⟩) none id s

/-- X.AMOV. -/
def execXAmov (t src : AReg) (s : State) : Host.Outcome State Fault Refusal :=
  matSyl [] t.val (tileReq s t fun b => match bankOf s src.val with
    | none => .error (matTrap 1 t.val)
    | some b' => .ok ⟨.amov b', b, []⟩) none id s

/-- The addresses of the rows that X.ALOAD and X.ASAVE move, and the bytes of each (R154). -/
def tileRows (t : Tensor) (mg1 mg2 : Word) : List Nat × Nat :=
  ((List.range (rowsFrom t.rows (mgARow mg2))).map fun m =>
      (t.base + (mgARow mg2 + m) * t.stride + 4 * mgK0 mg1) % 2 ^ 56,
    4 * rowsFrom t.tlen (mgK0 mg1))

/-- The footprint of the rows that X.ALOAD and X.ASAVE move (R149). -/
def tileFoots (t : Tensor) (mg1 mg2 : Word) (wr : Bool) : List Foot :=
  let n := rowsFrom t.tlen (mgK0 mg1)
  let rows := rowsFrom t.rows (mgARow mg2)
  if n == 0 || rows == 0 then []
  else
    let p := span t.base (mgARow mg2) rows t.stride (4 * mgK0 mg1) (4 * mgK0 mg1 + 4 * n)
    footOf p.1 (p.1 + p.2) wr

/-- The checks that X.ALOAD and X.ASAVE share: a bank and the tensor (R145, R154). Of the reserved bits only those of
MG1, whose K0 they read, fail them, and a tensor in DRAM is accepted (log 49, DEDUCED); a compressed entry's stored
bytes move as they are (log 101, DEDUCED). -/
def moveReq (s : State) (k : AReg) (ta : TId) (f : Nat → Tensor → Except Trap MatReq) : Except Trap MatReq :=
  tileReq s k fun b =>
    if wbits s.core.arch.mg[1] 63 32 != 0 then .error (matTrap 2 k.val)
    else match readTensor s ta with
      | .error t => .error t
      | .ok t =>
        if !(t.fmt == 4 || t.fmt == 5 || t.fmt == 7) || t.planes != 0 then .error (matTrap 3 k.val) else f b t

/-- The rows of an X.ALOAD: those of shared memory are read at issue (R154). -/
def rowsFound (s : State) (n : Nat) : List Nat → Except Trap (List (Option (List Byte)))
  | [] => .ok []
  | va :: t =>
    match locate s .rd va n with
    | .error e => .error e
    | .ok ps =>
      match (if inLocal va then .ok none else (readPieces s (snapOf s) ps).map some) with
      | .error e => .error e
      | .ok r => match rowsFound s n t with
        | .error e => .error e
        | .ok l => .ok (r :: l)

/-- The rows of an X.ALOAD, once every row has passed its checks, the lowest address first (R318, R319). -/
def loadRows (s : State) (n : Nat) (l : List Nat) : Except Trap (List (Option (List Byte))) :=
  match locateAll s .rd n l with
  | .error e => .error e
  | .ok _ => rowsFound s n l

/-- The first uncorrectable line among the rows that an X.ALOAD reads from shared memory, which its command carries
(R154, R229). -/
def rowsUecc (s : State) (n : Nat) (l : List Nat) : Option Trap :=
  l.findSome? fun va => if inLocal va then none else match locate s .rd va n with
    | .error _ => none
    | .ok ps => ueccPieces s ps

/-- X.ALOAD (log 49, DEDUCED). -/
def execXAload (t : AReg) (ta : TId) (s : State) : Host.Outcome State Fault Refusal :=
  let mg1 := s.core.arch.mg[1]
  let mg2 := s.core.arch.mg[2]
  let req := moveReq s t ta fun b x =>
    let r := tileRows x mg1 mg2
    match (if r.2 == 0 then .ok (r.1.map fun _ => some []) else loadRows s r.2 r.1) with
    | .error e => .error e
    | .ok rows => .ok ⟨.aload x rows (rowsUecc s r.2 r.1) mg1 mg2, b, tileFoots x mg1 mg2 false⟩
  matSyl [ta] t.val req none id s

/-- X.ASAVE: held until its segment commits (R152). -/
def execXAsave (t : AReg) (ta : TId) (tag : Tag) (s : State) : Host.Outcome State Fault Refusal :=
  let mg1 := s.core.arch.mg[1]
  let mg2 := s.core.arch.mg[2]
  matSyl [ta] t.val
    (moveReq s t ta fun b x => .ok ⟨.asave x tag mg1 mg2, b, tileFoots x mg1 mg2 true⟩) (some tag) id s

/-- Whether a command of the D queue is one of the post-processing engine. -/
def DOp.isPp : DOp → Bool
  | .pp .. | .ppcfg _ => true
  | .ringSet .. | .jpeg .. | .g4 .. | .raw .. => false

/-- X.MODE (R155); behind an X.ASAVE or a post-processing command held by its own segment it could not run before the
commit (R208; log 44, DEDUCED). -/
def execXMode (alt8 : Bool) (s : State) : Host.Outcome State Fault Refusal :=
  let held := s.core.matq.any (·.held) || s.core.dq.any fun m => m.held && m.op.isPp
  issue s { trap := if 2 ≤ (engineOf s).mode.val then some { cause := .matrix, detail := 6 }
                    else if held then some { cause := .matrix, detail := 9 } else none
            stall := matqFull s.core } (enterMat 0 none ⟨.mode alt8, 0, []⟩)
/-- X.MIRR (R155). -/
def execXMirr (off : Bool) (s : State) : Host.Outcome State Fault Refusal :=
  issue s { stall := matqFull s.core } (enterMat 0 none ⟨.mirr off, 0, []⟩)

/-- What X.FENCE waits for (R155). -/
def fenceWaits (c : Core) : Bool :=
  (c.matq.any fun m => !m.held && c.issue.before m.serial) || c.dq.any fun m => m.op.isPp && !m.seg

/-- X.FENCE. -/
def execXFence (s : State) : Host.Outcome State Fault Refusal :=
  issue s { stall := if fenceWaits s.core then some .scoreboard else none } id

/-- The word of X.STAT (R155). -/
def xStatWord (s : State) : Word :=
  let c := s.core
  let busy := packN 1 ((List.range 8).map fun k => (tileBusy s k).toNat)
  wordN (min 8 (countIf (fun m => !m.held) c.matq) + busy * 2 ^ 8 + (engineOf s).mode.val * 2 ^ 16
    + c.arch.mirroff.toNat * 2 ^ 19 + c.xdone.toNat * 2 ^ 32)

/-- X.STAT. -/
def execXStat (d : SReg) (s : State) : Host.Outcome State Fault Refusal :=
  issue s { dsts := [.s d] } (wrS d 1 (xStatWord s))

/-! Tiles and vector registers (R135). -/

/-- The row pair of V.AREAD and V.AWRITE. -/
def rowPair (s : State) (b : SReg) (q : Fin 64) : Nat := ((regS s b).toNat + q.val) % 64

/-- The traps of V.AREAD and V.AWRITE: ACCBANK, and a tile that a held command of the segment uses (R123, R208; log
44, DEDUCED). -/
def tileTrap (s : State) (k : AReg) : Option Trap := match bankOf s k.val with
  | none => some { cause := .vector, detail := 3 }
  | some b => if bankHeld s.core [b] then some (matTrap 9 k.val) else none

/-- The freeze of V.AREAD and V.AWRITE on a busy bit (R34, R36 step 3, R148; log 61, DEDUCED). One that only the rows of
a V.AWRITE hold set ends too (log 100, DESIGN CHOICE). -/
def tileStall (s : State) (k : AReg) : Option Freeze := match bankOf s k.val with
  | none => none
  | some b =>
    if (commandBanks s.core).contains b then some .scoreboard
    else if tileBusy s k.val then some (.rows b) else none

/-- An accumulator with uncorrectable ECC (R229, R302). -/
def tileUecc (c : Core) (k : Nat) : Option Trap :=
  if c.ueccMem.contains (7, k) then some { cause := .uecc, detail := 7, arg := k } else none

/-- V.AREAD. -/
def execVAread (d : VReg) (a : AReg) (b : SReg) (q : Fin 64) (s : State) : Host.Outcome State Fault Refusal :=
  issue s { srcs := [.s b], dsts := [.v d], stall := tileStall s a
            trap := (tileTrap s a).orElse fun _ => tileUecc s.core a.val }
    (wrV d 5 (match bankOf s a.val with
      | none => 0
      | some k => ofBytes ((vget (engineOf s).banks k .zero).getN (1024 * rowPair s b q) 1024)))

/-- V.AWRITE. -/
def execVAwrite (d : AReg) (a : VReg) (b : SReg) (q : Fin 64) (s : State) : Host.Outcome State Fault Refusal :=
  issue s { srcs := [.v a, .s b], stall := tileStall s d, trap := tileTrap s d }
    (fun u => u.flight 2 (.tile d (rowPair s b q) (regV s a)))

/-! The engine's progress (R147, R148, R150, R155). -/

/-- The other core of the pair. -/
def partner (s : State) : Option Core :=
  s.die.cores.find? fun c => c.num / 2 == s.core.num / 2 && c.num != s.core.num

/-- The serials of the X.MODE commands that wait in a queue. -/
def modeSerials (c : Core) : List Nat := c.matq.filterMap fun m => match m.op with
  | .mode _ => some m.serial
  | _ => none

/-- Whether an X.MODE that either core of the pair issued before a command still waits (R155). -/
def modeBefore (s : State) (serial : Nat) : Bool :=
  (modeSerials s.core ++ (match partner s with
    | none => []
    | some p => modeSerials p)).any fun n => n < serial

/-- Whether a core has a matrix or post-processing command that was issued before another and has not finished. -/
def unfinished (serial : Nat) (c : Core) : Bool :=
  (c.matq.any fun x => x.serial < serial) || c.dq.any fun x => x.op.isPp && x.serial < serial

/-- The head of a core's matrix queue: held commands stand outside it (R152). -/
def matHead (c : Core) : Option MatCmd := c.matq.find? fun m => !m.held

/-- Whether every command issued earlier that uses a tile of this one has finished (R148). -/
def tilesFree (c : Core) (serial : Nat) (banks : List Nat) : Bool :=
  (c.matq.all fun m => !(m.serial < serial) || !(m.banks.any banks.contains))
    && c.dq.all fun m => !(m.serial < serial) || !(m.banks.any banks.contains)

/-- Whether the head of the matrix queue may start (R148, R155, R207). -/
def mayStart (s : State) (m : MatCmd) : Bool :=
  !m.running && tilesFree s.core m.serial m.banks && boardClear s.core m.serial m.foots && !modeBefore s m.serial

/-- The words of V.AWRITE syllables issued before a command land in its tiles before it starts (R148; log 61,
DEDUCED). -/
def landTiles (banks : List Nat) (s : State) : State :=
  let mine (e : Inflight) : Bool := match e.land with
    | .tile a _ _ => match bankOf s a.val with
      | none => false
      | some b => banks.contains b
    | _ => false
  (s.core.arch.inflight.filter mine).foldl (fun t e => landOne t e.land)
    (s.upArch fun a => { a with inflight := a.inflight.filter fun e => !mine e })

/-- Changes the matrix command of a serial. -/
def upMat (serial : Nat) (f : MatCmd → MatCmd) (c : Core) : Core :=
  { c with matq := c.matq.map fun m => if m.serial == serial then f m else m }

/-- A matrix command leaves the queue, its footprints with it. -/
def dropMat (serial : Nat) (c : Core) : Core := { c with matq := c.matq.filter fun m => m.serial != serial }

/-- Whether a command is mirrored, by MIRROFF as it stands when it starts (R151). -/
def mirrors (c : Core) : MatOp → Bool
  | .mma _ a _ _ _ mg2 => rowsFrom a.rows (mgARow mg2) ≤ 64 && !c.arch.mirroff
  | .aclr _ | .amov _ | .aload .. | .asave .. | .mode _ | .mirr _ => false

/-- MATRIX_COMMAND_START: the head of the selected core's matrix queue starts, if it may. -/
def execMatrixCommandStart (s : State) : Host.Outcome State Fault Refusal :=
  .next (match matHead s.core with
    | none => s
    | some m => match m.op with
      | .mode _ => s
      | _ =>
        if mayStart s m then
          landTiles m.banks (s.upCore (upMat m.serial fun x => { x with running := true, mirrored := mirrors s.core m.op }))
        else s)

/-- MODE_SWITCH: the X.MODE at the head of the selected core's queue takes effect, once every command that either core
of the pair issued before it has finished (R155). -/
def execModeSwitch (s : State) : Host.Outcome State Fault Refusal :=
  .next (match matHead s.core with
    | none => s
    | some m => match m.op with
      | .mode alt8 =>
        if unfinished m.serial s.core || (partner s).any (unfinished m.serial) then s
        else (s.upEngine fun e => { e with mode := if alt8 then 1 else 0 }).upCore (dropMat m.serial)
      | _ => s)

/-- A tile takes new contents and a type; its ECC is good again. -/
def putBank (m : MatCmd) (fp : Bool) (st : Store) (s : State) : State :=
  (s.upEngine fun e => { e with banks := vmod e.banks m.bank fun _ => st, fp := vmod e.fp m.bank fun _ => fp }).upCore
    fun c => { c with ueccMem := c.ueccMem.filter (· != (7, m.tile)) }

/-- The scratchpad bytes that a command reads (R141, R154). -/
def spadReads (m : MatCmd) : List (Nat × Nat) := match m.op with
  | .mma _ a b mg0 mg1 mg2 =>
    operandReads a (mgARow mg2) (rowsFrom a.rows (mgARow mg2)) (mgPlanes mg0 false) false (mgScm mg0) (mgK0 mg1)
        (mgCount mg0)
      ++ operandReads b (mgBRow mg2) (rowsFrom b.rows (mgBRow mg2)) (mgPlanes mg0 true) (mgCoset mg0) (mgScm mg0)
        (mgK0 mg1) (mgCount mg0)
  | .aload t rows _ mg1 mg2 =>
    ((tileRows t mg1 mg2).1.zip rows).filterMap fun p => if p.2.isNone then some (p.1, (tileRows t mg1 mg2).2) else none
  | .aclr _ | .amov _ | .asave .. | .mode _ | .mirr _ => []

/-- What the data of the shared memory rows of an X.ALOAD raise. -/
def MatOp.bad : MatOp → Option Trap
  | .aload _ _ bad _ _ => bad
  | .mma .. | .aclr _ | .amov _ | .asave .. | .mode _ | .mirr _ => none

/-- What a command's data that cannot be corrected raises: a row of shared memory, a word of the scratchpad, or a tile
that it reads (R154, R229; log 49, DEDUCED). -/
def matUecc (c : Core) (m : MatCmd) (tiles : List Nat) : Option Trap :=
  m.op.bad.orElse fun _ =>
  ((c.ueccMem.filter fun w => w.1 == 3).findSome? fun w =>
    if (spadReads m).any fun r => wordHits w.2 r.1 r.2 then
      some { cause := .uecc, detail := 3, arg := w.2 / 8 * 8 } else none).orElse fun _ =>
  tiles.findSome? (tileUecc c)

/-- The trap that an X.ALOAD's rows of shared memory raise before the core's next bundle, and the X.ALOAD's bundle
(R154). -/
def aloadTrap (c : Core) : Option (Trap × Nat) := c.matq.findSome? fun m => m.op.bad.map fun t => (t, m.ba)

/-- The tile of a bank, as the core names it. -/
def tileOfBank (s : State) (b : Nat) : Nat := ((List.range 8).find? fun k => bankOf s k == some b).getD 0

/-- The tiles a command reads. -/
def tilesRead (s : State) (m : MatCmd) : List Nat := match m.op with
  | .mma fresh .. => if fresh then [] else [m.tile]
  | .amov b => [tileOfBank s b]
  | .asave .. => [m.tile]
  | .aclr _ | .aload .. | .mode _ | .mirr _ => []

/-- The tile that X.ALOAD makes: rows read at issue, or of the scratchpad as its issue left it (R149, R154). -/
def loadedTile (c : Core) (sn : Snap) (t : Tensor) (rows : List (Option (List Byte))) (mg1 mg2 : Word) : Store :=
  let r := tileRows t mg1 mg2
  let row (p : Nat × Option (List Byte)) : List Byte := match p.2 with
    | some b => b
    | none => seeSpad c sn p.1 r.2
  let full (b : List Byte) : List Byte := b ++ List.replicate (512 - b.length) 0
  .ofBytes ((r.1.zip rows).flatMap fun p => full (row p))

/-- The bytes that X.ASAVE writes, row by row (R154). -/
def savedWalk (st : Store) (t : Tensor) (mg1 mg2 : Word) : Walk :=
  let r := tileRows t mg1 mg2
  .ofPuts (r.1.zipIdx.flatMap fun p => putBytesAt p.1 (st.getN (512 * p.2) r.2))

/-- X.ASAVE ends, stops or parks (R154, R205, R322; log 49, DEDUCED). -/
def finishSave (m : MatCmd) (t : Tensor) (tag : Tag) (mg1 mg2 : Word) (s : State) : State :=
  match matUecc s.core m [m.tile] with
  | some e => s.upCore fun c => tagEnd tag (some e) [] (dropMat m.serial c)
  | none =>
    let r := runWalk m.done (savedWalk (vget (engineOf s).banks m.bank .zero) t mg1 mg2) s
    let keep (c : Core) (n : Nat) (p : Option Nat) : Core := upMat m.serial (fun x => { x with done := n, parked := p }) c
    match r.2.2.1 with
    | .done => r.1.upCore fun c => tagEnd tag none r.2.2.2 (dropMat m.serial c)
    | .failed e => r.1.upCore fun c => tagEnd tag (some e) r.2.2.2 (dropMat m.serial c)
    | .parked va kind =>
      postParked va kind tag.val (r.1.upCore fun c =>
        { keep c r.2.1 (some va) with
          tags := c.tags.set tag { c.tags[tag] with writes := joinIds c.tags[tag].writes r.2.2.2 } })

/-- The scratchpad as the issue of a command left it (R149). -/
def Snap.under (sn : Snap) (m : List Host.Cell) : List Host.Cell := sn.spad.foldr (fun p m => memSetN m p.1 p.2) m

/-- The effect of a command that has no fault, and its end (R144, R154). -/
def finishMat (m : MatCmd) (s : State) : State :=
  let done := s.upCore (dropMat m.serial)
  match m.op with
  | .mma fresh a b mg0 mg1 mg2 =>
    let r := mmaStep (m.snap.under s.core.spad) fresh a b mg0 mg1 mg2 (vget (engineOf s).banks m.bank .zero)
    let fp := if fresh then mgScm mg0 != 0 else vget (engineOf s).fp m.bank false
    (putBank m fp (tileOf r.1) done).upCore fun c =>
      statNow .matrix m.ba [(6, r.2.1), (7, r.2.2)] { c with xdone := c.xdone + 1 }
  | .aclr f => putBank m f (.ofBytes []) done
  | .amov b => putBank m (vget (engineOf s).fp b false) (vget (engineOf s).banks b .zero) done
  | .aload t rows _ mg1 mg2 => putBank m (t.fmt == 7) (loadedTile s.core m.snap t rows mg1 mg2) done
  | .asave t tag mg1 mg2 => finishSave m t tag mg1 mg2 s
  | .mode _ => s
  | .mirr off => done.upArch fun a => { a with mirroff := off }

/-- MATRIX_COMMAND_FINISH: the running command of the selected core finishes. A mirrored command whose two results
differ writes nothing and traps MIRROR; data that cannot be corrected traps UECC (R151, R154, R229). -/
def execMatrixCommandFinish (mismatch : Bool) (s : State) : Host.Outcome State Fault Refusal :=
  .next (match matHead s.core with
    | none => s
    | some m =>
      if !m.running || m.parked.isSome then s
      else if m.mirrored && mismatch then takeTrap { cause := .mirror, arg := m.tile } m.ba s
      else match m.op with
        | .asave .. => finishMat m s
        | _ => match matUecc s.core m (tilesRead s m) with
          | some t => takeTrap t m.ba s
          | none => finishMat m s)

end Sys2Proof.Machine
end

