-- ==== Sys2Proof/Machine/Copy.lean ====
section
/-! DEFINITION. The copy engine (spec/10 R195 to R205, R208): the checks of its commands, its queue, and what each
command writes. -/

namespace Sys2Proof.Machine

/-! Staging registers (R195). -/

/-- The low and high halves of a CG register. -/
def cgLo (s : State) (n : Fin 16) : Nat := wbits s.core.arch.cg[n] 31 0
/-- The high half. -/
def cgHi (s : State) (n : Fin 16) : Nat := wbits s.core.arch.cg[n] 63 32

/-- The footprints that CG12 to CG15 declare, those of length 0 left out (R195, R206). -/
def cgFoots (s : State) : List Foot :=
  ([12, 13, 14, 15] : List (Fin 16)).filterMap fun n =>
    let x := s.core.arch.cg[n]
    if wbits x 39 20 == 0 then none else some ⟨wbits x 18 0, wbits x 39 20, x.toNat.testBit 19⟩

/-- Whether a kind reads the index table (R198). -/
def CopyKind.indexed : CopyKind → Bool
  | .gath | .scat => true
  | .copy | .copy2d | .fill _ | .fill2d _ | .xpose | .plane _ | .conv _ | .xch _ | .pref => false

/-- A reserved bit is set in a staging register: every copy command reads them all (R195, R201). -/
def cgReserved (s : State) : Bool :=
  (([12, 13, 14, 15] : List (Fin 16)).any fun n => wbits s.core.arch.cg[n] 63 40 != 0)
    || wbits s.core.arch.cg[3] 63 56 != 0 || cgHi s 4 != 0

/-! What a command copies (R196, R198). -/

/-- A step of the walk: the destination element, and its source element, if it has one. -/
structure Step where
  di : Nat
  dj : Nat
  src : Option (Int × Int)
  deriving DecidableEq, Repr

/-- Pairs (i, j) with i < m and j < n, i first. -/
def grid (m n : Nat) : List (Nat × Nat) := (List.range m).flatMap fun i => (List.range n).map fun j => (i, j)

/-- The steps of a command, in the order of its walk: rows in ascending order, columns in each (R197); where windows
of C.SCAT overlap, the higher entry comes later (R198). -/
def CopyCmd.steps (c : CopyCmd) : List Step :=
  let one (p : Nat × Nat) : Step := ⟨c.drow + p.1, c.dcol + p.2, some ((c.srow + p.1 : Nat), (c.scol + p.2 : Nat))⟩
  match c.kind with
  | .copy | .pref => []
  | .copy2d | .plane _ | .conv _ | .xch _ => (grid c.nrows c.ncols).map one
  | .fill _ => (List.range c.ncols).map fun j => ⟨c.drow, c.dcol + j, none⟩
  | .fill2d _ => (grid c.nrows c.ncols).map fun p => ⟨c.drow + p.1, c.dcol + p.2, none⟩
  | .xpose => (grid c.ncols c.nrows).map fun p =>
      ⟨c.drow + p.1, c.dcol + p.2, some ((c.srow + p.2 : Nat), (c.scol + p.1 : Nat))⟩
  | .gath => c.table.zipIdx.flatMap fun e => (grid c.nrows c.ncols).map fun p =>
      ⟨c.drow + e.2, c.dcol + c.ncols * p.1 + p.2, some (e.1.1 + (p.1 : Int), e.1.2 + (p.2 : Int))⟩
  | .scat =>
    let all := c.table.zipIdx.flatMap fun e => (grid c.nrows c.ncols).filterMap fun p =>
      let r : Int := e.1.1 + (p.1 : Int)
      let k : Int := e.1.2 + (p.2 : Int)
      if 0 ≤ r && r < (c.dst.rows : Int) && 0 ≤ k && k < (c.dst.cols : Int) then
        some (⟨r.toNat, k.toNat, some ((c.srow + e.2 : Nat), (c.scol + c.ncols * p.1 + p.2 : Nat))⟩ : Step)
      else none
    sortBy (fun a b => a.di < b.di || (a.di == b.di && a.dj ≤ b.dj)) all

/-- The pieces of a source element; none beyond ROWS and TLEN, where it reads as 0 (R197). -/
def srcBits (t : Tensor) : Option (Int × Int) → List Bit
  | none => []
  | some (i, j) => if 0 ≤ i && i < t.rows && 0 ≤ j && j < t.tlen then t.at' i.toNat j.toNat else []

/-- The address of an element's first byte. -/
def Tensor.addr (t : Tensor) (i j : Nat) : Nat := match t.at' i j with
  | [] => t.base
  | b :: _ => b.va

/-- The scale entry of block j of row i, of w bytes, of a tensor with blocks of n elements (R76, R79, R81). -/
def scaleAt (t : Tensor) (n w i j : Nat) : Nat := (t.scale + w * (i * ceilDiv t.cols n + j)) % 2 ^ 56

/-- BLOCK of the destination of a conversion. -/
def convBlock (k : ConvKind) (dst : Tensor) : Nat := match k with
  | .qn4i8 => 64
  | .mx4mx8 => 32
  | .bf16blk => dst.block

/-- Bytes of a scale of the destination of a conversion. -/
def convScaleBytes (k : ConvKind) : Nat := match k with
  | .mx4mx8 => 1
  | .qn4i8 | .bf16blk => 4

/-- The destination blocks that a conversion's region touches in a row. -/
def convBlocks (c : CopyCmd) (k : ConvKind) : List Nat :=
  let n := convBlock k c.dst
  if c.ncols == 0 then []
  else (List.range ((c.dcol + c.ncols - 1) / n - c.dcol / n + 1)).map (c.dcol / n + ·)

/-- The source block that holds every source element of a destination block; none where two do (R199 is silent). -/
def convSource (c : CopyCmd) (n b : Nat) : Option Nat :=
  let lo := c.scol + (max c.dcol (n * b) - c.dcol)
  let hi := c.scol + (min (c.dcol + c.ncols) (n * b + n) - 1 - c.dcol)
  if lo / n == hi / n then some (lo / n) else none

/-- The bytes that a conversion reads for its scales (R79, R199). -/
def convReads (c : CopyCmd) (k : ConvKind) : List Nat :=
  match k with
  | .bf16blk => []
  | .qn4i8 | .mx4mx8 =>
    let n := convBlock k c.dst
    (List.range c.nrows).flatMap fun i => (convBlocks c k).flatMap fun b =>
      match convSource c n b with
      | none => []
      | some j =>
        let g := (c.srow + i) * ceilDiv c.src.cols n + j
        if c.src.rows ≤ c.srow + i || c.src.cols ≤ n * j then []
        else scaleAt c.src n 1 (c.srow + i) j :: match k with
          | .qn4i8 => (List.range 4).map fun q => (c.src.super + 4 * (g / 256) + q) % 2 ^ 56
          | _ => []

/-- The bytes that a conversion writes for its scales. -/
def convWrites (c : CopyCmd) (k : ConvKind) : List Nat :=
  (List.range c.nrows).flatMap fun i => (convBlocks c k).flatMap fun b =>
    (List.range (convScaleBytes k)).map fun q => scaleAt c.dst (convBlock k c.dst) (convScaleBytes k) (c.drow + i) b + q

/-- The stored bytes behind addresses of a tensor: themselves, or the blocks that hold them, with the raw area of each
block that escapes (R86; log 101, DEDUCED). -/
def storedBytes (t : Tensor) (escapes : Nat → Bool) (l : List Nat) : List Nat :=
  if t.cmp == 0 then l
  else (imageBlocks t l).flatMap fun k =>
    (List.range t.stored).map (fun q => (t.base + t.stored * k + q) % 2 ^ 56)
      ++ if escapes k then (List.range 256).map (fun q => (t.raw + 256 * k + q) % 2 ^ 56) else []

/-- Whether block k of a source escapes, as its header stands for the command. -/
def CopyCmd.escapes (c : CopyCmd) (s : State) (k : Nat) : Bool :=
  match engRead s c.snap ((c.src.base + c.src.stored * k) % 2 ^ 56) 1 with
  | .error _ => false
  | .ok b => headerEscapes (natOf b)

/-- The bytes that a command reads, the index table apart. -/
def CopyCmd.reads (c : CopyCmd) (s : State) : List Nat :=
  let elems := storedBytes c.src (c.escapes s) (match c.kind with
    | .copy => (List.range c.ncols).map fun k => (c.src.addr c.srow c.scol + k) % 2 ^ 56
    | .fill _ | .fill2d _ | .pref => []
    | .copy2d | .gath | .scat | .xpose | .plane _ | .conv _ | .xch _ =>
      c.steps.flatMap fun p => bitBytes (srcBits c.src p.src))
  match c.kind with
  | .conv k => elems ++ convReads c k
  | .copy | .copy2d | .fill _ | .fill2d _ | .gath | .scat | .xpose | .plane _ | .xch _ | .pref => elems

/-- The bytes that a command writes; the raw area of a block that comes to escape is not among them (log 101, DEDUCED).
-/
def CopyCmd.writes (c : CopyCmd) : List Nat :=
  let elems := storedBytes c.dst (fun _ => false) (match c.kind with
    | .copy => (List.range c.ncols).map fun k => (c.dst.addr c.drow c.dcol + k) % 2 ^ 56
    | .pref => []
    | .copy2d | .fill _ | .fill2d _ | .gath | .scat | .xpose | .plane _ | .conv _ | .xch _ =>
      c.steps.flatMap fun p => bitBytes (c.dst.at' p.di p.dj))
  match c.kind with
  | .conv k => elems ++ convWrites c k
  | .copy | .copy2d | .fill _ | .fill2d _ | .gath | .scat | .xpose | .plane _ | .xch _ | .pref => elems

/-! The checks (R201). -/

/-- The extent of a command's destination region, rows and columns, with n entries in the index table. Of C.COPY, which
counts bytes, only the element at the origin is judged, also when it copies none (R196, R197; log 46, DEDUCED). -/
def CopyCmd.extent (c : CopyCmd) (n : Nat) : Nat × Nat :=
  match c.kind with
  | .copy => (1, 1)
  | .fill _ => (1, c.ncols)
  | .copy2d | .fill2d _ | .plane _ | .conv _ | .xch _ => (c.nrows, c.ncols)
  | .xpose => (c.ncols, c.nrows)
  | .gath => (n, c.nrows * c.ncols)
  | .scat | .pref => (0, 0)

/-- Whether the destination region leaves the destination (R197). -/
def CopyCmd.outside (c : CopyCmd) (n : Nat) : Bool :=
  let e := c.extent n
  e.1 != 0 && e.2 != 0 && (c.dst.rows < c.drow + e.1 || c.dst.cols < c.dcol + e.2)

/-- The stretches of columns that must begin and end at whole codes or bytes: tensor, first column, count (R196). -/
def CopyCmd.stretches (c : CopyCmd) : List (Tensor × Int × Nat) :=
  match c.kind with
  | .copy | .pref => []
  | .copy2d | .plane _ | .conv _ | .xch _ => [(c.src, c.scol, c.ncols), (c.dst, c.dcol, c.ncols)]
  | .fill _ | .fill2d _ => [(c.dst, c.dcol, c.ncols)]
  | .xpose => [(c.src, c.scol, c.ncols), (c.dst, c.dcol, c.nrows)]
  | .gath => (c.dst, c.dcol, c.ncols * c.nrows) :: c.table.map fun e => (c.src, e.2, c.ncols)
  | .scat => (c.src, c.scol, c.ncols * c.nrows) :: c.table.map fun e => (c.dst, e.2, c.ncols)

/-- Whether some stretch of a format in a list breaks a multiple. -/
def unaligned (l : List (Tensor × Int × Nat)) (fmts : List Nat) (n : Nat) : Bool :=
  l.any fun p => fmts.contains p.1.fmt && (p.2.1 % n != 0 || p.2.2 % n != 0)

/-- Whether a conversion's tensors are those of R199. -/
def convOk (k : ConvKind) (a b : Tensor) : Bool :=
  match k with
  | .qn4i8 => a.fmt == 14 && b.fmt == 0 && b.planes == 0 && b.block == 64 && b.scale != 0
  | .mx4mx8 => a.fmt == 13 && b.fmt == 12 && a.scale != 0 && b.scale != 0
  | .bf16blk => a.fmt == 9 && b.fmt == 0 && b.planes == 0 && b.scale != 0

/-- Whether the element widths or layouts are not allowed (R196, R201). -/
def CopyCmd.badFormat (c : CopyCmd) : Bool :=
  match c.kind with
  | .copy | .fill _ | .fill2d _ | .pref => false
  | .copy2d | .gath | .scat | .xpose | .xch _ => c.src.width != c.dst.width
  | .plane toBytes =>
    (c.src.planes != 0) != toBytes || (c.dst.planes != 0) == toBytes
  | .conv k => !convOk k c.src c.dst

/-- The FORMAT step of R201. A command that breaks both what COPY, FORMAT judges and the L8 alignment of R84 takes COPY,
FORMAT; a half-byte region that breaks only with an L8 one takes L8ALIGN (log 46, DEDUCED). -/
def CopyCmd.formatTrap (c : CopyCmd) : Option Trap :=
  let l8 := match c.kind with
    | .copy => (c.src.fmt == 15 || c.dst.fmt == 15) && (c.scol % 8 != 0 || c.dcol % 8 != 0 || c.ncols % 2 != 0)
    | .copy2d | .fill _ | .fill2d _ | .gath | .scat | .xpose | .plane _ | .conv _ | .xch _ | .pref =>
      unaligned c.stretches [15] 8
  let half := match c.kind with
    | .copy =>
      let four (t : Tensor) : Bool := t.fmt == 13 || t.fmt == 14
      (four c.src || four c.dst) && (c.scol % 2 != 0 || c.dcol % 2 != 0)
    | .copy2d | .fill _ | .fill2d _ | .gath | .scat | .xpose | .plane _ | .conv _ | .xch _ | .pref =>
      unaligned c.stretches [13, 14] 2
  if c.badFormat || (half && !l8) then some (copyTrap 4 c.tag)
  else if l8 then some { cause := .format, detail := 2 }
  else none

/-- Whether every scratchpad byte of a list lies in some footprint of a list. -/
def covered (l : List Foot) (bytes : List Nat) : Bool :=
  bytes.all fun a => !inLocal a || l.any fun f => f.lo ≤ a && a < f.lo + f.len

/-- The FOOTPRINT step of R201; `table` holds the bytes of the index table. -/
def footBad (s : State) (c : CopyCmd) (table : List Nat) : Bool :=
  !(covered c.foots (table ++ c.reads s)) || !(covered (c.foots.filter (·.wr)) c.writes)
    || c.foots.any fun f => spadSize < f.lo + f.len

/-- Whether the spans of two lists of bytes overlap. -/
def spansMeet (a b : List Nat) : Bool :=
  match a, b with
  | x :: r, y :: t => r.foldl min x ≤ t.foldl max y && t.foldl min y ≤ r.foldl max x
  | _, _ => false

/-- Whether some address of a list is mapped into an EXPAND window (R187). -/
def throughExpand (s : State) (k : Access) (l : List Nat) : Bool :=
  (l.map (· / 0x4000)).eraseDups.any fun g =>
    !inLocal (0x4000 * g) && match translate s.pkg s.die (partNum s) (0x4000 * g) k with
      | .error _ => false
      | .ok x => match serve s.die (partNum s) x.pa with
        | .expand .. => true
        | .mem _ => false
        | .l8 .. => false

/-- The OVERLAP step of R201: C.COPY, C.COPY2D and C.XCH are judged on the compressed paths alone (R200; log 46,
DEDUCED). -/
def CopyCmd.overlaps (c : CopyCmd) (s : State) : Bool :=
  let meet := spansMeet (c.reads s) c.writes
  match c.kind with
  | .copy | .copy2d | .xch _ =>
    (c.src.cmp != 0 || c.dst.cmp != 0 || throughExpand s .rd (c.reads s) || throughExpand s .wr c.writes) && meet
  | .xpose | .plane _ | .conv _ | .gath | .scat => meet
  | .fill _ | .fill2d _ | .pref => false

/-! Issue (R195, R202). -/

/-- The addresses of the entries of the index table. -/
def tableAddrs (s : State) : List Nat :=
  (List.range (cgLo s 4)).map fun q => (wbits s.core.arch.cg[3] 55 0 + 8 * q) % 2 ^ 56

/-- Whether a range of mapped pages, n of them from an address up, leaves a level. -/
def leavesLevel (s : State) (l : Level) : Nat → Nat → Bool
  | 0, _ => false
  | n + 1, va => match translateLeaf s.pkg s.die (partNum s) (va % 2 ^ 56) .rd with
    | .error _ => false
    | .ok x => levelOf s.die.ncrew x.pa != l || leavesLevel s l n (va + 0x4000)

/-- Whether the index table passes the level in which it begins: the local window, vault or DRAM (R201). -/
def tablePasses (s : State) : Bool :=
  let a := wbits s.core.arch.cg[3] 55 0
  let n := 8 * cgLo s 4
  if n == 0 then false
  else if inLocal a then spadSize < a + n
  else match translateLeaf s.pkg s.die (partNum s) a .rd with
    | .error _ => false
    | .ok x => leavesLevel s (levelOf s.die.ncrew x.pa) ((a + n - 1) / 0x4000 - a / 0x4000) (a / 0x4000 * 0x4000 + 0x4000)

/-- The PARAM step of R201 for the registers and the index table. -/
def tableParam (s : State) (k : CopyKind) : Bool := cgReserved s || (k.indexed && tablePasses s)

/-- What reading the index table finds, a held command over it apart (R198). -/
def tableLoad (s : State) (k : CopyKind) : Loaded :=
  if !k.indexed || tableParam s k then .got [] [] none
  else match locateAll s .rd 8 (tableAddrs s) with
    | .error t => .trap t
    | .ok ps => loadPieces s (8 * cgLo s 4) ps

/-- The entries of the index table (R198). -/
def tableEntries : Nat → List Byte → List (Int × Int)
  | 0, _ => []
  | n + 1, b => (sextN (natOf (b.take 4)) 32, sextN (natOf ((b.drop 4).take 4)) 32) :: tableEntries n (b.drop 8)

/-- The bytes of the index table. -/
def tableBytes (s : State) (k : CopyKind) : List Nat :=
  if k.indexed then (tableAddrs s).flatMap fun a => (List.range 8).map (a + ·) else []

/-- A command as its issue makes it, with its two entries and its index table. -/
def makeCopy (s : State) (k : CopyKind) (a b : Tensor) (table : List Byte) (tag : Tag) : CopyCmd where
  serial := s.fresh
  kind := k
  src := a
  dst := b
  srow := cgLo s 0
  scol := cgHi s 0
  drow := cgLo s 1
  dcol := cgHi s 1
  nrows := cgLo s 2
  ncols := cgHi s 2
  table := tableEntries (table.length / 8) table
  tag := tag
  ba := s.core.issue.ba
  snap := snapOf s
  foots := cgFoots s
  held := true
  running := false
  parked := none
  done := 0
  blk := 0
  rest := []
  step := 0
  puts := []
  tail := []
  evs := []
  spad := none

/-- The first check of R201 that fails for a command made with its index table, the entries' own apart: PARAM, then what
reading the table meets, FORMAT, FOOTPRINT, OVERLAP, and HELD last (log 46, DEDUCED). -/
def copyCheck (s : State) (c : CopyCmd) : Option Trap :=
  if tableParam s c.kind || c.outside (cgLo s 4) then some (copyTrap 3 c.tag)
  else match tableLoad s c.kind with
    | .trap t => some t
    | .got _ _ (some t) => some t
    | .got ps _ none => match c.formatTrap with
      | some t => some t
      | none =>
        if footBad s c (tableBytes s c.kind) then some (copyTrap 1 c.tag)
        else if c.overlaps s then some (copyTrap 2 c.tag)
        else heldTrap s.core false (spadRanges ps)

/-- Whether the index table waits for a footprint that no held command keeps (R207). -/
def tableLate (s : State) (k : CopyKind) : Bool := match tableLoad s k with
  | .trap _ => false
  | .got ps _ _ => (heldTrap s.core false (spadRanges ps)).isNone && (spadStall s.core false (spadRanges ps)).isSome

/-- The freeze of a command that would be the 513th outstanding (R202). -/
def copyFull (c : Core) : Option Freeze := if 512 ≤ c.copyq.length then some .queueFull else none

/-- A copy command enters, held by its segment, with its tag (R202, R203; log 45, DEDUCED). -/
def enterCopy (x : CopyCmd) (s : State) : State :=
  (s.upCore fun c => countCmd (tagIssue x.tag { c with copyq := c.copyq ++ [{ x with serial := s.fresh }] })).useId

/-- The syllable of a copy command: registers it reads, its kind, the entries it names. -/
def copySyl (srcs : List Reg) (k : CopyKind) (ta : Option TId) (tb : TId) (tag : Tag) (s : State) :
    Host.Outcome State Fault Refusal :=
  let ea : Except Trap Tensor := match ta with
    | none => .ok Tensor.none
    | some i => readTensor s i
  let req : Except Trap CopyCmd := match ea, readTensor s tb with
    | .error t, _ => .error t
    | _, .error t => .error t
    | .ok a, .ok b =>
      let x := makeCopy s k a b (tableLoad s k).bytes tag
      match copyCheck s x with
      | some t => .error t
      | none => .ok x
  let stale := if tableLate s k then some .scoreboard else entryStall s (ta.toList ++ [tb])
  issue s { srcs := srcs, trap := errOf req, limit := cmdLimit s.core
            stall := (copyFull s.core).orElse fun _ => stale.orElse fun _ => boardStall s.core (cgFoots s) }
    (fun u => match req with
      | .ok x => enterCopy x u
      | .error _ => u)

/-- C.COPY. -/
def execCCopy (ta tb : TId) (tag : Tag) (s : State) : Host.Outcome State Fault Refusal :=
  copySyl [] .copy (some ta) tb tag s
/-- C.COPY2D. -/
def execCCopy2d (ta tb : TId) (tag : Tag) (s : State) : Host.Outcome State Fault Refusal :=
  copySyl [] .copy2d (some ta) tb tag s
/-- C.FILL. -/
def execCFill (t : SReg) (tb : TId) (tag : Tag) (s : State) : Host.Outcome State Fault Refusal :=
  copySyl [.s t] (.fill (regS s t)) none tb tag s
/-- C.FILL2D. -/
def execCFill2d (t : SReg) (tb : TId) (tag : Tag) (s : State) : Host.Outcome State Fault Refusal :=
  copySyl [.s t] (.fill2d (regS s t)) none tb tag s
/-- C.GATH. -/
def execCGath (ta tb : TId) (tag : Tag) (s : State) : Host.Outcome State Fault Refusal :=
  copySyl [] .gath (some ta) tb tag s
/-- C.SCAT. -/
def execCScat (ta tb : TId) (tag : Tag) (s : State) : Host.Outcome State Fault Refusal :=
  copySyl [] .scat (some ta) tb tag s
/-- C.XPOSE. -/
def execCXpose (ta tb : TId) (tag : Tag) (s : State) : Host.Outcome State Fault Refusal :=
  copySyl [] .xpose (some ta) tb tag s
/-- C.PLANE. -/
def execCPlane (toBytes : Bool) (ta tb : TId) (tag : Tag) (s : State) : Host.Outcome State Fault Refusal :=
  copySyl [] (.plane toBytes) (some ta) tb tag s
/-- C.CONV (R199). -/
def execCConv (kind : ConvKind) (ta tb : TId) (tag : Tag) (s : State) : Host.Outcome State Fault Refusal :=
  copySyl [] (.conv kind) (some ta) tb tag s
/-- C.XCH: it runs in the exchange part (R22, R288). -/
def execCXch (ta tb : TId) (tag : Tag) (slot : BitVec 16) (s : State) : Host.Outcome State Fault Refusal :=
  copySyl [] (.xch slot) (some ta) tb tag s
/-- C.PREF: it never faults, and has no visible effect but its footprints and the completion of its tag (R196, R206;
log 47, DEDUCED). -/
def execCPref (_ta : TId) (tag : Tag) (s : State) : Host.Outcome State Fault Refusal :=
  issue s { limit := cmdLimit s.core, stall := (copyFull s.core).orElse fun _ => boardStall s.core (cgFoots s) }
    (enterCopy (makeCopy s .pref Tensor.none Tensor.none [] tag))

/-- The tags with those of a mask clear (R204); the writes of the commands that have carried a tag stay its own
(R211). -/
def clearTags (m : Word) (tags : Vector TagSt 64) : Vector TagSt 64 :=
  Vector.ofFn fun (t : Fin 64) =>
    if m.toNat.testBit t then { TagSt.clear with out := tags[t].out, writes := tags[t].writes } else tags[t]

/-- C.TCLR (R204): it acts when its bundle issues. -/
def execCTclr (a : SReg) (s : State) : Host.Outcome State Fault Refusal :=
  let m := regS s a
  issue s { srcs := [.s a], trap := (lowTag m fun t => s.core.tags[t].out != 0).map (copyTrap 8) }
    (fun u => u.upCore fun c => { c with tags := clearTags m c.tags })

/-! What a command writes (R196 to R200). -/

/-- Whether a format is one of the signed integers. -/
def signedFmt (t : Tensor) : Bool :=
  t.fmt == 0 || t.fmt == 2 || t.fmt == 4 || t.fmt == 6 || (16 ≤ t.fmt && t.fmt < 24)

/-- The value of an element (R70); an encoding of a format that is no integer is taken as a natural number. -/
def planeVal (t : Tensor) (x : Nat) : Int := if signedFmt t then sextN x t.width else x

/-- An element on its way through C.PLANE: toward planes it is clamped with CVTSAT (R196). -/
def planeConv (toBytes : Bool) (a b : Tensor) (x : Nat) : Nat × Ev :=
  let v := planeVal a x
  let w := if toBytes then v else clampI v (planarLo (signedFmt b) b.width) (planarHi (signedFmt b) b.width)
  (truncI w b.width, if w == v then .none else .cvtsat)

/-- One step of a copy that moves elements. -/
def stepPuts (s : State) (c : CopyCmd) (f : Nat → Nat × Ev) (p : Step) : Except Trap (List Put × List Ev) :=
  match engElem s c.snap c.src (srcBits c.src p.src) with
  | .error t => .error t
  | .ok x => let r := f x; .ok (putElem (c.dst.at' p.di p.dj) r.1, [r.2])

/-- Whether a source position lies inside ROWS and TLEN. -/
def inTensor (t : Tensor) (i j : Nat) : Bool := i < t.rows && j < t.tlen

/-- The scale of a destination block of .qn4i8 and .mx4mx8: the source block's, or a free value where R199 does not
give it (log 13, DESIGN CHOICE). -/
def convScale (s : State) (c : CopyCmd) (k : ConvKind) (i b : Nat) : Except Trap Nat :=
  let n := convBlock k c.dst
  let free := (Config.freeScale (s.free + i * ceilDiv c.dst.cols n + b)).toNat
  match convSource c n b with
  | none => .ok free
  | some j =>
    if c.src.rows ≤ c.srow + i || c.src.cols ≤ n * j then .ok free
    else match engRead s c.snap (scaleAt c.src n 1 (c.srow + i) j) 1 with
      | .error t => .error t
      | .ok x => match k with
        | .qn4i8 =>
          let g := (c.srow + i) * ceilDiv c.src.cols n + j
          match engRead s c.snap ((c.src.super + 4 * (g / 256)) % 2 ^ 56) 4 with
          | .error t => .error t
          | .ok sup => .ok (qn4Scale (natOf sup) (natOf x))
        | .mx4mx8 | .bf16blk => .ok (natOf x)

/-- The source encodings of the region's elements in a destination block, with their destination columns. -/
def blockElems (s : State) (c : CopyCmd) (n i b : Nat) : Except Trap (List (Nat × Option Nat)) :=
  let cols := (List.range n).filterMap fun q =>
    if c.dcol ≤ n * b + q && n * b + q < c.dcol + c.ncols then some (n * b + q) else none
  cols.foldr (fun d l => match l with
    | .error t => .error t
    | .ok r =>
      let j := c.scol + (d - c.dcol)
      if inTensor c.src (c.srow + i) j then
        match engElem s c.snap c.src (c.src.at' (c.srow + i) j) with
        | .error t => .error t
        | .ok x => .ok ((d, some x) :: r)
      else .ok ((d, none) :: r)) (.ok [])

/-- One block of .bf16blk: its scale, its elements and its events (R199). A block with non-finite elements counts one
INVALID, however many they are (R75; log 108, DEDUCED). -/
def bf16Block (l : List FVal) : Nat × List (Int × Ev) × List Ev :=
  if anyNonFinite l then (f32.qnan, l.map fun _ => (0, .none), [.invalid])
  else match maxExp l with
    | none => (0, l.map fun _ => (0, .none), [])
    | some e =>
      let sg := rne32 (.num false 1 (e - 6) false)
      let one (x : FVal) : Int × Ev := match x with
        | .fin n m k =>
          let y := roundInt .rne n m (k - (e - 6))
          let z := clampI y (-127) 127
          (z, if z == y then .none else .cvtsat)
        | .nan _ => (0, .none)
        | .inf _ => (0, .none)
      (sg, l.map one, [])

/-- One block of a conversion: its elements, its scale, and its events (R199). -/
def convParts (s : State) (c : CopyCmd) (k : ConvKind) (p : Nat × Nat) : Except Trap (List Put × List Put × List Ev) :=
  let n := convBlock k c.dst
  let w := convScaleBytes k
  let scale (x : Nat) : List Put := putBytesAt (scaleAt c.dst n w (c.drow + p.1) p.2) (bytesOf w x)
  match blockElems s c n p.1 p.2 with
  | .error t => .error t
  | .ok es => match k with
    | .bf16blk =>
      let r := bf16Block (es.map fun e => bf16.val (e.2.getD 0))
      let puts := (es.zip r.2.1).flatMap fun q => putElem (c.dst.at' (c.drow + p.1) q.1.1) (truncI q.2.1 8)
      .ok (puts, scale r.1, r.2.1.map Prod.snd ++ r.2.2)
    | .qn4i8 | .mx4mx8 => match convScale s c k p.1 p.2 with
      | .error t => .error t
      | .ok x =>
        let val (e : Option Nat) : Int := match e with
          | none => 0
          | some q => match k with
            | .mx4mx8 => 16 * sextN q 4
            | .qn4i8 | .bf16blk => nth qn4Table q 0
        .ok (es.flatMap (fun e => putElem (c.dst.at' (c.drow + p.1) e.1) (truncI (val e.2) 8)), scale x, [])

/-- One block of a conversion: its elements, then its scale. -/
def convPuts (s : State) (c : CopyCmd) (k : ConvKind) (p : Nat × Nat) : Except Trap (List Put × List Ev) :=
  (convParts s c k p).map fun r => (r.1 ++ if c.dst.cmp == 0 then r.2.1 else [], r.2.2)

/-- One byte of C.COPY. -/
def bytePuts (s : State) (c : CopyCmd) (k : Nat) : Except Trap (List Put × List Ev) :=
  match c.src.read s c.snap ((c.src.addr c.srow c.scol + k) % 2 ^ 56) 1 with
  | .error t => .error t
  | .ok b => .ok (putBytesAt (c.dst.addr c.drow c.dcol + k) b, [])

/-- The blocks of a conversion: row of the region, destination block. -/
def convGrid (c : CopyCmd) (k : ConvKind) : List (Nat × Nat) :=
  (List.range c.nrows).flatMap fun i => (convBlocks c k).map fun b => (i, b)

/-- What a copy command has to write from where its walk stands; the scales beside a compressed destination apart (log
47, DEDUCED). -/
def copyWalk (s : State) (c : CopyCmd) : Walk :=
  let plain (x : Nat) : Nat × Ev := (x, .none)
  match c.kind with
  | .pref => .nil
  | .copy => walkOf (bytePuts s c) ((List.range c.ncols).drop c.step)
  | .copy2d | .gath | .scat | .xpose | .xch _ => walkOf (stepPuts s c plain) (c.steps.drop c.step)
  | .fill x | .fill2d x => walkOf (stepPuts s c fun _ => (x.toNat % 2 ^ c.dst.width, .none)) (c.steps.drop c.step)
  | .plane toBytes => walkOf (stepPuts s c (planeConv toBytes c.src c.dst)) (c.steps.drop c.step)
  | .conv k => walkOf (convPuts s c k) ((convGrid c k).drop c.step)

/-- The scales beside a compressed destination, which are written after its blocks, of the steps that a pass reads (log
101, DEDUCED). -/
def scaleTail (s : State) (c : CopyCmd) : List Put := match c.kind with
  | .conv k => (walkOf (fun p => (convParts s c k p).map fun r => (r.2.1, [])) ((convGrid c k).drop c.step)).puts
  | .copy | .copy2d | .fill _ | .fill2d _ | .gath | .scat | .xpose | .plane _ | .xch _ | .pref => []

/-- How a pass of a copy command ended: the state, how, the identities of its writes, its events, and what it keeps when
it is parked. -/
structure CopyEnd where
  s : State
  how : WalkEnd
  ids : List Nat
  evs : List Ev
  keep : CopyCmd → CopyCmd

/-- The state in which a copy reads: the scratchpad as the first pass found it, so that what the command has written
since does not come to be its source (R200, R322). -/
def CopyCmd.reading (m : CopyCmd) (s : State) : State := match m.spad with
  | none => s
  | some x => s.upCore fun c => { c with spad := x }

/-- What a command has read up to now: what earlier passes kept, and what the walk reads from where it parked (R322). -/
def CopyCmd.walked (m : CopyCmd) (s : State) : Walk :=
  let w := copyWalk (m.reading s) m
  ⟨m.puts ++ w.puts, m.evs ++ w.evs, w.stop, m.step + w.read⟩

/-- A copy command makes its walk from where it stands. A compressed destination is written block by block, each block
recompressed with what the walk gives it (R87, R158, R205; log 22, DEDUCED; log 101, DEDUCED). What it has read it keeps
over a park, and reads no page again that it has passed (R322). -/
def copyPass (m : CopyCmd) (s : State) : CopyEnd :=
  let w := m.walked s
  let tail := if m.dst.cmp == 0 then [] else m.tail ++ scaleTail (m.reading s) m
  let keep (x : CopyCmd) : CopyCmd :=
    { x with step := w.read, puts := w.puts, tail := tail, evs := w.evs, spad := some (m.reading s).core.spad }
  if m.dst.cmp == 0 then
    let r := runWalk m.done w s
    ⟨r.1, r.2.2.1, r.2.2.2, w.evs, fun x => { keep x with done := r.2.1 }⟩
  else
    let r := runCmp m.blk m.rest (imageItems m.dst w.puts (if w.stop.isNone then tail else [])) s
    let begun := if r.stop.isNone then (imageBlocks m.dst (w.puts.map Put.va)).length - 1 else r.blk
    ⟨r.s, endOf (r.stop.orElse fun _ => w.stop), idsSince s r.s, w.evs,
      fun x => { keep x with blk := begun, rest := r.rest }⟩

/-! The engine's progress (R202, R205, R322). -/

/-- COPY_COMMAND_START: the first command of the queue that has not started starts, once no earlier entry of the
scoreboard conflicts with it (R202, R207). -/
def execCopyCommandStart (serial : Nat) (s : State) : Host.Outcome State Fault Refusal :=
  .next (match s.core.copyq.find? fun m => !m.held && !m.running && !m.isXch with
    | none => s
    | some m =>
      if m.serial == serial && boardClear s.core serial m.foots then
        s.upCore fun c => { c with copyq := c.copyq.map fun x => if x.serial == serial then { x with running := true } else x }
      else s)

/-- The running command of a serial. -/
def runningCopy (c : Core) (serial : Nat) : Option CopyCmd :=
  c.copyq.find? fun m => m.serial == serial && m.running && m.parked.isNone

/-- A copy ends: its entries and its place are freed, its records appended, its tag completed (R203, R206). -/
def endCopy (m : CopyCmd) (counts : List (Nat × Nat)) (err : Option Trap) (ids : List Nat) (s : State) : State :=
  let s1 := s.upCore fun c =>
    tagEnd m.tag err ids (statNow .copy m.ba counts { c with copyq := c.copyq.filter fun x => x.serial != m.serial })
  { s1 with free := match m.kind with
      | .conv _ => s1.free + m.dst.rows * m.dst.cols
      | _ => s1.free }

/-- The running command of a serial, with how its pass ends (log 22, DEDUCED). -/
def copyRun (serial : Nat) (s : State) : Option (CopyCmd × CopyEnd) :=
  (runningCopy s.core serial).map fun m => (m, copyPass m s)

/-- COPY_COMPLETE: a running command has made its whole walk (log 22, DEDUCED). -/
def execCopyComplete (serial : Nat) (s : State) : Host.Outcome State Fault Refusal :=
  .next (match copyRun serial s with
    | some (m, ⟨s1, .done, ids, evs, _⟩) => endCopy m (tally evs) none ids s1
    | _ => s)
/-- COPY_FAULT: a running command stops at a fault (R205). -/
def execCopyFault (serial : Nat) (s : State) : Host.Outcome State Fault Refusal :=
  .next (match copyRun serial s with
    | some (m, ⟨s1, .failed e, ids, evs, _⟩) => endCopy m (tally evs) (some e) ids s1
    | _ => s)
/-- COPY_DEMAND_PARK: a running command parks at a page (R322). -/
def execCopyDemandPark (serial : Nat) (s : State) : Host.Outcome State Fault Refusal :=
  .next (match copyRun serial s with
    | some (m, ⟨s1, .parked va kind, ids, _, keep⟩) =>
      postParked va kind m.tag.val (s1.upCore fun c => { c with
        copyq := c.copyq.map fun x => if x.serial == serial then { keep x with parked := some va } else x
        tags := c.tags.set m.tag { c.tags[m.tag] with writes := joinIds c.tags[m.tag].writes ids } })
    | _ => s)

end Sys2Proof.Machine
end

