-- ==== Sys2Proof/Machine/Arbiter.lean ====
section
/-! DEFINITION. The arbiter (spec/15 R271, R275, R276), pickup (spec/02 R18 to R21), the phase barrier (spec/02 R22,
R23, spec/17 R287, R288), and the deadlines of rendezvous and crew barriers (spec/12 R231, spec/17 R291). -/

namespace Sys2Proof.Machine

/-! Stated lengths and the time left (R23, R275, R287). -/

/-- Kernels of the context that are RESIDENT on the selected die (R235). -/
def dieKernels (s : State) : List Kernel := match partOf s with
  | none => []
  | some p => p.kernels.filter fun k => k.st == .resident && k.stageLo ≤ s.die.num && s.die.num ≤ k.stageHi

/-- The stated compute length, in bundle times, and exchange time, in ns, of phase k; none when no kernel states any
(log 55, DEDUCED). -/
def phaseLens (s : State) (k : Nat) : Option (Nat × Nat) :=
  match (dieKernels s).find? fun x => !x.phases.isEmpty with
  | none => none
  | some x => x.phases[min k (x.phases.length - 1)]?

/-- Whether a stated run fits the time left before the deadline (R275). -/
def fitsLeft (s : State) (run : Nat) : Bool := match phaseLens s s.die.k with
  | none => true
  | some l => run + s.die.elapsed ≤ l.1

/-- ns of n bundle times at 850 MHz, rounded down. -/
def bundleNs (n : Nat) : Nat := 20 * n / 17

/-! Where a record may run (R18, R41). -/

/-- The records of a queue, head first. -/
def RunQ.all (q : RunQ) : List Cont := q.hw ++ q.overflow

/-- Every continuation of the die that no core runs. -/
def parkedConts (d : Die) : List Cont :=
  d.queues.toList.flatMap RunQ.all ++ d.waiters.map Waiter.cont ++ d.watches.map Watch.cont
    ++ d.crews.toList.flatMap fun w => w.rvz.toList.flatMap fun r => r.conts.map Prod.fst

/-- The core of a crewed record (R18). -/
def coreOf (r : Record) : Nat := 8 * r.crew.toNat + r.slotNum

/-- Whether a PIN 2 strand that is suspended or queued reserves core n (R18; log 56, DEDUCED). -/
def reservedCore (d : Die) (n : Nat) : Bool :=
  (parkedConts d).any fun c => c.record.pin == 2 && c.record.crew != 0xFF && coreOf c.record == n

/-- Whether a record may run on core n (R18; log 56, DEDUCED). -/
def mayRun (d : Die) (n : Nat) (r : Record) : Bool :=
  (r.pin == 2 || !reservedCore d n) && (r.crew == 0xFF || coreOf r == n)

/-- Whether the selected core may pick a record up: it is idle, and not the idle side of a SOLO pair (R41). -/
def mayPick (s : State) : Bool :=
  s.core.record.isNone && !(2 ≤ (engineOf s).mode.val && (engineOf s).mode.val != (if sideB s.core then 3 else 2))

/-! The pick (R275). -/

/-- The usable queues with their heads. -/
def heads (s : State) : List (Fin 64 × Cont) :=
  (List.finRange 64).filterMap fun q =>
    if queueUsable s.die ((partOf s).map Partition.num |>.getD 0) q then s.die.queues[q].all.head?.map fun c => (q, c) else none

/-- E of `pick`. -/
def eligible (s : State) : List (Fin 64 × Cont) :=
  (heads s).filter fun p => mayRun s.die s.core.num p.2.record && fitsLeft s p.2.record.run.toNat

/-- RANK of a queue. -/
def queueRank (s : State) (q : Fin 64) : Nat := wbits s.die.queues[q].cfg 3 0

/-- The old queue of the highest age, the lowest number on ties. -/
def oldest (s : State) : List (Fin 64 × Cont) → Option (Fin 64)
  | [] => none
  | p :: t =>
    let age (q : Fin 64) : Nat := s.die.queues[q].age
    if 8 * (15 - queueRank s p.1) ≤ age p.1 then
      match oldest s t with
      | none => some p.1
      | some q => if age p.1 < age q then some q else some p.1
    else oldest s t

/-- The first of some queues after a number, wrapping. -/
def nextAfter (last : Nat) (l : List (Fin 64)) : Option (Fin 64) :=
  match l.find? fun q => last < q.val with
  | some q => some q
  | none => l.head?

/-- The queue that a fill takes, and whether LAST of its rank follows it. -/
def pickQueue (s : State) : Option (Fin 64 × Bool) :=
  let e := eligible s
  match oldest s e with
  | some q => some (q, false)
  | none =>
    let r := (e.map fun p => queueRank s p.1).foldl max 0
    (nextAfter (vget s.die.last r 0) ((e.map Prod.fst).filter fun q => queueRank s q == r)).map fun q => (q, true)

/-- A queue without its head; its age is 0 (R275). -/
def RunQ.pop (q : RunQ) : RunQ := match q.hw with
  | _ :: t => { q with hw := t, age := 0 }
  | [] => { q.dropRing with age := 0 }

/-- The arbiter's state after a fill that took queue q (R275). A pick that uncovers another head is a fill event of
every idle core (log 54, DEDUCED). -/
def afterPick (q : Fin 64) (follow : Bool) (s : State) : State :=
  let others := ((eligible s).map Prod.fst).filter (· != q)
  s.upDie fun d => { d with
    found := if (d.queues[q]).pop.all.isEmpty then d.found else []
    last := if follow then vmod d.last (queueRank s q) fun _ => q.val else d.last
    queues := (others.foldl (fun v x => v.set x { v[x] with age := v[x].age + 1 }) d.queues).set q
      (d.queues[q]).pop }

/-! Pickup (R20, R21, R118, R282, R230). -/

/-- The PARTID word of a partition (R297). -/
def partWord (p : Partition) : Word :=
  wordN (p.num % 2 ^ 16 + 2 ^ 16 * (p.first % 16) + 2 ^ 20 * (p.ndie % 16) + 2 ^ 24 * p.ctx.toNat)

/-- The checkpointed state at a pickup: what R20 sets, and free values, of the seeds from k on, elsewhere (log 4,
DESIGN CHOICE). -/
def pickupArch (k : Nat) (r : Record) : Arch where
  s := Vector.ofFn fun (i : Fin 64) =>
    if i.val == 2 then r.arg0 else if i.val == 3 then r.arg1 else if i.val == 4 then r.arg2
    else if i.val == 5 then wordN r.status else if (6 ≤ i.val && i.val ≤ 9) || i.val == 0 then 0
    else Config.freeWord k i
  v := Vector.ofFn fun (i : Fin 32) => Config.freeVec k i
  p := Config.freePreds k
  m := Vector.ofFn fun (i : Fin 8) => Config.freeMask k i
  spill := ⟨some k, []⟩
  inflight := []
  shape := shapeReset
  qsl := 0
  ttbase := r.ttb &&& ~~~(0x3F : Word)
  loops := Vector.replicate 3 .reset
  rpc := ⟨0, 0, false, 0, 0⟩
  mg := Vector.ofFn fun (i : Fin 8) => Config.freeWord k (64 + i)
  cg := Vector.ofFn fun (i : Fin 16) => Config.freeWord k (72 + i)
  dg := Vector.ofFn fun (i : Fin 8) => Config.freeWord k (88 + i)
  lg := Vector.ofFn fun (i : Fin 4) => Config.freeWord k (96 + i)
  tables := ⟨some (k + 1), []⟩
  pptable := ⟨some (k + 2), []⟩
  lqo := 0
  mirroff := false
  sendBind := none
  recvBind := none

/-- The core's tiles become undefined at a pickup (R140; log 4, DESIGN CHOICE). -/
def freeTiles (k : Nat) (s : State) : State :=
  let banks := (List.range 8).filterMap (bankOf s)
  s.upEngine fun e => banks.foldl (fun e b =>
    { e with banks := vmod e.banks b fun _ => ⟨some (k + 3 + b), []⟩, fp := vmod e.fp b fun _ => Config.freeTileType k b }) e

/-- Free values that one pickup uses up. -/
def pickupSeeds : Nat := 16

/-- The selected core picks a record up: it runs the strand, with an implicit checkpoint (R20, R21, R230; log 4,
DESIGN CHOICE). A debug stop that the steward has not released stays (R305). With the tags' states, the writes of the
commands that have completed under them are gone: a tag observed later gains those of later commands alone (R203, R211;
log 112, DEDUCED). -/
def pickup (c : Cont) (s : State) : State :=
  let r := c.record
  let a := pickupArch s.free r
  let s1 := s.upCore fun k => { k with
    arch := a, ck := a, pc := BitVec.ofNat 56 r.pc.toNat, record := some r, strand := c.strand, ckStrand := c.strand
    halted := false, haltPend := false, q := c.q, wait := none, waitBa := 0, stampWait := false
    rvzTrap := c.rvz, undo := [], held := [], seg := .zero, popped := [], retried := false, hnd := false
    trapinfo := 0, ckptpc := BitVec.ofNat 56 r.pc.toNat, left := r.run, budgetStop := false
    hist := [0, 0, 0, 0, 0, 0, 0], occ := [], tags := Vector.replicate 64 .clear, geo := []
    ringBase := 0, ringSize := 0, ringWoff := 0, ringFree := 0, xdone := 0
    crewid := wordN r.crew.toNat |>.setWidth 8
    strandid := wordN ((if r.crew == 0xFF then 0 else r.slotNum) + 2 ^ 4 * r.pin + 2 ^ 8 * k.num)
    partid := (partOf s).map partWord |>.getD 0
    ueccRegs := k.ueccRegs.filter fun n => !(2 ≤ n && n ≤ 9)
    issue := .none }
  let s2 := freeTiles s.free s1
  { s2.upCore (fun k => { k with shadow := tileShadows s2 }) with free := s.free + pickupSeeds }

/-- The fault of a record that is not run (R18, R236): TRAPINFO holds the record's address (log 54, DEDUCED). -/
def badContinuation (c : Cont) (s : State) : State :=
  let t : Trap := { cause := .badcont, addr := c.strand.addr }
  let s1 := s.upCore fun k => { k with trapinfo := t.info }
  (setContext .halted .fault (haltContext s1)).post
    (.contextFault (s.die.part.getD 0) s.die.stage.toNat c.record.crew.toNat c.record.slotNum s.core.trappc.toNat t.info
      s.core.ckptpc.toNat 0)

/-- Whether the context lets the arbiter pick: RUNNING, PRE 0, in a compute part, on a die in service (R22, R298, R306,
R323). -/
def mayFill (s : State) : Bool := match partOf s with
  | none => false
  | some p => p.state == .running && !p.pre && s.die.phase != .exchange && s.die.boot == .online && s.die.service == .online

/-- A head of a usable queue that breaks the record rules (R18). -/
def badHead (s : State) : Option Cont :=
  ((heads s).find? fun p => recordBad s.die.ncrew p.2.record).map Prod.snd

/-- The selected core's fill has found no eligible record (R22, R275). -/
def foundNothing (s : State) : State := s.upDie fun d => { d with found := joinIds d.found [s.core.num] }

/-- One fill of the selected core, if it is idle and due for one; a malformed head faults the context first, whatever
the fills before it have exposed (R18, R275; log 54, DEDUCED). -/
def fillCore (s : State) : State :=
  if !mayFill s || s.core.record.isSome || s.die.found.contains s.core.num then s
  else match badHead s with
    | some c => badContinuation c s
    | none =>
      if !mayPick s then foundNothing s
      else match pickQueue s with
        | none => foundNothing s
        | some (q, follow) => match s.die.queues[q].all.head? with
          | none => s
          | some c =>
            if (kernelOf s c.record.kid).isNone then badContinuation c s
            else pickup c (afterPick q follow s)

/-! The phase barrier (R22, R23, R287). -/

/-- Something for which the barrier completes (R22 step 2). -/
def phaseCause (s : State) : Bool :=
  let d := s.die
  let fitsNext (r : Nat) : Bool := match phaseLens s (d.k + 1) with
    | none => true
    | some l => r ≤ l.1
  !d.xch.isEmpty || d.waiters.any (fun w => w.what == .phase)
    || (List.finRange 64).any (fun q => d.queues[q].all.any fun c => fitsNext c.record.run.toNat)
    || d.crews.toList.any (·.pend) || d.wrote

/-- A crew's membership change at a phase start (R285). -/
def Crew.newPhase (w : Crew) : Crew := if w.pend then { w with memb := w.next, pend := false, epoch := w.epoch + 1 } else w

/-- A crew whose membership a phase start has emptied loses its queues and its rendezvous slots; the records arrived
there trap RVZ, CLEARED (R231, R285). -/
def clearCrew (c : Nat) (s : State) : State :=
  let w := crewOf s c
  let s1 := s.upCrew c fun w => { w with queues := Vector.replicate 4 [], rvz := Vector.replicate 16 .empty }
  returnArrived 4 (w.rvz.toList.flatMap RvzSlot.conts) s1

/-- A strand's view at a phase start: it holds every earlier write as the memory does (R211). -/
def Cont.newPhase (c : Cont) : Cont := { c with strand := { c.strand with view := [] } }

/-- A rendezvous slot at a phase start. -/
def RvzSlot.newPhase (r : RvzSlot) : RvzSlot := { r with conts := r.conts.map fun p => (p.1.newPhase, p.2) }

/-- A queue at a phase start. -/
def RunQ.newPhase (q : RunQ) : RunQ := { q with hw := q.hw.map Cont.newPhase, overflow := q.overflow.map Cont.newPhase }

/-- The .system releases that the bytes of a die carry at the end of a phase, those of the last write of each byte (R222).
-/
def releasedBy (d : Die) : List (Nat × List Head) :=
  d.log.foldl (fun l w =>
    let h := w.heads.filter fun h => h.scope == .system
    (l.filter fun x => !covers w.addr w.bytes x.1)
      ++ if h.isEmpty then [] else (List.range w.bytes.length).map fun k => (w.addr + k, h)) d.released

/-- The views of a die advance (R211); whatever its strands and their synchronisation have gained in the phase that ends
happens before every operation of the next (R213; log 99, DEDUCED). -/
def Die.newPhase (d : Die) : Die :=
  { d with
    base := d.mem, log := [], hostView := [], released := releasedBy d, k := d.k + 1, phase := .compute, elapsed := 0
    wrote := false, found := [], latePosted := false, past := joinIds d.past d.acc, acc := []
    queues := d.queues.map RunQ.newPhase
    waiters := d.waiters.map fun w => { w with cont := w.cont.newPhase }
    watches := d.watches.map fun w => { w with cont := w.cont.newPhase }
    crews := d.crews.map fun w => { w with rvz := w.rvz.map RvzSlot.newPhase } }

/-- The next phase begins (R22 step 4, R285, R287; log 55, DEDUCED). -/
def nextPhase (s : State) : State :=
  let changed := (List.range 16).filter fun c => (crewOf s c).pend
  let s1 := s.upDie fun d => { d.newPhase with crews := d.newPhase.crews.map Crew.newPhase }
  let s2 := changed.foldl (fun t c => if (crewOf t c).memb == 0 then clearCrew c t else t) s1
  let l := s2.die.waiters.filter fun w => w.what == .phase
  let s3 := s2.upDie fun d => { d with waiters := d.waiters.filter fun w => w.what != .phase }
  l.foldl (fun t w => makeRunnable (min s1.die.k 255) w.cont t) s3

/-- PHASE_LATE for a part that took longer than stated, in ns (R23; log 55, DEDUCED). -/
def postLate (overrun : Nat) (s : State) : State :=
  s.post (.phaseLate (s.die.part.getD 0) s.die.stage.toNat overrun)

/-- The compute part ends when no core holds a strand and the fill of every idle core has found nothing: the barrier
completes, or the die is quiescent (R22, R287). -/
def settlePhase (s : State) : State :=
  if !mayFill s || s.die.phase != .compute || s.cores.any (fun c => c.record.isSome || !s.die.found.contains c.num) then s
  else if !phaseCause s then s.upDie fun d => { d with phase := .quiescent }
  else
    let s1 := match phaseLens s s.die.k with
      | none => s
      | some l => if l.1 < s.die.elapsed then postLate (bundleNs (s.die.elapsed - l.1)) s else s
    if s.die.xch.isEmpty then nextPhase s1 else s1.upDie fun d => { d with phase := .exchange, elapsed := 0, latePosted := false }

/-- CORE_FILL: the arbiter fills, in ascending order, the idle cores of the die that are due for a fill: a core whose
last fill found nothing waits for its next fill event (R275). A malformed head faults the context (R18). Then the phase
barrier is examined (R287; log 54, DEDUCED). -/
def execCoreFill (s : State) : Host.Outcome State Fault Refusal :=
  .next (if !mayFill s then s
    else match badHead s with
      | some c => badContinuation c s
      | none => settlePhase (eachCore fillCore s))

/-- QUEUE_OVERFLOW_MOVE: the oldest ring record moves into the hardware part when it has room (R271; log 66, DEDUCED).
-/
def execQueueOverflowMove (q : Fin 64) (s : State) : Host.Outcome State Fault Refusal :=
  .next (s.upDie fun d =>
    let x := d.queues[q]
    match x.overflow with
    | [] => d
    | c :: _ => if x.hw.length < 32 then { d with queues := d.queues.set q { x.dropRing with hw := x.hw ++ [c] } } else d)

/-! The exchange part (R22, R287, R288). -/

/-- A fault of an exchange copy: the context faults with COPY, FAULTED in the tag's name and the coordinate of the
copy's issuer, whatever its core runs by then (R288, R304, R320). -/
def exchangeFault (x : XchCmd) (e : Trap) (s : State) : State :=
  let m := x.cmd
  let tr : Trap := { cause := .copy, detail := 9, arg := m.tag.val + 256 * (e.cause.code % 64) + 2 ^ 14 * (e.detail % 256) }
  if ctxKilled s then s
  else
    (setContext .halted .fault (haltContext s)).post
      (.contextFault (s.die.part.getD 0) s.die.stage.toNat x.crew x.strand m.ba tr.info x.ckptpc e.addr)

/-- Exchange copies run in the order of their lateral slots (R196). -/
def insertXch (x : XchCmd) : List XchCmd → List XchCmd
  | [] => [x]
  | y :: t => if xslot x.cmd < xslot y.cmd then x :: y :: t else y :: insertXch x t
where
  /-- The lateral slot of an exchange copy. -/
  xslot (c : CopyCmd) : Nat := match c.kind with
    | .xch n => n.toNat
    | .copy | .copy2d | .fill _ | .fill2d _ | .gath | .scat | .xpose | .plane _ | .conv _ | .pref => 0

/-- One exchange copy, with its core selected: the state, what is left of it, and how it ended; a parked one posts
DEMAND_FAULT with its issuer's coordinate (R322; log 84, DEDUCED). -/
def runXch (x : XchCmd) (s : State) : State × XchCmd × WalkEnd :=
  match x.cmd.parked with
  | some va => (s, x, .parked va 0)
  | none =>
    let r := copyPass x.cmd (selCore x.core s)
    let s1 := selCore s.core.num r.s
    match r.how with
    | .done => (s1, x, .done)
    | .failed e => (s1, x, .failed e)
    | .parked va kind =>
      (s1.post (.demandFault (s.die.part.getD 0) s.die.num s.die.stage.toNat x.crew x.strand x.core va kind (some x.cmd.tag.val)),
        { x with cmd := { r.keep x.cmd with parked := some va } }, .parked va kind)

/-- Exchange copies one after another: the state, and how each ended. -/
def runXchs : List XchCmd → State → State × List (XchCmd × WalkEnd)
  | [], s => (s, [])
  | x :: t, s =>
    let r := runXch x s
    let q := runXchs t r.1
    (q.1, r.2 :: q.2)

/-- PHASE_LATE of the exchange part, once, when its transfers have taken the time stated for it and k ns more (R287). -/
def exchangeLate (k : Nat) (s : State) : State :=
  if s.die.latePosted then s
  else match phaseLens s s.die.k with
    | none => s
    | some l =>
      if l.2 + k ≤ bundleNs s.die.elapsed then
        (postLate (bundleNs s.die.elapsed - l.2) s).upDie fun d => { d with latePosted := true }
      else s

/-- EXCHANGE_END: the last exchange transfer ends and the next phase begins; a copy that stopped faults the context
after the boundary (R287, R288). While a copy is parked for DEMAND the part goes on (R322). -/
def execExchangeEnd (s : State) : Host.Outcome State Fault Refusal :=
  .next (if s.die.phase != .exchange then s
    else
      let r := runXchs (s.die.xch.foldr insertXch []) (exchangeLate 1 s)
      if r.2.any fun p => p.1.cmd.parked.isSome then
        r.1.upDie fun d => { d with xch := (r.2.filter fun p => p.2 != .done).map Prod.fst }
      else
        let s1 := nextPhase (r.1.upDie fun d => { d with xch := [] })
        match r.2.findSome? (fun p => match p.2 with
            | .failed e => some (p.1, e)
            | .done | .parked .. => none) with
        | none => s1
        | some (x, e) => exchangeFault x e s1)

/-- EXCHANGE_TIME_EXPIRY: the stated exchange time has passed with transfers left (R287). -/
def execExchangeTimeExpiry (s : State) : Host.Outcome State Fault Refusal :=
  .next (if s.die.phase != .exchange || s.die.xch.isEmpty then s else exchangeLate 0 s)

/-! Deadlines (R231, R291, R112). -/

/-- RVZ_DEADLINE: the deadline of a slot passes; every arrived record returns to its B.RVZ and traps TIMEOUT (R231). -/
def execRvzDeadline (crew slot : Fin 16) (s : State) : Host.Outcome State Fault Refusal :=
  .next (let r := (crewOf s crew).rvz[slot]
    match r.deadline with
    | none => s
    | some t =>
      if r.arr != 0 && t < s.die.earliest then returnArrived 2 r.conts (s.upRvz crew slot fun _ => .empty) else s)

/-- CBAR_DEADLINE: the deadline of a filling crew barrier passes; every frozen member traps TIMEOUT (R291). -/
def execCbarDeadline (crew : Fin 16) (s : State) : Host.Outcome State Fault Refusal :=
  .next (let w := crewOf s crew
    if w.arr != 0 && s.die.rvzto != 0 && w.deadline < s.die.earliest then
      s.upCrew crew fun w => { w with arr := 0, hb := [], ends := w.ends ++ [none] }
    else s)

/-- WAIT_TIME_EXPIRY: the clock has reached the time of a waiting record, which becomes runnable (R112). -/
def execWaitTimeExpiry (s : State) : Host.Outcome State Fault Refusal := .next (settleWaiters s)

/-! Stops (R276, R305). -/

/-- A core stops for BUDGET; one whose halt is pending is halted at once (R276, R308). -/
def stopBudget (s : State) : State :=
  stopped ((s.upCore fun c => { c with budgetStop := true }).post (.budget s.die.num s.core.num))

/-- BUDGET: LEFT is 0 when a bundle is due (R276). -/
def execBudget (s : State) : Host.Outcome State Fault Refusal :=
  .next (if s.core.record.isSome && !s.core.halted && s.core.wait.isNone && !s.core.dbgStop && !s.core.budgetStop
      && s.core.left == 0 then
    stopBudget s else s)

/-- BUDGET_REFILL: the steward writes LEFT and clears STOP (R276). -/
def execBudgetRefill (left : BitVec 32) (s : State) : Host.Outcome State Fault Refusal :=
  .next (if s.core.budgetStop then s.upCore fun c => { c with left := left, budgetStop := false } else s)

/-- DEBUG_RELEASE: the steward releases a core stopped for debug (R305). -/
def execDebugRelease (s : State) : Host.Outcome State Fault Refusal :=
  .next (s.upCore fun c => { c with dbgStop := false })

end Sys2Proof.Machine
end

