-- ==== Sys2Proof/Machine/Aladu.lean ====
section
/-! DEFINITION. The Aladu form as the translator reads it (spec/14 R266 to R269): the ALADU section cut into functions,
blocks and operation records, and the conditions under which a block is translated at all. The machine runs no block:
it runs the native image that the translator makes of them, which the verifier then judges (R245; log 9). What a block
means is in AluMeaning. -/

namespace Sys2Proof.Machine

/-- The little-endian number of n bytes at an offset. -/
def leAt (b : List Byte) (o n : Nat) : Nat := natOf ((b.drop o).take n)

/-- A consumer slot (R267). -/
structure AluSlot where
  idx : Nat
  pos : Nat
  /-- The second result, into D + 1. -/
  second : Bool
  valid : Bool
  spare : Bool
  deriving DecidableEq, Repr

/-- An operation record (R267). -/
structure AluOp where
  opc : Nat
  md : Nat
  nin : Nat
  body : Nat
  ginv : Bool
  guarded : Bool
  slots : List AluSlot
  /-- Bits [63:62] and [127:124]. -/
  spare : Nat
  deriving DecidableEq, Repr

/-- A function of an ALADU section: its symbol and its blocks (R266). -/
structure AluFunc where
  sym : Nat
  blocks : List (List AluOp)
  deriving DecidableEq, Repr

/-- Slot j of the bits [127:64] of a record. -/
def aluSlotOf (x j : Nat) : AluSlot :=
  let w := bits x (12 * j + 11) (12 * j)
  ⟨bits w 6 0, bits w 8 7, bits w 9 9 == 1, bits w 10 10 == 1, bits w 11 11 == 1⟩

/-- The record at an offset. -/
def aluOpAt (b : List Byte) (o : Nat) : AluOp :=
  let lo := leAt b o 8
  let hi := leAt b (o + 8) 8
  { opc := bits lo 7 0, md := bits lo 12 8, nin := bits lo 15 13, body := bits lo 59 16
    ginv := bits lo 60 60 == 1, guarded := bits lo 61 61 == 1
    slots := (List.range 5).map (aluSlotOf hi), spare := bits lo 63 62 + bits hi 63 60 }

/-- The block at an offset; none where its head breaks R266 or it passes the section's end. -/
def aluBlockAt (b : List Byte) (o : Nat) : Option (List AluOp) :=
  let n := leAt b o 1
  if o + 8 + 16 * n ≤ b.length && 1 ≤ n && n ≤ 128 && leAt b (o + 1) 7 == 0 then
    some ((List.range n).map fun i => aluOpAt b (o + 8 + 16 * i))
  else none

/-- n blocks stored one after another. -/
def aluBlocksFrom (b : List Byte) : Nat → Nat → Option (List (List AluOp))
  | 0, _ => some []
  | n + 1, o => match aluBlockAt b o with
    | none => none
    | some l => (aluBlocksFrom b n (o + 8 + 16 * l.length)).map (l :: ·)

/-- The function of the head at an offset. -/
def aluFuncAt (b : List Byte) (o : Nat) : Option AluFunc :=
  let n := leAt b (o + 4) 4
  if 1 ≤ n && n ≤ 4096 then (aluBlocksFrom b n (leAt b (o + 8) 8)).map fun l => ⟨leAt b o 4, l⟩ else none

/-- An ALADU section cut into its functions; none where it breaks R266. -/
def readAladu (b : List Byte) : Option (List AluFunc) :=
  let n := leAt b 0 8
  if b.length < 8 + 16 * n then none
  else
    let l := (List.range n).map fun i => aluFuncAt b (8 + 16 * i)
    if l.any (·.isNone) then none else some (l.filterMap id)

/-! What a record may be (R267, R268). -/

/-- A value carried between blocks, with its kind: 0 S, 1 V, 2 P, 3 M (R268). -/
def AluOp.carried (x : AluOp) : Option (Nat × Nat) :=
  if x.opc == 0xF4 || x.opc == 0xF5 then some (bits x.body 7 0, bits x.body 9 8) else none

/-- The B-class opcodes that a block may hold: B.CALL, B.WANY, B.WALL, B.FFR, B.SPAWN, B.TRAP and the suspension points
(R19, R268). -/
def aluBranch (opc : Nat) : Bool :=
  [0x41, 0x49, 0x4B, 0x4C, 0x4D, 0x4E, 0x4F, 0x50, 0x51, 0x52, 0x53, 0x54].contains opc

/-- Whether an operation is native and of class B. -/
def AluOp.isBranch (x : AluOp) : Bool := 0x40 ≤ x.opc && x.opc < 0x58

/-- Whether a D, A, B or C field that its entry uses so is a value field, with n in it: of kind S, V, P or M, and no port
number, which stays in the body as tiles do (R267). -/
def aluValueField (k : Use) (n : Nat) : Bool :=
  (k == .rd || k == .wr || k == .rw) && !((56 ≤ n && n < 64) || (92 ≤ n && n < 96))

/-- Whether an operation receives a value at one of the positions 0 to 2 below NIN: a field that keeps a tile or a port
number in the body receives none (R267; log 91, DEDUCED). -/
def AluOp.receives (x : AluOp) (k : Nat) : Bool :=
  if 0xF0 ≤ x.opc then true
  else
    let f := unpack (fmtOf x.opc) x.body
    let u := usesOf x.opc x.md
    match k with
    | 0 => aluValueField u.a f.a
    | 1 => aluValueField u.b f.b
    | _ => aluValueField u.c f.c

/-- The body of a native operation keeps R267: every value field of it is zero, D included; B.CALL names a function of
the section. -/
def AluOp.bodyOk (funcs : Nat) (x : AluOp) : Bool :=
  if x.opc == 0x41 then x.body < funcs && x.body < 0x10000
  else
    let f := unpack (fmtOf x.opc) x.body
    let u := usesOf x.opc x.md
    let zero (k : Use) (n : Nat) : Bool := n == 0 || !aluValueField k n
    (u.d == .rd || zero u.d f.d) && zero u.a f.a && zero u.b f.b && zero u.c f.c
      && (f.d == 0 || !x.slots.any fun s => s.valid && !s.second)

/-- A record keeps R267 and R268, in a section of so many functions and a function of so many blocks. -/
def AluOp.ok (funcs blocks : Nat) (x : AluOp) : Bool :=
  x.spare == 0 && x.slots.all (fun s => !s.spare && (!s.valid || !s.second || x.opc == 0xA6 || x.opc == 0x2F))
    && match x.opc with
      | 0xF4 => x.nin == 0 && x.body < 0x400
      | 0xF5 => x.nin == 1 && x.body < 0x400
      | 0xF6 => x.nin == 1 && x.body == 0
      | 0xF7 => x.nin == 0 && x.body < 0x1000 && (x.body < blocks || x.body == 0xFFF)
      | _ => x.opc < 0xF0 && assigned x.opc && x.nin ≤ 3 && x.bodyOk funcs && (!x.isBranch || aluBranch x.opc)

/-! What a block must keep (R269). -/

/-- The positions at which an operation receives values. -/
def AluOp.positions (x : AluOp) : List Nat := (List.range x.nin).filter x.receives ++ if x.guarded then [3] else []

/-- The valid slots of a block, as consumer and position, and whether each names a later operation. -/
def aluEdges (l : List AluOp) : List (Nat × Nat) × Bool :=
  let es := ((List.range l.length).zip l).flatMap fun p =>
    (p.2.slots.filter (·.valid)).map fun s => (p.1, s.idx, s.pos)
  (es.map fun e => (e.2.1, e.2.2), es.all fun e => e.1 < e.2.1 && e.2.1 < l.length)

/-- Step 1: consumers stand later, and every position that receives a value is named by exactly one slot. -/
def aluEdgesOk (l : List AluOp) : Bool :=
  let es := aluEdges l
  let want := ((List.range l.length).zip l).flatMap fun p => p.2.positions.map fun k => (p.1, k)
  es.2 && want.all (fun w => countIf (· == w) es.1 == 1) && es.1.all want.contains

/-- Whether a native operation reads a port that its body names (R57, R267). -/
def AluOp.readsPort (x : AluOp) : Bool :=
  let f := unpack (fmtOf x.opc) x.body
  let u := usesOf x.opc x.md
  let port (k : Use) (n : Nat) : Bool := k == .rd && ((56 ≤ n && n < 63) || (92 ≤ n && n < 95))
  port u.d f.d || port u.a f.a || port u.b f.b || port u.c f.c

/-- Whether an operation's value is produced at commit: atomics, M.LDAQ, M.LDAS, S.CLK, reads of ports and the B-class
operations, which come after the commit (step 6; log 91, DEDUCED). -/
def AluOp.late (x : AluOp) : Bool :=
  x.opc < 0xF0 && (x.opc == 0x2F || x.opc == 0xB0 || (0xB2 ≤ x.opc && x.opc ≤ 0xB9) || x.opc == 0xBC || x.isBranch
    || x.readsPort)

/-- Step 5: a value produced at commit feeds only A.OUT. -/
def aluLateOk (l : List AluOp) : Bool :=
  l.all fun x => !x.late || x.slots.all fun s => !s.valid || match l[s.idx]? with
    | none => false
    | some y => y.opc == 0xF5

/-- The operation that names position k of operation i as a consumer, and whether by its second result. -/
def aluProducer (l : List AluOp) (i k : Nat) : Option (Nat × Bool) :=
  ((List.range l.length).zip l).findSome? fun p =>
    (p.2.slots.find? fun s => s.valid && s.idx == i && s.pos == k).map fun s => (p.1, s.second)

/-- Where a value comes from, through A.FAN: a result of an operation, or a carried value (false) by its number. -/
def aluSource (l : List AluOp) : Nat → Nat → Nat → Option (Bool × Nat × Bool)
  | 0, _, _ => none
  | n + 1, i, k => match aluProducer l i k with
    | none => none
    | some (j, second) => match l[j]? with
      | none => none
      | some y =>
        if y.opc == 0xF6 then aluSource l n j 0
        else if y.opc == 0xF4 then some (false, bits y.body 7 0, false)
        else some (true, j, second)

/-- The operations of a block after which control does not pass it: A.EXIT, B.END and B.TRAP, by their guards: the guard's
source, if the operation has one, and its sense. -/
def aluExits (l : List AluOp) : List (Option (Bool × Nat × Bool) × Bool × Bool) :=
  ((List.range l.length).zip l).filterMap fun p =>
    if p.2.opc == 0xF7 || p.2.opc == 0x4F || p.2.opc == 0x54 then
      some (if p.2.guarded then aluSource l l.length p.1 3 else none, p.2.guarded, p.2.ginv)
    else none

/-- Whether control cannot pass a block: it leaves without a guard, or under one value's guard in both senses (log 91,
DEDUCED). -/
def aluLeaves (l : List AluOp) : Bool :=
  let es := aluExits l
  es.any fun e => !e.2.1 || (e.1.isSome && es.any fun d => d.2.1 && d.1 == e.1 && d.2.2 != e.2.2)

/-- What every block of a function keeps: its records, steps 1 and 5, and at most one B-class operation. -/
def aluBlockOk (funcs blocks : Nat) (l : List AluOp) : Bool :=
  l.all (AluOp.ok funcs blocks) && aluEdgesOk l && aluLateOk l && countIf AluOp.isBranch l ≤ 1

/-- A carried value has one kind in a function, and c2 to c9 are of kind S (R268). -/
def aluKindsOk (l : List (Nat × Nat)) : Bool :=
  l.all fun c => (!(2 ≤ c.1 && c.1 ≤ 9) || c.2 == 0) && l.all fun d => c.1 != d.1 || c.2 == d.2

/-- Whether the translator takes a function, in a section of so many functions (R269). -/
def AluFunc.ok (funcs : Nat) (f : AluFunc) : Bool :=
  f.blocks.all (aluBlockOk funcs f.blocks.length)
    && aluKindsOk (f.blocks.flatMap fun l => l.filterMap AluOp.carried)
    && match f.blocks.getLast? with
      | none => false
      | some l => aluLeaves l

/-- Whether the translator takes an image's blocks; else step 1 of R240 fails with IMAGE (R269). -/
def aladuOk (l : List AluFunc) : Bool := l.all (AluFunc.ok l.length)

end Sys2Proof.Machine
end

