-- ==== Sys2Proof/Machine/Zof.lean ====
section
/-! DEFINITION. ZOF files as the loader reads them (spec/14 R257 to R265), and the choice of an image (spec/13 R244,
R245). -/

namespace Sys2Proof.Machine

/-- A section of a ZOF file with its entry's fields and, for a native image, its address word (R259). -/
structure Sect where
  name : Nat
  skind : Nat
  flags : Nat
  off : Nat
  size : Nat
  align : Nat
  link : Nat
  word : Nat
  deriving DecidableEq, Repr

/-- A ZOF file cut into its sections (R257, R259). -/
structure Zof where
  kind : Nat
  rev : Nat
  req : Nat
  opt : Nat
  sects : List Sect
  bytes : List Byte
  deriving DecidableEq, Repr

/-- Entry i of a section table at an offset, with n entries; only a native image has address words. -/
def sectAt (b : List Byte) (native : Bool) (tab n i : Nat) : Sect :=
  let o := tab + 32 * i
  { name := leAt b o 4, skind := leAt b (o + 4) 2, flags := leAt b (o + 6) 2, off := leAt b (o + 8) 8
    size := leAt b (o + 16) 8, align := leAt b (o + 24) 4, link := leAt b (o + 28) 4
    word := if native then leAt b (tab + 32 * n + 8 * i) 8 else 0 }

/-- Whether a section entry keeps R259 and R260 in a file of the kind and length given, with n sections. Only the native
image of a translation may hold a MAP section, of 16-byte pairs. -/
def sectOk (trans : Bool) (kind len n : Nat) (x : Sect) : Bool :=
  1 ≤ x.skind && x.skind ≤ 14 && x.flags < 8
    && (if x.skind == 4 then x.off == 0 else x.off + x.size ≤ len)
    && (x.skind == 7 && x.link < n || x.skind != 7 && x.link == 0)
    && (x.skind == 14) == (kind == 4 && x.skind != 5)
    && (x.skind != 12 || kind == 3) && (x.skind != 13 || (trans && kind == 2 && x.size % 16 == 0)) && x.align < 64
    && (if x.flags % 2 == 1 && kind == 2 then x.word < 2 ^ 56 && x.word % 2 ^ x.align == 0 else x.word == 0)

/-- The file cut into sections; none where it is not well formed (R257 to R260). `trans`: it is a translation. -/
def readZof (trans : Bool) (b : List Byte) : Option Zof :=
  let kind := leAt b 6 1
  let n := leAt b 12 4
  let tab := leAt b 16 8
  let l := (List.range n).map (sectAt b (kind == 2) tab n)
  let one5 := match l with
    | [] => false
    | x :: t => x.skind == 5 && t.all fun y => y.skind != 5
  if 32 ≤ b.length && leAt b 0 4 == 0x0A464F5A && leAt b 4 2 == 1 && 1 ≤ kind && kind ≤ 4 && 1 ≤ n && n ≤ 64
      && leAt b 24 8 == 0 && tab + (if kind == 2 then 40 else 32) * n ≤ b.length
      && l.all (sectOk trans kind b.length n) && one5 then
    some ⟨kind, leAt b 7 1, leAt b 8 2, leAt b 10 2, l, b⟩
  else none

/-- The contents of a section; kind 4 holds zeros (R260). -/
def Zof.data (z : Zof) (x : Sect) : List Byte :=
  if x.skind == 4 then List.replicate x.size 0 else (z.bytes.drop x.off).take x.size

/-- The sections of a kind. -/
def Zof.ofKind (z : Zof) (k : Nat) : List Sect := z.sects.filter fun x => x.skind == k

/-- The zero-terminated name at a string offset (R260). -/
def Zof.name (z : Zof) (o : Nat) : List Byte := match z.sects with
  | [] => []
  | x :: _ => ((z.data x).drop o).takeWhile (· != 0)

/-- A function of an image: its symbol's index, name and first bundle, its own needs and its bases (R242), its signature
class, and whether it is an entry (R264). -/
structure Func where
  sym : Nat
  name : List Byte
  start : Nat
  ns : Nat
  nv : Nat
  np : Nat
  bases : Nat
  basev : Nat
  basep : Nat
  cls : Nat
  entry : Bool
  deriving DecidableEq, Repr

/-- What the loader takes from one image. -/
structure Image where
  kind : Nat
  rev : Nat
  req : Nat
  opt : Nat
  kid : Nat
  rating : Nat
  crews : Nat
  stageLo : Nat
  stageHi : Nat
  regs : Nat
  vregs : Nat
  spill : Nat
  phases : List (Nat × Nat)
  modes : List (Nat × Fin 4)
  streams : List StreamDecl
  funcs : List Func
  /-- The bundle of each B.JMPI with a list, and its targets (R264). -/
  jumps : List (Nat × List Nat)
  /-- The functions of an Aladu image's ALADU section (R266). -/
  blocks : List AluFunc
  code : List (Nat × List Byte)
  loaded : List (Nat × List Byte)
  deriving DecidableEq, Repr

/-- The STREAMS entries; none where one breaks R263. -/
def streamDecls (z : Zof) (b : List Byte) : Option (List StreamDecl) :=
  let one (o : Nat) : Option StreamDecl :=
    let num := leAt b (o + 4) 1
    let dir := leAt b (o + 5) 1
    let peer := leAt b (o + 6) 1
    let slots := leAt b (o + 7) 1
    let size := leAt b (o + 8) 4
    if num < 16 && dir < 2 && peer < 2 && 1 ≤ slots && slots ≤ 64 && size % 1024 == 0 && 1024 ≤ size && size ≤ 65536
        && leAt b (o + 12) 4 == 0 then
      some ⟨z.name (leAt b o 4), Fin.ofNat 16 num, dir == 0, peer == 0, size, slots⟩
    else none
  let l := (List.range (b.length / 16)).map fun i => one (16 * i)
  if b.length % 16 != 0 || l.any (·.isNone) then none
  else
    let ds := l.filterMap id
    if (ds.map fun d => (d.n, d.send)).Nodup then some ds else none

/-- Whether a symbol table keeps R261 in a file of n sections: whole entries, a null entry 0, and in every other a
kind, a binding, a section of the file (0 for kinds 0 and 5). -/
def symsOk (n : Nat) (b : List Byte) : Bool :=
  b.length % 24 == 0 && (b.take 24).all (· == 0) && (List.range (b.length / 24)).all fun i =>
    let o := 24 * i
    let k := leAt b (o + 4) 1
    let sect := leAt b (o + 6) 2
    k ≤ 5 && leAt b (o + 5) 1 ≤ 1 && (if k == 0 || k == 5 then sect == 0 else sect < n)

/-- Whether every symbol's VALUE and SIZE lie within its section (R261). -/
def symFits (z : Zof) (b : List Byte) : Bool := (List.range (b.length / 24)).all fun i =>
  let o := 24 * i
  let k := leAt b (o + 4) 1
  k == 0 || k == 5 || match z.sects[leAt b (o + 6) 2]? with
    | none => false
    | some x => leAt b (o + 8) 8 + leAt b (o + 16) 8 ≤ x.size

/-- The FUNCS entries; none where one breaks R264 or names no function symbol (R261). -/
def funcsOf (z : Zof) (f sym : List Byte) : Option (List Func) :=
  let one (o : Nat) : Option Func :=
    let s := 24 * leAt f o 4
    let sect := (z.sects[leAt sym (s + 6) 2]?)
    match sect with
    | none => none
    | some x =>
      if s == 0 || sym.length < s + 24 || leAt sym (s + 4) 1 != 3 || 1 < leAt f (o + 10) 1 || leAt f (o + 13) 1 != 0
      then none
      else some {
        sym := leAt f o 4, name := z.name (leAt sym s 4), start := x.word + leAt sym (s + 8) 8
        ns := leAt f (o + 4) 1, nv := leAt f (o + 5) 1, np := leAt f (o + 6) 2
        bases := leAt f (o + 11) 1, basev := leAt f (o + 12) 1, basep := leAt f (o + 14) 2
        cls := leAt f (o + 8) 2, entry := leAt f (o + 10) 1 == 1 }
  let l := (List.range (f.length / 16)).map fun i => one (16 * i)
  if f.length % 16 != 0 || l.any (·.isNone) then none else some (l.filterMap id)

/-- The JUMPS entries from an offset on, as code offsets; none where the section ends within one (R264). -/
def jumpsFrom (b : List Byte) : Nat → Nat → Option (List (Nat × List Nat))
  | 0, _ => none
  | fuel + 1, o =>
    if o == b.length then some []
    else
      let n := leAt b (o + 8) 4
      if b.length < o + 16 + 8 * n || leAt b (o + 12) 4 != 0 || n == 0 || 4096 < n then none
      else match jumpsFrom b fuel (o + 16 + 8 * n) with
        | none => none
        | some t => some ((leAt b o 8, (List.range n).map fun i => leAt b (o + 16 + 8 * i) 8) :: t)

/-- One section of a kind, if the file has exactly one. -/
def Zof.single (z : Zof) (k : Nat) : Option (List Byte) := match z.ofKind k with
  | [x] => some (z.data x)
  | _ => none

/-- The contents of the sections of a kind, one after another. -/
def Zof.joined (z : Zof) (k : Nat) : List Byte := (z.ofKind k).flatMap z.data

/-- The KERNEL section keeps R264, the limits of R255, and R239's unit of SPILL. -/
def kernelOk (k : List Byte) : Bool :=
  0x50 ≤ k.length && leAt k 12 4 != 0 && k.length == 0x50 + 8 * leAt k 12 4
    && leAt k 4 1 ≤ 7 && 1 ≤ leAt k 5 1 && leAt k 5 1 ≤ 16 && leAt k 6 1 ≤ leAt k 7 1 && leAt k 7 1 ≤ 11
    && leAt k 8 1 ≤ 46 && leAt k 9 1 ≤ 28 && leAt k 10 2 % 8 == 0 && (List.range 64).all fun i => leAt k (16 + i) 1 ≤ 3

/-- The functions of the ALADU section of an Aladu image, each with a function symbol that has a FUNCS entry; a native
image has none (R260, R266). -/
def aladuOf (z : Zof) (fs : List Func) : Option (List AluFunc) :=
  if z.kind != 3 then some []
  else match z.single 12 with
    | none => none
    | some b => match readAladu b with
      | none => none
      | some l => if l.all fun f => fs.any fun x => x.sym == f.sym then some l else none

/-- An image read from a file; none where it is not well formed. -/
def imageOf (z : Zof) : Option Image :=
  match z.single 9, streamDecls z (z.joined 8), funcsOf z (z.joined 10) (z.joined 6),
    jumpsFrom (z.joined 11) ((z.joined 11).length + 1) 0 with
  | some k, some ss, some fs, some js => match aladuOf z fs with
   | none => none
   | some al =>
    let base := match z.ofKind 1 with
      | [] => 0
      | x :: _ => x.word
    if (z.kind == 2 || z.kind == 3) && kernelOk k && fs.any (·.entry) && symsOk z.sects.length (z.joined 6)
        && symFits z (z.joined 6) then
      some {
        kind := z.kind, rev := z.rev, req := z.req, opt := z.opt
        kid := leAt k 0 4, rating := leAt k 4 1, crews := leAt k 5 1, stageLo := leAt k 6 1, stageHi := leAt k 7 1
        regs := leAt k 8 1, vregs := leAt k 9 1, spill := leAt k 10 2
        phases := (List.range (leAt k 12 4)).map fun i => (leAt k (0x50 + 8 * i) 4, leAt k (0x54 + 8 * i) 4)
        modes := (List.range 64).filterMap fun i =>
          if leAt k (16 + i) 1 == 0 then none else some (i, Fin.ofNat 4 (leAt k (16 + i) 1))
        streams := ss
        funcs := fs
        jumps := js.map fun j => (base + j.1, j.2.map (base + ·))
        blocks := al
        code := (z.ofKind 1).map fun x => (x.word, z.data x)
        loaded := (z.sects.filter fun x => x.flags % 2 == 1).map fun x => (x.word, z.data x) }
    else none
  | _, _, _, _ => none

/-- An image from its bytes. `trans`: it is a translation. -/
def readImage (trans : Bool) (b : List Byte) : Option Image := match readZof trans b with
  | none => none
  | some z => imageOf z

/-- What every image of a fat container must share (R265). -/
def Image.shared (m : Image) : Nat × Nat × Nat × Nat × List (Nat × Nat) × List StreamDecl :=
  (m.kid, m.crews, m.stageLo, m.stageHi, m.phases, m.streams)

/-- The names of an image's entries. -/
def Image.entryNames (m : Image) : List (List Byte) := (m.funcs.filter (·.entry)).map Func.name

/-- Whether two images may stand in one container (R265). -/
def Image.agrees (m n : Image) : Bool :=
  m.shared == n.shared && m.entryNames.all n.entryNames.contains && n.entryNames.all m.entryNames.contains

/-- The images of a container, with their bytes, in container order; none where it is not well formed (R265). -/
def readContainer (b : List Byte) : Option (List (Image × List Byte)) :=
  match readZof false b with
  | none => none
  | some z =>
    if z.kind == 4 then
      let bs := (z.ofKind 14).map z.data
      let ms := bs.map (readImage false)
      if z.rev != 0 || z.req != 0 || z.opt != 0 || bs.isEmpty || 16 < bs.length || ms.any (·.isNone) then none
      else
        let l := ms.filterMap id
        if 1 < (l.filter fun m => m.kind == 3).length || l.any (fun m => l.any fun n => !m.agrees n) then none
        else some (l.zip bs)
    else match imageOf z with
      | none => none
      | some m => some [(m, b)]

/-! The choice of an image (R244). -/

/-- Whether a native image matches. -/
def Image.matches (m : Image) (arch p : Nat) : Bool := m.kind == 2 && m.rev ≤ arch && m.req &&& p == m.req

/-- Whether an image's optional set holds a feature that the device has and the partition masks. -/
def Image.optMasked (m : Image) (p dev : Nat) : Bool := m.opt &&& dev &&& (0xFFFF - p) != 0

/-- The best of some images by the tie breaks, the earlier on a tie. -/
def bestImage (p dev : Nat) : List (Image × List Byte) → Option (Image × List Byte)
  | [] => none
  | x :: t => match bestImage p dev t with
    | none => some x
    | some y =>
      let a := x.1.optMasked p dev
      let b := y.1.optMasked p dev
      if (a && !b) || (a == b && x.1.rev < y.1.rev) then some y else some x

/-- The image that the loader chooses, by the three steps of R244. -/
def chooseImage (arch p dev : Nat) (l : List (Image × List Byte)) : Option (Image × List Byte) :=
  match bestImage p dev (l.filter fun x => x.1.matches arch p && x.1.rev == arch && x.1.req == p) with
  | some x => some x
  | none => match bestImage p dev (l.filter fun x => x.1.matches arch p) with
    | some x => some x
    | none => l.find? fun x => x.1.kind == 3

/-! Translation (R245). -/

/-- The key of a translation. -/
def transKey (img : List Byte) (feat mcrev numv : Word) : List Byte :=
  Config.sha384 (img ++ bytesOf 4 Config.aladuVersion.toNat ++ bytesOf 8 feat.toNat ++ bytesOf 8 mcrev.toNat
    ++ bytesOf 8 numv.toNat)

/-- The native image of an Aladu image, from the cache or made anew, and the cache after it (log 9, DESIGN CHOICE). -/
def translateImage (cache : List CacheEnt) (img : List Byte) (feat mcrev numv : Word) : List Byte × List CacheEnt :=
  let key := transKey img feat mcrev numv
  match cache.find? fun e => e.key == key with
  | some e => (e.image, cache)
  | none =>
    let x := Config.aladu img feat mcrev numv
    (x, if x.isEmpty then cache else cache ++ [⟨key, mcrev, numv, x⟩])

/-- The native image of an Aladu image m, as the record takes it: the code of the translation n, which serves the
entries, stages, phases and streams of m, with the rating, the matrix modes and the attributes of m, the chosen image
(R239, R245, R265); none: n is no translation of m. -/
def Image.translated (m n : Image) : Option Image :=
  if n.kind == 2 && m.agrees n then
    some { n with rating := m.rating, modes := m.modes, rev := m.rev, req := m.req, opt := m.opt }
  else none

/-- The kernel record of an image (R239). -/
def Image.kernel (m : Image) (kid : BitVec 32) (container : List Byte) : Kernel where
  kid := kid
  st := .verified
  container := container
  rating := Fin.ofNat 8 m.rating
  regs := m.regs
  vregs := m.vregs
  spill := m.spill
  modes := m.modes
  crews := m.crews
  stageLo := m.stageLo
  stageHi := m.stageHi
  phases := m.phases
  streams := m.streams
  entries := (m.funcs.filter (·.entry)).map Func.start
  rev := m.rev
  req := m.req
  opt := m.opt
  secs := m.loaded
  vector := 0

end Sys2Proof.Machine
end

