-- ==== Sys2Proof/Machine/Verify.lean ====
section
/-! DEFINITION. The verifier (spec/13 R240 to R243, spec/03 R46 and R47, spec/12 R226): the bundles reached from the
entries, the seven steps, and the flows of a segment's counts and of energy. -/

namespace Sys2Proof.Machine

/-! Bundles of an image. -/

/-- A bundle of the image: its address, the next address, and its syllables. -/
structure VBun where
  a : Nat
  nb : Nat
  syls : List Slotted
  deriving DecidableEq, Repr

/-- The code word at an address. -/
def Image.wordAt (m : Image) (a : Nat) : Option Nat :=
  (m.code.find? fun s => s.1 ≤ a && a + 8 ≤ s.1 + s.2.length).map fun s => leAt s.2 (a - s.1) 8

/-- The words from an address to the first STOP, at most n. -/
def Image.wordsAt (m : Image) (a : Nat) : Nat → Option (List Nat)
  | 0 => none
  | n + 1 => match m.wordAt a with
    | none => none
    | some w =>
      if bits w 63 63 == 1 then some [w]
      else match m.wordsAt (a + 8) n with
        | none => none
        | some l => some (w :: l)

/-- The bundle at an address, guards ignored; none where R63 fails. -/
def Image.bundle (m : Image) (feat : Word) (a : Nat) : Option VBun :=
  if a % 8 != 0 then none
  else match m.wordsAt a 13 with
    | none => none
    | some ws => match decodeAll feat 0 ws with
      | .error _ => none
      | .ok l => some ⟨a, a + 8 * l.length, l⟩

/-- The B syllable of a bundle. -/
def VBun.branch (x : VBun) : Option Slotted := x.syls.find? fun y => classOf y.enc.opc == .b

/-- Whether a guard is always true. -/
def Slotted.always (x : Slotted) : Bool := x.frame.gpred.val == 0 && !x.frame.ginv
/-- Whether a guard is never true. -/
def Slotted.never (x : Slotted) : Bool := x.frame.gpred.val == 0 && x.frame.ginv

/-- A target relative to a bundle (R54). -/
def VBun.rel (x : VBun) (off : Int) : Nat := (((x.a : Int) + 8 * off) % 2 ^ 56).toNat

/-! Edges (R240, R47). -/

/-- A way from a bundle to another. -/
inductive Edge where
  /-- To a target. -/
  | to (t : Nat)
  /-- Past the bundle: levels that end there are left. -/
  | past (t : Nat)
  /-- Into the body of a level that ends at e. -/
  | body (t lvl e : Nat)
  /-- To the bundle after a suspension point. -/
  | fresh (t : Nat)
  | call (t nb : Nat)
  | ret
  /-- Through n issues of the bundle at t. -/
  | rep (t n : Nat)
  /-- Through any number of issues of the bundle at t. -/
  | repAny (t : Nat)
  deriving DecidableEq, Repr

/-- The members of a signature class. -/
def Image.members (m : Image) (cls : Nat) : List Func := m.funcs.filter fun f => f.cls == cls && cls != 0

/-- The address after the bundle at an address. -/
def Image.after (m : Image) (a : Nat) : Nat := match m.wordsAt a 13 with
  | none => a
  | some l => a + 8 * l.length

/-- The edges of a B syllable that executes, and whether control may also go past the bundle. -/
def branchEdges (m : Image) (x : VBun) (i : Instr) : List Edge × Bool :=
  match i with
  | .bBr off => ([.to (x.rel off.toInt)], false)
  | .bCall off => ([.call (x.rel off.toInt) x.nb], false)
  | .bRet _ => ([.ret], false)
  | .bJmpi _ => (match m.jumps.find? fun j => j.1 == x.a with
      | none => ([], false)
      | some j => (j.2.map .to, false))
  | .bCalli _ cls => ((m.members cls.toNat).map fun f => .call f.start x.nb, false)
  | .bLoop lvl _ off | .bPloop lvl _ _ off =>
    let e := x.rel off.toInt
    ([.body x.nb lvl.val e, .to (m.after e)], false)
  | .bRep none n _ _ => ([.rep x.nb n.toNat], false)
  | .bRep (some _) _ _ _ => ([.repAny x.nb], false)
  | .zw1Dbnz _ off => ([.to (x.rel off.toInt)], true)
  | .bRvz .. | .bYield .. | .bWaitTime .. | .bWaitMbox .. | .bWaitCrewq .. | .bWaitRecv .. | .bMwait .. | .bPhase .. =>
    ([.fresh x.nb], false)
  | .bEnd | .bTrap _ => ([], false)
  | _ => ([], true)

/-- The loops of the reached bundles: the end bundle and the first bundle of the body (R108). -/
def loopsOf (l : List VBun) : List (Nat × Nat) := l.filterMap fun x => match x.branch with
  | none => none
  | some b => match b.instr with
    | .bLoop _ _ off | .bPloop _ _ _ off => some (x.rel off.toInt, x.nb)
    | _ => none

/-- The edges of a bundle: those of its B syllable, and where control may go past it also the loops back of its end
test (R109). -/
def edgesOf (m : Image) (loops : List (Nat × Nat)) (x : VBun) : List Edge :=
  let onward : List Edge := .past x.nb :: (loops.filter fun p => p.1 == x.a).map fun p => .to p.2
  match x.branch with
  | none => onward
  | some b =>
    let r := branchEdges m x b.instr
    (if b.never then [] else r.1) ++ if r.2 || !b.always then onward else []

/-- The bundles that an edge reaches. -/
def Edge.targets (m : Image) : Edge → List Nat
  | .to t | .past t | .body t _ _ | .fresh t => [t]
  | .call t nb => [t, nb]
  | .ret => []
  | .rep t n => if n == 0 then [m.after t] else [t, m.after t]
  | .repAny t => [t, m.after t]

/-- The reached addresses with their bundles, in at most `fuel` rounds from those reached so far (R240). -/
def reachFrom (m : Image) (feat : Word) : Nat → List (Nat × Option VBun) → List (Nat × Option VBun)
  | 0, seen => seen
  | fuel + 1, seen =>
    let next := (seen.flatMap fun p => match p.2 with
      | none => []
      | some x => (edgesOf m [] x).flatMap (Edge.targets m)).eraseDups.filter fun a => !seen.any fun p => p.1 == a
    if next.isEmpty then seen else reachFrom m feat fuel (seen ++ next.map fun a => (a, m.bundle feat a))

/-- Every address reached from the entries (log 57, DEDUCED). -/
def reached (m : Image) (feat : Word) : List (Nat × Option VBun) :=
  let es := (((m.funcs.filter (·.entry)).map Func.start).eraseDups).map fun a => (a, m.bundle feat a)
  reachFrom m feat ((m.code.map fun s => s.2.length).foldl (· + ·) 0 + 2) es

/-! Steps 2 to 5 of R240: each gives the addresses that fail it. -/

/-- The weights of a bundle's syllables. -/
def ownWeight (l : List Slotted) : Nat := (l.map fun x => weightOf x.enc.opc x.enc.md).foldl (· + ·) 0

/-- Whether the image runs in SOLO modes: every one of the 64 pairs is declared SOLO, a pair that is not declared
counting as ALT1 (R41, R46, R137; log 57, DEDUCED). -/
def Image.solo (m : Image) : Bool := m.modes.length == 64 && m.modes.all fun p => 2 ≤ p.2.val

/-- The factor on allowances and limit (R41, R46). -/
def Image.factor (m : Image) : Nat := if m.solo then 2 else 1

/-- Step 2, the charge of R28's WEIGHT apart. -/
def decodeBad (x : VBun) : Bool :=
  overfull x.syls || rawBad x.syls || wawBad x.syls || x.syls.any (dupBad x.syls)

/-- Whether a register number lies outside the allotment (R241). -/
def numBad (m : Image) (n : Nat) : Bool :=
  (10 ≤ n && n < 56 && 9 + m.regs < n) || (64 ≤ n && n < 92 && 64 + m.vregs ≤ n)

/-- Whether a B.REP steps a checked field out of the allotment at some iteration (R111, R240 step 3). -/
def repBad (m : Image) (feat : Word) (x : VBun) : Bool :=
  match x.branch with
  | none => false
  | some b =>
    let check (last : Nat) (stride : BitVec 3) (fmask : BitVec 4) : Bool := match m.bundle feat x.nb with
      | none => false
      | some t => match stepWords (some (m.kernel 0 [])) (fun _ => true) (last * stride.toNat) fmask (t.syls.map Slotted.word) with
        | .error _ => true
        | .ok _ => false
    match b.instr with
    | .bRep none n stride fmask => !b.never && check (n.toNat - 1) stride fmask
    | .bRep (some _) _ stride fmask => !b.never && check 65534 stride fmask
    | _ => false

/-- Step 3. -/
def allotBad (m : Image) (feat : Word) (x : VBun) : Bool :=
  x.syls.any (fun y => (readNums y ++ writeNums y).any (numBad m)) || repBad m feat x

/-- The function that holds an address: the last that starts at or before it. -/
def Image.funcAt (m : Image) (a : Nat) : Nat := (m.funcs.filter fun f => f.start ≤ a).foldl (fun b f => max b f.start) 0

/-- The calls of the reached bundles: caller function, callee function, and the call's bundle. -/
def callsOf (m : Image) (l : List VBun) : List (Nat × Nat × Nat) :=
  l.flatMap fun x => (edgesOf m [] x).filterMap fun e => match e with
    | .call t _ => some (m.funcAt x.a, m.funcAt t, x.a)
    | _ => none

/-- The calls that remain when those from functions that are never called, and those into functions that call nothing,
are dropped again and again: some remain just when the call graph has a cycle. -/
def cyclic : Nat → List (Nat × Nat × Nat) → List (Nat × Nat × Nat)
  | 0, l => l
  | fuel + 1, l => cyclic fuel (l.filter fun e => l.any (fun f => f.2.1 == e.1) && l.any fun f => f.1 == e.2.1)

/-- Whether the spill fits: the kernel's is at most 4,096 bytes, and every function's slots lie within it (R242). -/
def Image.spillFits (m : Image) : Bool := m.spill ≤ 4096 && m.funcs.all fun f => f.np == 0 || f.basep + f.np ≤ m.spill

/-- Step 4. -/
def callsBad (m : Image) (l : List VBun) : List Nat :=
  let cs := callsOf m l
  (cyclic (cs.length + 1) cs).map (·.2.2)
  ++ (l.filter fun x => match x.branch with
      | none => false
      | some b => match b.instr with
        | .bCalli _ cls => (m.members cls.toNat).isEmpty
        | .bJmpi _ => !m.jumps.any fun j => j.1 == x.a
        | _ => false).map VBun.a
  ++ (m.funcs.filter fun f => f.cls != 0 && !match m.wordAt f.start with
      | none => false
      | some w => entersClass w (BitVec.ofNat 16 f.cls)).map Func.start
  ++ if m.spillFits then [] else [0]

/-- Step 5: a tile above 3 is held only under a SOLO mode (R140). -/
def portsBad (m : Image) (x : VBun) : Bool :=
  bankBad x.syls || portDirBad x.syls || portTwiceBad x.syls
    || x.syls.any fun y => (tileNums y).any (fun n => 124 ≤ n) && !m.modes.any fun p => 2 ≤ p.2.val

/-! A flow: a state for each node, joined over its predecessors until no state rises (R47). -/

/-- A node: the calls not yet returned from, the bundle, and whether it is the repeated target of a B.REP.r. -/
structure Node where
  stack : List Nat
  a : Nat
  again : Bool
  deriving DecidableEq, Repr

/-- What a flow computes. -/
structure Flow (σ : Type) where
  /-- The state at an entry and after a suspension point. -/
  init : σ
  /-- One issue of a bundle: the state after it, and whether it fails. -/
  run : VBun → σ → σ × Bool
  /-- The state as control goes past a bundle. -/
  past : Nat → σ → σ
  /-- The state in the body of a level. -/
  body : Nat → Nat → σ → σ
  join : σ → σ → σ
  /-- Whether the calls not yet returned from are told apart. -/
  byCall : Bool

/-- n issues of a bundle. -/
def runTimes {σ : Type} (f : Flow σ) (x : VBun) : Nat → σ → σ × Bool
  | 0, st => (st, false)
  | n + 1, st =>
    let r := f.run x st
    let q := runTimes f x n r.1
    (q.1, r.2 || q.2)

/-- Where the edges of a node lead with the state after it, and the bundles that fail on the way. -/
def flowEdges {σ : Type} (f : Flow σ) (m : Image) (bs : List VBun) (rets : Nat → List Nat) (n : Node) (st : σ) :
    List Edge → List (Node × σ) × List Nat
  | [] => ([], [])
  | e :: t =>
    let r := flowEdges f m bs rets n st t
    let go (a : Nat) (s : σ) : Node × σ := (⟨n.stack, a, false⟩, s)
    match e with
    | .to a => (go a st :: r.1, r.2)
    | .past a => (go a (f.past n.a st) :: r.1, r.2)
    | .body a l e => (go a (f.body l e st) :: r.1, r.2)
    | .fresh a => (go a f.init :: r.1, r.2)
    | .call a nb => ((⟨if f.byCall then nb :: n.stack else [], a, false⟩, st) :: r.1, r.2)
    | .ret =>
      if f.byCall then
        match n.stack with
        | [] => r
        | a :: s => ((⟨s, a, false⟩, st) :: r.1, r.2)
      else ((rets n.a).map (fun a => go a st) ++ r.1, r.2)
    | .rep a k => match bs.find? fun x => x.a == a with
      | none => if k == 0 then (go (m.after a) st :: r.1, r.2) else r
      | some x =>
        let q := runTimes f x k st
        (go x.nb q.1 :: r.1, if q.2 then a :: r.2 else r.2)
    | .repAny a => ((⟨n.stack, a, true⟩, st) :: go (m.after a) st :: r.1, r.2)

/-- States joined into the table; the nodes whose state has risen. -/
def flowMerge {σ : Type} [DecidableEq σ] (f : Flow σ) :
    List (Node × σ) → List (Node × σ) → List Node → List (Node × σ) × List Node
  | [], tab, work => (tab, work)
  | (n, st) :: t, tab, work =>
    match tab.find? fun p => p.1 == n with
    | none => flowMerge f t (tab ++ [(n, st)]) (work ++ [n])
    | some old =>
      let new := f.join old.2 st
      if new = old.2 then flowMerge f t tab work
      else flowMerge f t (tab.map fun p => if p.1 == n then (n, new) else p)
        (if work.contains n then work else work ++ [n])

/-- The bundles that fail a flow. -/
def flowFails {σ : Type} [DecidableEq σ] (f : Flow σ) (m : Image) (bs : List VBun) (edges : VBun → List Edge)
    (rets : Nat → List Nat) : Nat → List (Node × σ) → List Node → List Nat
  | 0, _, _ => []
  | _ + 1, _, [] => []
  | fuel + 1, tab, n :: work =>
    match tab.find? (fun p => p.1 == n), bs.find? (fun x => x.a == n.a) with
    | some (_, st), some x =>
      let r := f.run x st
      let es := if n.again then [.repAny n.a] else edges x
      let q := flowEdges f m bs rets n r.1 es
      let g := flowMerge f q.1 tab work
      (if r.2 then [n.a] else []) ++ q.2 ++ flowFails f m bs edges rets fuel g.1 g.2
    | _, _ => flowFails f m bs edges rets fuel tab work

/-- A bound on the moves of a flow; every flow ends before it. -/
def flowFuel : Nat := 2 ^ 64

/-- The bundles that fail a flow from the entries. -/
def flowRun {σ : Type} [DecidableEq σ] (f : Flow σ) (m : Image) (bs : List VBun) : List Nat :=
  let loops := loopsOf bs
  let rets (a : Nat) : List Nat := bs.flatMap fun x => (edgesOf m [] x).filterMap fun e => match e with
    | .call t nb => if m.funcAt t == m.funcAt a then some nb else none
    | _ => none
  let ns := (((m.funcs.filter (·.entry)).map Func.start).eraseDups).map fun a => (⟨[], a, false⟩ : Node)
  flowFails f m bs (edgesOf m loops) rets flowFuel (ns.map fun n => (n, f.init)) ns

/-! Constants of the code. -/

/-- The constants that scalar registers hold at a point, and the registers that a result of longer latency may still
change. -/
structure Consts where
  known : List (Nat × Nat)
  loose : List Nat
  deriving DecidableEq, Repr

/-- The known value of a scalar register. -/
def Consts.val (c : Consts) (r : SReg) : Option Nat :=
  if r.val == 0 then some 0
  else if c.loose.contains r.val then none
  else (c.known.find? fun p => p.1 == r.val).map Prod.snd

/-- The constant that a syllable leaves in a scalar register: S.MOVI, S.MOVHI, S.ORI, S.ADDI, S.MOV. -/
def constOf (c : Consts) (x : Slotted) : Option (Nat × Nat) :=
  if !x.always then none
  else match x.instr with
    | .sMovi d imm => some (d.val, (wordI imm.toInt).toNat)
    | .sMovhi d a imm => (c.val a).map fun v => (d.val, (wordI (sextN (imm.toNat * 2 ^ 30 + v % 2 ^ 30) 60)).toNat)
    | .sOri d a imm => (c.val a).map fun v => (d.val, (BitVec.ofNat 64 v ||| imm.signExtend 64).toNat)
    | .sAddi d a imm => (c.val a).map fun v => (d.val, (BitVec.ofNat 64 v + imm.signExtend 64).toNat)
    | .sMov d a => (c.val a).map fun v => (d.val, v)
    | _ => none

/-- Whether a syllable's results are scalar results of latency 1 (R31). -/
def promptScalar (x : Slotted) : Bool :=
  x.enc.opc < 0x40 && !(0x21 ≤ x.enc.opc && x.enc.opc ≤ 0x24)

/-- The constants after a bundle. -/
def Consts.next (c : Consts) (l : List Slotted) : Consts :=
  let wr := (l.flatMap writeNums).filter (· < 64)
  let late := ((l.filter fun x => !promptScalar x).flatMap writeNums).filter (· < 64)
  ⟨l.filterMap (constOf c) ++ c.known.filter (fun p => !wr.contains p.1), (c.loose ++ late).eraseDups⟩

/-- What is known on either of two ways. -/
def Consts.join (a b : Consts) : Consts :=
  ⟨a.known.filter b.known.contains, a.loose ++ b.loose.filter fun r => !a.loose.contains r⟩

/-- Nothing known. -/
def Consts.none : Consts := ⟨[], []⟩

/-! Step 6: the counts of a segment (R226, R279, R328, R359), F.GEO (R176), ordering accesses (R216), suspension
points in loops (R110), what a held command uses (R152, R208), stamped lines (R344). -/

/-- The line of an M.STS that a segment withholds: its address register and displacement while the register stands, its
address where that is known, and the registers that hold its stamp or that of a later sample. -/
structure StampedAt where
  reg : Option Nat
  imm : BitVec 16
  addr : Option Nat
  late : List Nat
  deriving DecidableEq, Repr

/-- What a path has done since its last commit. -/
structure SegFlow where
  /-- Lines, bytes, commands, sends, pushes, spawns, stream entries and decode entries. -/
  counts : List Nat
  /-- F.GEO records not yet popped. -/
  geo : Nat
  /-- Bundles until the first result of an ordering access is due. -/
  due : Option Nat
  /-- Levels that may be active, with their ends. -/
  loops : List (Nat × Nat)
  /-- Tiles that a command held by the segment may use. -/
  tiles : List Nat
  /-- Each M.STS withheld by the segment. -/
  stamped : List StampedAt
  known : Consts
  /-- The values of CG12 to CG15 that are known. -/
  cgs : List (Nat × Nat)
  /-- Scratchpad bytes that copies held by the segment declare, where they are known. -/
  foots : List Foot
  deriving DecidableEq, Repr

/-- The limits, in the order of `counts`. -/
def segLimits : List Nat := [512, 0x4000, 64, 16, 16, 16, 16, 8]

/-- Bytes and lines that a store may count, by opcode and MOD (R226). -/
def storeCounts (opc md : Nat) : Nat × Nat :=
  let w := 2 ^ (bits md 4 2 / 2)
  match opc with
  | 0xA5 | 0xBF => (1, (w + 7) / 8 * 8)
  | 0xA7 => (1, 16)
  | 0xA9 | 0xAC => (16, 1024)
  | 0xAA => (17, 1024)
  | 0xAF => (256, 0)
  | 0xC1 => (1, 64)
  | 0xB1 | 0xB2 | 0xB3 | 0xB4 | 0xB5 | 0xB6 | 0xB7 | 0xB8 | 0xB9 | 0xBB => (0, 8)
  | _ => (0, 0)

/-- What one syllable adds to the counts. -/
def sylCounts (x : Slotted) : List Nat :=
  let opc := x.enc.opc
  let s := storeCounts opc x.enc.md
  let w := writeNums x
  let ports := countIf (fun n => n == 63 || n == 95) w
  let one (b : Bool) : Nat := if b then 1 else 0
  [s.1, s.2,
    one ((0xD0 ≤ opc && opc ≤ 0xDB && opc != 0xDA) || opc == 0xC9 || opc == 0xE4 || opc == 0xE5 || opc == 0xE6),
    ports + one (opc == 0xDD || opc == 0xDE || opc == 0xE1), countIf isCrewNum w, one (opc == 0x50),
    ports + one (opc == 0xDD || opc == 0xDE || opc == 0xDF),
    one (match x.instr with
      | .dJpeg .. | .dG4 .. | .dRaw .. | .dRingSet .. => true
      | _ => false)]

/-- The latency of an ordering access that returns a value (R184, R193, R216). -/
def orderLatency : Instr → Option Nat
  | .mLdaq cls .. => some (match cls with
      | .sp => 4
      | .vt => 32
      | .dm => 110)
  | .mAadd .. | .mAmin .. | .mAmax .. | .mAand .. | .mAor .. | .mAxor .. | .mSwap .. | .mCas .. => some 120
  | _ => none

/-- The lesser of two distances. -/
def minDue : Option Nat → Option Nat → Option Nat
  | none, y => y
  | x, none => x
  | some x, some y => some (min x y)

/-- Whether a bundle commits whatever its guards (R225, R292, R345). -/
def VBun.commits (x : VBun) : Bool := x.syls.any fun y => y.always && (match y.instr with
  | .bCkpt | .bCbar _ | .mFenceStamp => true
  | _ => false)

/-- Whether a bundle may suspend (R19). -/
def VBun.suspends (x : VBun) : Bool := x.syls.any fun y => !y.never && (match y.instr with
  | .bRvz .. | .bYield .. | .bWaitTime .. | .bWaitMbox .. | .bWaitCrewq .. | .bWaitRecv .. | .bMwait .. | .bPhase ..
  | .bEnd => true
  | _ => false)

/-- No count. -/
def SegFlow.zero : SegFlow := ⟨List.replicate 8 0, 0, none, [], [], [], .none, [], []⟩

/-- Whether a syllable would wait on a command that its own segment holds, whatever the addresses: a matrix command or
an accumulator access on a tile that a held command may use, and an X.MODE behind any (R152, R208). -/
def SegFlow.waitsHeld (st : SegFlow) (x : Slotted) : Bool :=
  let opc := x.enc.opc
  !x.never && (((0xC4 ≤ opc && opc ≤ 0xC8) || opc == 0x80 || opc == 0x81) && (tileNums x).any st.tiles.contains
    || opc == 0xCA && !st.tiles.isEmpty)

/-- The tiles that X.ASAVE, D.PP and D.PPCMP hold (R152). -/
def heldTiles (x : Slotted) : List Nat :=
  if !x.never && (x.enc.opc == 0xC9 || x.enc.opc == 0xE4 || x.enc.opc == 0xE5) then tileNums x else []

/-- The address of an access, where the code fixes it. -/
def Consts.addr (c : Consts) (a : SReg) (imm : BitVec 16) : Option Nat :=
  (c.val a).map fun v => effAddr (BitVec.ofNat 64 v) imm

/-- Whether an M.LDAS surely reads a line for which the segment holds an M.STS, at a stamp that is surely not below the
store's (R344; log 57, DEDUCED). -/
def SegFlow.stampHeld (st : SegFlow) (x : Slotted) : Bool := match x.instr with
  | .mLdas _ _ _ a b imm => !x.never && st.stamped.any fun e =>
      ((e.reg == some a.val && e.imm == imm) || (e.addr.isSome && e.addr.map (· / 64) == (st.known.addr a imm).map (· / 64)))
        && (e.late.contains b.val || st.known.val b == some (2 ^ 64 - 1))
  | _ => false

/-- The line that an M.STS withholds. -/
def SegFlow.stampedLine (st : SegFlow) (x : Slotted) : Option StampedAt := match x.instr with
  | .mSts _ d a _ imm => if x.never then none else some ⟨some a.val, imm, st.known.addr a imm, [d.val]⟩
  | _ => none

/-- The registers that a syllable gives a sample of the clock's latest bound. -/
def laterSample (x : Slotted) : List Nat := match x.instr with
  | .mSts _ d .. => if x.always then [d.val] else []
  | .sClk _ d => if x.always then [d.val + 1] else []
  | _ => []

/-- The lines withheld after a bundle that commits nothing. -/
def SegFlow.stampedNext (st : SegFlow) (l : List Slotted) : List StampedAt :=
  let wr := l.flatMap writeNums
  let new := l.flatMap laterSample
  let old := st.stamped.map fun e => { e with late := (e.late.filter fun r => !wr.contains r) ++ new }
  let all := (old ++ l.filterMap st.stampedLine).map fun e =>
    if e.reg.any wr.contains then { e with reg := none } else e
  (all.filter fun e => e.reg.isSome || e.addr.isSome).eraseDups

/-- The bytes that a core access reads or writes at a base register and a displacement: whether it writes, the register,
the displacement, and how many. -/
def plainAccess : Instr → Option (Bool × SReg × BitVec 16 × Nat)
  | .mLd _ ty _ a imm | .mGld _ ty _ a _ imm => some (false, a, imm, ty.bytes)
  | .mSt ty a _ imm | .mGst ty a _ _ imm => some (true, a, imm, ty.bytes)
  | .mLdp _ _ a imm => some (false, a, imm, 16)
  | .mStp a _ imm => some (true, a, imm, 16)
  | .mVld _ _ a imm => some (false, a, imm, 1024)
  | .mVst a _ imm => some (true, a, imm, 1024)
  | .mZero a imm => some (true, a, imm, 64)
  | _ => none

/-- Whether a core access meets a footprint of a copy that its own segment may hold: a load a written one, a store any
(R207, R208; log 57, DEDUCED). -/
def SegFlow.meetsHeld (st : SegFlow) (x : Slotted) : Bool := match plainAccess x.instr with
  | none => false
  | some (wr, a, imm, n) => !x.never && match st.known.addr a imm with
    | none => false
    | some va => inLocal va && st.foots.any fun f => (wr || f.wr) && f.lo < va + n && va < f.lo + f.len

/-- The footprints of a copy that issues, as far as CG12 to CG15 are known (R195, R206). -/
def SegFlow.heldFoots (st : SegFlow) (x : Slotted) : List Foot :=
  if !x.never && 0xD0 ≤ x.enc.opc && x.enc.opc ≤ 0xDB && x.enc.opc != 0xDA then
    st.cgs.filterMap fun p =>
      if bits p.2 39 20 == 0 then none else some ⟨bits p.2 18 0, bits p.2 39 20, bitAt p.2 19⟩
  else []

/-- The known values of CG12 to CG15 after a bundle. -/
def SegFlow.nextCgs (st : SegFlow) (l : List Slotted) : List (Nat × Nat) :=
  let wr := l.filterMap fun x => match x.instr with
    | .sGwr (.cg n) a => if 12 ≤ n.val && !x.never then some (n.val, if x.always then st.known.val a else none) else none
    | _ => none
  (st.cgs.filter fun p => !(wr.map Prod.fst).contains p.1) ++ wr.filterMap fun p => p.2.map fun v => (p.1, v)

/-- One bundle of a segment. -/
def SegFlow.run (x : VBun) (st : SegFlow) : SegFlow × Bool :=
  let add := x.syls.map sylCounts
  let cs := (add.foldl (List.zipWith (· + ·)) st.counts).zipWith (fun n l => min n (l + 1)) segLimits
  let full := (cs.zipWith (fun n l => decide (l < n)) segLimits).any id
  let geo := min 9 (st.geo + countIf (fun y => y.enc.opc == 0x99 && !y.never) x.syls
    - countIf (fun y => y.always && (readNums y).contains 93) x.syls)
  let due := (x.syls.filterMap fun y => orderLatency y.instr).foldl (fun d k => minDue d (some (k - 1)))
    (st.due.map (· - 1))
  let bad := full || st.due == some 0 || (x.suspends && (geo != 0 || !st.loops.isEmpty))
    || x.syls.any st.waitsHeld || x.syls.any st.stampHeld || x.syls.any st.meetsHeld
  let next := { st with geo := geo, known := st.known.next x.syls, cgs := st.nextCgs x.syls }
  (if x.commits then { next with counts := List.replicate 8 0, due := none, tiles := [], stamped := [], foots := [] }
   else { next with counts := cs, due := due, tiles := (st.tiles ++ x.syls.flatMap heldTiles).eraseDups
                    stamped := st.stampedNext x.syls, foots := (st.foots ++ x.syls.flatMap st.heldFoots).eraseDups },
   bad)

/-- The flow of step 6 (log 57, DEDUCED). -/
def segFlow : Flow SegFlow where
  init := .zero
  run := SegFlow.run
  past := fun a st => { st with loops := st.loops.filter fun p => p.2 != a }
  body := fun l e st => { st with loops := (l, e) :: st.loops.filter fun p => p.1 != l }
  join := fun a b =>
    ⟨List.zipWith max a.counts b.counts, max a.geo b.geo, minDue a.due b.due,
      a.loops ++ b.loops.filter fun p => !a.loops.contains p, a.tiles ++ b.tiles.filter fun p => !a.tiles.contains p,
      a.stamped ++ b.stamped.filter (fun p => !a.stamped.contains p), a.known.join b.known,
      a.cgs.filter b.cgs.contains, a.foots ++ b.foots.filter fun p => !a.foots.contains p⟩
  byCall := true

/-! Step 7: charges and windows (R46, R47). -/

/-- The state of R47, with the constants that scalar registers and MG0 hold. -/
structure EnFlow where
  /-- Charges of the seven previous positions, latest last. -/
  hist : List Nat
  /-- The sustained weight of each bundle to come. -/
  ahead : List Nat
  known : Consts
  mg0 : Option Nat
  deriving DecidableEq, Repr

/-- MG0 after a bundle, as far as it is known (log 17, DEDUCED). -/
def EnFlow.nextMg0 (st : EnFlow) (l : List Slotted) : Option Nat :=
  match l.find? fun x => match x.instr with
    | .sGwr (.mg n) _ => n.val == 0
    | _ => false with
  | none => st.mg0
  | some x => match x.instr with
    | .sGwr _ a => if x.always then st.known.val a else none
    | _ => none

/-- The occupancy of an X.MMA: as many entries as bundles, each its weight (R39); plane counts that are not known
count as 8 (log 17, DEDUCED). -/
def occupancy (solo : Bool) (mg0 : Option Nat) : List Nat :=
  let pa := match mg0 with
    | none => 8
    | some x => x % 8 + 1
  let pb := match mg0 with
    | none => 8
    | some x => x / 16 % 8 + 1
  if solo then List.replicate (pa * pb) ((15 * pa * pb + 3) / 4)
  else List.replicate (2 * pa * pb) ((15 * pa * pb + 7) / 8)

/-- Seven zeros with no occupancy. -/
def EnFlow.zero : EnFlow := ⟨List.replicate 7 0, [], .none, none⟩

/-- Whether a charge passes the decode limit of R28 (step 2). -/
def Image.overLimit (m : Image) (c _window : Nat) : Bool := 240 * m.factor < c

/-- Whether a charge or a window passes its allowance at RATING (step 7). -/
def Image.overAllow (m : Image) (c window : Nat) : Bool :=
  (240 - 20 * m.rating) * m.factor < c || (1200 - 120 * m.rating) * m.factor < window

/-- One bundle: its charge and its window, judged by `bad`. -/
def EnFlow.run (m : Image) (bad : Nat → Nat → Bool) (x : VBun) (st : EnFlow) : EnFlow × Bool :=
  let c := ownWeight x.syls + st.ahead.headD 0
  let more := x.syls.flatMap fun y => if y.enc.opc == 0xC4 || y.enc.opc == 0xC5 then occupancy m.solo st.mg0 else []
  (⟨st.hist.drop 1 ++ [c], st.ahead.drop 1 ++ more, st.known.next x.syls, st.nextMg0 x.syls⟩,
    bad c (st.hist.foldl (· + ·) 0 + c))

/-- The longer of two lists with the greater entry of each place: so the remaining occupancies of several predecessors
join, sustained weight by sustained weight, bundle by bundle, where R47 says that the latest is taken (log 17, DEDUCED).
-/
def maxZip : List Nat → List Nat → List Nat
  | [], l => l
  | l, [] => l
  | x :: s, y :: t => max x y :: maxZip s t

/-- The flow of the charges (R47), for the WEIGHT of step 2 and for step 7. -/
def enFlow (m : Image) (bad : Nat → Nat → Bool) : Flow EnFlow where
  init := .zero
  run := EnFlow.run m bad
  past := fun _ st => st
  body := fun _ _ st => st
  join := fun a b =>
    ⟨List.zipWith max a.hist b.hist, maxZip a.ahead b.ahead, a.known.join b.known, if a.mg0 == b.mg0 then a.mg0 else none⟩
  byCall := false

/-! R240. -/

/-- The least of some addresses. -/
def lowest : List Nat → Option Nat
  | [] => none
  | a :: t => match lowest t with
    | none => some a
    | some b => some (min a b)

/-- The first step that fails, with the lowest bundle that fails it (R240). -/
def firstFail : List (String × List Nat) → Option (String × Nat)
  | [] => none
  | (st, l) :: t => match lowest l with
    | none => firstFail t
    | some a => some (st, a)

/-- Steps 2 to 7 for an image under FEAT; none: every step passes (log 57, DEDUCED). -/
def verifyImage (m : Image) (feat : Word) : Option (String × Nat) :=
  let seen := reached m feat
  let bs := seen.filterMap Prod.snd
  let at' (f : VBun → Bool) : List Nat := (bs.filter f).map VBun.a
  (firstFail [("DECODE", (seen.filter fun p => p.2.isNone).map Prod.fst ++ at' decodeBad
        ++ flowRun (enFlow m m.overLimit) m bs),
      ("ALLOT", at' (allotBad m feat)), ("CALLS", callsBad m bs), ("PORTS", at' (portsBad m))]).orElse fun _ =>
    firstFail [("SEGMENT", flowRun segFlow m bs), ("ENERGY", flowRun (enFlow m m.overAllow) m bs)]

end Sys2Proof.Machine
end

