-- ==== Sys2Proof/Machine/Kernel.lean ====
section
/-! DEFINITION. The states of a kernel (spec/13 R235, R239, R240, R245): the driver's requests SUBMIT, LOAD and RETIRE,
the end of a verification, and a microcode update. -/

namespace Sys2Proof.Machine

/-- A status returned to the driver, with its argument. -/
def State.status (s : State) (req st : String) (arg : Nat) : State := s.post (.status req st arg)

/-- The dies of the selected die's partition, in order; none: the die belongs to none (R297). -/
def ctxDies (s : State) : List Nat := match s.die.part with
  | none => []
  | some n => diesOf n s

/-- An operation on every die of the context, with that die selected. -/
def eachCtxDie (f : State → State) (s : State) : State := eachDie (ctxDies s) f s

/-- An effect on a partition whose context is in one of some states; else nothing happens (R298). -/
def whenState (l : List CtxState) (f : Partition → State) (s : State) : State := match partOf s with
  | none => s
  | some p => if l.contains p.state then f p else s

/-- Every state of a context but EMPTY and KILLED (R298). -/
def liveStates : List CtxState := [.loading, .ready, .running, .draining, .halted, .swapped, .restoring]

/-- The context's kernel of an id in a state (R235). -/
def Partition.kernel (p : Partition) (kid : BitVec 32) (st : KernelSt) : Option Kernel :=
  p.kernels.find? fun k => k.kid == kid && k.st == st

/-- A context without the kernel of an id. -/
def Partition.dropKernel (p : Partition) (kid : BitVec 32) : Partition :=
  { p with kernels := p.kernels.filter fun k => k.kid != kid }

/-- A context with the kernel of an id replaced. -/
def Partition.setKernel (p : Partition) (x : Kernel) : Partition :=
  { p with kernels := p.kernels.map fun k => if k.kid == x.kid then x else k }

/-- A kernel that is SUBMITTED: only its container is known (R235). -/
def submitted (kid : BitVec 32) (container : List Byte) : Kernel where
  kid := kid
  st := .submitted
  container := container
  rating := 0
  regs := 0
  vregs := 0
  spill := 0
  modes := []
  crews := 0
  stageLo := 0
  stageHi := 0
  phases := []
  streams := []
  entries := []
  rev := 0
  req := 0
  opt := 0
  secs := []
  vector := 0

/-- SUBMIT (R235; log 67, DEDUCED). -/
def execSubmit (kid : BitVec 32) (container : List Byte) (s : State) : Host.Outcome State Fault Refusal :=
  .next (whenState liveStates (fun p =>
    if p.kernels.any fun k => k.kid == kid then s.status "SUBMIT" "KIDBUSY" kid.toNat
    else s.upPart fun p => { p with kernels := p.kernels ++ [submitted kid container] }) s)

/-! The end of a verification (R240, R244, R245). -/

/-- The image that runs, and the translation cache after it: the image chosen under FEAT, of the device's features
`dev`; an Aladu image whose blocks the translator takes is translated (R245, R269); none: step 1 of R240 fails. -/
def selectImage (cache : List CacheEnt) (feat dev mcrev numv : Word) (kid : Nat) (container : List Byte) :
    Option Image × List CacheEnt :=
  match readContainer container with
  | none => (none, cache)
  | some l =>
    match chooseImage (wbits feat 23 16) (wbits feat 15 0) (wbits dev 15 0) l with
    | none => (none, cache)
    | some (m, b) =>
      if m.kid != kid then (none, cache)
      else if m.kind == 2 then (some m, cache)
      else if !aladuOk m.blocks then (none, cache)
      else
        let r := translateImage cache b feat mcrev numv
        match readImage true r.1 with
        | none => (none, r.2)
        | some n => (m.translated n, r.2)

/-- VERIFICATION_END: the kernel is VERIFIED with its record, or discarded with the status of the step that fails
(R235, R239, R240; log 67, DEDUCED). -/
def execVerificationEnd (kid : BitVec 32) (s : State) : Host.Outcome State Fault Refusal :=
  .next (match partOf s with
    | none => s
    | some p => match p.kernel kid .submitted with
      | none => s
      | some k =>
        let r := selectImage s.pkg.cache s.die.feat s.die.cfgFeat s.die.mcrev s.die.numv kid.toNat k.container
        let s1 := s.upPkg fun g => { g with cache := r.2 }
        let fails (st : String) (a : Nat) : State := (s1.upPart fun p => p.dropKernel kid).status "SUBMIT" st a
        match r.1 with
        | none => fails "IMAGE" 0
        | some m => match verifyImage m s.die.feat with
          | some (st, a) => fails st a
          | none => s1.upPart fun p => p.setKernel (m.kernel kid k.container))

/-! LOAD (R235). -/

/-- The declared matrix mode of a pair (R137). -/
def Kernel.mode (k : Kernel) (pair : Nat) : Fin 4 := match k.modes.find? fun m => m.1 == pair with
  | none => 0
  | some m => m.2

/-- Whether a kernel is RESIDENT on a die position (R235). -/
def Kernel.on (k : Kernel) (d : Nat) : Bool := k.st == .resident && k.stageLo ≤ d && d ≤ k.stageHi

/-- Whether two kernels share a die position. -/
def Kernel.meets (k x : Kernel) : Bool := k.stageLo ≤ x.stageHi && x.stageLo ≤ k.stageHi

/-- The status with which LOAD refuses a kernel, by the order of its rows; none: it is accepted. -/
def loadStatus (s : State) (p : Partition) (k : Kernel) (vector : Nat) : Option String :=
  let ds := (s.dies.filter fun d => d.part == some p.num && k.stageLo ≤ d.num && d.num ≤ k.stageHi)
  if ds.length != k.stageHi + 1 - k.stageLo then some "STAGE"
  else if vector != 0 && !k.entries.contains vector then some "VECTOR"
  else if p.kernels.any fun x => x.st == .resident && k.meets x
      && (List.range 64).any fun i => k.mode i != x.mode i then some "MATMODE"
  else if ds.any fun d => d.ncrew < k.crews then some "SHAPE"
  else none

/-- Where a virtual byte of the partition lies in the die's vault or DRAM, whatever its permissions; none: no valid leaf
maps it there. -/
def leafAddr (d : Die) (slot : Fin 16) (va : Nat) : Option Nat :=
  let root := d.ptroots[slot].toNat
  if !bitAt root 0 then none
  else match walk d va 5 4 (bits root 49 13 * 2 ^ 13) with
    | .error _ => none
    | .ok e =>
      let pa := bits e 49 11 * 2 ^ 11 + va % 2 ^ pageBits (bits e 7 5)
      match levelOf d.ncrew pa with
      | .vault | .dram => if isStamped d pa then none else some pa
      | .window | .hole => none

/-- The pieces of some bytes, page by page, each with its address. -/
def bytePieces (va : Nat) (b : List Byte) : List (Nat × List Byte) :=
  (pagePieces (b.length / 0x4000 + 2) va b.length).map fun p => (p.1, (b.drop (p.1 - va)).take p.2)

/-- Bytes written at a virtual address on the selected die, where its tables map them. -/
def placeBytes (slot : Fin 16) (va : Nat) (b : List Byte) (s : State) : State :=
  (bytePieces va b).foldl (fun t p => match leafAddr t.die slot p.1 with
    | none => t
    | some pa => writeMem pa p.2 [] t) s

/-- An image copied to the selected die (R235, R259). -/
def placeImage (slot : Fin 16) (secs : List (Nat × List Byte)) (s : State) : State :=
  secs.foldl (fun t x => placeBytes slot x.1 x.2 t) s

/-- LOAD: the kernel becomes RESIDENT, and a LOADING context READY (R235, R298; log 67, DEDUCED). -/
def execLoad (kid : BitVec 32) (vector : BitVec 64) (s : State) : Host.Outcome State Fault Refusal :=
  .next (match partOf s with
    | none => s
    | some p => match p.kernel kid .verified with
      | none => s
      | some k => match loadStatus s p k vector.toNat with
        | some st => s.status "LOAD" st kid.toNat
        | none =>
          let ds := (List.range 12).filter fun d => k.stageLo ≤ d && d ≤ k.stageHi
          let s1 := eachDie ds (placeImage p.slot k.secs) s
          s1.upPart fun p =>
            let p1 := p.setKernel { k with st := .resident, vector := vector.toNat }
            { p1 with state := if p1.state == .loading then .ready else p1.state })

/-! RETIRE (R235). -/

/-- Every live continuation of a die: those that its cores run and those that wait (R235). -/
def liveRecords (x : List Core × Die) : List Record := x.1.filterMap Core.record ++ (parkedConts x.2).map Cont.record

/-- The continuations that a saved die part holds (R309). -/
def DieShadow.records (x : DieShadow) : List Record :=
  x.cores.filterMap Core.record ++ (x.queues.toList.flatMap RunQ.all ++ x.waiters.map Waiter.cont ++ x.watches.map Watch.cont
    ++ x.crews.toList.flatMap fun w => w.rvz.toList.flatMap fun r => r.conts.map Prod.fst).map Cont.record

/-- Every live continuation of a context. -/
def contextRecords (s : State) (p : Partition) : List Record :=
  (partDies p.num s).flatMap liveRecords ++ p.shadow.flatMap DieShadow.records

/-- RETIRE (R235). -/
def execRetire (kid : BitVec 32) (s : State) : Host.Outcome State Fault Refusal :=
  .next (match partOf s with
    | none => s
    | some p => match p.kernel kid .resident with
      | none => s
      | some _ =>
        if (contextRecords s p).any fun r => r.kid == kid then s.status "RETIRE" "BUSY" kid.toNat
        else s.upPart fun p => p.dropKernel kid)

/-- MICROCODE_UPDATE: MCREV changes, and the translations made under another MCREV or NUMV are dropped (R245). -/
def execMicrocodeUpdate (mcrev : BitVec 16) (s : State) : Host.Outcome State Fault Refusal :=
  let w : Word := mcrev.setWidth 64
  .next ((s.upDie fun d => { d with mcrev := w }).upPkg fun k => { k with
    mcrev := w
    dies := k.dies.map fun d => { d with mcrev := w }
    cache := k.cache.filter fun e => e.mcrev == w && e.numv == s.die.numv })

end Sys2Proof.Machine
end

