-- ==== Sys2Proof/Machine/Link.lean ====
section
/-! DEFINITION. The link object (spec/20): the L syllables (R329 to R334), the transfer of slots and credits (R326,
R327), circuits (R336) and the buffer permits of an ingress (R337). -/

namespace Sys2Proof.Machine

/-- Cause LINK (R335). -/
def linkTrap (detail : Nat) (n : Fin 16) : Trap := { cause := .link, detail := detail, arg := n.val }

/-! The stream queue and readiness (R326 to R328). -/

/-- Whether an entry of a stream queue sends. -/
def StreamEnt.sends (e : StreamEnt) : Bool := match e.op with
  | .send .. | .saved .. | .portSend .. => true
  | .recv .. => false

/-- An entry put behind those of an earlier place in the order of sends (R334). -/
def insertSend (x : Core × StreamEnt) : List (Core × StreamEnt) → List (Core × StreamEnt)
  | [] => [x]
  | y :: t => if x.2.order < y.2.order then x :: y :: t else y :: insertSend x t

/-- The released sends of stream n of the selected die, with their cores, in the order in which they were
performed. -/
def sendsOf (s : State) (n : Fin 16) : List (Core × StreamEnt) :=
  (s.cores.flatMap fun c => (c.sq.filter fun e => e.n == n && !e.held && e.sends).map fun e => (c, e)).foldr insertSend []

/-- Whether a released send could transfer: a write to a port has landed (R58), and no earlier footprint conflicts
(R207). -/
def sendable (p : Core × StreamEnt) : Bool :=
  boardClear p.1 p.2.serial p.2.foots && match p.2.op with
    | .portSend _ none => false
    | .portSend _ (some _) | .send .. | .saved .. | .recv .. => true

/-- The circuit of stream n sent by a die, or by the sender in another package whose slots die `src` − 256 receives
(R336). -/
def circuitOf (s : State) (src : Nat) (n : Fin 16) : Option Circuit :=
  s.pkg.conns.find? fun c => c.st != .free && c.st != .reserved && c.src == src && c.n == n

/-- How many sends of a circuit may be in transfer: any while it is open, those that were ready when it began to drain
(log 50, DEDUCED). -/
def circuitPasses (s : State) (src : Nat) (n : Fin 16) (k : Nat) : Nat := match circuitOf s src n with
  | none => 0
  | some c => match c.st with
    | .open => k
    | .draining => min k c.flight
    | .free | .reserved | .tuning | .closed => 0

/-- How many sends of stream n of the selected die are ready: each has taken a credit (R326, R327). -/
def readySends (s : State) (n : Fin 16) : Nat := match s.die.send[n] with
  | none => 0
  | some x => circuitPasses s s.die.num n (min x.credits (countIf (fun _ => true) ((sendsOf s n).takeWhile sendable)))

/-! The syllables. -/

/-- STREAM, CLOSED and BROKEN of a syllable that sends on stream n (R329, R335; log 43, DEDUCED). -/
def sendTrap (s : State) (n : Fin 16) : Option Trap := match s.die.send[n] with
  | none => some (linkTrap 1 n)
  | some x => if x.closed then some (linkTrap 4 n) else if x.broken then some (linkTrap 5 n) else none

/-- HELDFULL (R328; log 43, DEDUCED). -/
def heldFull (c : Core) (n : Fin 16) : Option Trap :=
  if 16 ≤ c.sq.length && c.sq.all (·.held) then some (linkTrap 6 n) else none

/-- A full stream queue freezes (R328). -/
def streamFull (c : Core) : Option Freeze := if 16 ≤ c.sq.length then some .queueFull else none

/-- The limit on stream sends of a segment (R226, R334; log 43, DEDUCED). -/
def sendLimit (c : Core) : Option Trap := if 16 ≤ c.seg.sends then some { cause := .segment, detail := 4 } else none

/-- One stream send more in the segment. -/
def countSend (c : Core) : Core := { c with seg := { c.seg with sends := c.seg.sends + 1 } }

/-- L.OPEN.send (R330). -/
def execLOpenSend (n : Fin 16) (s : State) : Host.Outcome State Fault Refusal :=
  issue s { trap := if s.die.send[n].isNone then some (linkTrap 1 n) else none }
    (fun u => u.upArch fun a => { a with sendBind := some n })

/-- L.OPEN.recv (R330). -/
def execLOpenRecv (n : Fin 16) (s : State) : Host.Outcome State Fault Refusal :=
  issue s { trap := if s.die.recv[n].isNone then some (linkTrap 1 n) else none }
    (fun u => u.upCore fun c => { c with
      arch := { c.arch with recvBind := some n }, issue := { c.issue with rebound := some (recvPort c) } })

/-- An entry of the stream queue is taken, held by its segment, with its tag (R328, R203). -/
def enterStream (n : Fin 16) (op : StreamOp) (tag : Tag) (foots : List Foot) (s : State) : State :=
  (s.upCore fun c => tagIssue tag { c with sq := c.sq ++ [⟨s.fresh, n, op, some tag, c.issue.ba, snapOf s, [], foots, true, 0⟩] }).useId

/-- The byte address of a stream command: BASE and a byte offset. -/
def streamAddr (t : Tensor) (off : Nat) : Nat := (t.base + off) % 2 ^ 56

/-- The entry that L.RECV fills, whose CMP must be 0 (R333). -/
def streamTensor (s : State) (k : TId) : Except Trap Tensor := match readTensor s k with
  | .error t => .error t
  | .ok t => if t.cmp != 0 then .error { cause := .badtensor, arg := k.val } else .ok t

/-- SLOTSZ of a send stream. -/
def slotSize (s : State) (n : Fin 16) : Nat := match s.die.send[n] with
  | none => 0
  | some x => x.slotsz

/-- `lsend` of R332, the stamp given or none. -/
def sendSyl (srcs : List Reg) (stamp : Option Nat) (ta : TId) (n : Fin 16) (tag : Tag) (s : State) :
    Host.Outcome State Fault Refusal :=
  let off := wbits s.core.arch.lg[0] 31 0
  let len := wbits s.core.arch.lg[0] 63 32
  let req : Except Trap Nat := match sendTrap s n with
    | some t => .error t
    | none =>
      match readTensor s ta with
      | .error t => .error t
      | .ok t =>
        if len == 0 || slotSize s n < len then .error (linkTrap 3 n)
        else if t.cmp != 0 then .error { cause := .badtensor, arg := ta.val }
        else match heldFull s.core n with
          | some e => .error e
          | none => .ok (streamAddr t off)
  let foots (va : Nat) : List Foot := footOf va (va + len) false
  issue s { srcs := srcs
            trap := errOf req
            limit := sendLimit s.core
            stall := (streamFull s.core).orElse fun _ => (entryStall s [ta]).orElse fun _ => match req with
              | .error _ => none
              | .ok va => boardStall s.core (foots va) }
    (fun u => match req with
      | .error _ => u
      | .ok va =>
        (enterStream n (.send va len stamp) tag (foots va) u).upCore fun c =>
          countSend { c with held := c.held ++ [.send u.fresh] })

/-- L.SEND (R332). -/
def execLSend (ta : TId) (n : Fin 16) (tag : Tag) (s : State) : Host.Outcome State Fault Refusal :=
  sendSyl [] none ta n tag s
/-- L.SENDST (R332). -/
def execLSendst (t : SReg) (ta : TId) (n : Fin 16) (tag : Tag) (s : State) : Host.Outcome State Fault Refusal :=
  sendSyl [.s t] (some (regS s t).toNat) ta n tag s

/-- STREAM, CLOSED and BROKEN of a receive (R329, R334, R335). -/
def recvTrap (s : State) (n : Fin 16) : Option Trap :=
  if s.die.recv[n].isNone then some (linkTrap 1 n)
  else if atEnd s.die n 0 then some (linkTrap 4 n)
  else if recvBroken s.die n 0 then some (linkTrap 5 n)
  else none

/-- L.RECV (R333). -/
def execLRecv (tb : TId) (n : Fin 16) (tag : Tag) (s : State) : Host.Outcome State Fault Refusal :=
  let off := wbits s.core.arch.lg[1] 31 0
  let most := wbits s.core.arch.lg[1] 63 32
  let req : Except Trap (Slot × Nat) := match recvTrap s n, headSlot s.die n with
    | some t, _ => .error t
    | none, none => .error (linkTrap 1 n)
    | none, some h =>
      if most < h.len then .error (linkTrap 3 n)
      else match streamTensor s tb with
        | .error t => .error t
        | .ok t => match heldFull s.core n with
          | some e => .error e
          | none => .ok (h, streamAddr t off)
  let foots (r : Slot × Nat) : List Foot := footOf r.2 (r.2 + r.1.len) true
  issue s { late := (recvTrap s n).isNone && (headSlot s.die n).isNone
            trap := errOf req
            stall := (streamFull s.core).orElse fun _ => (entryStall s [tb]).orElse fun _ => match req with
              | .error _ => none
              | .ok r => boardStall s.core (foots r) }
    (fun u => match req with
      | .error _ => u
      | .ok r => popSlot false n (enterStream n (.recv r.1 r.2) tag (foots r) u))

/-- Slots present at the head of a receive stream (R332, R334). -/
def slotsPresent (d : Die) (r : RecvStream) : Nat :=
  (r.present.takeWhile (Slot.ready d)).length

/-- The word of L.PEEK (R334). -/
def peekWord (d : Die) (n : Fin 16) (r : RecvStream) : Word :=
  let len := match headSlot d n with
    | none => 0
    | some h => h.len
  wordN (len % 2 ^ 32 + 2 ^ 32 * (headSlot d n).isSome.toNat + 2 ^ 33 * (atEnd d n 0).toNat + 2 ^ 34 * r.broken.toNat
    + 2 ^ 40 * min 64 (slotsPresent d r))

/-- L.PEEK (R334). -/
def execLPeek (d : SReg) (n : Fin 16) (s : State) : Host.Outcome State Fault Refusal :=
  let x : Word := match s.die.recv[n] with
    | none => 0
    | some r => peekWord s.die n r
  issue s { dsts := [.s d], trap := if s.die.recv[n].isNone then some (linkTrap 1 n) else none } (wrS d 1 x)

/-- L.CLOSE (R334). -/
def execLClose (n : Fin 16) (s : State) : Host.Outcome State Fault Refusal :=
  issue s { trap := sendTrap s n, limit := sendLimit s.core }
    (fun u => u.upCore fun c => countSend { c with held := c.held ++ [.close n] })

/-- The word of L.STAT (R334). -/
def statWord (s : State) (n : Fin 16) (x : SendStream) : Word :=
  let inq := countIf (fun e => e.n == n && e.sends) s.core.sq
  wordN (min 64 (x.credits - readySends s n) + 2 ^ 8 * min 16 inq + 2 ^ 16 * x.closed.toNat + 2 ^ 17 * x.broken.toNat)

/-- L.STAT (R334). -/
def execLStat (d : SReg) (n : Fin 16) (s : State) : Host.Outcome State Fault Refusal :=
  let x : Word := match s.die.send[n] with
    | none => 0
    | some y => statWord s n y
  issue s { dsts := [.s d], trap := if s.die.send[n].isNone then some (linkTrap 1 n) else none } (wrS d 1 x)

/-! The ends of a stream (R324, R325). -/

/-- Changes a send stream of the selected die. -/
def State.upSend (s : State) (n : Fin 16) (f : SendStream → SendStream) : State :=
  s.upDie fun d => { d with send := d.send.set n (d.send[n].map f) }
/-- Changes a receive stream of the selected die. -/
def State.upRecv (s : State) (n : Fin 16) (f : RecvStream → RecvStream) : State :=
  s.upDie fun d => { d with recv := d.recv.set n (d.recv[n].map f) }
/-- Changes the circuits of a stream that a die sends. -/
def State.upCircuit (s : State) (src : Nat) (n : Fin 16) (f : Circuit → Circuit) : State :=
  s.upPkg fun k => { k with conns := k.conns.map fun c =>
    if c.st != .free && c.st != .reserved && c.src == src && c.n == n then f c else c }

/-- The number of the die that follows or precedes a die (R324). -/
def peerOf (d : Nat) (x : SendStream) : Option Nat := if x.next then some (d + 1) else if d == 0 then none else some (d - 1)

/-- The die of the same partition that sends the stream which the selected die receives as n; none: its slots come from
another package (R325; log 51, DESIGN CHOICE). -/
def senderOf (s : State) (n : Fin 16) : Option Nat :=
  (s.dies.find? fun d => d.part.isSome && d.part == s.die.part && (match d.send[n] with
    | none => false
    | some x => peerOf d.num x == some s.die.num)).map Die.num

/-- The number under which a circuit names the sender of stream n of the selected die (R336). -/
def sourceOf (s : State) (n : Fin 16) : Nat := (senderOf s n).getD (256 + s.die.num)

/-- The die of the partition of die d that is the peer of its send stream; none: the peer lies in the next or the
previous package (R324). -/
def peerDie (s : State) (d : Nat) (x : SendStream) : Option Nat :=
  match s.dies.find? fun y => y.num == d with
  | none => none
  | some y => match peerOf d x with
    | none => none
    | some p => (s.dies.find? fun z => z.num == p && z.part.isSome && z.part == y.part).map Die.num

/-- An entry leaves the selected core's stream queue; its tag, if any, ends (R203, R205). -/
def endStream (e : StreamEnt) (err : Option Trap) (ids : List Nat) (s : State) : State :=
  s.upCore fun c =>
    let c' := { c with sq := c.sq.filter fun x => x.serial != e.serial }
    match e.tag with
    | none => c'
    | some t => tagEnd t err ids c'

/-- The slot that a send transfers: its bytes as the view stood at issue (R332); none for a receive. -/
def readSlot (s : State) (e : StreamEnt) : Except Trap (Option Slot) :=
  match e.op with
  | .send va len stamp => match readRange s e.snap va len with
    | .error t => .error t
    | .ok b => .ok (some ⟨0, len, b, stamp, e.hb⟩)
  | .saved b stamp => .ok (some ⟨0, b.length, b, stamp, e.hb⟩)
  | .portSend len (some x) => .ok (some ⟨0, len, (toBytes x).take len, none, e.hb⟩)
  | .portSend _ none | .recv .. => .ok none

/-- A slot arrives at the selected die, with its place in the order of arrival; one behind an end marker is never
received. -/
def landSlot (n : Fin 16) (x : Slot) (s : State) : State :=
  settleWaiters ((s.upRecv n fun r =>
    if r.eos then r else { r with present := r.present ++ [{ x with no := s.fresh }] }).useId)

/-- The end marker arrives at the selected die (R334). -/
def landMarker (n : Fin 16) (s : State) : State := s.upRecv n fun r => { r with eos := true }

/-! Permits of an ingress (R337). -/

/-- The minimum of a class: stream-data, stream-control, time-sync, swap, management. -/
def classMin (x : Word) (k : Nat) : Nat := wbits x (12 * k + 11) (12 * k)
/-- The minimum of a partition slot. -/
def partMin (x : Word) : Nat := wbits x 11 0
/-- The sum of the class minima. -/
def classSum (x : Word) : Nat := ((List.range 5).map (classMin x)).foldl (· + ·) 0
/-- The sum of the partition minima. -/
def partSum (v : Vector Word 16) : Nat := (v.toList.map partMin).foldl (· + ·) 0
/-- The shared remainder. -/
def sharedSize (g : Ingress) : Nat := 4096 - classSum g.pmin - partSum g.partmin

/-- Which part lends a flit its permit: 0 the class reserve, 1 the partition reserve, 2 the shared remainder; none: it
waits at its sender. All 4,096 permits may be held while minima have been raised (log 103, DEDUCED). -/
def permitFrom (g : Ingress) (cls : Fin 5) (slot : Fin 16) : Option Nat :=
  if 4096 ≤ g.flits.length then none
  else if g.clsHeld[cls] < classMin g.pmin cls then some 0
  else if cls.val < 2 && g.partHeld[slot] < partMin g.partmin[slot] then some 1
  else if g.shared < sharedSize g then some 2
  else none

/-- The stream-data and stream-control flits in which a slot of a length travels (R327). -/
def slotFlits (len : Nat) : Nat × Nat := (max 1 (ceilDiv len 256), 1)

/-- Whether that many flits of a partition can pass an ingress, one after another: each takes a permit as it comes and
frees it as it leaves (R327, R337; log 103, DEDUCED). -/
def flitsPass (g : Ingress) (slot : Fin 16) (n : Nat × Nat) : Bool :=
  (n.1 == 0 || (permitFrom g 0 slot).isSome) && (n.2 == 0 || (permitFrom g 1 slot).isSome)

/-- The ingress of the optical port of a stream's circuit. -/
def portIngress (s : State) (src : Nat) (n : Fin 16) : Ingress := match circuitOf s src n with
  | none => .reset
  | some c => vget s.pkg.ports c.port .reset

/-- The ingress through which flits of stream n come to the selected die: that of the sending die, or that of the
optical port of its circuit. -/
def entryIngress (s : State) (n : Fin 16) : Ingress := match senderOf s n with
  | some a => ((s.dies.find? fun d => d.num == a).map Die.ingress).getD .reset
  | none => portIngress s (256 + s.die.num) n

/-! Transfers (R326, R327, R332 to R334). -/

/-- One send of stream n of die a transfers to the selected die: its slot is present and its tag completes; a fault
sends no slot, keeps the credit and sets TAGERR (R332; log 50, DEDUCED). -/
def transfer (a : Nat) (n : Fin 16) (core : Nat) (e : StreamEnt) (s : State) : State :=
  let back (t : State) : State := selAt s.die.num s.core.num t
  let src := selAt a core s
  let src' := src.upCircuit a n fun c => { c with flight := c.flight - 1 }
  match readSlot src e with
  | .error t => back (endStream e (some t) [] src')
  | .ok none => s
  | .ok (some x) =>
    landSlot n x (back ((endStream e none [] src').upSend n fun y => { y with credits := y.credits - 1 }))

/-- Whether the stamp that a send carries is past on the receiving die (R332). -/
def stampPassed (d : Die) (e : StreamEnt) : Bool := match e.op with
  | .send _ _ (some t) | .saved _ (some t) => t < d.earliest
  | .send _ _ none | .saved _ none | .portSend .. | .recv .. => true

/-- Bytes of the slot that an entry sends. -/
def sendLen (e : StreamEnt) : Nat := match e.op with
  | .send _ len _ | .portSend len _ => len
  | .saved b _ => b.length
  | .recv .. => 0

/-- What stream n of the selected die has to send next: nothing, its end marker, or a send and its core (R334). -/
inductive NextSend where
  | nothing
  | marker
  | send (core : Nat) (e : StreamEnt)

/-- The next of stream n (R327, R334). -/
def nextSend (s : State) (n : Fin 16) : NextSend := match s.die.send[n], sendsOf s n with
  | none, _ => .nothing
  | some x, [] => if x.marker.isSome then .marker else .nothing
  | some x, p :: _ => match x.marker with
    | some m => if m < p.2.order then .marker else .send p.1.num p.2
    | none => .send p.1.num p.2

/-- A slot or the end marker comes from die a to the selected die. -/
def slotInner (n : Fin 16) (a : Nat) (s : State) : State :=
  let src := selDie a s
  match nextSend src n with
  | .nothing => s
  | .marker =>
    if circuitPasses s a n 1 == 0 then s
    else landMarker n (selAt s.die.num s.core.num (src.upSend n fun y => { y with marker := none }))
  | .send core e =>
    if readySends src n != 0 && stampPassed s.die e && flitsPass src.die.ingress (partSlot s) (slotFlits (sendLen e)) then
      transfer a n core e s
    else s

/-- A slot or the end marker of the selected die is present at its peer in another package (log 51, DESIGN CHOICE). -/
def slotOut (n : Fin 16) (s : State) : State :=
  match nextSend s n with
  | .nothing => s
  | .marker => if circuitPasses s s.die.num n 1 == 0 then s else s.upSend n fun y => { y with marker := none }
  | .send core e =>
    if readySends s n == 0 || !flitsPass s.die.ingress (partSlot s) (slotFlits (sendLen e)) then s
    else
      let t := (selCore core s).upCircuit s.die.num n fun c => { c with flight := c.flight - 1 }
      selCore s.core.num (match readSlot t e with
        | .error x => endStream e (some x) [] t
        | .ok none => t
        | .ok (some _) => (endStream e none [] t).upSend n fun y => { y with credits := y.credits - 1 })

/-- Buffers of receive stream n of the selected die that hold a slot or await the return of its credit (R326). -/
def buffersUsed (s : State) (n : Fin 16) (r : RecvStream) : Nat :=
  let popped (c : Core) : Nat := countIf (fun p => match p with
    | .slot m _ port => port && m == n
    | _ => false) c.popped
  let taken (c : Core) : Nat := countIf (fun e => e.n == n && !e.sends) c.sq
  r.present.length + r.owed + ((s.cores.map fun c => popped c + taken c).foldl (· + ·) 0)

/-- A slot of a sender in another package arrives, within the credits that it holds (R326; log 51, DESIGN CHOICE). -/
def slotArrives (n : Fin 16) (len : Nat) (stamp : Option Nat) (b : List Byte) (s : State) : State :=
  match s.die.recv[n] with
  | none => s
  | some r =>
    let fits := 1 ≤ len && len ≤ r.slotsz && b.length == len && buffersUsed s n r < r.slots
    if fits && circuitPasses s (256 + s.die.num) n 1 != 0
        && flitsPass (entryIngress s n) (partSlot s) (slotFlits len) then
      landSlot n ⟨0, len, b, stamp, []⟩ s
    else s

/-- STREAM_SLOT_PRESENT: the next slot of stream n, or its end marker, is present at its receiver: the selected die, or
the peer of the selected die in another package (R324, R327, R334; log 50, DEDUCED). -/
def execStreamSlotPresent (w : SlotWay) (s : State) : Host.Outcome State Fault Refusal :=
  .next (match w with
    | .inner n => match senderOf s n with
      | some a => slotInner n a s
      | none => s
    | .out n => match s.die.send[n] with
      | none => s
      | some x => if (peerDie s s.die.num x).isSome then s else slotOut n s
    | .arrive n len stamp b => if (senderOf s n).isSome then s else slotArrives n len stamp b s
    | .marker n =>
      if (senderOf s n).isSome || circuitPasses s (256 + s.die.num) n 1 == 0 then s else landMarker n s)

/-- The first released receive of stream n on the selected core writes its slot's bytes, and its tag completes
(R333); a fault stops it (R205). -/
def runReceive (n : Fin 16) (s : State) : State :=
  match s.core.sq.find? fun e => e.n == n && !e.sends with
  | none => s
  | some e => match e.op with
    | .recv x va =>
      if e.held || !boardClear s.core e.serial e.foots then s
      else
        let r := runWalk 0 (.ofPuts (putBytesAt va (slotBytes x.len x))) s
        let err : Option Trap := match r.2.2.1 with
          | .done => none
          | .failed t => some t
          | .parked p kind => some { cause := .demand, addr := p, arg := kind }
        (endStream e err r.2.2.2 r.1).upRecv n fun y => { y with owed := y.owed + 1 }
    | .send .. | .saved .. | .portSend .. => s

/-- A credit that is owed returns to the sender as one stream-control flit, while the circuit is open (R326, R327,
R336). -/
def giveCredit (n : Fin 16) (s : State) : State :=
  match s.die.recv[n] with
  | none => s
  | some r =>
    if r.owed == 0 || circuitPasses s (sourceOf s n) n 1 == 0 || !flitsPass s.die.ingress (partSlot s) (0, 1) then s
    else
      let s1 := s.upRecv n fun y => { y with owed := y.owed - 1 }
      match senderOf s n with
      | none => s1
      | some a => selAt s.die.num s.core.num ((selDie a s1).upSend n fun x => { x with credits := x.credits + 1 })

/-- A credit comes back from the peer of the selected die in another package, as one stream-control flit that passes the
ingress of the circuit's optical port (R326, R327, R337; log 51, DESIGN CHOICE; log 103, DEDUCED). -/
def creditBack (n : Fin 16) (s : State) : State :=
  match s.die.send[n] with
  | none => s
  | some x =>
    if (peerDie s s.die.num x).isSome || x.slots ≤ x.credits || circuitPasses s s.die.num n 1 == 0
        || !flitsPass (portIngress s s.die.num n) (partSlot s) (0, 1) then s
    else s.upSend n fun x => { x with credits := x.credits + 1 }

/-- CREDIT_RETURN: once the segment that popped a slot has committed, the slot's bytes are read out and its credit
returns; or a credit of another package comes back (R326, R333). -/
def execCreditReturn (w : CreditWay) (s : State) : Host.Outcome State Fault Refusal :=
  .next (match w with
    | .back n => creditBack n s
    | .returns n => match s.die.recv[n] with
      | none => s
      | some _ => giveCredit n (runReceive n s))

/-! Circuits (R336). -/

/-- Entry k of the connection table. -/
def connAt (s : State) (k : Nat) : Option Circuit := s.pkg.conns[k]?

/-- Changes entry k of the connection table. -/
def State.upConn (s : State) (k : Nat) (f : Circuit → Circuit) : State :=
  s.upPkg fun p => { p with conns := match p.conns[k]? with
    | none => p.conns
    | some c => p.conns.set k (f c) }

/-- An operation with a die selected; the selection is as before. -/
def atDie (d : Nat) (f : State → State) (s : State) : State := selAt s.die.num s.core.num (f (selDie d s))

/-- The die of the package that receives a circuit's stream. -/
def circuitPeer (c : Circuit) (s : State) : Option Nat :=
  if 256 ≤ c.src then some (c.src - 256)
  else match s.dies.find? fun d => d.num == c.src with
    | none => none
    | some d => match d.send[c.n] with
      | none => none
      | some x => peerDie s c.src x

/-- An operation with the die of the package that sends a circuit's stream selected. -/
def atSender (c : Circuit) (f : State → State) (s : State) : State := if c.src < 256 then atDie c.src f s else s

/-- An operation with the die of the package that receives a circuit's stream selected. -/
def atReceiver (c : Circuit) (f : State → State) (s : State) : State := match circuitPeer c s with
  | none => s
  | some d => atDie d f s

/-- The ends of a circuit's stream in the package become BROKEN (R335, R336). -/
def breakStream (c : Circuit) (s : State) : State :=
  atReceiver c (fun t => t.upRecv c.n fun x => { x with broken := true })
    (atSender c (fun t => t.upSend c.n fun x => { x with broken := true }) s)

/-- The receive buffers of a circuit's stream are cleared (R336). -/
def clearBuffers (c : Circuit) (s : State) : State := atReceiver c (fun t => t.upRecv c.n fun x => { x with present := [] }) s

/-- The source of an entry of the connection table: the die that sends, or 256 plus the die that receives from another
package (log 51, DESIGN CHOICE). -/
def circuitSource : CircuitEnd → Nat
  | .sends d => d.val
  | .receives d => 256 + d.val

/-- RESERVE: a wavelength and a port that are free go to the selected die's partition, for the stream n that a die
sends, or that it receives from another package (R336). -/
def execReserve (wavelength port : Nat) (die : CircuitEnd) (n : Fin 16) (s : State) :
    Host.Outcome State Fault Refusal :=
  .next (match s.die.part with
    | none => s
    | some p =>
      let used := s.pkg.conns.any fun c => c.st != .free && (c.wavelength == wavelength || c.port == port)
      let new : Circuit := ⟨.reserved, p, wavelength, port, circuitSource die, n, 0, false⟩
      if used then s
      else match s.pkg.conns.findIdx? fun c => c.st == .free with
        | some k => s.upConn k fun _ => new
        | none => s.upPkg fun q => { q with conns := q.conns ++ [new] })

/-- TUNE (R336); a circuit that a swap of either end has closed is tuned again (log 51, DESIGN CHOICE). -/
def execTune (circuit : Nat) (s : State) : Host.Outcome State Fault Refusal :=
  .next (match connAt s circuit with
    | none => s
    | some c => if c.st == .reserved || (c.st == .closed && c.swap) then s.upConn circuit fun c => { c with st := .tuning }
        else s)

/-- TUNE_LOCKED: the circuit opens; credits become SLOTS, or stay as a restore left them (R336). -/
def execTuneLocked (circuit : Nat) (s : State) : Host.Outcome State Fault Refusal :=
  .next (match connAt s circuit with
    | none => s
    | some c =>
      if c.st == .tuning then
        let s1 := s.upConn circuit fun c => { c with st := .open, flight := 0, swap := false }
        if c.swap then s1 else atSender c (fun t => t.upSend c.n fun x => { x with credits := x.slots }) s1
      else s)

/-- LINK_FAIL: a circuit does not lock and closes (R336). -/
def execLinkFail (circuit : Nat) (s : State) : Host.Outcome State Fault Refusal :=
  .next (match connAt s circuit with
    | none => s
    | some c =>
      if c.st == .tuning then
        breakStream c ((s.upConn circuit fun c => { c with st := .closed, swap := false }).post (.linkFail circuit))
      else s)

/-- LINK_ERROR: an open circuit closes and its streams are BROKEN (R336). -/
def execLinkError (circuit : Nat) (s : State) : Host.Outcome State Fault Refusal :=
  .next (match connAt s circuit with
    | none => s
    | some c =>
      if c.st == .open then
        breakStream c ((s.upConn circuit fun c => { c with st := .closed }).post (.linkFail circuit))
      else s)

/-- An open circuit begins to drain: only the sends that are ready go on (R336). -/
def drainCircuit (swap : Bool) (circuit : Nat) (s : State) : State :=
  match connAt s circuit with
  | none => s
  | some c =>
    if c.st == .open then
      let k := if c.src < 256 then readySends (selDie c.src s) c.n else 0
      s.upConn circuit fun c => { c with st := .draining, flight := k, swap := swap }
    else s

/-- CIRCUIT_DRAIN, for a teardown, or for the swap of a peer context in another package (R336). -/
def execCircuitDrain (circuit : DrainOf) (s : State) : Host.Outcome State Fault Refusal :=
  .next (match circuit with
    | .teardown k => drainCircuit false k s
    | .peerSwap k => drainCircuit true k s)

/-- CIRCUIT_DRAIN_COMPLETE: with no flit in flight the circuit closes; but for a swap its streams are BROKEN
(R335, R336). -/
def execCircuitDrainComplete (circuit : Nat) (s : State) : Host.Outcome State Fault Refusal :=
  .next (match connAt s circuit with
    | none => s
    | some c =>
      if c.st == .draining && c.flight == 0 then
        let s1 := s.upConn circuit fun c => { c with st := .closed }
        if c.swap then s1 else breakStream c s1
      else s)

/-- CIRCUIT_RELEASE (R336). -/
def execCircuitRelease (circuit : Nat) (s : State) : Host.Outcome State Fault Refusal :=
  .next (match connAt s circuit with
    | none => s
    | some c =>
      let s1 := s.upConn circuit fun c => { c with st := .free }
      match c.st with
      | .reserved => s1
      | .closed => clearBuffers c s1
      | .free | .tuning | .open | .draining => s)

/-! The steward's and the flits' events (R337). -/

/-- Changes the selected ingress: that of an optical port, or that of the selected die (log 51, DESIGN CHOICE). -/
def State.upIngress (s : State) (f : Ingress → Ingress) : State := match s.pkg.ingress with
  | none => s.upDie fun d => { d with ingress := f d.ingress }
  | some i => s.upPkg fun k => { k with ports := k.ports.set i (f k.ports[i]) }

/-- PMIN_WRITE: the steward sets the class minima; sums beyond 4,096 are refused. -/
def execPminWrite (x : BitVec 64) (s : State) : Host.Outcome State Fault Refusal :=
  .next (s.upIngress fun g =>
    if 4096 < classSum x + partSum g.partmin then g else { g with pmin := x &&& 0x0FFFFFFFFFFFFFFF })

/-- PARTMIN_WRITE: the steward sets a partition's minimum. -/
def execPartminWrite (slot : Fin 16) (x : BitVec 64) (s : State) : Host.Outcome State Fault Refusal :=
  .next (s.upIngress fun g =>
    let v := g.partmin.set slot (x &&& 0x00000000FFFF0FFF)
    if 4096 < classSum g.pmin + partSum v then g else { g with partmin := v })

/-- A flit that has taken its permit from a part stands in the ingress. -/
def Ingress.take (cls : Fin 5) (slot : Fin 16) (g : Ingress) : Ingress := match permitFrom g cls slot with
  | none => g
  | some 0 => { g with clsHeld := g.clsHeld.set cls (g.clsHeld[cls] + 1), flits := g.flits ++ [(cls.val, slot.val, 0)] }
  | some 1 => { g with partHeld := g.partHeld.set slot (g.partHeld[slot] + 1), flits := g.flits ++ [(cls.val, slot.val, 1)] }
  | some _ => { g with shared := g.shared + 1, flits := g.flits ++ [(cls.val, slot.val, 2)] }

/-- The oldest flit leaves the ingress. -/
def Ingress.leave (g : Ingress) : Ingress := match g.flits with
  | [] => g
  | (c, _, 0) :: t => { g with clsHeld := vmod g.clsHeld c (· - 1), flits := t }
  | (_, p, 1) :: t => { g with partHeld := vmod g.partHeld p (· - 1), flits := t }
  | _ :: t => { g with shared := g.shared - 1, flits := t }

/-- FLIT_ARRIVAL: a flit takes a permit, or waits at its sender. -/
def execFlitArrival (cls : Fin 5) (slot : Fin 16) (s : State) : Host.Outcome State Fault Refusal :=
  .next (s.upIngress (Ingress.take cls slot))

/-- FLIT_LEAVES_INGRESS: the oldest flit leaves and its permit is free. -/
def execFlitLeavesIngress (s : State) : Host.Outcome State Fault Refusal :=
  .next (s.upIngress Ingress.leave)

end Sys2Proof.Machine
end

