-- ==== Sys2Proof/Machine/Context.lean ====
section
/-! DEFINITION. Partitions and contexts (spec/18 R297, R298, R306 to R312, spec/19 R321, R322): the driver's requests
and the ends of what they begin. -/

namespace Sys2Proof.Machine

/-! Partitions (R297). -/

/-- A new partition without a context. -/
def newPartition (num : Nat) (slot : Fin 16) (first count : Nat) : Partition where
  num := num
  slot := slot
  first := first
  ndie := count
  ctx := 0
  state := .empty
  reason := .none
  pre := false
  prelimit := 0
  swapHeld := false
  kernels := []
  hostOpen := false
  shadow := []
  savedMbox := []
  pipePrev := none
  pipeNext := none

/-- Whether a die may join a partition (R297, R12, R323). -/
def Die.joins (d : Die) : Bool := d.boot == .online && d.service == .online && d.part.isNone

/-- FORM_PARTITION: consecutive dies in service form a partition, whose policy masks features (R297, R237). -/
def execFormPartition (num : BitVec 16) (slot : Fin 16) (first count : Nat) (mask : BitVec 16) (s : State) :
    Host.Outcome State Fault Refusal :=
  let ds := s.dies.filter fun d => first ≤ d.num && d.num < first + count
  let taken := s.pkg.parts.any fun p => p.num == num.toNat || p.slot == slot
  .next (if count == 0 || 12 < count || ds.length != count || taken || !ds.all Die.joins then s
    else
      eachDie (ds.map Die.num)
        (fun t => t.upDie fun d => { d with part := some num.toNat, feat := d.cfgFeat &&& ~~~(mask.setWidth 64) })
        (s.upPkg fun k => { k with parts := k.parts ++ [newPartition num.toNat slot first count] }))

/-- PARTITION_RELEASE: a partition without a context is dissolved; its memory is closed to the host (R297, R370). -/
def execPartitionRelease (s : State) : Host.Outcome State Fault Refusal :=
  .next (whenState [.empty] (fun p =>
    let s1 := eachCtxDie (fun t => t.upDie fun d => { d with part := none, feat := d.cfgFeat }) s
    s1.upPkg fun k => { k with parts := k.parts.filter fun x => x.num != p.num }) s)

/-! CREATE and START (R298). -/

/-- A die's queues, apertures and crew state cleared, with its STAGE (R298, R324; log 68, DEDUCED). -/
def Die.cleared (sbase : BitVec 16) (d : Die) : Die :=
  { d with
    stage := sbase + BitVec.ofNat 16 d.num
    queues := Vector.replicate 64 ⟨0, 0, [], [], 0, 0, 0⟩
    last := Vector.replicate 16 0
    aps := Vector.replicate 16 ⟨0, 0, 0, 0⟩
    crews := Vector.replicate 16 .start
    watches := []
    waiters := [] }

/-- The next context number: past 0xFFFF it wraps to 1 (R297). -/
def nextCtx (x : BitVec 16) : BitVec 16 := if x == 0xFFFF then 1 else x + 1

/-- CREATE (R298; log 68, DEDUCED). -/
def execCreate (sbase : BitVec 16) (s : State) : Host.Outcome State Fault Refusal :=
  .next (whenState [.empty] (fun _ =>
    (eachCtxDie (fun t => t.upDie (Die.cleared sbase)) s).upPart fun p =>
      { p with ctx := nextCtx p.ctx, state := .loading, reason := .none, pre := false, pipePrev := none, pipeNext := none }) s)

/-- The stream declarations of the kernels RESIDENT on a die (R325). -/
def declsOn (p : Partition) (d : Nat) : List StreamDecl := (p.kernels.filter fun k => k.on d).flatMap Kernel.streams

/-- What declares the peer of a stream: a die of the same partition, or the die of the next or the previous context of
the pipeline that follows or precedes it (R324). -/
inductive PeerEnd where
  | die (d : Nat)
  | context (l : List PeerStream)

/-- The peer of a stream of die d; none: the pipeline has no such die (R324, R325). -/
def declPeer (p : Partition) (d : Nat) (x : StreamDecl) : Option PeerEnd :=
  if x.next then if d + 1 < p.first + p.ndie then some (.die (d + 1)) else p.pipeNext.map .context
  else if p.first < d then some (.die (d - 1)) else p.pipePrev.map .context

/-- A declaration as its peer compares it. -/
def StreamDecl.asPeer (x : StreamDecl) : PeerStream := ⟨x.n, x.send, x.next, x.slotsz, x.slots⟩

/-- The streams that a peer declares. -/
def PeerEnd.streams (p : Partition) : PeerEnd → List PeerStream
  | .die d => (declsOn p d).map StreamDecl.asPeer
  | .context l => l

/-- Whether a declaration has a partner on its peer, and every partner agrees with it (R325). -/
def declPaired (p : Partition) (d : Nat) (x : StreamDecl) : Bool := match declPeer p d x with
  | none => false
  | some e =>
    let l := (e.streams p).filter fun y => y.n == x.n && y.send != x.send && y.next != x.next
    !l.isEmpty && l.all fun y => y.slotsz == x.slotsz && y.slots == x.slots

/-- The status with which START is refused, of the context with its place in the pipeline (R325). -/
def startStatus (p : Partition) : Option String :=
  let all := (List.range' p.first p.ndie).flatMap fun d => (declsOn p d).map fun x => (d, x)
  if all.any fun q => (declPeer p q.1 q.2).isNone then some "NOPEER"
  else if all.any fun q => !declPaired p q.1 q.2 then some "STREAMS"
  else none

/-- The receive stream of a declaration (R326). -/
def StreamDecl.recv (x : StreamDecl) (cut : Bool) : RecvStream where
  slotsz := x.slotsz
  slots := x.slots
  present := []
  eos := false
  broken := cut
  owed := 0

/-- The send stream of a declaration: its credits are there once its circuit is open (R326, R336). -/
def StreamDecl.sender (x : StreamDecl) (isOpen cut : Bool) : SendStream where
  slotsz := x.slotsz
  slots := x.slots
  credits := if isOpen then x.slots else 0
  closed := false
  marker := none
  broken := cut
  next := x.next

/-- The number under which a circuit names the sender of a declared stream of die d (R336). -/
def declSource (p : Partition) (d : Nat) (x : StreamDecl) : Nat :=
  if x.send then d
  else match declPeer p d x with
    | some (.die e) => e
    | some (.context _) | none => 256 + d

/-- Whether a circuit has closed, but for a swap: its streams are BROKEN (R335, R336). -/
def Circuit.cut (c : Circuit) : Bool := c.st == .closed && !c.swap

/-- A stream of the selected die begins, unless the context has it already; one whose circuit has closed begins BROKEN
(R325, R335). -/
def beginStream (p : Partition) (x : StreamDecl) (s : State) : State :=
  let c := circuitOf s (declSource p s.die.num x) x.n
  let cut := c.any Circuit.cut
  if x.send then
    if s.die.send[x.n].isSome then s
    else s.upDie fun d => { d with send := d.send.set x.n (some (x.sender (c.any fun c => c.st == .open) cut)) }
  else if s.die.recv[x.n].isSome then s
  else s.upDie fun d => { d with recv := d.recv.set x.n (some (x.recv cut)) }

/-- The matrix mode that the kernels RESIDENT on a die declare for a pair; ALT1 where none does (R137). -/
def declaredMode (p : Partition) (d pair : Nat) : Fin 4 :=
  match (p.kernels.filter fun k => k.on d).findSome? fun k => if k.mode pair == 0 then none else some (k.mode pair) with
  | none => 0
  | some m => m

/-- MATMODE of every pair of the selected die set (R137). -/
def setModes (p : Partition) (s : State) : State :=
  s.upDie fun d => { d with engines := Vector.ofFn fun (i : Fin 64) =>
    { d.engines[i] with mode := declaredMode p d.num i } }

/-- Phase 0 of a die begins (R298, R283, R210). -/
def Die.begins (d : Die) : Die :=
  { d with
    base := d.mem, log := [], hostView := [], released := [], phase := .compute, k := 0, elapsed := 0, wrote := false
    found := []
    xch := [], latePosted := false, past := [], acc := [], crews := Vector.replicate 16 .start
    last := Vector.replicate 16 0, queues := d.queues.map fun q => { q with age := 0 } }

/-- The selected die begins a context. -/
def startDie (p : Partition) (s : State) : State :=
  (declsOn p s.die.num).foldl (fun t x => beginStream p x t) (setModes p (s.upDie Die.begins))

/-- One initial record is appended on the die whose stage it names (R298, R284). It is appended as the driver gives it:
neither its fields nor a second record of the same crewed coordinate is checked here (log 92, DESIGN CHOICE). -/
def appendInitial (q : Fin 64) (r : Record) (s : State) : State :=
  if s.die.stage != r.stg then s
  else
    let s1 := if r.crew == 0xFF then s
      else s.upCrew r.crew.toNat fun w => { w with live := setBit8 w.live r.slotNum }
    appendRun q ⟨r, .fresh s.fresh (Config.recordAddr s.fresh), q, none⟩ s1.useId

/-- START of a context with its place in the ordered list of the pipeline: the streams are paired, MATMODE is set and
the initial records are appended; with none the context is done at once (R298, R325, R137; log 68, DEDUCED). -/
def execStart (x : Launch) (s : State) : Host.Outcome State Fault Refusal :=
  .next (whenState [.ready] (fun p0 =>
    let p := { p0 with pipePrev := x.prev, pipeNext := x.next }
    match startStatus p with
    | some st => s.status "START" st 0
    | none =>
      let s1 := eachCtxDie (startDie p) s
      let s2 := x.recs.foldl (fun t r => eachCtxDie (appendInitial r.1 (recordOf r.2)) t) s1
      settleContext (s2.upPart fun p =>
        { p with state := .running, reason := .none, pre := false, pipePrev := x.prev, pipeNext := x.next })) s)

/-! Pre-emption and halt (R298, R306 to R308, R321). -/

/-- PREEMPT (R298, R306). -/
def execPreempt (limit : Nat) (s : State) : Host.Outcome State Fault Refusal :=
  .next (whenState [.running] (fun _ =>
    settleContext (s.upPart fun p => { p with state := .draining, pre := true, prelimit := limit })) s)

/-- PRELIMIT_EXPIRY: the cores that still run are halted; a limit of 0 never passes (R298). -/
def execPrelimitExpiry (s : State) : Host.Outcome State Fault Refusal :=
  .next (whenState [.draining] (fun p =>
    if p.prelimit == 0 then s else setContext .halted .drain (haltContext s)) s)

/-- HALT by the driver (R298, R307). -/
def execHalt (s : State) : Host.Outcome State Fault Refusal :=
  .next (whenState [.running] (fun _ => setContext .halted .operator (haltContext s)) s)

/-- A halted strand issues again from its checkpoint, with a window history of zeros; one halted at a BUDGET stop stops
there again. A core inside a repeat, which the halt has not reached, goes on as it is (R306, R307, R308; log 35, DEDUCED)
(log 69, DEDUCED). -/
def resumeCore (s : State) : State :=
  let s1 := if s.core.halted && s.core.budgetStop then s.post (.budget s.die.num s.core.num) else s
  s1.upCore fun c =>
    if c.halted then { c with halted := false, haltPend := false, hist := [0, 0, 0, 0, 0, 0, 0] }
    else { c with haltPend := false }

/-- The context runs, or drains, again (R298, R321). -/
def resumeContext (pre : Bool) (s : State) : State :=
  let s1 := (setContext (if pre then .draining else .running) .none s).upPart fun p => { p with pre := pre }
  settleContext (eachCtxDie (fun t => settleWaiters (eachCore resumeCore (t.upDie fun d => { d with found := [] }))) s1)

/-- RESUME (R298, R304, R321; log 69, DEDUCED). -/
def execResume (s : State) : Host.Outcome State Fault Refusal :=
  .next (whenState [.halted] (fun p =>
    if p.reason == .fault then s
    else if p.reason == .demand then s.status "RESUME" "BUSY" 0
    else if p.swapHeld then s
    else resumeContext false s) s)

/-- The page in which an address lies: its first address and its size; the smallest page where no valid leaf maps it. -/
def pageAt (s : State) (va : Nat) : Nat × Nat :=
  let sl := partSlot s
  let root := s.die.ptroots[sl].toNat
  let n := match walk s.die va 5 4 (bits root 49 13 * 2 ^ 13) with
    | .error _ => 0x4000
    | .ok e => 2 ^ pageBits (bits e 7 5)
  (va / n * n, n)

/-- Whether a command is parked at a page. -/
def parkedIn (pg : Nat × Nat) (p : Option Nat) : Bool := match p with
  | none => false
  | some a => pg.1 ≤ a && a < pg.1 + pg.2

/-- Every command of the selected core that is parked at a page goes on (R322). -/
def Core.unpark (pg : Nat × Nat) (c : Core) : Core :=
  let go (p : Option Nat) : Option Nat := if parkedIn pg p then none else p
  { c with
    copyq := c.copyq.map fun m => { m with parked := go m.parked }
    matq := c.matq.map fun m => { m with parked := go m.parked }
    dq := c.dq.map fun m => { m with parked := go m.parked } }

/-- Every command of the selected die that is parked at the page of an address goes on (R322). -/
def unparkDie (va : Nat) (s : State) : State :=
  let pg := pageAt s va
  (eachCore (fun t => t.upCore (Core.unpark pg)) s).upDie fun d =>
    { d with xch := d.xch.map fun x =>
      { x with cmd := { x.cmd with parked := if parkedIn pg x.cmd.parked then none else x.cmd.parked } } }

/-- RESOLVE (R321, R322; log 69, DEDUCED). -/
def execResolve (va : Nat) (s : State) : Host.Outcome State Fault Refusal :=
  .next (whenState [.running, .draining, .halted] (fun p =>
    let s1 := eachCtxDie (unparkDie va) s
    if p.state == .halted && p.reason == .demand && !p.swapHeld then resumeContext p.pre s1 else s1) s)

/-! Swap (R309, R322, R336). -/

/-- The context's open circuits begin to drain for a swap (R336). -/
def drainOwned (swap : Bool) (num : Nat) (s : State) : State :=
  (List.range s.pkg.conns.length).foldl (fun t k => match connAt t k with
    | none => t
    | some c => if c.owner == num then drainCircuit swap k t else t) s

/-- SWAP: it is accepted in a halted context, and begins once what is released has finished (R309, R322). -/
def execSwap (s : State) : Host.Outcome State Fault Refusal :=
  .next (whenState [.halted] (fun p =>
    if p.reason == .fault then s
    else drainOwned true p.num (s.upPart fun p => { p with swapHeld := true })) s)

/-- Whether a core holds back a swap: it is not at rest, or a released command that a swap cannot save has not
finished (R309, R307). -/
def Core.busy (c : Core) : Bool :=
  (c.record.isSome && !c.halted) || !c.matq.isEmpty || c.dq.any (fun m => !m.op.isDecode)
    || c.copyq.any (fun m => !m.isXch) || c.sq.any (fun e => !e.sends) || c.geo.any fun g => !g.ready

/-- Whether the swap of a context may end (R309; log 70, DEDUCED). -/
def swapReady (s : State) (p : Partition) : Bool :=
  (partDies p.num s).all (fun x => x.2.phase != .exchange && x.1.all fun c => !c.busy)
    && s.pkg.conns.all fun c => c.owner != p.num || c.st == .free || c.st == .reserved || c.st == .closed

/-- A released send that still waits for credit, with its bytes (R336); one that meets a fault is saved as it is, and
meets the fault when it transfers. -/
def saveSend (s : State) (e : StreamEnt) : StreamEnt := match readSlot s e with
  | .ok (some x) => { e with op := .saved x.bytes x.stamp }
  | .ok none | .error _ => e

/-- The sends of the selected core as a swap saves them. -/
def saveSends (s : State) : State := s.upCore fun c => { c with sq := c.sq.map (saveSend s) }

/-- A die's part of the context as a swap writes it (R309, R295, R336; log 70, DEDUCED). -/
def saveDie (first : Nat) (slot : Fin 16) (s : State) : DieShadow where
  pos := s.die.num - first
  cores := s.cores.filter fun c => c.record.isSome || reservedCore s.die c.num
  queues := s.die.queues
  last := s.die.last
  crews := s.die.crews
  watches := s.die.watches.map fun w => { w with saved := true }
  waiters := s.die.waiters
  k := s.die.k
  phase := s.die.phase
  elapsed := s.die.elapsed
  recv := s.die.recv
  send := s.die.send
  xch := s.die.xch
  wrote := s.die.wrote
  past := s.die.past
  acc := s.die.acc
  stage := s.die.stage
  ptroot := s.die.ptroots[slot]
  aps := s.die.aps

/-- A core freed by a swap (R309). -/
def Core.freed (c : Core) : Core :=
  { c with record := none, halted := false, wait := none, stampWait := false, dbgStop := false, budgetStop := false
           rvzTrap := none, dq := [], copyq := [], sq := [], geo := [], popped := [], held := [] }

/-- What a swap leaves on a die (R309, R336). -/
def Die.swappedOut (d : Die) : Die :=
  { d with
    queues := d.queues.map fun q => { q with hw := [], overflow := [], reserved := 0 }
    crews := Vector.replicate 16 .start, watches := [], waiters := [], xch := [], phase := .compute, found := []
    wrote := false, past := [], acc := []
    recv := Vector.replicate 16 none, send := Vector.replicate 16 none }

/-- A saved part of the selected die joins the context's shadow, and its cores are free (R309). -/
def swapDie (first : Nat) (slot : Fin 16) (s0 : State) : State :=
  let s := eachCore saveSends s0
  let x := saveDie first slot s
  ((eachCore (fun t => t.upCore Core.freed) s).upDie Die.swappedOut).upPart fun p => { p with shadow := p.shadow ++ [x] }

/-- The mailbox of a partition slot, changed. -/
def State.upMbox (s : State) (slot : Fin 16) (f : List (Nat × Word) → List (Nat × Word)) : State :=
  s.upPkg fun k => { k with mbox := vmod k.mbox slot f }

/-- SWAP_COMPLETE: the last die ends, and the context is SWAPPED (R309; log 70, DEDUCED). -/
def execSwapComplete (s : State) : Host.Outcome State Fault Refusal :=
  .next (whenState [.halted] (fun p =>
    if !p.swapHeld || p.reason == .fault || !swapReady s p then s
    else
      let s1 := eachCtxDie (swapDie p.first p.slot) (s.upPart fun p => { p with shadow := [] })
      let s2 := (s1.upMbox p.slot fun _ => []).upPart fun x =>
        { x with state := .swapped, swapHeld := false, savedMbox := vget s.pkg.mbox p.slot [] }
      s2.status "SWAP" "OK" 0) s)

/-! Restore (R310, R336, R137, R295). -/

/-- The crews that a saved die part names, each plus one: those of its records and of its crew state, and those to which
the cores of its strands belong (R310; log 70, DEDUCED). -/
def DieShadow.crewsUsed (x : DieShadow) : Nat :=
  let named := (x.records.filter fun r => r.crew != 0xFF).map fun r => r.crew.toNat + 1
  let used := (List.range 16).map fun c => if vget x.crews c .start == .start then 0 else c + 1
  (named ++ used ++ x.cores.map fun (c : Core) => c.num / 8 + 1).foldl max 0

/-- Whether a saved die part holds decode commands (R310). -/
def DieShadow.decodes (x : DieShadow) : Bool := x.cores.any fun c => c.dq.any fun m => m.op.isDecode

/-- The place of a RESTORE by its lowest die: the context's own partition, or one that holds no context (R310; log 70,
DEDUCED). -/
def placeOf (s : State) (p : Partition) (first : Nat) : Option Partition :=
  s.pkg.parts.find? fun q => q.first == first && (q.num == p.num || q.state == .empty)

/-- The evacuated pages of a context's part (R323). -/
def evacOf (s : State) (p : Partition) (pos : Nat) : Option Evacuated :=
  s.pkg.evac.find? fun e => e.part == p.num && e.ctx == p.ctx && e.pos == pos

/-- Whether the pages of a part are at its die of the place, or in the store (R310, R323). -/
def pagesThere (s : State) (p q : Partition) (x : DieShadow) (d : Die) : Bool :=
  (q.num == p.num && !d.away) || (evacOf s p x.pos).isSome

/-- The kernel of a context that has moved between places: its stages name the dies of the new one (R310). -/
def Kernel.moved (p q : Partition) (k : Kernel) : Kernel :=
  if k.st == .resident then
    { k with stageLo := k.stageLo + q.first - p.first, stageHi := k.stageHi + q.first - p.first }
  else k

/-- The context of p at the place q (R298, R310). -/
def Partition.moved (p q : Partition) : Partition :=
  { p with
    num := q.num, slot := q.slot, first := q.first, hostOpen := q.hostOpen, state := .restoring
    kernels := p.kernels.map (Kernel.moved p q), shadow := [], savedMbox := [] }

/-- The status with which RESTORE at a place is refused, in the order of R310. -/
def placeStatus (s : State) (p q : Partition) : Option String :=
  let ds := s.dies.filter fun d => d.part == some q.num
  let parts := p.shadow.filterMap fun x => (ds.find? fun d => d.num == q.first + x.pos).map fun d => (x, d)
  if q.ndie != p.ndie || ds.length != q.ndie || !ds.all (fun d => d.boot == .online && d.service == .online)
      || parts.length != p.shadow.length || parts.any (fun y => y.1.stage != y.2.stage) then some "PLACE"
  else if ds.any (fun d => (p.moved q).kernels.any fun k => k.on d.num && d.ncrew < k.crews)
      || parts.any (fun y => y.2.ncrew < y.1.crewsUsed) then some "SHAPE"
  else if parts.any fun y => y.1.decodes && !y.2.feat.toNat.testBit 2 then some "NOUNIT"
  else if parts.any fun y => !pagesThere s p q y.1 y.2 then some "NOPAGE"
  else none

/-- The status with which RESTORE is refused (R310). -/
def restoreStatus (s : State) (p : Partition) (first : Nat) : Option String := match placeOf s p first with
  | none => some "PLACE"
  | some q => placeStatus s p q

/-- Whether a byte lies in pages. -/
def inPages (l : List (Nat × Nat)) (a : Nat) : Bool := l.any fun p => p.1 ≤ a && a < p.1 + p.2

/-- The runs of chosen bytes among bytes from an address up. -/
def runsOf (pick : Nat → Bool) : Nat → List Byte → List (Nat × List Byte)
  | _, [] => []
  | a, b :: t =>
    let r := runsOf pick (a + 1) t
    if pick a then match r with
      | (c, l) :: q => if c == a + 1 then (a, b :: l) :: q else (a, [b]) :: r
      | [] => [(a, [b])]
    else r

/-- The chosen bytes of a write. -/
def WriteRec.part (pick : Nat → Bool) (w : WriteRec) : List WriteRec :=
  (runsOf pick w.addr w.bytes).map fun r => { w with addr := r.1, bytes := r.2 }

/-- Whether a byte returns from the store: one of the context's pages, or of an entry of its tables in whose place the
die holds no other (R323; log 73, DEDUCED). -/
def Evacuated.returns (e : Evacuated) (d : Die) (a : Nat) : Bool :=
  inPages e.pages a || (inPages e.tables a && (memGetN d.mem (a / 8 * 8) 8).all (· == 0))

/-- A die with evacuated pages in their place again; its other bytes stay (R323; log 73, DEDUCED). -/
def Die.takesBack (e : Evacuated) (d : Die) : Die :=
  let pick := e.returns d
  let stays (a : Nat) : Bool := !pick a
  { d with
    base := overlay pick e.base d.base, mem := overlay pick e.mem d.mem
    log := e.log.flatMap (WriteRec.part pick) ++ d.log.flatMap (WriteRec.part stays)
    stampPages := (d.stampPages.filter fun g => stays (0x4000 * g)) ++ e.stampPages.filter fun g => pick (0x4000 * g)
    stampLines := (d.stampLines.filter fun l => stays l.line) ++ e.stampLines.filter fun l => pick l.line
    released := (d.released.filter fun x => stays x.1) ++ e.released.filter fun x => pick x.1
    away := false }

/-- The evacuated pages of a part return to the selected die and are freed from the store (R323). -/
def bringBack (p : Partition) (pos : Nat) (s : State) : State := match evacOf s p pos with
  | none => s
  | some e =>
    (s.upDie (Die.takesBack e)).upPkg fun k =>
        { k with evac := k.evac.filter fun x => !(x.part == e.part && x.ctx == e.ctx && x.pos == e.pos) }

/-- A register that names a partition in bits [31:16], with the new place's number (R186, R270, R310). -/
def rePart (p q : Partition) (x : Word) : Word :=
  if wbits x 31 16 == p.num then (x &&& ~~~(0xFFFF0000 : Word)) ||| wordN (q.num * 2 ^ 16) else x

/-- The selected core takes its saved state, its tiles from their shadows, and PARTID of the place, with RETRIED 0;
another core keeps its own (R230, R309, R310). -/
def loadCore (q : Partition) (x : DieShadow) (s : State) : State := match x.cores.find? fun c => c.num == s.core.num with
  | none => s
  | some c =>
    let s1 := s.upCore fun _ => if c.record.isSome then { c with partid := partWord q, retried := false } else c
    if c.record.isSome then s1.upEngine fun e => e.restore c.shadow else s1

/-- The selected die takes its saved part of the context p at the place q (R309, R310; log 70, DEDUCED). -/
def loadDie (p q : Partition) (s : State) : State := match p.shadow.find? fun x => q.first + x.pos == s.die.num with
  | none => s
  | some x =>
    let s1 := (bringBack p x.pos s).upDie fun d => { d with
      queues := x.queues.map fun y => { y with cfg := rePart p q y.cfg }
      aps := x.aps.map fun a => { a with ctl := rePart p q a.ctl }
      ptroots := d.ptroots.set q.slot x.ptroot
      last := x.last, crews := x.crews, watches := x.watches, waiters := x.waiters, k := x.k
      phase := x.phase, elapsed := x.elapsed, recv := x.recv, send := x.send, xch := x.xch, found := []
      wrote := x.wrote, past := x.past, acc := x.acc }
    eachCore (loadCore (p.moved q) x) (setModes (p.moved q) s1)

/-- The circuits of the context, at its place; those that a swap closed are tuned again (R310, R336). -/
def retune (p q : Partition) (k : Package) : Package :=
  { k with conns := k.conns.map fun c =>
      if c.owner == p.num && c.st != .free then
        { c with owner := q.num, src := c.src + q.first - p.first
                 st := if c.st == .closed && c.swap then .tuning else c.st }
      else c }

/-- The context leaves the partition p for the place q (R310). -/
def moveContext (p q : Partition) (k : Package) : Package :=
  { k with parts := k.parts.map fun x =>
      if x.num == q.num then p.moved q
      else if x.num == p.num then { newPartition p.num p.slot p.first p.ndie with ctx := p.ctx, hostOpen := p.hostOpen }
      else x }

/-- A saved mailbox returns before what the host has written since; what passes 64 entries is dropped and counted (R309,
R371; log 70, DEDUCED). -/
def restoreMbox (slot : Fin 16) (saved : List (Nat × Word)) (s : State) : State :=
  let l := saved ++ vget s.pkg.mbox slot []
  (s.upMbox slot fun _ => l.take 64).upPkg fun k =>
    { k with drops := vmod k.drops slot fun n => BitVec.ofNat 16 (min 0xFFFF (n.toNat + (l.length - 64))) }

/-- RESTORE (R298, R310). -/
def execRestore (first : Nat) (s : State) : Host.Outcome State Fault Refusal :=
  .next (whenState [.swapped] (fun p => match placeOf s p first with
    | none => s.status "RESTORE" "PLACE" 0
    | some q => match placeStatus s p q with
      | some st => s.status "RESTORE" st 0
      | none =>
        let s1 := eachDie (diesOf q.num s) (loadDie p q) s
        (restoreMbox q.slot p.savedMbox s1).upPkg fun k => moveContext p q (retune p q k)) s)

/-- The saved watches of the selected die: each record is runnable with STATUS 1 (R295). -/
def rearm (s : State) : State :=
  let l := s.die.watches.filter (·.saved)
  l.foldl (fun t w => makeRunnable 1 w.cont t)
    (s.upDie fun d => { d with watches := d.watches.filter fun w => !w.saved })

/-- RESTORE_COMPLETE (R298, R295, R307). -/
def execRestoreComplete (s : State) : Host.Outcome State Fault Refusal :=
  .next (whenState [.restoring] (fun _ => resumeContext false (eachCtxDie rearm s)) s)

/-! Kill (R311, R336). -/

/-- Step 3 of R311 on a die (log 71, DEDUCED). -/
def Die.killed (d : Die) : Die :=
  { d with
    queues := d.queues.map fun q => { q with hw := [], overflow := [], ringHead := 0, reserved := 0, age := 0 }
    last := Vector.replicate 16 0, crews := Vector.replicate 16 .start, watches := [], waiters := [], xch := []
    phase := .compute, found := [] }

/-- KILL: the cores are halted, and what the context holds is discarded; its kernels stay until a repeat that is still
running has ended (R298, R311; log 71, DEDUCED). -/
def execKill (s : State) : Host.Outcome State Fault Refusal :=
  .next (whenState liveStates (fun p =>
    let s1 := eachCtxDie (fun t => (eachCore killCore t).upDie Die.killed) s
    let s2 := (drainOwned false p.num s1).upPkg fun k => { k with conns := k.conns.map fun c =>
      if c.owner == p.num && c.st == .draining then { c with flight := 0 } else c }
    let runs := (partDies p.num s1).any fun x => x.1.any fun c => c.record.isSome
    (s2.upMbox p.slot fun _ => []).upPart fun p =>
      { p with state := .killed, reason := .none, pre := false, swapHeld := false
               kernels := if runs then p.kernels else [], hostOpen := false, shadow := [], savedMbox := [] }) s)

/-- A core zeroed (R311 step 4); its counts of paced bundles stay. -/
def Core.zeroed (c : Core) : Core := { Core.reset c.num with pacedN := c.pacedN, stretchN := c.stretchN }

/-- A die's part of step 4 of R311: its cores, engines and pages. -/
def Die.scrubbed (slot : Fin 16) (d : Die) : Die :=
  { d.killed with
    engines := Vector.replicate 64 .reset, ptroots := d.ptroots.set slot (d.ptroots[slot] &&& ~~~(1 : Word))
    base := [], mem := [], log := [], hostView := [], released := [], stampPages := [], stampLines := []
    ueccLines := [], away := false
    recv := Vector.replicate 16 none, send := Vector.replicate 16 none, elapsed := 0, k := 0, wrote := false }

/-- A circuit of a killed context closes (R311, R336). -/
def Circuit.killed (num : Nat) (c : Circuit) : Circuit :=
  if c.owner == num && (c.st == .open || c.st == .draining || c.st == .tuning) then
    { c with st := .closed, flight := 0, swap := false }
  else c

/-- KILL_SCRUB_COMPLETE: once every core is at rest, step 4 of R311 ends, and the context is EMPTY. -/
def execKillScrubComplete (s : State) : Host.Outcome State Fault Refusal :=
  .next (whenState [.killed] (fun p =>
    if (partDies p.num s).any fun x => x.1.any fun c => c.record.isSome then s
    else
    let s1 := eachCtxDie (fun t => (eachCore (fun u => u.upCore Core.zeroed) t).upDie (Die.scrubbed p.slot)) s
    let s2 := s1.upPkg fun k => { k with
      conns := k.conns.map (Circuit.killed p.num), evac := k.evac.filter fun e => !(e.part == p.num && e.ctx == p.ctx) }
    ((s2.upMbox p.slot fun _ => []).upPart fun p => { p with state := .empty, reason := .none, kernels := [] }).post (.killed p.num)) s)

end Sys2Proof.Machine
end

