-- ==== Sys2Proof/Machine/Jpeg.lean ====
section
/-! DEFINITION. Decoding of D.JPEG input (spec/22 R350 to R354): the sequential Huffman streams of ITU-T T.81 (log 14)
and the exact reconstruction of R352. Nothing here reads the machine's state. -/

namespace Sys2Proof.Machine

/-- Why decoding stops before its image is complete (R351). -/
inductive Halt where
  | unsupported | corrupt
  /-- The input ends. -/
  | ended
  deriving DecidableEq, Repr

/-- Input not yet consumed, the bytes consumed, and the bits of the byte that is being consumed. -/
structure InBits where
  rest : List Byte
  pos : Nat
  bits : List Bool
  deriving DecidableEq, Repr

/-- A decoder's step: a value and the input left, or why it stops and the bytes consumed. -/
abbrev Dec (α : Type) := Except (Halt × Nat) (α × InBits)

/-- The next byte. -/
def InBits.byte (x : InBits) : Dec Nat := match x.rest with
  | [] => .error (.ended, x.pos)
  | b :: t => .ok (b.toNat, { x with rest := t, pos := x.pos + 1 })

/-- The next n bytes. -/
def InBits.bytes : Nat → InBits → Dec (List Nat)
  | 0, x => .ok ([], x)
  | n + 1, x => match x.byte with
    | .error e => .error e
    | .ok (b, y) => match y.bytes n with
      | .error e => .error e
      | .ok (l, z) => .ok (b :: l, z)

/-- The natural number of bytes, most significant first. -/
def bigEnd (l : List Nat) : Nat := l.foldl (fun n b => 256 * n + b) 0

/-- The bits of a byte, most significant first. -/
def byteBits (b : Nat) : List Bool := [7, 6, 5, 4, 3, 2, 1, 0].map fun k => bitAt b k

/-! Markers (T.81 B.1). -/

/-- The status of a marker that stands where it may not (R351). -/
def strayMarker (m : Nat) : Halt :=
  if m == 0xDA || m == 0xDC || m == 0xDE || m == 0xDF then .unsupported
  else if 0xC0 ≤ m && m ≤ 0xCF && m != 0xC4 && m != 0xC8 then .unsupported
  else .corrupt

/-- The code of the next marker: a byte FF, fill bytes FF, and the code. -/
def markerCode : Nat → InBits → Dec Nat
  | 0, x => .error (.ended, x.pos)
  | n + 1, x => match x.byte with
    | .error e => .error e
    | .ok (b, y) => if b == 0xFF then markerCode n y else .ok (b, y)

/-- The next marker; anything else is CORRUPT. -/
def nextMarker (x : InBits) : Dec Nat := match x.byte with
  | .error e => .error e
  | .ok (b, y) => if b == 0xFF then markerCode (y.rest.length + 1) y else .error (.corrupt, y.pos)

/-! Entropy-coded data (T.81 F.2). -/

/-- The next bit; a byte FF is followed by 00 unless it begins a marker (T.81 F.2.2.5). -/
def InBits.bit (x : InBits) : Dec Bool := match x.bits with
  | b :: t => .ok (b, { x with bits := t })
  | [] => match x.byte with
    | .error e => .error e
    | .ok (v, y) =>
      if v != 0xFF then .ok (bitAt v 7, { y with bits := (byteBits v).drop 1 })
      else match markerCode (y.rest.length + 1) y with
        | .error e => .error e
        | .ok (m, z) => if m == 0 then .ok (true, { z with bits := (byteBits 0xFF).drop 1 }) else .error (strayMarker m, z.pos)

/-- The next n bits, most significant first, before the bits read so far. -/
def InBits.recv : Nat → Nat → InBits → Dec Nat
  | 0, v, x => .ok (v, x)
  | n + 1, v, x => match x.bit with
    | .error e => .error e
    | .ok (b, y) => InBits.recv n (2 * v + b.toNat) y

/-- EXTEND of n bits (T.81 F.2.2.1). -/
def extendBits (v n : Nat) : Int := if n == 0 then 0 else if v < 2 ^ (n - 1) then (v : Int) - (2 ^ n - 1 : Nat) else v

/-- A Huffman table: how many codes of each length, and their values. -/
structure Huff where
  counts : List Nat
  vals : List Nat
  deriving DecidableEq, Repr

/-- DECODE (T.81 F.2.2.3): `first` is the first code of the next length, `code` the bits read (log 14, PRESUMED). -/
def huffCode : List Nat → List Nat → Nat → Nat → InBits → Dec Nat
  | [], _, _, _, x => .error (.corrupt, x.pos)
  | n :: t, vals, first, code, x => match x.bit with
    | .error e => .error e
    | .ok (b, y) =>
      let c := 2 * code + b.toNat
      let f := 2 * first
      if c < f + n then match vals[c - f]? with
        | some v => .ok (v, y)
        | none => .error (.corrupt, y.pos)
      else huffCode t (vals.drop n) (f + n) c y

/-- The next symbol. -/
def Huff.next (h : Huff) (x : InBits) : Dec Nat := huffCode h.counts h.vals 0 0 x

/-- Whether the codes of a table fit their lengths. -/
def Huff.fits : List Nat → Nat → Bool
  | [], _ => true
  | n :: t, first => 2 * first + n ≤ 2 ^ (17 - (n :: t).length) && Huff.fits t (2 * first + n)

/-- The place of coefficient k of the zigzag order, row by row (T.81 A.3.6; log 14, PRESUMED). -/
def zigzag : List Nat :=
  [0, 1, 8, 16, 9, 2, 3, 10, 17, 24, 32, 25, 18, 11, 4, 5, 12, 19, 26, 33, 40, 48, 41, 34, 27, 20, 13, 6, 7, 14, 21, 28]
  ++ [35, 42, 49, 56, 57, 50, 43, 36, 29, 22, 15, 23, 30, 37, 44, 51, 58, 59, 52, 45, 38, 31, 39, 46, 53, 60, 61, 54]
  ++ [47, 55, 62, 63]

/-- The AC coefficients from index k on, set in a block in zigzag order (T.81 F.2.2.2, R351). -/
def acCoeffs (h : Huff) : Nat → Nat → List Int → InBits → Dec (List Int)
  | 0, _, l, x => .ok (l, x)
  | n + 1, k, l, x => match h.next x with
    | .error e => .error e
    | .ok (rs, y) =>
      let r := rs / 16
      let s := rs % 16
      if s == 0 then
        if r != 15 then .ok (l, y)
        else if 63 < k + 15 then .error (.corrupt, y.pos)
        else acCoeffs h n (k + 16) l y
      else if 63 < k + r then .error (.corrupt, y.pos)
      else match y.recv s 0 with
        | .error e => .error e
        | .ok (v, z) =>
          let l' := l.set (k + r) (extendBits v s)
          if k + r == 63 then .ok (l', z) else acCoeffs h n (k + r + 1) l' z

/-- One block: its 64 coefficients in zigzag order; `pred` is the prediction of the first. -/
def blockCoeffs (dc ac : Huff) (pred : Int) (x : InBits) : Dec (List Int) := match dc.next x with
  | .error e => .error e
  | .ok (s, y) =>
    if 15 < s then .error (.corrupt, y.pos)
    else match y.recv s 0 with
      | .error e => .error e
      | .ok (v, z) => acCoeffs ac 66 1 ((pred + extendBits v s) :: List.replicate 63 0) z

/-! Reconstruction (R352). -/

/-- CT. -/
def ctTable : List Int := [4096, 4017, 3784, 3406, 2896, 2276, 1567, 799, 0]

/-- K(k, n, N). -/
def idctK (k n nn : Nat) : Int :=
  if k == 0 then 2896
  else
    let j0 := (2 * n + 1) * k * (8 / nn) % 32
    let j := if 16 < j0 then 32 - j0 else j0
    if j ≤ 8 then nth ctTable j 0 else -(nth ctTable (16 - j) 0)

/-- clamp to 16 bits. -/
def clamp16 (x : Int) : Int := clampI x (-32768) 32767

/-- The sum of f over 0 to n − 1. -/
def sumI (n : Nat) (f : Nat → Int) : Int := ((List.range n).map f).foldl (· + ·) 0

/-- `idct(F, N)`: the N × N samples of a block of dequantised coefficients, row by row; p is the precision. -/
def idct (p nn : Nat) (f : List Int) : List (List Nat) :=
  let g := (List.range nn).map fun u => (List.range nn).map fun v => clamp16 (nth f (8 * u + v) 0)
  let at' (m : List (List Int)) (i j : Nat) : Int := nth (nth m i []) j 0
  let t := (List.range nn).map fun n => (List.range nn).map fun v =>
    clamp16 ((sumI nn (fun u => idctK u n nn * at' g u v) + 1024) / 2048)
  (List.range nn).map fun n => (List.range nn).map fun m =>
    (clampI ((sumI nn (fun v => idctK v m nn * at' t n v) + 16384) / 32768 + 2 ^ (p - 1)) 0 (2 ^ p - 1)).toNat

/-- The dequantised block in row order from coefficients and a quantisation table in zigzag order. -/
def dequant (q : List Nat) (c : List Int) : List Int :=
  ((c.zip q).zip zigzag).foldl (fun l x => l.set x.2 (x.1.1 * x.1.2)) (List.replicate 64 0)

/-! Tables and headers (T.81 B.2). -/

/-- A component of the frame: its id, sampling factors and quantisation table. -/
structure JComp where
  id : Nat
  h : Nat
  v : Nat
  tq : Nat
  deriving DecidableEq, Repr

/-- The frame header: precision, height, width, components. -/
structure JFrame where
  p : Nat
  y : Nat
  x : Nat
  comps : List JComp
  deriving DecidableEq, Repr

/-- What the markers before a scan have defined. -/
structure JTables where
  quant : Vector (Option (List Nat)) 4
  dc : Vector (Option Huff) 4
  ac : Vector (Option Huff) 4
  ri : Nat
  frame : Option JFrame
  deriving DecidableEq, Repr

/-- Nothing defined. -/
def JTables.none : JTables :=
  ⟨Vector.replicate 4 Option.none, Vector.replicate 4 Option.none, Vector.replicate 4 Option.none, 0, Option.none⟩

/-- Entry k of four, or none. -/
def jget {α : Type} (v : Vector (Option α) 4) (k : Nat) : Option α := if h : k < 4 then v[k] else none

/-- The quantisation tables of DQT; none: malformed. -/
def readDqt : Nat → List Nat → Vector (Option (List Nat)) 4 → Option (Vector (Option (List Nat)) 4)
  | 0, _, v => some v
  | _ + 1, [], v => some v
  | n + 1, b :: t, v =>
    let w := b / 16
    if 1 < w || 3 < b % 16 || t.length < 64 * (w + 1) then none
    else
      let q := (List.range 64).map fun k => bigEnd ((t.drop (k * (w + 1))).take (w + 1))
      readDqt n (t.drop (64 * (w + 1))) (v.set (Fin.ofNat 4 (b % 16)) (some q))

/-- The Huffman tables of DHT; none: malformed. -/
def readDht : Nat → List Nat → Vector (Option Huff) 4 × Vector (Option Huff) 4 →
    Option (Vector (Option Huff) 4 × Vector (Option Huff) 4)
  | 0, _, v => some v
  | _ + 1, [], v => some v
  | n + 1, b :: t, v =>
    let counts := t.take 16
    let m := counts.foldl (· + ·) 0
    if 1 < b / 16 || 3 < b % 16 || t.length < 16 + m || 256 < m || !Huff.fits counts 0 then none
    else
      let k := Fin.ofNat 4 (b % 16)
      let h : Huff := ⟨counts, (t.drop 16).take m⟩
      readDht n (t.drop (16 + m)) (if b / 16 == 0 then (v.1.set k (some h), v.2) else (v.1, v.2.set k (some h)))

/-- The components of a frame header. -/
def readComps : Nat → List Nat → List JComp
  | 0, _ => []
  | n + 1, c :: hv :: tq :: t => ⟨c, hv / 16, hv % 16, tq⟩ :: readComps n t
  | _ + 1, _ => []

/-- Whether the components are those of R350: one; or three at 4:4:4, 4:2:2 or 4:2:0. -/
def compsOk (l : List JComp) : Bool :=
  match l with
  | [a] => 1 ≤ a.h && a.h ≤ 4 && 1 ≤ a.v && a.v ≤ 4
  | [a, b, c] => b.h == 1 && b.v == 1 && c.h == 1 && c.v == 1
      && ((a.h == 1 && a.v == 1) || (a.h == 2 && a.v == 1) || (a.h == 2 && a.v == 2))
  | _ => false

/-- The frame of SOF0 or SOF1 (R350, R351). -/
def readSof (l : List Nat) : Except Halt JFrame :=
  match l with
  | p :: y1 :: y0 :: x1 :: x0 :: n :: t =>
    let f : JFrame := ⟨p, 256 * y1 + y0, 256 * x1 + x0, readComps n t⟩
    if t.length != 3 * n then .error .corrupt
    else if (p != 8 && p != 12) || f.y == 0 || !compsOk f.comps then .error .unsupported
    else if f.x == 0 || f.comps.any (fun c => 3 < c.tq) then .error .corrupt
    else .ok f
  | _ => .error .corrupt

/-- The size that a frame header names, whatever else is wrong with it (R355). -/
def sofSize (l : List Nat) : Option JFrame :=
  match l with
  | p :: y1 :: y0 :: x1 :: x0 :: _ => some ⟨p, 256 * y1 + y0, 256 * x1 + x0, []⟩
  | _ => none

/-- One component of a scan: its tables. -/
structure JScan where
  comp : JComp
  q : List Nat
  dc : Huff
  ac : Huff
  deriving DecidableEq, Repr

/-- The scan of SOS: every component of the frame, in its order, each with defined tables (R350, R351). -/
def readSos (t : JTables) (f : JFrame) (l : List Nat) : Except Halt (List JScan) :=
  match l with
  | [] => .error .corrupt
  | n :: r =>
    if r.length != 2 * n + 3 then .error .corrupt
    else if n != f.comps.length then .error .unsupported
    else
      f.comps.zipIdx.foldr (fun c acc => match acc with
        | .error e => .error e
        | .ok out =>
          let tab := nth r (2 * c.2 + 1) 0
          if nth r (2 * c.2) 0 != c.1.id then .error .corrupt
          else match jget t.quant c.1.tq, jget t.dc (tab / 16), jget t.ac (tab % 16) with
            | some q, some dc, some ac => .ok (⟨c.1, q, dc, ac⟩ :: out)
            | _, _, _ => .error .corrupt) (.ok [])

/-! The scan. -/

/-- The blocks of a component in one MCU, in order, with its prediction after them. -/
def mcuBlocks (sc : JScan) : Nat → Int → InBits → Dec (List (List Int) × Int)
  | 0, pred, x => .ok (([], pred), x)
  | n + 1, pred, x => match blockCoeffs sc.dc sc.ac pred x with
    | .error e => .error e
    | .ok (c, y) => match mcuBlocks sc n (nth c 0 0) y with
      | .error e => .error e
      | .ok (r, z) => .ok ((c :: r.1, r.2), z)

/-- Blocks of a component in an MCU: one in a scan of one component (T.81 A.2.2). -/
def JScan.count (sc : JScan) (single : Bool) : Nat := if single then 1 else sc.comp.h * sc.comp.v

/-- One MCU: the blocks of each component, and the predictions after it. -/
def mcu (single : Bool) : List (JScan × Int) → InBits → Dec (List (List (List Int)) × List Int)
  | [], x => .ok (([], []), x)
  | (sc, pred) :: t, x => match mcuBlocks sc (sc.count single) pred x with
    | .error e => .error e
    | .ok (r, y) => match mcu single t y with
      | .error e => .error e
      | .ok (q, z) => .ok ((r.1 :: q.1, r.2 :: q.2), z)

/-- A restart marker of a number (T.81 E.2.4, R351). -/
def restart (k : Nat) (x : InBits) : Dec Unit := match nextMarker { x with bits := [] } with
  | .error e => .error e
  | .ok (m, y) => if m == 0xD0 + k % 8 then .ok ((), y) else .error (strayMarker m, y.pos)

/-- The state of a scan: predictions, and MCUs decoded. -/
structure ScanSt where
  preds : List Int
  done : Nat
  deriving DecidableEq, Repr

/-- A row of n MCUs. -/
def mcuRow (scs : List JScan) (ri : Nat) : Nat → ScanSt → InBits → Dec (List (List (List (List Int))) × ScanSt)
  | 0, st, x => .ok (([], st), x)
  | n + 1, st, x =>
    let begun : Dec (List Int) := if ri != 0 && st.done != 0 && st.done % ri == 0 then
        (match restart (st.done / ri - 1) x with
          | .error e => .error e
          | .ok (_, y) => .ok (scs.map fun _ => (0 : Int), y))
      else .ok (st.preds, x)
    match begun with
    | .error e => .error e
    | .ok (preds, y) => match mcu (scs.length == 1) (scs.zip preds) y with
      | .error e => .error e
      | .ok (r, z) => match mcuRow scs ri n ⟨r.2, st.done + 1⟩ z with
        | .error e => .error e
        | .ok (q, w) => .ok ((r.1 :: q.1, q.2), w)

/-! Pixels (R353, R354). -/

/-- Output of a decode: gray, or red, green and blue. -/
abbrev Pixel := List Nat

/-- A pixel from its three components (R354). -/
def rgbOf (p y cb cr : Nat) : Pixel :=
  let c : Int := (2 ^ (p - 1) : Nat)
  let b := (cb : Int) - c
  let r := (cr : Int) - c
  let fit (x : Int) : Nat := (clampI x 0 ((2 ^ p : Nat) - 1)).toNat
  [fit (y + (91881 * r + 32768) / 65536), fit (y + (-22554 * b - 46802 * r + 32768) / 65536),
    fit (y + (116130 * b + 32768) / 65536)]

/-- Row y of the pixels of an MCU whose blocks are h across, from reconstructed blocks of n × n samples. -/
def blockRow (h n : Nat) (blocks : List (List (List Nat))) (y : Nat) : List Nat :=
  ((List.range h).flatMap fun k => nth (nth blocks (y / n * h + k) []) (y % n) [])

/-- The samples of a component in row y of an MCU of h × v luma blocks: chroma is replicated (R353). -/
def compRow (h v n : Nat) (sc : JScan) (single : Bool) (blocks : List (List (List Nat))) (y : Nat) : List Nat :=
  if single then blockRow 1 n blocks y
  else
    let dx := h / sc.comp.h
    let dy := v / sc.comp.v
    (blockRow sc.comp.h n blocks (y / dy)).flatMap fun s => List.replicate dx s

/-- Row y of the pixels of one MCU. -/
def mcuPixels (p n : Nat) (rgb : Bool) (scs : List JScan) (blocks : List (List (List (List Nat)))) (y : Nat) : List Pixel :=
  let h := (scs.map fun s => s.comp.h).foldl max 1
  let v := (scs.map fun s => s.comp.v).foldl max 1
  let rows := (scs.zip blocks).map fun q => compRow h v n q.1 (scs.length == 1) q.2 y
  match rows with
  | [a, b, c] => ((a.zip b).zip c).map fun q => if rgb then rgbOf p q.1.1 q.1.2 q.2 else [q.1.1]
  | a :: _ => a.map fun s => if rgb then [s, s, s] else [s]
  | [] => []

/-- The pixel rows of a row of MCUs, cut to the output width. -/
def rowPixels (p n w : Nat) (rgb : Bool) (scs : List JScan) (row : List (List (List (List Int)))) : List (List Pixel) :=
  let v := if scs.length == 1 then 1 else (scs.map fun s => s.comp.v).foldl max 1
  let blocks := row.map fun m => (scs.zip m).map fun q => q.2.map fun c => idct p n (dequant q.1.q c)
  (List.range (v * n)).map fun y => (blocks.flatMap fun m => mcuPixels p n rgb scs m y).take w

/-- What a decode has produced: the precision of its samples, output width and height (0: unknown), pixel rows, for
each the bytes consumed when it was complete, and how it ended: none is OK. -/
structure Decoded where
  p : Nat
  w : Nat
  h : Nat
  rows : List (List Pixel)
  offs : List Nat
  halt : Option Halt
  stop : Nat
  deriving DecidableEq, Repr

/-- Rows of MCUs one after another. -/
def mcuRows (f : JFrame) (scs : List JScan) (ri n w : Nat) (rgb : Bool) (per : Nat) : Nat → ScanSt → InBits → Decoded
  | 0, _, x => ⟨f.p, w, 0, [], [], none, x.pos⟩
  | k + 1, st, x => match mcuRow scs ri per st x with
    | .error e => ⟨f.p, w, 0, [], [], some e.1, e.2⟩
    | .ok (r, y) =>
      let px := rowPixels f.p n w rgb scs r.1
      let d := mcuRows f scs ri n w rgb per k r.2 y
      { d with rows := px ++ d.rows, offs := px.map (fun _ => y.pos) ++ d.offs }

/-- n divided by k, rounded up. -/
def upDiv (n k : Nat) : Nat := (n + k - 1) / k

/-- The scan, decoded at divisor s (log 53, DEDUCED). -/
def decodeScan (f : JFrame) (scs : List JScan) (ri s : Nat) (rgb : Bool) (x : InBits) : Decoded :=
  let single := scs.length == 1
  let h := if single then 1 else (scs.map fun c => c.comp.h).foldl max 1
  let v := if single then 1 else (scs.map fun c => c.comp.v).foldl max 1
  let d := mcuRows f scs ri (8 / s) (upDiv f.x s) rgb (upDiv f.x (8 * h)) (upDiv f.y (8 * v)) ⟨scs.map fun _ => 0, 0⟩ x
  { d with h := upDiv f.y s, rows := d.rows.take (upDiv f.y s), offs := d.offs.take (upDiv f.y s) }

/-- A decode that ends before its scan. -/
def noImage (t : JTables) (s : Nat) (e : Halt) (pos : Nat) : Decoded :=
  match t.frame with
  | none => ⟨8, 0, 0, [], [], some e, pos⟩
  | some f => ⟨f.p, upDiv f.x s, upDiv f.y s, [], [], some e, pos⟩

/-- A marker segment's bytes after its length (log 14, PRESUMED). -/
def segment (x : InBits) : Dec (List Nat) := match x.bytes 2 with
  | .error e => .error e
  | .ok (l, y) => if bigEnd l < 2 then .error (.corrupt, y.pos) else y.bytes (bigEnd l - 2)

/-- Whether a marker is one that a segment follows and that the decoder reads or skips. -/
def knownSegment (m : Nat) : Bool :=
  m == 0xC0 || m == 0xC1 || m == 0xC4 || m == 0xDA || m == 0xDB || m == 0xDD || m == 0xFE || (0xE0 ≤ m && m ≤ 0xEF)

/-- Markers and segments up to the scan, and the scan (T.81 B.2, R350, R351; log 53, DEDUCED). -/
def decodeSegments (s : Nat) (rgb : Bool) : Nat → JTables → InBits → Decoded
  | 0, t, x => noImage t s .ended x.pos
  | n + 1, t, x => match nextMarker x with
    | .error e => noImage t s e.1 e.2
    | .ok (m, y) =>
      if !knownSegment m then noImage t s (strayMarker m) y.pos
      else if (m == 0xC0 || m == 0xC1) && t.frame.isSome then noImage t s .unsupported y.pos
      else match segment y with
        | .error e => noImage t s e.1 e.2
        | .ok (l, z) =>
          if m == 0xC4 then match readDht l.length l (t.dc, t.ac) with
            | none => noImage t s .corrupt z.pos
            | some v => decodeSegments s rgb n { t with dc := v.1, ac := v.2 } z
          else if m == 0xDB then match readDqt l.length l t.quant with
            | none => noImage t s .corrupt z.pos
            | some v => decodeSegments s rgb n { t with quant := v } z
          else if m == 0xDD then
            if l.length == 2 then decodeSegments s rgb n { t with ri := bigEnd l } z else noImage t s .corrupt z.pos
          else if m == 0xC0 || m == 0xC1 then match readSof l with
            | .error e => noImage { t with frame := sofSize l } s e z.pos
            | .ok f => decodeSegments s rgb n { t with frame := some f } z
          else if m == 0xDA then match t.frame with
            | none => noImage t s .corrupt z.pos
            | some f => match readSos t f l with
              | .error e => noImage t s e z.pos
              | .ok scs => decodeScan f scs t.ri s rgb z
          else decodeSegments s rgb n t z

/-- How a stream ends whose first marker is not SOI: a first frame or scan there is out of place (R351). -/
def firstMarker (m : Nat) : Halt := if m == 0xC0 || m == 0xC1 || m == 0xDA then .corrupt else strayMarker m

/-- D.JPEG at divisor s: an interchange stream begins with SOI. -/
def decodeJpeg (s : Nat) (rgb : Bool) (input : List Byte) : Decoded :=
  match nextMarker ⟨input, 0, []⟩ with
  | .error e => noImage .none s e.1 e.2
  | .ok (m, x) =>
    if m == 0xD8 then decodeSegments s rgb (input.length + 1) .none x
    else noImage .none s (firstMarker m) x.pos

end Sys2Proof.Machine
end

