-- ==== Sys2Proof/Machine/Fax.lean ====
section
/-! DEFINITION. Decoding of D.G4 input (spec/22 R350): the two-dimensional code of ITU-T T.6 with the run codes of
T.4 (log 14). Nothing here reads the machine's state. -/

namespace Sys2Proof.Machine

/-- White run codes of T.4: length, code, run. -/
def whiteCodes : List (Nat × Nat × Nat) :=
  [(8, 0b00110101, 0), (6, 0b000111, 1), (4, 0b0111, 2), (4, 0b1000, 3), (4, 0b1011, 4)]
  ++ [(4, 0b1100, 5), (4, 0b1110, 6), (4, 0b1111, 7), (5, 0b10011, 8), (5, 0b10100, 9)]
  ++ [(5, 0b00111, 10), (5, 0b01000, 11), (6, 0b001000, 12), (6, 0b000011, 13), (6, 0b110100, 14)]
  ++ [(6, 0b110101, 15), (6, 0b101010, 16), (6, 0b101011, 17), (7, 0b0100111, 18), (7, 0b0001100, 19)]
  ++ [(7, 0b0001000, 20), (7, 0b0010111, 21), (7, 0b0000011, 22), (7, 0b0000100, 23), (7, 0b0101000, 24)]
  ++ [(7, 0b0101011, 25), (7, 0b0010011, 26), (7, 0b0100100, 27), (7, 0b0011000, 28), (8, 0b00000010, 29)]
  ++ [(8, 0b00000011, 30), (8, 0b00011010, 31), (8, 0b00011011, 32), (8, 0b00010010, 33), (8, 0b00010011, 34)]
  ++ [(8, 0b00010100, 35), (8, 0b00010101, 36), (8, 0b00010110, 37), (8, 0b00010111, 38), (8, 0b00101000, 39)]
  ++ [(8, 0b00101001, 40), (8, 0b00101010, 41), (8, 0b00101011, 42), (8, 0b00101100, 43), (8, 0b00101101, 44)]
  ++ [(8, 0b00000100, 45), (8, 0b00000101, 46), (8, 0b00001010, 47), (8, 0b00001011, 48), (8, 0b01010010, 49)]
  ++ [(8, 0b01010011, 50), (8, 0b01010100, 51), (8, 0b01010101, 52), (8, 0b00100100, 53), (8, 0b00100101, 54)]
  ++ [(8, 0b01011000, 55), (8, 0b01011001, 56), (8, 0b01011010, 57), (8, 0b01011011, 58), (8, 0b01001010, 59)]
  ++ [(8, 0b01001011, 60), (8, 0b00110010, 61), (8, 0b00110011, 62), (8, 0b00110100, 63), (5, 0b11011, 64)]
  ++ [(5, 0b10010, 128), (6, 0b010111, 192), (7, 0b0110111, 256), (8, 0b00110110, 320), (8, 0b00110111, 384)]
  ++ [(8, 0b01100100, 448), (8, 0b01100101, 512), (8, 0b01101000, 576), (8, 0b01100111, 640), (9, 0b011001100, 704)]
  ++ [(9, 0b011001101, 768), (9, 0b011010010, 832), (9, 0b011010011, 896), (9, 0b011010100, 960), (9, 0b011010101, 1024)]
  ++ [(9, 0b011010110, 1088), (9, 0b011010111, 1152), (9, 0b011011000, 1216), (9, 0b011011001, 1280), (9, 0b011011010, 1344)]
  ++ [(9, 0b011011011, 1408), (9, 0b010011000, 1472), (9, 0b010011001, 1536), (9, 0b010011010, 1600), (6, 0b011000, 1664)]
  ++ [(9, 0b010011011, 1728)]

/-- Black run codes of T.4. -/
def blackCodes : List (Nat × Nat × Nat) :=
  [(10, 0b0000110111, 0), (3, 0b010, 1), (2, 0b11, 2), (2, 0b10, 3), (3, 0b011, 4)]
  ++ [(4, 0b0011, 5), (4, 0b0010, 6), (5, 0b00011, 7), (6, 0b000101, 8), (6, 0b000100, 9)]
  ++ [(7, 0b0000100, 10), (7, 0b0000101, 11), (7, 0b0000111, 12), (8, 0b00000100, 13), (8, 0b00000111, 14)]
  ++ [(9, 0b000011000, 15), (10, 0b0000010111, 16), (10, 0b0000011000, 17), (10, 0b0000001000, 18), (11, 0b00001100111, 19)]
  ++ [(11, 0b00001101000, 20), (11, 0b00001101100, 21), (11, 0b00000110111, 22), (11, 0b00000101000, 23), (11, 0b00000010111, 24)]
  ++ [(11, 0b00000011000, 25), (12, 0b000011001010, 26), (12, 0b000011001011, 27), (12, 0b000011001100, 28), (12, 0b000011001101, 29)]
  ++ [(12, 0b000001101000, 30), (12, 0b000001101001, 31), (12, 0b000001101010, 32), (12, 0b000001101011, 33), (12, 0b000011010010, 34)]
  ++ [(12, 0b000011010011, 35), (12, 0b000011010100, 36), (12, 0b000011010101, 37), (12, 0b000011010110, 38), (12, 0b000011010111, 39)]
  ++ [(12, 0b000001101100, 40), (12, 0b000001101101, 41), (12, 0b000011011010, 42), (12, 0b000011011011, 43), (12, 0b000001010100, 44)]
  ++ [(12, 0b000001010101, 45), (12, 0b000001010110, 46), (12, 0b000001010111, 47), (12, 0b000001100100, 48), (12, 0b000001100101, 49)]
  ++ [(12, 0b000001010010, 50), (12, 0b000001010011, 51), (12, 0b000000100100, 52), (12, 0b000000110111, 53), (12, 0b000000111000, 54)]
  ++ [(12, 0b000000100111, 55), (12, 0b000000101000, 56), (12, 0b000001011000, 57), (12, 0b000001011001, 58), (12, 0b000000101011, 59)]
  ++ [(12, 0b000000101100, 60), (12, 0b000001011010, 61), (12, 0b000001100110, 62), (12, 0b000001100111, 63), (10, 0b0000001111, 64)]
  ++ [(12, 0b000011001000, 128), (12, 0b000011001001, 192), (12, 0b000001011011, 256), (12, 0b000000110011, 320), (12, 0b000000110100, 384)]
  ++ [(12, 0b000000110101, 448), (13, 0b0000001101100, 512), (13, 0b0000001101101, 576), (13, 0b0000001001010, 640), (13, 0b0000001001011, 704)]
  ++ [(13, 0b0000001001100, 768), (13, 0b0000001001101, 832), (13, 0b0000001110010, 896), (13, 0b0000001110011, 960), (13, 0b0000001110100, 1024)]
  ++ [(13, 0b0000001110101, 1088), (13, 0b0000001110110, 1152), (13, 0b0000001110111, 1216), (13, 0b0000001010010, 1280), (13, 0b0000001010011, 1344)]
  ++ [(13, 0b0000001010100, 1408), (13, 0b0000001010101, 1472), (13, 0b0000001011010, 1536), (13, 0b0000001011011, 1600), (13, 0b0000001100100, 1664)]
  ++ [(13, 0b0000001100101, 1728)]

/-- Make-up codes of either colour (T.4). -/
def longCodes : List (Nat × Nat × Nat) :=
  [(11, 0b00000001000, 1792), (11, 0b00000001100, 1856), (11, 0b00000001101, 1920), (12, 0b000000010010, 1984), (12, 0b000000010011, 2048)]
  ++ [(12, 0b000000010100, 2112), (12, 0b000000010101, 2176), (12, 0b000000010110, 2240), (12, 0b000000010111, 2304), (12, 0b000000011100, 2368)]
  ++ [(12, 0b000000011101, 2432), (12, 0b000000011110, 2496), (12, 0b000000011111, 2560)]

/-- The next bit of a T.6 image. -/
def InBits.faxBit (x : InBits) : Dec Bool := match x.bits with
  | b :: t => .ok (b, { x with bits := t })
  | [] => match x.byte with
    | .error e => .error e
    | .ok (v, y) => .ok (bitAt v 7, { y with bits := (byteBits v).drop 1 })

/-- The value of the next code of a table, of at most n bits more; none fits: CORRUPT (R351). -/
def faxCode (table : List (Nat × Nat × Nat)) : Nat → Nat → Nat → InBits → Dec Nat
  | 0, _, _, x => .error (.corrupt, x.pos)
  | n + 1, len, code, x => match x.faxBit with
    | .error e => .error e
    | .ok (b, y) =>
      let c := 2 * code + b.toNat
      match table.find? fun r => r.1 == len + 1 && r.2.1 == c with
      | some r => .ok (r.2.2, y)
      | none => faxCode table n (len + 1) c y

/-- A run of a colour: make-up codes, then a code below 64; n bounds the codes. -/
def faxRun (black : Bool) : Nat → InBits → Dec Nat
  | 0, x => .error (.ended, x.pos)
  | n + 1, x => match faxCode ((if black then blackCodes else whiteCodes) ++ longCodes) 13 0 0 x with
    | .error e => .error e
    | .ok (r, y) => if r < 64 then .ok (r, y) else match faxRun black n y with
      | .error e => .error e
      | .ok (q, z) => .ok (r + q, z)

/-- A bound of the codes that are left. -/
def InBits.left (x : InBits) : Nat := 8 * x.rest.length + x.bits.length + 1

/-- The modes of T.6. -/
inductive FaxMode where
  | pass | horizontal
  /-- a1 lies at b1 plus this. -/
  | vertical (d : Int)
  deriving DecidableEq, Repr

/-- Mode codes of T.6: length, code, and the mode's place in `faxModes`. -/
def modeCodes : List (Nat × Nat × Nat) :=
  [(4, 0b0001, 0), (3, 0b001, 1), (1, 0b1, 2), (3, 0b011, 3), (6, 0b000011, 4), (7, 0b0000011, 5), (3, 0b010, 6),
    (6, 0b000010, 7), (7, 0b0000010, 8)]

/-- The modes in the order of `modeCodes`. -/
def faxModes : List FaxMode :=
  [.pass, .horizontal, .vertical 0, .vertical 1, .vertical 2, .vertical 3, .vertical (-1), .vertical (-2), .vertical (-3)]

/-- The next mode; an extension is no code of R350. -/
def faxMode (x : InBits) : Dec FaxMode := match faxCode modeCodes 7 0 0 x with
  | .error e => .error e
  | .ok (k, y) => .ok (nth faxModes k .pass, y)

/-- The first changing element of a line from position p on, n elements being left, whose colour is the one wanted;
`prev` is the colour of the element before p. The end of the line counts as changing. -/
def changing (want : Option Bool) : List Bool → Bool → Nat → Nat
  | [], _, p => p
  | b :: t, prev, p => if b != prev && (want.isNone || want == some b) then p else changing want t b (p + 1)

/-- The colour of the element before position p; before the first it is white. -/
def colourBefore (l : List Bool) (p : Nat) : Bool := if p == 0 then false else nth l (p - 1) false

/-- b1: the first changing element of the reference line right of a0 and of the other colour (T.6 2.2.1); `next` is
the position after a0. -/
def faxB1 (ref : List Bool) (next : Nat) (black : Bool) : Nat :=
  changing (some (!black)) (ref.drop next) (colourBefore ref next) next

/-- b2: the next changing element right of b1. -/
def faxB2 (ref : List Bool) (b1 : Nat) : Nat := changing none (ref.drop (b1 + 1)) (nth ref b1 false) (min ref.length (b1 + 1))

/-- One coding line of width w: `line` holds the elements coded so far, `next` is the position after a0 (0 only at the
start of the line), n bounds the codes. -/
def faxLine (w : Nat) (ref : List Bool) : Nat → Nat → Bool → List Bool → InBits → Dec (List Bool)
  | 0, _, _, _, x => .error (.ended, x.pos)
  | n + 1, next, black, line, x =>
    if w ≤ line.length then .ok (line, x)
    else
      let b1 := faxB1 ref next black
      match faxMode x with
      | .error e => .error e
      | .ok (.pass, y) =>
        let b2 := faxB2 ref b1
        faxLine w ref n (b2 + 1) black (line ++ List.replicate (b2 - line.length) black) y
      | .ok (.horizontal, y) => match faxRun black y.left y with
        | .error e => .error e
        | .ok (r1, z) => match faxRun (!black) z.left z with
          | .error e => .error e
          | .ok (r2, u) =>
            if w < line.length + r1 + r2 then .error (.corrupt, u.pos)
            else
              let l := line ++ List.replicate r1 black ++ List.replicate r2 (!black)
              faxLine w ref n (l.length + 1) black l u
      | .ok (.vertical d, y) =>
        let a1 : Int := (b1 : Int) + d
        if a1 < (next : Int) || (w : Int) < a1 then .error (.corrupt, y.pos)
        else
          faxLine w ref n (a1.toNat + 1) (!black) (line ++ List.replicate (a1.toNat - line.length) black) y

/-- The lines of an image, with the bytes consumed after each, and how it ended. -/
def faxLines (w : Nat) : Nat → List Bool → InBits → List (List Bool × Nat) × Option Halt × Nat
  | 0, _, x => ([], none, x.pos)
  | n + 1, ref, x => match faxLine w ref (8 * x.rest.length + 9) 0 false [] x with
    | .error e => ([], some e.1, e.2)
    | .ok (l, y) => let r := faxLines w n l y; ((l, y.pos) :: r.1, r.2.1, r.2.2)

/-- An image of w × h, an all-white line before its first (T.6). -/
def decodeFax (w h : Nat) (input : List Byte) : List (List Bool × Nat) × Option Halt × Nat :=
  faxLines w h (List.replicate w false) ⟨input, 0, []⟩

end Sys2Proof.Machine
end

