-- ==== Sys2Proof/Machine/Geo.lean ====
section
/-! DEFINITION. The geometric predicates on one lane (spec/09 R169 to R173): exact signs, symbolic perturbation, and
the stage that settles a lane. -/

namespace Sys2Proof

/-- The parameters of a predicate's determinant: used coordinates, whether rows are lifted, and c as m·2^e (R169,
R173). -/
structure GeoForm where
  dim : Nat
  lift : Bool
  cm : Nat
  ce : Int

/-- R169, R173; SEGX uses the form of ORIENT2. -/
def GeoPred.form : GeoPred → GeoForm
  | .orient2 | .segx => ⟨2, false, 3 * 2 ^ 49 + 1, -102⟩
  | .orient3 => ⟨3, false, 7 * (2 ^ 50 + 1), -103⟩
  | .incircle => ⟨2, true, 10 * 2 ^ 48 + 3, -101⟩
  | .insphere => ⟨3, true, 16 * 2 ^ 48 + 7, -101⟩

namespace Machine

/-- Addition, subtraction and multiplication of a kind of number. -/
structure Arith (α : Type) where
  zero : α
  add : α → α → α
  sub : α → α → α
  mul : α → α → α

/-- Exact integers. -/
def intArith : Arith Int := ⟨0, (· + ·), (· - ·), (· * ·)⟩

/-- FP64 encodings, every operation RNE (R173). -/
def f64Arith : Arith Nat where
  zero := 0
  add x y := (f64.enc .rne false (fAdd .rne (f64.val x) (f64.val y))).1
  sub x y := (f64.enc .rne false (fAdd .rne (f64.val x) (f64.val y).negate)).1
  mul x y := (f64.enc .rne false (fMul (f64.val x) (f64.val y))).1

/-- FP64 encodings with every subtraction of terms replaced by addition (R173, P). -/
def f64Abs : Arith Nat := { f64Arith with sub := f64Arith.add }

/-- Two polynomials merged, with at most `fuel` terms looked at. -/
def polyMerge : Nat → List (Nat × Int) → List (Nat × Int) → List (Nat × Int)
  | 0, _, _ => []
  | fuel + 1, a, b => match a, b with
    | [], q => q
    | p, [] => p
    | (i, x) :: p, (j, y) :: q =>
      if i < j then (i, x) :: polyMerge fuel p ((j, y) :: q)
      else if j < i then (j, y) :: polyMerge fuel ((i, x) :: p) q
      else if x + y == 0 then polyMerge fuel p q else (i, x + y) :: polyMerge fuel p q

/-- The sum of two polynomials in ε: exponents strictly rising, no coefficient 0. -/
def polyAdd (a b : List (Nat × Int)) : List (Nat × Int) := polyMerge (a.length + b.length + 1) a b

/-- A polynomial negated. -/
def polyNeg (a : List (Nat × Int)) : List (Nat × Int) := a.map fun p => (p.1, -p.2)

/-- The product of two polynomials. -/
def polyMul (a b : List (Nat × Int)) : List (Nat × Int) :=
  a.foldl (fun s p => polyAdd s (b.map fun q => (p.1 + q.1, p.2 * q.2))) []

/-- Polynomials in ε. -/
def polyArith : Arith (List (Nat × Int)) := ⟨[], polyAdd, fun a b => polyAdd a (polyNeg b), polyMul⟩

/-- Terms t0 − t1 + t2 − …, summed left to right. -/
def alternate {α : Type} (o : Arith α) : Bool → α → List α → α
  | _, acc, [] => acc
  | minus, acc, x :: t => alternate o (!minus) (if minus then o.sub acc x else o.add acc x) t

/-- A list without entry j. -/
def without {α : Type} (j : Nat) (l : List α) : List α := l.take j ++ l.drop (j + 1)

/-- A determinant of at most `fuel + 1` rows: 2×2 as (a·d) − (b·c), larger ones along the first row with minors in
column order (R173). -/
def det {α : Type} (o : Arith α) : Nat → List (List α) → α
  | 0, _ => o.zero
  | fuel + 1, m => match m with
    | [[a, b], [c, d]] => o.sub (o.mul a d) (o.mul b c)
    | [] => o.zero
    | r :: rest =>
      let terms := (r.zipIdx).map fun p => o.mul p.1 (det o fuel (rest.map (without p.2)))
      match terms with
      | [] => o.zero
      | t :: ts => alternate o true t ts

/-- The row of a point against the last: differences, and the sum of their squares when lifted (R169). -/
def geoRow {α : Type} (o : Arith α) (lift : Bool) (p last : List α) : List α :=
  let r := List.zipWith o.sub p last
  if lift then
    match r.map fun x => o.mul x x with
    | [] => r
    | x :: t => r ++ [t.foldl o.add x]
  else r

/-- The rows of all points but the last (R169). -/
def geoRows {α : Type} (o : Arith α) (lift : Bool) (pts : List (List α)) : List (List α) :=
  match pts.getLast? with
  | none => []
  | some last => pts.dropLast.map fun p => geoRow o lift p last

/-- A finite FP32 encoding as an FP64 encoding, exactly. -/
def toF64 (x : Nat) : Nat :=
  match f32.val x with
  | .fin n m e => (f64.round .rne false n m e).1
  | .inf n => (f64.encInf false n).1
  | .nan _ => f64.qnan

/-- A finite FP32 encoding as an exact integer in units of 2^−149. -/
def toUnits (x : Nat) : Int :=
  match f32.val x with
  | .fin n m e => alignTo n m e (-149)
  | .inf _ => 0
  | .nan _ => 0

/-- The sign of an integer. -/
def signOf (x : Int) : Int := if x < 0 then -1 else if x == 0 then 0 else 1

/-- The absolute value of an FP64 encoding. -/
def f64Mag (x : Nat) : Nat := x % f64.signBit

/-- Whether stage A settles a determinant: |D̃| > c·P (R173). -/
def stageA (g : GeoForm) (pts : List (List Nat)) : Bool :=
  let rows := geoRows f64Arith g.lift (pts.map fun p => p.map toF64)
  let d := f64Mag (det f64Arith 4 rows)
  let p := det f64Abs 4 (rows.map fun r => r.map f64Mag)
  let cp := (f64.enc .rne false (fMul (.fin false g.cm g.ce) (f64.val p))).1
  fLess (f64.val cp) (f64.val d)

/-- Whether the difference of two FP32 values is exact in FP64 (R173, stage B). -/
def diffExact (x y : Nat) : Bool :=
  fCompare (f64.val (f64Arith.sub (toF64 x) (toF64 y))) (.fin (toUnits x < toUnits y) (toUnits x - toUnits y).natAbs
    (-149)) == some 0

/-- Whether every coordinate difference is exact in FP64. -/
def allExact (pts : List (List Nat)) : Bool :=
  match pts.getLast? with
  | none => true
  | some last => pts.dropLast.all fun p => (List.zipWith diffExact p last).all id

/-- The sign of the perturbed determinant: that of its lowest power of ε (R171). -/
def sosSign (g : GeoForm) (pts : List (List (List (Nat × Int)))) : Int :=
  match det polyArith 4 (geoRows polyArith g.lift pts) with
  | [] => 0
  | p :: _ => signOf p.2

/-- One determinant: its sign and the stage that settles it, 0, 1 or 2 (R170, R171, R173). `pert` holds the perturbed
points under .sos. -/
def orient (g : GeoForm) (pts : List (List Nat)) (pert : Option (List (List (List (Nat × Int))))) : Int × Nat :=
  let d := signOf (det intArith 4 (geoRows intArith g.lift (pts.map fun p => p.map toUnits)))
  let st := if stageA g pts then 0 else if allExact pts then 1 else 2
  match pert with
  | none => (d, st)
  | some q => (if d == 0 then sosSign g q else d, st)

/-- How many of the points rank before point j: by index, then operand position (R171). -/
def sosRank (ws : List Nat) (j : Nat) : Nat :=
  ((ws.zipIdx).filter fun p => let w := (ws[j]?).getD 0; p.1 < w || (p.1 == w && p.2 < j)).length

/-- A coordinate with its perturbation ε^(2^(d·rank + c)) (R171). -/
def perturb (dim rank c : Nat) (x : Nat) : List (Nat × Int) :=
  let u := toUnits x
  (if u == 0 then [] else [(0, u)]) ++ [(2 ^ (dim * rank + c), 2 ^ 149)]

/-- The perturbed points of a lane (R171). -/
def perturbed (dim : Nat) (pts : List (List Nat)) (ws : List Nat) : List (List (List (Nat × Int))) :=
  (pts.zipIdx).map fun p => (p.1.zipIdx).map fun x => perturb dim (sosRank ws p.2) x.2 x.1

/-- Whether a value lies between two others. -/
def between (x a b : Int) : Bool := min a b ≤ x && x ≤ max a b

/-- Whether a point lies in the closed bounding box of a segment (R172). -/
def inBox (f a b : List Nat) : Bool :=
  (List.range 2).all fun c =>
    let g (p : List Nat) : Int := toUnits ((p[c]?).getD 0)
    between (g f) (g a) (g b)

/-- The code and the stage of SEGX from its four points (R172). -/
def segx (pts : List (List Nat)) (pert : Option (List (List (List (Nat × Int))))) : Int × Nat :=
  let tri : List (Nat × Nat × Nat) := [(0, 1, 2), (0, 1, 3), (2, 3, 0), (2, 3, 1)]
  let sel {β : Type} (l : List (List β)) (t : Nat × Nat × Nat) : List (List β) :=
    [(l[t.1]?).getD [], (l[t.2.1]?).getD [], (l[t.2.2]?).getD []]
  let os := tri.map fun t => orient (GeoPred.form .orient2) (sel pts t) (pert.map fun q => sel q t)
  let o (i : Nat) : Int := ((os[i]?).getD (0, 0)).1
  let top := os.foldl (fun k p => max k p.2) 0
  let touch (p : (Int × Nat) × (Nat × Nat × Nat)) : Bool :=
    let g (i : Nat) : List Nat := (pts[i]?).getD []
    p.1.1 == 0 && inBox (g p.2.2.2) (g p.2.1) (g p.2.2.1)
  if o 0 * o 1 < 0 && o 2 * o 3 < 0 then (1, top)
  else if (os.zip tri).any touch then (0, top)
  else (-1, top)

/-- One enabled, finite lane: its code and stage (R170 to R173). -/
def geoLane (p : GeoPred) (sos : Bool) (pts : List (List Nat)) (ws : List Nat) : Int × Nat :=
  let g := p.form
  let pert := if sos then some (perturbed g.dim pts ws) else none
  match p with
  | .segx => segx pts pert
  | .orient2 | .orient3 | .incircle | .insphere => orient g pts pert


end Machine

end Sys2Proof
end

