-- ==== Sys2Proof/Machine/Special.lean ====
section
/-! DEFINITION. The meanings of the F class (spec/09 R162 to R179), and the filling of a geometric record (R174,
R175). -/

namespace Sys2Proof.Machine

/-! Table interpolation (R164, R165). -/

/-- The events of an FP32 rounding step. -/
def step32 (r : FRes) : FVal × Ev := let p := f32.enc .rne false r; (f32.val p.1, p.2)

/-- `tbl` of R165: an FP32 encoding, and the events of its steps. `entry i` is T[i]. -/
def tblInterp (x x0 h : FVal) (entry : Nat → Nat) : Nat × Ev :=
  if x.isNan || x0.isNan || h.isNan then (f32.qnan, .invalid)
  else
    let t := step32 (fAdd .rne x x0.negate)
    let u := step32 (fMul t.1 h)
    let ev := t.2.or u.2
    if u.1.isNan then (f32.qnan, ev.or .invalid)
    else
      let zero : FVal := .fin false 0 0
      let top : FVal := .fin false 255 0
      let v := if fLess u.1 zero then zero else if fLess top u.1 then top else u.1
      match v with
      | .fin n m e =>
        let i := min (roundInt .rdn n m e).toNat 254
        let f := match fAdd .rne v (.fin true i 0) with
          | .num n' m' e' _ => FVal.fin n' m' e'
          | _ => zero
        let ti := f32.val (entry i)
        let dl := step32 (fAdd .rne (f32.val (entry (i + 1))) ti.negate)
        let r := f32.enc .rne false (fMulAdd .rne f dl.1 ti)
        (r.1, (ev.or dl.2).or r.2)
      | _ => (f32.qnan, ev)

/-- Entry i of a table of 256 FP32 entries at an offset of a private array. -/
def tableEntry (st : Store) (base i : Nat) : Nat := natOf (st.getN (base + 4 * i) 4)

/-- What reading table k of the table memory raises (R229). -/
def tableTrap (s : State) (k : Fin 4) : Option Trap := ueccWord s.core 6 (1024 * k.val) 1024

/-- An element-wise F syllable (R162). -/
def fElem (t : EType) (k : Nat) (m : VMod) (d : VReg) (srcs : List Reg) (f : Nat → Nat × Ev) (s : State) :
    Host.Outcome State Fault Refusal := elemwise .special none t k m d srcs f s

/-- An element-wise F syllable of one operand, by the exact value of each element. -/
def fUn (t : EType) (k : Nat) (m : VMod) (d a : VReg) (f : FVal → Nat × Ev) (s : State) :
    Host.Outcome State Fault Refusal :=
  fElem t k m d [.v a] (fun e => f (t.val (opElem s t.width (.v a) e))) s

/-- F.TBL. -/
def execFTbl (t : EType) (d a : VReg) (b : SReg) (m : VMod) (tbl : Fin 4) (s : State) :
    Host.Outcome State Fault Refusal :=
  let x0 := f32.val (wbits (regS s b) 31 0)
  let h := f32.val (wbits (regS s b) 63 32)
  elemwise .special (tableTrap s tbl) t 6 m d [.v a, .s b] (fun e =>
    let r := tblInterp (t.val (opElem s t.width (.v a) e)) x0 h (tableEntry s.core.arch.tables (1024 * tbl.val))
    let q := convert .f32 t m.rm m.sat r.1
    (q.1, r.2.or q.2)) s
/-- F.TBLWR. -/
def execFTblwr (a : VReg) (tbl : Fin 4) (s : State) : Host.Outcome State Fault Refusal :=
  issue s { srcs := [.v a] } (fun u => u.flight 2 (.table tbl (regV s a)))
/-- F.TBLRD. -/
def execFTblrd (d : VReg) (tbl : Fin 4) (s : State) : Host.Outcome State Fault Refusal :=
  issue s { dsts := [.v d], trap := tableTrap s tbl }
    (wrV d 2 (ofBytes (s.core.arch.tables.getN (1024 * tbl.val) 1024)))

/-! Reciprocal, root, division and exponentials (R167, R168). -/

/-- F.RCP. -/
def execFRcp (t : EType) (d a : VReg) (m : VMod) (s : State) : Host.Outcome State Fault Refusal :=
  fUn t 8 m d a (fRcpOf t.ffmt m.rm m.sat) s
/-- F.RSQ. -/
def execFRsq (t : EType) (d a : VReg) (m : VMod) (s : State) : Host.Outcome State Fault Refusal :=
  fUn t 8 m d a (fRsqOf t.ffmt m.rm m.sat) s
/-- F.SQRT. -/
def execFSqrt (t : EType) (d a : VReg) (m : VMod) (s : State) : Host.Outcome State Fault Refusal :=
  fUn t 10 m d a (fun x => t.ffmt.enc m.rm m.sat (fSqrtOf x)) s
/-- F.DIV. -/
def execFDiv (t : EType) (d a : VReg) (b : SV) (m : VMod) (s : State) : Host.Outcome State Fault Refusal :=
  fElem t 12 m d [.v a, b.reg] (fun e =>
    t.ffmt.enc m.rm m.sat (fDivide (t.val (opElem s t.width (.v a) e)) (t.val (opElem s t.width b e)))) s
/-- F.EXP2. -/
def execFExp2 (t : EType) (d a : VReg) (m : VMod) (s : State) : Host.Outcome State Fault Refusal :=
  fUn t 10 m d a (fExpOf true t.ffmt m.rm m.sat) s
/-- F.LOG2. -/
def execFLog2 (t : EType) (d a : VReg) (m : VMod) (s : State) : Host.Outcome State Fault Refusal :=
  fUn t 10 m d a (fLogOf true t.ffmt m.rm m.sat) s
/-- F.EXP. -/
def execFExp (t : EType) (d a : VReg) (m : VMod) (s : State) : Host.Outcome State Fault Refusal :=
  fUn t 10 m d a (fExpOf false t.ffmt m.rm m.sat) s
/-- F.LOG. -/
def execFLog (t : EType) (d a : VReg) (m : VMod) (s : State) : Host.Outcome State Fault Refusal :=
  fUn t 10 m d a (fLogOf false t.ffmt m.rm m.sat) s

/-! Geometric predicates (R169 to R176). -/

/-- The j-th register of an F.GEO. -/
def geoReg (a : VReg) (j : Nat) : VReg := Fin.ofNat 32 (a.val + j)

/-- Word c of lane l of a register of points (R169). -/
def pointWord (s : State) (r : VReg) (l c : Nat) : Nat := elem (regV s r) 4 (4 * l + c)

/-- The used coordinates of a lane, point by point. -/
def lanePoints (s : State) (p : GeoPred) (a : VReg) (l : Nat) : List (List Nat) :=
  (List.range p.points).map fun j => (List.range p.form.dim).map fun c => pointWord s (geoReg a j) l c

/-- The position of the first point with a non-finite used coordinate: the register that GEOOP names when several of a
lane's hold one (R170, R302; log 109, DEDUCED). -/
def badPoint (pts : List (List Nat)) : Option Nat :=
  ((pts.zipIdx).find? fun p => p.1.any fun x => !(f32.val x).isFin).map Prod.snd

/-- The record of an F.GEO: codes, stages and non-finite lanes (R170, R173). -/
def geoRecord (s : State) (p : GeoPred) (o : GeoOpt) (a : VReg) (mask : MReg) : GeoRec :=
  let one (l : Nat) : BitVec 8 × Option Nat × Bool :=
    if !lane (regM s mask) l then (127, none, false)
    else
      let pts := lanePoints s p a l
      if (badPoint pts).isSome then (0x80, none, true)
      else
        let r := geoLane p (o == .sos) pts ((List.range p.points).map fun j => pointWord s (geoReg a j) l 3)
        (BitVec.ofInt 8 r.1, some r.2, false)
  let l := (List.range 64).map one
  { codes := l.map Prod.fst, stages := l.filterMap fun x => x.2.1, nonfinite := countIf (fun x => x.2.2) l
    ba := s.core.issue.ba, ready := false, counted := false, seg := true }

/-- GEOOP: the lowest enabled lane with a non-finite used coordinate, and its register (R170, R302). -/
def geoTrap (s : State) (p : GeoPred) (a : VReg) (mask : MReg) : Option Trap :=
  (List.range 64).findSome? fun l =>
    if !lane (regM s mask) l then none
    else (badPoint (lanePoints s p a l)).map fun j =>
      { cause := .geoop, arg := l + 2 ^ 8 * (Reg.v (geoReg a j)).num }

/-- Records of port v29 that hold a place: a popped one keeps it until its segment commits (R59, R174). -/
def geoUsed (c : Core) : Nat :=
  c.geo.length + countIf (fun p => match p with
    | .geo _ => true
    | _ => false) c.popped

/-- F.GEO. -/
def execFGeo (p : GeoPred) (o : GeoOpt) (a : VReg) (mask : MReg) (s : State) :
    Host.Outcome State Fault Refusal :=
  issue s { srcs := ((List.range p.points).map fun j => .v (geoReg a j)) ++ [.m mask]
            trap := if o == .strict then geoTrap s p a mask else none
            stall := if 8 ≤ geoUsed s.core then some .queueFull else none }
    (fun u => u.upCore fun c => { c with geo := c.geo ++ [geoRecord s p o a mask] })

/-- F.GEOIDX (R171). -/
def execFGeoidx (d a : VReg) (b : SReg) (s : State) : Host.Outcome State Fault Refusal :=
  issue s { srcs := [.v a, .s b], dsts := [.v d] }
    (wrV d 2 (ofElems 4 ((List.range 256).map fun i =>
      if i % 4 == 3 then (regS s b).toNat + i / 4 else elem (regV s a) 4 i)))

/-- The statistics of one record (R175). -/
def countGeo (r : GeoRec) (c : Core) : Core :=
  let stage (k : Nat) : Nat := countIf (· == k) r.stages
  statNow .special r.ba [(9, r.nonfinite), (10, stage 0), (11, stage 1), (12, stage 2)] c

/-- The records whose statistics can now be appended: those that have filled, up to the first that has not. -/
def geoToCount (l : List GeoRec) : List GeoRec := (l.takeWhile fun r => r.ready).filter fun r => !r.counted

/-- Records fill in the order of their issue: a record whose slowest lane has finished has its statistics appended once
every record before it has filled (R174, R175; R384 gives the order). -/
def settleGeo (c : Core) : Core :=
  let c1 := (geoToCount c.geo).foldl (fun k r => countGeo r k) c
  { c1 with geo := (c.geo.takeWhile fun r => r.ready).map (fun r => { r with counted := true })
      ++ c.geo.dropWhile fun r => r.ready }

/-- The slowest lane of record n of port v29 finishes. -/
def fillGeo (n : Nat) (c : Core) : Core :=
  settleGeo { c with geo := c.geo.modify n fun r => { r with ready := true } }

/-- GEO_RECORD_FILL: the slowest lane of a record of v29 finishes; n counts from the oldest record (R174; log 86,
DEDUCED). -/
def execGeoRecordFill (n : Nat) (s : State) : Host.Outcome State Fault Refusal := .next (s.upCore (fillGeo n))

/-! Lattice operations (R177 to R179). -/

/-- The greatest of FP32 magnitudes, as an encoding. -/
def maxMag (l : List Nat) : Nat := l.foldl (fun k x => max k (x % 2 ^ 31)) 0

/-- The FP32 encoding of 2^g, −126 ≤ g ≤ 127. -/
def pow2Code (g : Int) : Nat := (g + 127).toNat * 2 ^ 23

/-- F.LSCALE. -/
def execFLscale (d : SReg) (a : VReg) (adj : BitVec 4) (s : State) : Host.Outcome State Fault Refusal :=
  let l := (List.range (shCount s)).map fun e => elem (regV s a) 4 e
  let bad := l.any fun x => !(f32.val x).isFin
  let g : Int := match f32.val (maxMag l) with
    | .fin _ m e => if m == 0 then 0 else clampI (ilog2 m e + adj.toInt) (-126) 126
    | _ => 0
  issue s { srcs := [.v a], dsts := [.s d], trap := shapeTrap s 4 }
    (fun u =>
      if bad then raise .special 3 [.invalid] (wrS d 3 0x7FC000007FC00000 u)
      else wrS d 3 (wordN (pow2Code (-g) + 2 ^ 32 * pow2Code g)) u)

/-- A product as an exact value. -/
def exactMul (x y : FVal) : FVal :=
  match fMul x y with
  | .num n m e _ => .fin n m e
  | .inf n _ => .inf n
  | .nan _ => .nan false

/-- The code of point p with INVALID and shell overflow (R178). -/
def lqPoint (s : State) (a : VReg) (q : FVal) (p : Nat) : Nat × Bool × Bool :=
  l8Quant ((List.range 8).map fun i =>
    if 8 * p + i < shCount s then exactMul (f32.val (elem (regV s a) 4 (8 * p + i))) q else .fin false 0 0)

/-- F.LQ: a dup writes its codes alone (R163). -/
def execFLq (d a : VReg) (b : SReg) (s : State) : Host.Outcome State Fault Refusal :=
  let q := f32.val (wbits (regS s b) 31 0)
  issue s { srcs := [.v a, .s b], dsts := [.v d], trap := shapeTrap s 4 }
    (fun u =>
      let l := (List.range ((shCount s + 7) / 8)).map (lqPoint s a q)
      let u1 := wrV d 8 (ofElems 2 (l.map Prod.fst)) u
      if s.core.issue.dup then u1
      else
        let shell := countIf (fun r => r.2.2) l
        statFlight .special 8
          ([(1, countIf (fun r => r.2.1) l), (8, shell)].filter fun p => p.2 != 0)
          (u1.flight 8 (.lqo (wordN shell))))

/-- F.LDQ. -/
def execFLdq (t : EType) (d a : VReg) (b : SReg) (m : VMod) (s : State) : Host.Outcome State Fault Refusal :=
  let q := f32.val (wbits (regS s b) 31 0)
  fElem t 4 m d [.v a, .s b] (fun e =>
    let x := l8Twice (elem (regV s a) 2 (e / 8)) (e % 8)
    if q.isNan then quiet t true else t.ffmt.enc m.rm m.sat (fMul (.fin (x < 0) x.natAbs (-1)) q)) s

/-- F.LQCNT. -/
def execFLqcnt (d : SReg) (s : State) : Host.Outcome State Fault Refusal :=
  issue s { dsts := [.s d] } (wrS d 1 s.core.arch.lqo)

end Sys2Proof.Machine
end

