-- ==== Sys2Proof/Machine/Postproc.lean ====
section
/-! DEFINITION. The post-processing engine (spec/08 R147, R149, R156 to R159, spec/09 R166). -/

namespace Sys2Proof.Machine

/-- The element type of a format code 0 to 11 (R60). -/
def typeOf (fmt : Nat) : EType :=
  match fmt with
  | 0 => .i8 | 1 => .n8 | 2 => .i16 | 3 => .n16 | 4 => .i32 | 5 => .n32 | 6 => .i64 | 7 => .f32 | 8 => .f16
  | 9 => .bf16 | 10 => .e4m3 | _ => .e5m2

/-- Whether a format is .mx8 or .mx4. -/
def isMx (fmt : Nat) : Bool := fmt == 12 || fmt == 13

/-- First destination row, first destination column, rows and columns of the region (R156). -/
structure Region where
  row : Nat
  col : Nat
  rows : Nat
  cols : Nat

/-- The region of D.PP (R156). -/
def regionOf (t : Tensor) (dg0 : Word) : Region :=
  let r := wbits dg0 31 0
  let c := wbits dg0 63 32
  ⟨r, c, rowsFrom t.rows r, rowsFrom t.cols c⟩

/-- The first and last bytes of what each row of the region writes: elements or coded blocks with their raw areas, and
scales (R157, R158). -/
def destEnds (t : Tensor) (g : Region) : List Nat :=
  if g.cols == 0 then []
  else (List.range g.rows).flatMap fun m =>
    let row := (g.row + m) * t.stride
    (if t.cmp == 0 then
       [t.base + row + g.col * t.width / 8, t.base + row + ceilDiv ((g.col + g.cols) * t.width) 8 - 1]
     else [(row + g.col) / 256, (row + g.col + g.cols - 1) / 256].flatMap fun k =>
       [t.base + t.stored * k, t.base + t.stored * (k + 1) - 1, t.raw + 256 * k, t.raw + 256 * k + 255])
    ++ if isMx t.fmt then
        let r := t.scale + (g.row + m) * ceilDiv t.cols 32
        [r + g.col / 32, r + ceilDiv (g.col + g.cols) 32 - 1]
       else []

/-- Whether a virtual address is mapped to DRAM, directly or through an aperture. -/
def inDram (s : State) (va : Nat) : Bool :=
  !inLocal va && match translate s.pkg s.die (partNum s) va .wr with
    | .error _ => false
    | .ok x => ((serve s.die (partNum s) x.pa).homes.any fun a => levelOf s.die.ncrew a == .dram)

/-- Whether a destination breaks the rules of R157 and R158: one in DRAM does, as it lies in scratchpad or vault (log
48, DEDUCED). -/
def destBad (s : State) (cmp : Bool) (t : Tensor) (fn : PpFn) (g : Region) : Bool :=
  t.planes != 0
    || (if cmp then t.cmp == 0 || !(t.fmt < 2 || t.fmt == 10 || t.fmt == 11 || t.fmt == 12)
        else t.cmp != 0 || 14 ≤ t.fmt)
    || (isMx t.fmt && (g.col % 32 != 0 || fn.rm != .rne || fn.sat || t.scale == 0))
    || (destEnds t g).any fun va => inDram s (va % 2 ^ 56)

/-- Whether a scale and bias tensor breaks the rules of R157. -/
def sbiasBad (t : Tensor) (g : Region) : Bool := t.fmt != 7 || t.planes != 0 || t.rows < 2 || t.cols < g.cols

/-- The write footprints of D.PP and D.PPCMP: the element bytes, and the scales (R149). -/
def ppFoots (t : Tensor) (g : Region) : List Foot :=
  if g.rows == 0 || g.cols == 0 then []
  else
    let whole (p : Nat × Nat) : List Foot := footOf p.1 (p.1 + p.2) true
    (if t.cmp == 0 then
       whole (span t.base g.row g.rows t.stride (g.col * t.width / 8) (ceilDiv ((g.col + g.cols) * t.width) 8))
     else
       let k0 := (g.row * t.stride + g.col) / 256
       let k1 := ((g.row + g.rows - 1) * t.stride + g.col + g.cols - 1) / 256
       footOf (t.base + t.stored * k0) (t.base + t.stored * (k1 + 1)) true)
    ++ if isMx t.fmt then
        whole (span t.scale g.row g.rows (ceilDiv t.cols 32) (g.col / 32) (ceilDiv (g.col + g.cols) 32))
       else []

/-! Issue (R156, R157). -/

/-- The freeze of a full D queue: 8 commands, the post-processing commands held by the open segment apart (R147, R152,
R359; log 45, DEDUCED). -/
def dqFull (c : Core) : Option Freeze :=
  if 8 ≤ countIf (fun m => !m.held || m.op.isIngest) c.dq then some .queueFull else none

/-- A command joins the D queue, held until its segment commits (R152; log 45, DEDUCED). -/
def enterD (op : DOp) (tag : Option Tag) (foots : List Foot) (s : State) : State :=
  ((s.upCore fun c =>
    let c1 := { c with dq := c.dq ++
      [{ serial := s.fresh, op := op, tag := tag, ba := c.issue.ba, snap := snapOf s, foots := foots, held := true
         seg := true, waiting := none, aborted := false, run := none, parked := none, done := 0, blk := 0, rest := [], cols := [] }] }
    match tag with
    | none => c1
    | some t => tagIssue t c1)).useId

/-- What D.PP or D.PPCMP has found at issue. -/
def ppReq (s : State) (cmp : Bool) (k : AReg) (ta tb : TId) (fn : PpFn) : Except Trap (DOp × List Foot) :=
  let dg0 := s.core.arch.dg[0]
  match bankOf s k.val with
  | none => .error (matTrap 1 k.val)
  | some bank => match readTensor s ta with
    | .error t => .error t
    | .ok t =>
      match (if fn.sbias then (readTensor s tb).map some else .ok none) with
      | .error e => .error e
      | .ok b =>
        let g := regionOf t dg0
        if destBad s cmp t fn g then .error (matTrap 7 k.val)
        else if b.any fun x => sbiasBad x g then .error (matTrap 8 k.val)
        else .ok (.pp cmp k.val bank t b fn dg0 s.core.arch.dg[1] s.core.arch.dg[2], ppFoots t g)

/-- The syllable of D.PP and D.PPCMP. -/
def ppSyl (cmp : Bool) (k : AReg) (ta tb : TId) (tag : Tag) (fn : PpFn) (s : State) :
    Host.Outcome State Fault Refusal :=
  let req := ppReq s cmp k ta tb fn
  let foots := match req with
    | .ok r => r.2
    | .error _ => []
  let entries := if fn.sbias then [ta, tb] else [ta]
  issue s { trap := errOf req, limit := cmdLimit s.core
            stall := (dqFull s.core).orElse fun _ => (entryStall s entries).orElse fun _ => boardStall s.core foots }
    (fun u => match req with
      | .ok r => (enterD r.1 (some tag) r.2 u).upCore countCmd
      | .error _ => u)

/-- D.PP. -/
def execDPp (t : AReg) (ta tb : TId) (tag : Tag) (fn : PpFn) (s : State) : Host.Outcome State Fault Refusal :=
  ppSyl false t ta tb tag fn s
/-- D.PPCMP. -/
def execDPpcmp (t : AReg) (ta tb : TId) (tag : Tag) (fn : PpFn) (s : State) : Host.Outcome State Fault Refusal :=
  ppSyl true t ta tb tag fn s
/-- D.PPCFG (R159). -/
def execDPpcfg (a : VReg) (s : State) : Host.Outcome State Fault Refusal :=
  issue s { srcs := [.v a], limit := cmdLimit s.core, stall := dqFull s.core }
    (fun u => (enterD (.ppcfg (regV s a)) none [] u).upCore countCmd)

/-- The word of D.PPACT (R159). -/
def ppactWord (c : Core) : Word :=
  let uses (k : Nat) : Bool := c.dq.any fun m => match m.op with
    | .pp _ t _ _ _ _ _ _ _ => t == k
    | .ppcfg _ | .ringSet .. | .jpeg .. | .g4 .. | .raw .. => false
  wordN (min 8 (countIf (fun m => !m.held || m.op.isIngest) c.dq) + packN 1 ((List.range 8).map fun k => (uses k).toNat) * 2 ^ 4
    + (c.dq.any fun m => m.held && m.op.isPp).toNat * 2 ^ 12)

/-- D.PPACT. -/
def execDPpact (d : SReg) (s : State) : Host.Outcome State Fault Refusal :=
  issue s { dsts := [.s d] } (wrS d 1 (ppactWord s.core))

/-! One word (R157, R166). -/

/-- A word on its way: an exact integer, or a floating-point value. -/
inductive PpVal where
  | int (x : Int)
  | num (v : FVal)

/-- The exact value of a word. -/
def PpVal.fval : PpVal → FVal
  | .int x => .fin (x < 0) x.natAbs 0
  | .num v => v

/-- Column scale and bias (R157). -/
def ppScale (x : PpVal) (sc bi : Nat) : PpVal × Ev :=
  let p := step32 (fMul x.fval (f32.val sc))
  let q := step32 (fAdd .rne p.1 (f32.val bi))
  (.num q.1, p.2.or q.2)

/-- ACT 1 (R157). -/
def ppRelu : PpVal → PpVal
  | .int x => .int (if x < 0 then 0 else x)
  | .num (.nan b) => .num (.nan b)
  | .num v => if v.isNeg || v.isZero then .num (.fin false 0 0) else .num v

/-- ACT 2: min(max(x, LO), HI) by R125. -/
def ppClip (x : PpVal) (lo hi : Nat) : PpVal × Ev :=
  let l := f32.val lo
  let h := f32.val hi
  let v := x.fval
  if v.isNan || l.isNan || h.isNan then
    (.num (.nan false), if v.sig || l.sig || h.sig then .invalid else .none)
  else
    let y := if fLess v l then .num l else x
    (if fLess h y.fval then .num h else y, .none)

/-- ACT of a word (R157, R166). -/
def ppAct (fn : PpFn) (dg1 dg2 : Word) (table : Store) (x : PpVal) : PpVal × Ev :=
  match fn.act with
  | .none => (x, .none)
  | .relu => (ppRelu x, .none)
  | .clip => ppClip x (wbits dg1 31 0) (wbits dg1 63 32)
  | .tbl =>
    let v := match x with
      | .int n => (step32 (ofInt n)).1
      | .num v => v
    let r := tblInterp v (f32.val (wbits dg2 31 0)) (f32.val (wbits dg2 63 32)) (tableEntry table 0)
    (.num (f32.val r.1), r.2)

/-- A word before its conversion: scale, bias and activation (R157). -/
def ppWord (fp : Bool) (fn : PpFn) (dg1 dg2 : Word) (table : Store) (sb : Option (Nat × Nat)) (w : Nat) :
    PpVal × Ev :=
  let x : PpVal := if fp then .num (f32.val w) else .int (sextN w 32)
  let y := match sb with
    | none => (x, Ev.none)
    | some p => ppScale x p.1 p.2
  let z := ppAct fn dg1 dg2 table y.1
  (z.1, y.2.or z.2)

/-- The conversion of a word to a type of its own (R157; log 48, DEDUCED). -/
def ppConvert (t : EType) (fn : PpFn) : PpVal → Nat × Ev
  | .int x => convertInt t fn.rm fn.sat x
  | .num v => convertVal t fn.rm fn.sat v

/-! The region's encodings (R157). -/

/-- One row of the region: the encodings of its elements, its scale codes (MX types), and its events. -/
structure PpRow where
  codes : List Nat
  scales : List Nat
  evs : List Ev

/-- A block of an MX row: scale code, encodings and events (R78, R133). -/
def mxBlock (mx4 : Bool) (l : List FVal) : Nat × List Nat × List Ev :=
  let sc := mxScale l
  let f := if mx4 then 2 else 6
  let lim := if mx4 then 7 else 127
  let rs := l.map (mxElem f lim sc.1)
  (sc.1, rs.map fun r => truncI r.1 (if mx4 then 4 else 8), if sc.2 then [.invalid] else rs.map Prod.snd)

/-- A row cut into blocks of 32. -/
def blocks32 {α : Type} : Nat → List α → List (List α)
  | 0, _ => []
  | n + 1, l => if l.isEmpty then [] else l.take 32 :: blocks32 n (l.drop 32)

/-- The conversion of a row (R157). -/
def ppRow (fmt : Nat) (fn : PpFn) (l : List (PpVal × Ev)) : PpRow :=
  if isMx fmt then
    let bs := (blocks32 4 (l.map fun p => p.1.fval)).map (mxBlock (fmt == 13))
    ⟨bs.flatMap fun b => b.2.1, bs.map Prod.fst, l.map Prod.snd ++ bs.flatMap fun b => b.2.2⟩
  else
    let rs := l.map fun p => let r := ppConvert (typeOf fmt) fn p.1; (r.1, p.2.or r.2)
    ⟨rs.map Prod.fst, [], rs.map Prod.snd⟩

/-- The scale and bias of a column of the region (R157). -/
def ppColumn (s : State) (sn : Snap) (tb : Option Tensor) (n : Nat) : Except Trap (Option (Nat × Nat)) := match tb with
  | none => .ok none
  | some b =>
    match b.src s sn 0 n, b.src s sn 1 n with
    | .error e, _ => .error e
    | _, .error e => .error e
    | .ok x, .ok y => .ok (some (x, y))

/-- The scales and biases of columns, until one cannot be read. -/
def ppColumns (s : State) (sn : Snap) (tb : Option Tensor) : List Nat → List (Option (Nat × Nat)) × Option Trap
  | [] => ([], none)
  | n :: t => match ppColumn s sn tb n with
    | .error e => ([], some e)
    | .ok x => let r := ppColumns s sn tb t; (x :: r.1, r.2)

/-- Element bytes of a row, each block's scale after its elements (R157). -/
def rowPuts (t : Tensor) (g : Region) (m : Nat) (r : PpRow) : List Put :=
  let elems := r.codes.zipIdx.take g.cols |>.map fun p => putElem (t.at' (g.row + m) (g.col + p.2)) p.1
  let scale (b : Nat) : List Put := match r.scales[b]? with
    | none => []
    | some x => [⟨(t.scale + (g.row + m) * ceilDiv t.cols 32 + g.col / 32 + b) % 2 ^ 56, 0xFF, BitVec.ofNat 8 x⟩]
  if isMx t.fmt then
    (blocks32 4 elems).zipIdx.flatMap fun p => p.1.flatten ++ scale p.2
  else elems.flatten

/-! Compressed destinations (R158). -/

/-- What D.PPCMP does in order: blocks in rising order, then the scales (R158). -/
def cmpItems (t : Tensor) (g : Region) (rows : List PpRow) : List (State → Except Trap (List Put)) :=
  let bytes := rows.zipIdx.flatMap fun p => (p.1.codes.zipIdx.take g.cols).flatMap fun q =>
    putElem (t.at' (g.row + p.2) (g.col + q.2)) q.1
  let scales := rows.zipIdx.flatMap fun p => p.1.scales.zipIdx.map fun q =>
    (⟨(t.scale + (g.row + p.2) * ceilDiv t.cols 32 + g.col / 32 + q.2) % 2 ^ 56, 0xFF, BitVec.ofNat 8 q.1⟩ : Put)
  imageItems t bytes scales

/-- The rows of the region. -/
def ppRows (e : Engine) (bank : Nat) (table : Store) (t : Tensor) (fn : PpFn) (dg1 dg2 : Word) (g : Region)
    (cols : List (Option (Nat × Nat))) : List PpRow :=
  let words := tileWords (vget e.banks bank .zero)
  let fp := vget e.fp bank false
  (List.range g.rows).map fun m =>
    ppRow t.fmt fn ((cols.zip ((words.drop (128 * m)).take g.cols)).map fun p => ppWord fp fn dg1 dg2 table p.1 p.2)

/-- How a post-processing command ended: the state, how, the identities of its writes, its events, and what it keeps
when it is parked. -/
structure PpEnd where
  s : State
  how : WalkEnd
  ids : List Nat
  evs : List Ev
  keep : DCmd → DCmd

/-- A post-processing command runs; the scales and biases that it has read it keeps over a park (R157, R158, R322). -/
def ppRun (s : State) (m : DCmd) (cmp : Bool) (bank : Nat) (t : Tensor) (tb : Option Tensor) (fn : PpFn)
    (dg0 dg1 dg2 : Word) : PpEnd :=
  let g := regionOf t dg0
  let read := ppColumns s m.snap tb ((List.range g.cols).drop m.cols.length)
  let cols := m.cols ++ read.1
  match read.2 with
  | some e => ⟨s, endOf (some e), [], [], fun x => { x with cols := cols }⟩
  | none =>
    let rows := ppRows (engineOf s) bank s.core.arch.pptable t fn dg1 dg2 g cols
    let evs := rows.flatMap PpRow.evs
    if cmp then
      let r := runCmp m.blk m.rest (cmpItems t g rows) s
      ⟨r.s, endOf r.stop, idsSince s r.s, evs, fun x => { x with blk := r.blk, rest := r.rest, cols := cols }⟩
    else
      let r := runWalk m.done (.ofPuts (rows.zipIdx.flatMap fun p => rowPuts t g p.2 p.1)) s
      ⟨r.1, r.2.2.1, r.2.2.2, evs, fun x => { x with done := r.2.1, cols := cols }⟩

/-! The engine's turns (R147). -/

/-- The head of a core's D queue: held commands stand outside it (R152). -/
def dHead (c : Core) : Option DCmd := c.dq.find? fun m => !m.held

/-- The post-processing command of a core of the pair that may run now: one behind an X.MODE of either core waits for
it (R147, R148, R155, R207). -/
def ppReady (s : State) (c : Core) : Option DCmd := match dHead c with
  | none => none
  | some m =>
    if m.op.isPp && m.parked.isNone && tilesFree c m.serial m.banks && boardClear c m.serial m.foots
        && !modeBefore s m.serial then some m
    else none

/-- Whether it is the selected core's turn: its side's, or the other side has no command (R147; log 48, DEDUCED). -/
def ppTurn (s : State) : Bool :=
  (engineOf s).ppNext == sideB s.core || !((partner s).any fun c => (ppReady s c).isSome)

/-- A command leaves the D queue, its footprints with it. -/
def dropD (serial : Nat) (c : Core) : Core := { c with dq := c.dq.filter fun m => m.serial != serial }

/-- Changes the D command of a serial. -/
def upD (serial : Nat) (f : DCmd → DCmd) (c : Core) : Core :=
  { c with dq := c.dq.map fun m => if m.serial == serial then f m else m }

/-- A command of the D queue ends, with the end of its tag (R203). -/
def endD (m : DCmd) (err : Option Trap) (ids : List Nat) (c : Core) : Core :=
  match m.tag with
  | none => dropD m.serial c
  | some t => tagEnd t err ids (dropD m.serial c)

/-- D.PP and D.PPCMP end, stop or park (R157, R205, R322). -/
def finishPp (m : DCmd) (r : PpEnd) : State :=
  let counts := tally r.evs
  match r.how with
  | .done => r.s.upCore fun c => endD m none r.ids (statNow .postproc m.ba counts c)
  | .failed e => r.s.upCore fun c => endD m (some e) r.ids (statNow .postproc m.ba counts c)
  | .parked va kind =>
    postParked va kind ((m.tag.getD 0).val) (r.s.upCore fun c =>
      upD m.serial (fun x => { r.keep x with parked := some va }) (match m.tag with
        | none => c
        | some t => { c with tags := c.tags.set t { c.tags[t] with writes := joinIds c.tags[t].writes r.ids } }))

/-- The effect of a post-processing command. -/
def runPp (m : DCmd) (s : State) : State :=
  match m.op with
  | .pp cmp k bank t tb fn dg0 dg1 dg2 =>
    match tileUecc s.core k with
    | some e => s.upCore (endD m (some e) [])
    | none =>
      let s1 := landTiles [bank] s
      finishPp m (ppRun s1 m cmp bank t tb fn dg0 dg1 dg2)
  | .ppcfg x =>
    let st := Store.ofBytes (toBytes x)
    s.upCore fun c => endD m none []
      { c with arch := { c.arch with pptable := st }, ck := { c.ck with pptable := st } }
  | .ringSet .. | .jpeg .. | .g4 .. | .raw .. => s

/-- POSTPROC_COMPLETE: the next post-processing command of the selected core runs, when it is its turn (R147, R157). -/
def execPostprocComplete (s : State) : Host.Outcome State Fault Refusal :=
  .next (match ppReady s s.core with
    | none => s
    | some m =>
      if ppTurn s then (waitHead (runPp m s)).upEngine fun e => { e with ppNext := !(sideB s.core) }
      else s)

end Sys2Proof.Machine
end

