-- ==== Sys2Proof/Machine/Ingest.lean ====
section
/-! DEFINITION. The image decode engines (spec/22 R349 to R366): issue, the reading of inputs, records, and their
delivery to the ring or to port v28. -/

namespace Sys2Proof.Machine

/-- Cause DECODE (R365). -/
def decodeTrap (detail : Nat) : Trap := { cause := .decode, detail := detail }

/-! Fields of DG4 (R357). -/

/-- Q. -/
def dgQ (x : Word) : Nat := 16 * 2 ^ wbits x 1 0
/-- s. -/
def dgS (x : Word) : Nat := 2 ^ wbits x 3 2
/-- RGB. -/
def dgRgb (x : Word) : Bool := x.toNat.testBit 4
/-- WIDE. -/
def dgWide (x : Word) : Bool := x.toNat.testBit 5
/-- DEST: true is port v28. -/
def dgPort (x : Word) : Bool := x.toNat.testBit 6
/-- W. -/
def dgW (x : Word) : Nat := wbits x 31 16
/-- H. -/
def dgH (x : Word) : Nat := wbits x 47 32
/-- Reserved bits set, or PSZ 3. -/
def dgBad (x : Word) : Bool := wbits x 15 7 != 0 || wbits x 63 48 != 0 || wbits x 1 0 == 3

/-- Bytes of one pixel (R355). -/
def pixelBytes (x : Word) : Nat := (if dgWide x then 2 else 1) * (if dgRgb x then 3 else 1)

/-- RLEN / 1,024 (R355). -/
def rlenK (x : Word) : Nat := ceilDiv (64 + pixelBytes x * dgQ x * dgQ x) 1024

/-! Issue (R359, R360). -/

/-- Bytes of one row of D.RAW. -/
def rawBytes (b1 : Bool) (w : Nat) : Nat := if b1 then ceilDiv w 8 else w

/-- The input bytes of a command, as a range (R359). -/
def inputSpan (op : DOp) : Nat × Nat :=
  match op with
  | .jpeg t _ _ | .g4 t _ _ => (t.base, t.tlen)
  | .raw b1 t _ x => (t.base, (dgH x - 1) * t.stride + rawBytes b1 (dgW x))
  | .pp .. | .ppcfg _ | .ringSet .. => (0, 0)

/-- The footprint of a command's input (R149, R359). -/
def inputFoot (op : DOp) : List Foot := let p := inputSpan op; footOf p.1 (p.1 + p.2) false

/-- PARAM of a decode command (R359). -/
def decodeParam (op : DOp) : Bool :=
  let common (t : Tensor) (x : Word) : Bool := t.fmt != 1 || t.planes != 0 || t.cmp != 0 || dgBad x
  match op with
  | .jpeg t _ x => common t x
  | .g4 t _ x => common t x || dgW x == 0 || dgH x == 0
  | .raw b1 t _ x => common t x || dgW x == 0 || dgH x == 0 || t.rows < dgH x || t.cols < rawBytes b1 (dgW x)
  | .pp .. | .ppcfg _ | .ringSet .. => false

/-- Whether a ring is set or queued for the core. -/
def ringKnown (c : Core) : Bool := c.ringSize != 0 || c.dq.any fun m => match m.op with
  | .ringSet .. => true
  | .pp .. | .ppcfg _ | .jpeg .. | .g4 .. | .raw .. => false

/-- Checks of R359 after the entry has been read. -/
def decodeCheck (c : Core) (port : Bool) (op : DOp) : Option Trap :=
  if decodeParam op then some (decodeTrap 1)
  else if !port && !ringKnown c then some (decodeTrap 2)
  else if 8 ≤ countIf (fun m => m.held && m.op.isIngest) c.dq then some (decodeTrap 3)
  else none

/-- `decode` of R359: the syllable of D.JPEG, D.G4 and D.RAW. -/
def decodeSyl (op : Tensor → DOp) (ta : TId) (tag : Tag) (s : State) : Host.Outcome State Fault Refusal :=
  let req : Except Trap DOp := match readTensor s ta with
    | .error t => .error t
    | .ok t => match decodeCheck s.core (dgPort s.core.arch.dg[4]) (op t) with
      | some e => .error e
      | none => .ok (op t)
  issue s { trap := errOf req
            stall := (dqFull s.core).orElse fun _ => (entryStall s [ta]).orElse fun _ => match req with
              | .error _ => none
              | .ok o => boardStall s.core (inputFoot o) }
    (fun u => match req with
      | .error _ => u
      | .ok o => enterD o (some tag) (inputFoot o) u)

/-- D.JPEG (R359). -/
def execDJpeg (ta : TId) (tag : Tag) (s : State) : Host.Outcome State Fault Refusal :=
  decodeSyl (fun t => .jpeg t s.core.arch.dg[3] s.core.arch.dg[4]) ta tag s
/-- D.G4 (R359). -/
def execDG4 (ta : TId) (tag : Tag) (s : State) : Host.Outcome State Fault Refusal :=
  decodeSyl (fun t => .g4 t s.core.arch.dg[3] s.core.arch.dg[4]) ta tag s
/-- D.RAW (R359). -/
def execDRaw (b1 : Bool) (ta : TId) (tag : Tag) (s : State) : Host.Outcome State Fault Refusal :=
  decodeSyl (fun t => .raw b1 t s.core.arch.dg[3] s.core.arch.dg[4]) ta tag s

/-- Whether the tables map an address to vault or DRAM itself; one whose page demand paging has yet to bring in, or that
may not be written, is left to the engine's write (R360; log 104, DEDUCED). -/
def inMemory (s : State) (va : Nat) : Bool :=
  match translateLeaf s.pkg s.die (partNum s) va .wr with
  | .error c => c == .demand || c == .nowrite
  | .ok x => levelOf s.die.ncrew x.pa == .vault || levelOf s.die.ncrew x.pa == .dram

/-- Whether BASE and SIZE are those of a ring (R360). -/
def ringOk (s : State) (base size : Word) : Bool :=
  base.toNat % 1024 == 0 && spadSize ≤ base.toNat && base.toNat + size.toNat ≤ 2 ^ 56 && inMemory s base.toNat
    && size.toNat % 1024 == 0 && 4096 ≤ size.toNat && size.toNat ≤ 2 ^ 30

/-- D.RING.set (R360): it waits in the D queue. -/
def execDRingSet (a b : SReg) (s : State) : Host.Outcome State Fault Refusal :=
  let base := regS s a
  let size := regS s b
  issue s { srcs := [.s a, .s b], trap := if ringOk s base size then none else some (decodeTrap 2), stall := dqFull s.core }
    (enterD (.ringSet base size) none [])

/-- D.RING.free (R360): performed at the commit. -/
def execDRingFree (a : SReg) (s : State) : Host.Outcome State Fault Refusal :=
  let n := regS s a
  issue s { srcs := [.s a], trap := if n.toNat % 1024 == 0 then none else some (decodeTrap 2) }
    (fun u => u.upCore fun c => { c with held := c.held ++ [.ringFree n] })

/-- D.PORT.count (R362). -/
def execDPortCount (d : SReg) (s : State) : Host.Outcome State Fault Refusal :=
  issue s { dsts := [.s d] } (wrS d 1 (wordN s.core.patch.length))

/-- The entries up to the last of the next page-end record, and those behind it; none: it has not arrived. -/
def throughPage : List PatchEnt → Option (List PatchEnt × List PatchEnt)
  | [] => none
  | e :: t => if e.last then some ([e], t) else (throughPage t).map fun p => (e :: p.1, p.2)

/-- D.PORT.skip (R362). -/
def execDPortSkip (d : SReg) (s : State) : Host.Outcome State Fault Refusal :=
  issue s { dsts := [.s d], late := (throughPage s.core.patch).isNone }
    (fun u => match throughPage s.core.patch with
      | none => u
      | some p => wrS d 1 (wordN p.1.length) (u.upCore fun c =>
          { c with patch := p.2, popped := c.popped ++ p.1.map Popped.patch }))

/-- The word of D.DSTAT (R363). -/
def dstatWord (c : Core) : Word :=
  wordN (c.lastPage.toNat + 2 ^ 8 * (c.dq.any fun m => m.run.isSome).toNat
    + 2 ^ 9 * min 8 (countIf (fun m => m.op.isDecode) c.dq)
    + 2 ^ 16 * (c.ringFree.toNat / 1024 % 2 ^ 24) + 2 ^ 40 * (c.ringWoff.toNat / 1024 % 2 ^ 24))

/-- D.DSTAT (R363). -/
def execDDstat (d : SReg) (s : State) : Host.Outcome State Fault Refusal :=
  issue s { dsts := [.s d] } (wrS d 1 (dstatWord s.core))

/-- D.DABORT (R363): performed at the commit. -/
def execDDabort (s : State) : Host.Outcome State Fault Refusal :=
  issue s {} (fun u => (u.upCore fun c => { c with held := c.held ++ [.dabort u.fresh] }).useId)

/-- D.DFENCE (R363): it waits for the decode commands issued before the segment. -/
def execDDfence (s : State) : Host.Outcome State Fault Refusal :=
  issue s { stall := if s.core.dq.any fun m => m.op.isDecode && !m.seg then some .scoreboard else none } id

/-! Input (R350, R351, R353). -/

/-- The input of a stream command: bytes BASE to BASE + TLEN − 1 (log 52, DEDUCED). -/
def readInput (s : State) (sn : Snap) (t : Tensor) : List Byte × Option Trap :=
  readUntil s sn (t.tlen / 0x1000 + 2) t.base t.tlen

/-- Rows of D.RAW until one cannot be read. -/
def readRows (s : State) (sn : Snap) (t : Tensor) (n : Nat) : Nat → Nat → List (List Byte) × Option Trap
  | 0, _ => ([], none)
  | k + 1, y => match readRange s sn (t.base + y * t.stride) n with
    | .error e => ([], some e)
    | .ok b => let r := readRows s sn t n k (y + 1); (b :: r.1, r.2)

/-- A bilevel pixel as a sample: white is 255 (R350). -/
def bilevel (black : Bool) : Nat := if black then 0 else 255

/-- The pixels of a row of D.RAW (R350). -/
def rawRow (b1 : Bool) (w : Nat) (row : List Byte) : List Nat :=
  if b1 then (List.range w).map fun x => bilevel (bitAt (nth row (x / 8) 0).toNat (7 - x % 8))
  else (row.take w).map (·.toNat)

/-- The rounded mean of the samples of a box (R353). -/
def boxMean (l : List Nat) : Nat := (2 * l.foldl (· + ·) 0 + l.length) / (2 * l.length)

/-- One output row from the s input rows of its boxes. -/
def boxRow (s w : Nat) (rgb : Bool) (rows : List (List Nat)) : List Pixel :=
  (List.range (ceilDiv w s)).map fun i =>
    let m := boxMean (rows.flatMap fun r => (r.drop (s * i)).take s)
    if rgb then [m, m, m] else [m]

/-- The image of input rows of samples, each with the bytes consumed after it: an output row exists once every input
row of its boxes does (R353, R356). -/
def boxImage (s w h : Nat) (rgb : Bool) (rows : List (List Nat × Nat)) (halt : Option Halt) (stop : Nat) : Decoded :=
  let n := if rows.length == h then ceilDiv h s else rows.length / s
  let groups := (List.range n).map fun i => (rows.drop (s * i)).take s
  ⟨8, ceilDiv w s, ceilDiv h s, groups.map fun g => boxRow s w rgb (g.map Prod.fst),
    groups.map fun g => ((g.getLast?).map Prod.snd).getD 0, halt, stop⟩

/-- The image of a command's input, and what stopped its reading (R351). -/
def decodeImage (s : State) (sn : Snap) (op : DOp) : Decoded × Option Trap :=
  match op with
  | .jpeg t _ x =>
    let i := readInput s sn t
    (decodeJpeg (dgS x) (dgRgb x) i.1, i.2)
  | .g4 t _ x =>
    let i := readInput s sn t
    let r := decodeFax (dgW x) (dgH x) i.1
    (boxImage (dgS x) (dgW x) (dgH x) (dgRgb x) (r.1.map fun l => (l.1.map bilevel, l.2)) r.2.1 r.2.2, i.2)
  | .raw b1 t _ x =>
    let r := readRows s sn t (rawBytes b1 (dgW x)) (dgH x) 0
    (boxImage (dgS x) (dgW x) (dgH x) (dgRgb x) (r.1.map fun l => (rawRow b1 (dgW x) l, 0))
      (r.2.map fun _ => .ended) 0, r.2)
  | .pp .. | .ppcfg _ | .ringSet .. => (⟨8, 0, 0, [], [], none, 0⟩, none)

/-- STATUS of a decode, and the fault that its tag reports (R351; log 53, DEDUCED). -/
def statusOf (h : Option Halt) (e : Option Trap) : Nat × Option Trap :=
  match h with
  | none => (0, none)
  | some .unsupported => (1, none)
  | some .corrupt => (2, none)
  | some .ended => match e with
    | none => (3, none)
    | some t => (5, some t)

/-! Records (R354 to R356). -/

/-- DG3 and DG4 of a command. -/
def DOp.dgs : DOp → Word × Word
  | .jpeg _ p x | .g4 _ p x | .raw _ _ p x => (p, x)
  | .pp .. | .ppcfg _ | .ringSet .. => (0, 0)

/-- A sample of p bits as it is stored (R354). -/
def storedSample (wide : Bool) (p x : Nat) : List Byte :=
  if wide then bytesOf 2 x else bytesOf 1 (if p == 12 then min ((x + 8) / 16) 255 else x)

/-- The first 0x20 bytes of a record (R355). -/
def recordHead (kind k : Nat) (page x : Word) (a b c d seq : Nat) : List Byte :=
  bytesOf 2 kind ++ bytesOf 2 k ++ bytesOf 1 ((dgRgb x).toNat + 2 * (dgWide x).toNat) ++ bytesOf 1 (wbits x 1 0)
    ++ bytesOf 2 0 ++ bytesOf 8 page.toNat ++ bytesOf 2 a ++ bytesOf 2 b ++ bytesOf 2 c ++ bytesOf 2 d ++ bytesOf 4 seq
    ++ bytesOf 4 0

/-- Bytes cut into k register images. -/
def images : Nat → List Byte → List VWord
  | 0, _ => []
  | k + 1, l => ofBytes (l.take 1024) :: images k (l.drop 1024)

/-- The record of patch (r, c), the n-th of its page (R355). -/
def patchRecord (d : Decoded) (page x : Word) (r c n : Nat) : List VWord :=
  let q := dgQ x
  let vw := min q (d.w - q * c)
  let vh := min q (d.h - q * r)
  let pad := pixelBytes x * (q - vw)
  let row (y : Nat) : List Byte :=
    (((nth d.rows (q * r + y) []).drop (q * c)).take vw).flatMap (fun px => px.flatMap (storedSample (dgWide x) d.p))
      ++ List.replicate pad 0
  images (rlenK x) (recordHead 1 (rlenK x) page x r c vw vh n ++ List.replicate 0x20 0
    ++ (List.range vh).flatMap row)

/-- The records of a page, in order, each with the input bytes consumed for it (R356). -/
def pageRecords (d : Decoded) (page x : Word) : List (List VWord × Nat) :=
  let q := dgQ x
  let pcols := ceilDiv d.w q
  let full := (List.range (ceilDiv d.h q)).filter fun r => min (q * r + q) d.h ≤ d.rows.length
  full.flatMap fun r => (List.range pcols).map fun c =>
    (patchRecord d page x r c (r * pcols + c), nth d.offs (min (q * r + q) d.h - 1) 0)

/-- A command begins: its records, and what its page-end record will say (log 52, DEDUCED). -/
def startDecode (s : State) (m : DCmd) : DecodeRun :=
  let i := decodeImage s m.snap m.op
  let d := i.1
  let x := m.op.dgs.2
  let l := pageRecords d m.op.dgs.1 x
  let st := statusOf d.halt i.2
  { recs := l.map Prod.fst, offs := l.map Prod.snd, rlenk := rlenK x, emitted := 0, prows := ceilDiv d.h (dgQ x)
    pcols := ceilDiv d.w (dgQ x), w := d.w, h := d.h, status := st.1, stopoff := d.stop, pos := 0, err := st.2
    ids := [] }

/-- A command that D.DABORT has ended before it began (R363). -/
def abortedDecode (m : DCmd) : DecodeRun :=
  let x := m.op.dgs.2
  let dims : Nat × Nat := match m.op with
    | .g4 .. | .raw .. => (ceilDiv (dgW x) (dgS x), ceilDiv (dgH x) (dgS x))
    | .jpeg .. | .pp .. | .ppcfg _ | .ringSet .. => (0, 0)
  { recs := [], offs := [], rlenk := rlenK x, emitted := 0, prows := ceilDiv dims.2 (dgQ x)
    pcols := ceilDiv dims.1 (dgQ x), w := dims.1, h := dims.2, status := 6, stopoff := 0, pos := 0, err := none
    ids := [] }

/-- The page-end record (R355, R363). -/
def pageEndRecord (m : DCmd) (r : DecodeRun) : VWord :=
  let status := if m.aborted then 6 else r.status
  let stop := if m.aborted then r.pos else r.stopoff
  ofBytes ((recordHead 2 1 m.op.dgs.1 m.op.dgs.2 r.prows r.pcols r.w r.h r.emitted).take 0x1C ++ bytesOf 4 r.emitted
    ++ bytesOf 1 status ++ bytesOf 3 0 ++ bytesOf 4 stop)

/-! Progress (R349, R361, R362). -/

/-- The decode command at the head of a core's D queue that waits for an engine and could start (R349, R207). -/
def decodeWaiting (c : Core) : Option DCmd := match dHead c with
  | none => none
  | some m => if m.op.isDecode && m.run.isNone && boardClear c m.serial m.foots then some m else none

/-- The core that has waited longest, with its command (R349). -/
def longestWaiter : List Core → Option (Core × DCmd)
  | [] => none
  | c :: t => match decodeWaiting c, longestWaiter t with
    | none, r => r
    | some m, none => some (c, m)
    | some m, some r => if r.2.waiting.getD 0 < m.waiting.getD 0 then some r else some (c, m)

/-- Decode commands that run on the die. -/
def decodesRunning (s : State) : Nat := countIf (fun c => c.dq.any fun m => m.run.isSome) s.cores

/-- Changes the running decode of a command. -/
def upRun (serial : Nat) (f : DecodeRun → DecodeRun) (c : Core) : Core :=
  upD serial (fun m => { m with run := m.run.map f }) c

/-- DECODE_ENGINE_ASSIGN: the longest waiter takes a free engine of the die's eight (R349); its input is read. -/
def execDecodeEngineAssign (s : State) : Host.Outcome State Fault Refusal :=
  .next (if 8 ≤ decodesRunning s then s
    else match longestWaiter s.cores with
      | none => s
      | some p => withCore p.1.num (fun t =>
          let r := if p.2.aborted then abortedDecode p.2 else startDecode t p.2
          t.upCore (upD p.2.serial fun m => { m with run := some r, foots := [] })) s)

/-- Whether the record that is going out has begun. -/
def recordBegun (r : DecodeRun) : Bool := match r.recs with
  | [] => false
  | l :: _ => l.length < r.rlenk

/-- Whether port v28 has room for one entry more (R362, R59). -/
def patchRoom (c : Core) : Bool :=
  c.patch.length + countIf (fun p => match p with
    | .patch _ => true
    | _ => false) c.popped < 32

/-- Bytes written to the ring at WOFF, which advances with FREE (R361): the state, a failure, and the writes made. -/
def ringWrite (b : List Byte) (s : State) : State × Option Trap × List Nat :=
  let c := s.core
  let size := max 1 c.ringSize.toNat
  let puts := b.zipIdx.map fun p =>
    (⟨(c.ringBase.toNat + (c.ringWoff.toNat + p.2) % size) % 2 ^ 56, 0xFF, p.1⟩ : Put)
  let r := engWriteAll (putRuns puts) s
  let ids := (List.range (r.1.fresh - s.fresh)).map (s.fresh + ·)
  match r.2.2 with
  | some t => (r.1, some t, ids)
  | none => (r.1.upCore fun k => { k with
      ringWoff := wordN ((k.ringWoff.toNat + b.length) % size), ringFree := wordN (k.ringFree.toNat - b.length) }, none, ids)

/-- The next record goes to the ring, whole, or ends the page as RINGFULL, the input consumed for it (R355, R361; log
52, DEDUCED). -/
def emitRing (m : DCmd) (l : List VWord) (s : State) : State :=
  let b := l.flatMap toBytes
  if s.core.ringFree.toNat < b.length + 1024 then
    s.upCore (upRun m.serial fun x => { x with recs := [], offs := [], status := 4, stopoff := nth x.offs 0 x.pos, err := none })
  else
    let w := ringWrite b s
    match w.2.1 with
    | some t => w.1.upCore (upRun m.serial fun r => { r with
        recs := [], offs := [], status := 5, stopoff := nth r.offs 0 r.pos, err := some t, ids := r.ids ++ w.2.2 })
    | none => w.1.upCore (upRun m.serial fun r => { r with
        recs := r.recs.drop 1, offs := r.offs.drop 1, emitted := r.emitted + 1, pos := nth r.offs 0 0
        ids := r.ids ++ w.2.2 })

/-- The next entry of a record goes to port v28 once there is room (R362). -/
def emitPort (m : DCmd) (e : VWord) (t : List VWord) (s : State) : State :=
  if !patchRoom s.core then s
  else
    (s.upCore fun c => { c with patch := c.patch ++ [⟨e, false⟩] }).upCore (upRun m.serial fun r =>
      if t.isEmpty then { r with
        recs := r.recs.drop 1, offs := r.offs.drop 1, emitted := r.emitted + 1, pos := nth r.offs 0 0 }
      else { r with recs := t :: r.recs.drop 1 })

/-- The running decode of a core. -/
def runningDecode (c : Core) : Option (DCmd × DecodeRun) := match dHead c with
  | none => none
  | some m => m.run.map fun r => (m, r)

/-- DECODE_RECORD_EMIT: the next record of the selected core's running decode, or its next entry, goes out (R361,
R362); an aborted decode finishes the record that it has begun (R356, R363). -/
def execDecodeRecordEmit (s : State) : Host.Outcome State Fault Refusal :=
  .next (match runningDecode s.core with
    | none => s
    | some (m, r) =>
      if m.aborted && !recordBegun r then s
      else match r.recs with
        | [] => s
        | l :: _ =>
          if dgPort m.op.dgs.2 then match l with
            | [] => s
            | e :: t => emitPort m e t s
          else emitRing m l s)

/-- A decode ends: its status is the last page's, its tag completes, and the next command comes to the head
(R349, R359, R363). -/
def endDecode (m : DCmd) (r : DecodeRun) (err : Option Trap) (ids : List Nat) (s : State) : State :=
  let status := if m.aborted then 6 else r.status
  waitHead (s.upCore fun c => { endD m err ids c with lastPage := BitVec.ofNat 8 status })

/-- DECODE_PAGE_END: the page-end record goes out and the tag completes (R359, R361 to R363); for a ring with less
than 1,024 bytes free it waits (log 15, DEDUCED). -/
def execDecodePageEnd (s : State) : Host.Outcome State Fault Refusal :=
  .next (match runningDecode s.core with
    | none => s
    | some (m, r) =>
      let ready := r.recs.isEmpty || (m.aborted && !recordBegun r)
      let x := pageEndRecord m r
      let err := if m.aborted then none else r.err
      if !ready then s
      else if dgPort m.op.dgs.2 then
        if patchRoom s.core then
          endDecode m r err r.ids (s.upCore fun c => { c with patch := c.patch ++ [⟨x, true⟩] })
        else s
      else if s.core.ringFree.toNat < 1024 then s
      else
        let w := ringWrite (toBytes x) s
        match w.2.1 with
        | some t => endDecode m r (some t) (r.ids ++ w.2.2) w.1
        | none => endDecode m r err (r.ids ++ w.2.2) w.1)

/-- RING_SET_PERFORMED: D.RING.set has reached the head of the D queue (R360). -/
def execRingSetPerformed (s : State) : Host.Outcome State Fault Refusal :=
  .next (match dHead s.core with
    | none => s
    | some m => match m.op with
      | .ringSet base size => waitHead (s.upCore fun c =>
          { dropD m.serial c with ringBase := base, ringSize := size, ringWoff := 0, ringFree := size })
      | .pp .. | .ppcfg _ | .jpeg .. | .g4 .. | .raw .. => s)

end Sys2Proof.Machine
end

