-- ==== Sys2Proof/Machine/Memory.lean ====
section
/-! DEFINITION. The meanings of the M class (spec/10 R184 to R194, spec/11 R214 to R217, spec/21 R341 to R345). -/

namespace Sys2Proof

/-- The architected latency of a scalar load (R184). -/
def LClass.scalar : LClass → Nat
  | .sp => 4 | .vt => 32 | .dm => 110
/-- The architected latency of a vector load (R184). -/
def LClass.vector : LClass → Nat
  | .sp => 5 | .vt => 34 | .dm => 112

namespace Machine

/-! Loads (R189 to R192). -/

/-- A load syllable: its address registers, its results, what it finds, and what it does with the bytes. -/
def loadSyl (srcs dsts : List Reg) (l : Loaded) (k : Nat) (put : List Byte → State → State) (s : State) :
    Host.Outcome State Fault Refusal :=
  issue s { srcs := srcs, dsts := dsts, trap := l.fault, stall := l.stall s.core }
    (fun u => put l.bytes (l.landing k u))

/-- The effective address of a syllable (R188). -/
def addrOf (s : State) (a : SReg) (imm : BitVec 16) : Nat := effAddr (regS s a) imm

/-- What a scalar load finds. -/
def scalarLoad (s : State) (ty : SizeTy) (a : SReg) (imm : BitVec 16) : Loaded :=
  loadAt s ty.bytes ty.bytes [addrOf s a imm]

/-- M.LD (R190). -/
def execMLd (cls : LClass) (ty : SizeTy) (d a : SReg) (imm : BitVec 16) (s : State) :
    Host.Outcome State Fault Refusal :=
  loadSyl [.s a] [.s d] (scalarLoad s ty a imm) cls.scalar (fun b => wrS d cls.scalar (ty.extend (natOf b))) s

/-- M.LDP. -/
def execMLdp (cls : LClass) (d a : SReg) (imm : BitVec 16) (s : State) : Host.Outcome State Fault Refusal :=
  let d1 : SReg := d + 1
  loadSyl [.s a] [.s d, .s d1] (loadAt s 16 16 [addrOf s a imm]) cls.scalar
    (fun b u => wrS d1 cls.scalar (wordN (natOf (b.drop 8)))
      (wrS d cls.scalar (wordN (natOf (b.take 8))) u)) s

/-- M.VLD. -/
def execMVld (cls : LClass) (d : VReg) (a : SReg) (imm : BitVec 16) (s : State) :
    Host.Outcome State Fault Refusal :=
  loadSyl [.s a] [.v d] (loadAt s 64 1024 [addrOf s a imm]) cls.vector (fun b => wrV d cls.vector (ofBytes b)) s

/-- The addresses of sixteen lines a stride apart. -/
def lineAddrs (a : Nat) (stride : Word) : List Nat := (List.range 16).map fun k => (a + k * stride.toNat) % 2 ^ 56

/-- M.VLDS. -/
def execMVlds (cls : LClass) (d : VReg) (a b : SReg) (imm : BitVec 16) (s : State) :
    Host.Outcome State Fault Refusal :=
  loadSyl [.s a, .s b] [.v d] (loadAt s 64 64 (lineAddrs (addrOf s a imm) (regS s b))) cls.vector
    (fun x => wrV d cls.vector (ofBytes x)) s

/-- Block j of a compressed tensor, its stored bytes and its raw area when it escapes (R87, R191). -/
def loadBlock (s : State) (t : Tensor) (j : Nat) : Loaded :=
  match loadAt s 1 t.stored [(t.base + t.stored * j) % 2 ^ 56] with
  | .trap x => .trap x
  | .got ps b l =>
    if headerEscapes (natOf (b.take 8)) then
      match loadAt s 1 256 [(t.raw + 256 * j) % 2 ^ 56] with
      | .trap x => .trap x
      | .got ps' raw l' => match expandBlock b raw with
        | some e => .got (ps ++ ps') e (l.orElse fun _ => l')
        | none => .trap { cause := .format, detail := 3 }
    else match expandBlock b [] with
      | some e => .got ps e l
      | none => .trap { cause := .format, detail := 3 }

/-- Blocks one after another; the first failure traps. -/
def blocksFrom (s : State) (t : Tensor) : List Nat → Loaded
  | [] => .got [] [] none
  | j :: r => match loadBlock s t j with
    | .trap x => .trap x
    | .got ps b l => match blocksFrom s t r with
      | .trap x => .trap x
      | .got ps' b' l' => .got (ps ++ ps') (b ++ b') (l.orElse fun _ => l')

/-- The ranges that reading block j touches: its stored bytes, and its raw area where its header escapes (R86). -/
def blockRanges (s : State) (t : Tensor) (j : Nat) : List (Nat × Nat) :=
  let va := (t.base + t.stored * j) % 2 ^ 56
  let esc := match locate s .rd va t.stored with
    | .error _ => false
    | .ok ps => match readPieces s (snapOf s) ps with
      | .error _ => false
      | .ok b => headerEscapes (natOf (b.take 8))
  (va, t.stored) :: if esc then [((t.raw + 256 * j) % 2 ^ 56, 256)] else []

/-- Blocks: every range is checked, the lowest address first, before any is read (R318, R319). -/
def loadBlocks (s : State) (t : Tensor) (js : List Nat) : Loaded :=
  match (sortBy (fun a b => a.1 ≤ b.1) (js.flatMap (blockRanges s t))).findSome? fun r => errOf (locate s .rd r.1 r.2) with
  | some e => .trap e
  | none => blocksFrom s t js

/-- What M.VLDB finds: its tensor's entry, then blocks k to k + 3 (R191). -/
def expandLoad (s : State) (k : Nat) (t : TId) : Loaded :=
  match readTensor s t with
  | .error x => .trap x
  | .ok e =>
    if e.cmp == 0 then .trap { cause := .badtensor, arg := t.val } else loadBlocks s e [k, k + 1, k + 2, k + 3]

/-- M.VLDB (R191). -/
def execMVldb (cls : LClass) (d : VReg) (a : SReg) (t : TId) (s : State) : Host.Outcome State Fault Refusal :=
  let l := expandLoad s (regS s a).toNat t
  let k := cls.vector + 4
  issue s { srcs := [.s a], dsts := [.v d], trap := l.fault, stall := (tensorStall s t).orElse fun _ => l.stall s.core }
    (fun u => wrV d k (ofBytes l.bytes) (l.landing k u))

/-- The address of lane l of a gather or scatter (R191). -/
def laneAddr (s : State) (a : SReg) (b : VReg) (l : Nat) : Nat :=
  ((regS s a).toNat + elem (regV s b) 4 l) % 2 ^ 56

/-- The enabled lanes. -/
def lanesOn (m : Mask) : List Nat := (List.range 256).filter (lane m)

/-- The failure of the first lane in ascending order that fails: alignment, then the level (R188, R191; log 40,
DEDUCED). -/
def laneFault (addrs : List Nat) : Option Trap :=
  addrs.findSome? fun x =>
    if x % 4 != 0 then some (memTrap 1) else if !inLocal x then some (memTrap 3) else none

/-- The scratchpad ranges of lanes. -/
def laneRanges (addrs : List Nat) : List (Nat × Nat) := addrs.map fun x => (x, 4)

/-- M.VGATH. -/
def execMVgath (d : VReg) (a : SReg) (b : VReg) (mask : MReg) (s : State) : Host.Outcome State Fault Refusal :=
  let on := lanesOn (regM s mask)
  let addrs := on.map (laneAddr s a b)
  let ps : List Piece := addrs.map fun x => .spad x 4
  let l : Loaded := match (laneFault addrs).orElse fun _ => heldTrap s.core false (laneRanges addrs) with
    | some t => .trap t
    | none => .got ps [] (ueccPieces s ps)
  issue s { srcs := [.s a, .v b, .m mask], dsts := [.v d], trap := l.fault, stall := l.stall s.core }
    (fun u => wrV d 8 (ofElems 4 ((List.range 256).map fun k =>
      if lane (regM s mask) k then natOf (memGetN s.core.spad (laneAddr s a b k) 4) else 0)) (l.landing 8 u))

/-- Whether a failure is one of steps 1 to 5 of R188 (R192; log 41, DEDUCED). -/
def stepFail (t : Trap) : Bool :=
  match t.cause with
  | .memory | .absent | .noread | .nowrite | .noexec | .badpte | .ptue | .demand => true
  | _ => false

/-- M.GLD: a failure of R188 lands 0 and a false predicate (R192; log 41, DEDUCED). -/
def execMGld (cls : LClass) (ty : SizeTy) (d a : SReg) (c : PReg) (imm : BitVec 16) (s : State) :
    Host.Outcome State Fault Refusal :=
  let l := scalarLoad s ty a imm
  let k := cls.scalar
  match l with
  | .trap t =>
    if stepFail t then issue s { srcs := [.s a], dsts := [.s d, .p c] } (fun u => wrP c k false (wrS d k 0 u))
    else issue s { srcs := [.s a], dsts := [.s d, .p c], trap := some t } id
  | .got _ b _ =>
    loadSyl [.s a] [.s d, .p c] l k (fun _ u => wrP c k true (wrS d k (ty.extend (natOf b)) u)) s

/-- M.PREF: no visible effect. -/
def execMPref (a : SReg) (_imm : BitVec 16) (s : State) : Host.Outcome State Fault Refusal :=
  issue s { srcs := [.s a] } id
/-- M.TINV: only timing changes. -/
def execMTinv (a : SReg) (s : State) : Host.Outcome State Fault Refusal := issue s { srcs := [.s a] } id

/-! Stores (R189, R191, R192). -/

/-- A store syllable: its registers, what it finds, and the bytes. -/
def storeSyl (srcs : List Reg) (st : Stored) (b : List Byte) (s : State) : Host.Outcome State Fault Refusal :=
  issue s { srcs := srcs, trap := st.fault, stall := st.stall s.core
            limit := storeLimit s.core (spadRanges st.pieces) (sharedBytes st.pieces) } (storePut st.pieces b)

/-- The bytes of a scalar store. -/
def storeBytes (s : State) (ty : SizeTy) (b : SReg) : List Byte := bytesOf ty.bytes (regS s b).toNat

/-- M.ST. -/
def execMSt (ty : SizeTy) (a b : SReg) (imm : BitVec 16) (s : State) : Host.Outcome State Fault Refusal :=
  storeSyl [.s a, .s b] (storeAt s ty.bytes ty.bytes [addrOf s a imm]) (storeBytes s ty b) s
/-- M.STP. -/
def execMStp (a b : SReg) (imm : BitVec 16) (s : State) : Host.Outcome State Fault Refusal :=
  let b1 : SReg := b + 1
  storeSyl [.s a, .s b, .s b1] (storeAt s 16 16 [addrOf s a imm])
    (bytesOf 8 (regS s b).toNat ++ bytesOf 8 (regS s b1).toNat) s
/-- M.VST. -/
def execMVst (a : SReg) (b : VReg) (imm : BitVec 16) (s : State) : Host.Outcome State Fault Refusal :=
  storeSyl [.s a, .v b] (storeAt s 64 1024 [addrOf s a imm]) (toBytes (regV s b)) s
/-- M.VSTS. -/
def execMVsts (a : SReg) (b : VReg) (c : SReg) (imm : BitVec 16) (s : State) :
    Host.Outcome State Fault Refusal :=
  storeSyl [.s a, .v b, .s c] (storeAt s 64 64 (lineAddrs (addrOf s a imm) (regS s c))) (toBytes (regV s b)) s
/-- M.ZERO. -/
def execMZero (a : SReg) (imm : BitVec 16) (s : State) : Host.Outcome State Fault Refusal :=
  storeSyl [.s a] (storeAt s 64 64 [addrOf s a imm]) (List.replicate 64 0) s

/-- The stretches of selected bytes, each at its offset. -/
def selRuns (off : Nat) : List (Byte × Bool) → List (Nat × List Byte)
  | [] => []
  | (b, on) :: t =>
    if !on then selRuns (off + 1) t
    else match selRuns (off + 1) t with
      | (o, l) :: r => if o == off + 1 then (off, b :: l) :: r else (off, [b]) :: (o, l) :: r
      | [] => [(off, [b])]

/-- The selected bytes of a store cut into pieces of memory: each piece with what is selected in it (log 39, DEDUCED).
-/
def selPieces : List Piece → List (Byte × Bool) → List (Piece × List Byte)
  | [], _ => []
  | .spad off n :: t, b =>
    ((selRuns off (b.take n)).map fun r => (Piece.spad r.1 r.2.length, r.2)) ++ selPieces t (b.drop n)
  | .mem pa n st :: t, b =>
    ((selRuns pa (b.take n)).map fun r => (Piece.mem r.1 r.2.length st, r.2)) ++ selPieces t (b.drop n)

/-- M.VSTU: only the selected bytes are written; its whole extent is checked and counted (R189; log 39, DEDUCED). -/
def execMVstu (a : SReg) (b c : VReg) (imm : BitVec 16) (s : State) : Host.Outcome State Fault Refusal :=
  let st := storeAt s 1 1024 [addrOf s a imm]
  let sel := (toBytes (regV s b)).zip ((toBytes (regV s c)).map (· != 0))
  let l := selPieces st.pieces sel
  issue s { srcs := [.s a, .v b, .v c], trap := st.fault, stall := st.stall s.core
            limit := storeLimit s.core (spadRanges (l.map Prod.fst)) (sharedBytes st.pieces) }
    (fun u => countBytes (sharedBytes st.pieces) (putPieces .store (l.map Prod.fst) (l.flatMap Prod.snd) u))

/-- M.VSCAT: the higher of two lanes that name one address stands. -/
def execMVscat (a : SReg) (b c : VReg) (mask : MReg) (s : State) : Host.Outcome State Fault Refusal :=
  let on := lanesOn (regM s mask)
  let addrs := on.map (laneAddr s a b)
  let ranges := laneRanges addrs
  issue s { srcs := [.s a, .v b, .v c, .m mask]
            trap := (laneFault addrs).orElse fun _ => heldTrap s.core true ranges
            stall := spadStall s.core true ranges, limit := storeLimit s.core ranges 0 }
    (putPieces .store (addrs.map fun x => .spad x 4) (on.flatMap fun l => bytesOf 4 (elem (regV s c) 4 l)))

/-- M.GST: the predicate says whether the store was made (R192; log 41, DEDUCED). -/
def execMGst (ty : SizeTy) (a b : SReg) (c : PReg) (imm : BitVec 16) (s : State) :
    Host.Outcome State Fault Refusal :=
  let st := storeAt s ty.bytes ty.bytes [addrOf s a imm]
  match st with
  | .trap t =>
    if stepFail t then issue s { srcs := [.s a, .s b], dsts := [.p c] } (wrP c 4 false)
    else issue s { srcs := [.s a, .s b], dsts := [.p c], trap := some t } id
  | .at' ps =>
    issue s { srcs := [.s a, .s b], dsts := [.p c], stall := st.stall s.core
              limit := storeLimit s.core (spadRanges ps) (sharedBytes ps) }
      (fun u => wrP c 4 true (storePut ps (storeBytes s ty b) u))

/-! Ordering accesses (R193, R194, R214, R216). -/

/-- What an ordering access finds: a trap, or its physical address (R188, R193, R342). The cause of its translation,
permission included, comes before MEMORY, SPACE for a window that is not IDENTITY (log 110, DEDUCED). -/
def orderAt (s : State) (k : Access) (w va : Nat) : Except Trap Nat :=
  if va % w != 0 then .error (memTrap 1)
  else if inLocal va then .error (memTrap 3)
  else match locateShared s k va w with
    | .error t => .error t
    | .ok ps =>
      if ps.any (notIdentity s) then .error (memTrap 3)
      else if k.kind == 1 && ps.any (inStamped s) then .error { cause := .stampspace, detail := 2 }
      else match ps with
        | .mem pa _ _ :: _ => .ok (homeOf s.die (partNum s) pa)
        | _ => .error (memTrap 3)

/-- A result that is known only later: its place in flight, or its reserved entry of a write port (R58, R216). -/
def awaited (d : SReg) (k : Nat) (land : Nat → Land) (s : State) : State :=
  if d.val < 56 then (s.flight k (land s.fresh)).useId
  else if d.val < 60 then (reservePush (Fin.ofNat 4 d.val) s).flight k (land s.fresh)
  else (reserveSend 8 s).flight k (land s.fresh)

/-- An effect withheld until the commit. -/
def withheld (h : Held) (s : State) : State := s.upCore fun c => { c with held := c.held ++ [h] }

/-- An ordering access that returns a value: `mk` is its withheld effect, for the address and the serial of its
result. -/
def orderSyl (srcs : List Reg) (d : SReg) (k : Nat) (x : Except Trap Nat) (n : Nat) (mk : Nat → Nat → Held)
    (s : State) : Host.Outcome State Fault Refusal :=
  issue s { srcs := srcs, dsts := [.s d], trap := errOf x, limit := storeLimit s.core [] n }
    (fun u => match x with
      | .ok pa => countBytes n (withheld (mk pa u.fresh) (awaited d k (.ordPend d) u))
      | .error _ => u)

/-- An atomic but M.CAS (R193). -/
def atomSyl (op : AtomOp) (o : AMod) (d a b : SReg) (s : State) : Host.Outcome State Fault Refusal :=
  let w := if o.w32 then 4 else 8
  orderSyl [.s a, .s b] d 120 (orderAt s .atom w (addrOf s a 0)) 8
    (fun pa n => .atom op pa o.w32 (regS s b) o.ord o.scope d n) s

/-- M.AADD. -/
def execMAadd (o : AMod) (d a b : SReg) (s : State) : Host.Outcome State Fault Refusal := atomSyl .add o d a b s
/-- M.AMIN. -/
def execMAmin (o : AMod) (d a b : SReg) (s : State) : Host.Outcome State Fault Refusal := atomSyl .min o d a b s
/-- M.AMAX. -/
def execMAmax (o : AMod) (d a b : SReg) (s : State) : Host.Outcome State Fault Refusal := atomSyl .max o d a b s
/-- M.AAND. -/
def execMAand (o : AMod) (d a b : SReg) (s : State) : Host.Outcome State Fault Refusal := atomSyl .and o d a b s
/-- M.AOR. -/
def execMAor (o : AMod) (d a b : SReg) (s : State) : Host.Outcome State Fault Refusal := atomSyl .or o d a b s
/-- M.AXOR. -/
def execMAxor (o : AMod) (d a b : SReg) (s : State) : Host.Outcome State Fault Refusal := atomSyl .xor o d a b s
/-- M.SWAP. -/
def execMSwap (o : AMod) (d a b : SReg) (s : State) : Host.Outcome State Fault Refusal := atomSyl .swap o d a b s
/-- M.CAS (R194). -/
def execMCas (o : AMod) (ford : MemOrd) (d a b c : SReg) (s : State) : Host.Outcome State Fault Refusal :=
  let w := if o.w32 then 4 else 8
  orderSyl [.s a, .s b, .s c] d 120 (orderAt s .atom w (addrOf s a 0)) 8
    (fun pa n => .atom (.cas (regS s c) ford) pa o.w32 (regS s b) o.ord o.scope d n) s
/-- M.LDAQ. -/
def execMLdaq (cls : LClass) (ty : SizeTy) (scope : Scope) (d a : SReg) (s : State) :
    Host.Outcome State Fault Refusal :=
  orderSyl [.s a] d cls.scalar (orderAt s .rd ty.bytes (addrOf s a 0)) 0 (fun pa n => .ldaq pa ty scope d n) s
/-- M.STRL. -/
def execMStrl (ty : SizeTy) (scope : Scope) (a b : SReg) (s : State) : Host.Outcome State Fault Refusal :=
  let x := orderAt s .wr ty.bytes (addrOf s a 0)
  issue s { srcs := [.s a, .s b], trap := errOf x, limit := storeLimit s.core [] 8 }
    (fun u => match x with
      | .ok pa => countBytes 8 (withheld (.strl pa (storeBytes s ty b) scope) u)
      | .error _ => u)
/-- M.FENCE, but .stamp (R217). -/
def execMFence (kind : FenceKind) (scope : Scope) (s : State) : Host.Outcome State Fault Refusal :=
  issue s {} (withheld (.fence kind scope))
/-- M.FENCE.stamp: the segment commits, then the core waits for its stamps (R345). -/
def execMFenceStamp (s : State) : Host.Outcome State Fault Refusal := issue s {} (beginWait .stampCommit)

/-! Stamps (R343, R344). -/

/-- Whether the leaf that maps a piece has STAMP = 1 (R314, R343). -/
def stampPiece : Piece → Bool
  | .spad .. => false
  | .mem _ _ st => st

/-- What an access of a stamped page finds: a trap, or its physical address (R343, R344). -/
def stampAt (s : State) (k : Access) (w va : Nat) : Except Trap Nat :=
  if va % w != 0 then .error (memTrap 1)
  else if inLocal va then .error (memTrap 3)
  else match locateShared s k va w with
    | .error t => .error t
    | .ok ps =>
      if !(ps.all stampPiece) then .error { cause := .stampspace, detail := 1 }
      else match ps with
        | .mem pa _ _ :: _ => .ok pa
        | _ => .error (memTrap 3)

/-- M.STS (R343). -/
def execMSts (ty : SizeTy) (d a b : SReg) (imm : BitVec 16) (s : State) : Host.Outcome State Fault Refusal :=
  let wide := s.die.clkw.toNat < s.die.latest - s.die.earliest
  let x : Except Trap Nat :=
    if wide then .error { cause := .clkwide } else stampAt s .wr ty.bytes (addrOf s a imm)
  issue s { srcs := [.s a, .s b], dsts := [.s d], trap := errOf x, limit := storeLimit s.core [] 8 }
    (fun u => match x with
      | .ok pa => wrS d 1 (wordN s.die.latest)
        (countBytes 8 (withheld (.sts pa (storeBytes s ty b) s.die.latest) u))
      | .error _ => u)

/-- Whether the open segment withholds an M.STS to a line with a stamp no greater than t (R344). -/
def stampHeld (c : Core) (pa t : Nat) : Bool := c.held.any fun h => match h with
  | .sts p _ x => p / 64 == pa / 64 && x ≤ t
  | _ => false

/-- What M.LDAS finds (R344). -/
def asOfAt (s : State) (ty : SizeTy) (va t : Nat) : Except Trap Nat :=
  match stampAt s .rd ty.bytes va with
  | .error x => .error x
  | .ok pa =>
    if t + s.die.horizon.toNat * 10 ^ 6 < s.die.earliest then .error { cause := .horizon, detail := 1 }
    else if stampHeld s.core pa t then .error { cause := .stampheld }
    else .ok pa

/-- M.LDAS (R344): its value is taken once the stamp is surely past, before the bundle at which it is due. -/
def execMLdas (cls : LClass) (ty : SizeTy) (d a b : SReg) (imm : BitVec 16) (s : State) :
    Host.Outcome State Fault Refusal :=
  let t := (regS s b).toNat
  let x := asOfAt s ty (addrOf s a imm) t
  issue s { srcs := [.s a, .s b], dsts := [.s d], trap := errOf x }
    (fun u => match x with
      | .ok pa => awaited d cls.scalar (fun n => .asOf d n pa ty t u.core.issue.ba) u
      | .error _ => u)

end Machine

end Sys2Proof
end

