-- ==== Sys2Proof/Machine/Service.lean ====
section
/-! DEFINITION. The steward: page tables and stamped pages (spec/19 R317, spec/21 R341), dies out of service (spec/19
R323), clocks (spec/21 R338, R340), boot (spec/23 R367 to R369, spec/01 R12 to R14), the host (spec/23 R370, R371,
spec/11 R222), sensors and stepping (spec/23 R372 to R375), ECC (spec/12 R229), and the registers it writes. -/

namespace Sys2Proof.Machine

/-! Leaves of the page tables. -/

/-- Every valid leaf below a table (R313 to R315). -/
def tableLeaves (d : Die) : Nat → Nat → Nat → List Nat
  | 0, _, _ => []
  | fuel + 1, lvl, table => (List.range (2 ^ lvlWidth lvl)).flatMap fun i =>
    let e := natOf (memGetN d.mem (table + 8 * i) 8)
    if !bitAt e 0 || pteBad d.ncrew lvl e then []
    else if bitAt e 1 then [e]
    else tableLeaves d fuel (lvl - 1) (bits e 49 11 * 2 ^ 11)

/-- Every valid leaf of the die's trees in use, of any partition. -/
def dieLeaves (d : Die) : List Nat := d.ptroots.toList.flatMap fun r =>
  if bitAt r.toNat 0 then tableLeaves d 5 4 (bits r.toNat 49 13 * 2 ^ 13) else []

/-- The page of a leaf: its base and its size. -/
def leafPage (e : Nat) : Nat × Nat := (bits e 49 11 * 2 ^ 11, 2 ^ pageBits (bits e 7 5))

/-- The level at which a leaf's size stands (R313). -/
def sizeLevel (size : Nat) : Nat := if size < 2 then 0 else if size < 4 then 1 else 2

/-- Whether an entry is a valid leaf, not malformed at the level of its size (R314). -/
def goodLeaf (c e : Nat) : Bool := bitAt e 0 && bitAt e 1 && bits e 7 5 < 5 && !pteBad c (sizeLevel (bits e 7 5)) e

/-- The 16 KiB parts of a leaf's page. -/
def leafParts (e : Nat) : List Nat := (List.range ((leafPage e).2 / 0x4000)).map ((leafPage e).1 / 0x4000 + ·)

/-- Whether the pages of two leaves share a byte. -/
def leavesMeet (e f : Nat) : Bool :=
  (leafPage e).1 < (leafPage f).1 + (leafPage f).2 && (leafPage f).1 < (leafPage e).1 + (leafPage e).2

/-- Leaves of a list that another does not hold. -/
def leavesBeyond (l m : List Nat) : List Nat := l.filter fun e => !m.contains e

/-- The leaves that a change of a die's tables brings: those of the trees in use, and the entry written itself (R317;
log 72, DEDUCED). -/
def newLeaves (d d' : Die) (entry : Nat) : List Nat :=
  leavesBeyond (dieLeaves d') (dieLeaves d) ++ if goodLeaf d.ncrew entry then [entry] else []

/-- STAMPMIX of a change of a die's tables, judged by the leaves as they stand after it: a leaf that it brings maps with
STAMP = 0 a page recorded as stamped, or with STAMP = 1 a page that another leaf maps with STAMP = 0 (R317; log 72,
DEDUCED). -/
def stampMix (d d' : Die) (entry : Nat) : Bool :=
  (newLeaves d d' entry).any fun e =>
    if bitAt e 8 then (dieLeaves d').any fun f => !bitAt f 8 && leavesMeet e f
    else (leafParts e).any d.stampPages.contains

/-! Page table updates (R317). -/

/-- The bytes of a stamped line as its greatest stamp leaves them. -/
def StampLine.latest (l : StampLine) : List Byte := match l.vers.getLast? with
  | none => []
  | some v => v.2.map Prod.snd

/-- Pages that are stamped no longer keep their latest bytes. -/
def unstamp (parts : List Nat) (s : State) : State :=
  let gone (l : StampLine) : Bool := parts.contains (l.line / 0x4000)
  let s1 := s.upDie fun d => { d with
    stampPages := d.stampPages.filter fun g => !parts.contains g, stampLines := d.stampLines.filter fun l => !gone l }
  (s.die.stampLines.filter gone).foldl (fun t l => writeMem l.line l.latest [] t) s1

/-- The record of stamped pages after a change of a die's tables in which an entry has taken the place of another: the
pages of the stamped leaves that it brings are recorded, and those of the stamped leaves that it takes away are not,
unless a stamped leaf still maps them (R317; log 72, DEDUCED). -/
def recordStamps (d : Die) (old new : Nat) (s : State) : State :=
  let stamped (l : List Nat) : List Nat := (l.filter fun e => bitAt e 8).flatMap leafParts
  let s1 := s.upDie fun x => { x with stampPages := joinIds x.stampPages (stamped (newLeaves d s.die new)) }
  let gone := stamped (leavesBeyond (dieLeaves d) (dieLeaves s.die) ++ if goodLeaf d.ncrew old then [old] else [])
  let kept := stamped (dieLeaves s.die ++ if goodLeaf d.ncrew new then [new] else [])
  unstamp (gone.filter fun g => !kept.contains g) s1

/-- A change of the selected die's tables, in which an entry takes the place of another, is made, or refused with
STAMPMIX (R317; log 72, DEDUCED). -/
def changeTables (req : String) (arg old new : Nat) (f : State → State) (s : State) : State :=
  let t := f s
  if stampMix s.die t.die new then s.status req "STAMPMIX" arg else recordStamps s.die old new t

/-- PAGE_TABLE_UPDATE: the steward writes one entry of the partition's tables on the selected die, or refuses with
BUSY or STAMPMIX (R317; log 72, DEDUCED). -/
def execPageTableUpdate (addr : Nat) (entry : BitVec 64) (s : State) : Host.Outcome State Fault Refusal :=
  .next (match partOf s with
    | none => s
    | some p =>
      let old := natOf (memGetN s.die.mem addr 8)
      let new := entry.toNat
      let inMemory := addr % 8 == 0 && (levelOf s.die.ncrew addr == .vault || levelOf s.die.ncrew addr == .dram)
      let busy := (p.state == .running || p.state == .draining) && (bitAt old 0 || !bitAt new 0)
      if !inMemory then s
      else if busy then s.status "PAGE_TABLE_UPDATE" "BUSY" addr
      else changeTables "PAGE_TABLE_UPDATE" addr old new (writeMem addr (bytesOf 8 new) []) s)

/-! Out of service (R323). -/

/-- A page put into pages sorted by their bases. -/
def insertPage (x : Nat × Nat) : List (Nat × Nat) → List (Nat × Nat)
  | [] => [x]
  | y :: t => if x.1 < y.1 then x :: y :: t else y :: insertPage x t

/-- Bytes that pages sorted by their bases cover from an address up. -/
def coveredFrom : Nat → List (Nat × Nat) → Nat
  | _, [] => 0
  | lo, p :: t =>
    let hi := p.1 + p.2
    hi - max lo p.1 + coveredFrom (max lo hi) t

/-- Bytes of vault and DRAM that the tables of a die map. -/
def mappedBytes (d : Die) : Nat :=
  let l := ((dieLeaves d).map leafPage).filter fun p =>
    levelOf d.ncrew p.1 == .vault || levelOf d.ncrew p.1 == .dram
  coveredFrom 0 (l.foldr insertPage [])

/-- Bytes of vault and DRAM of a die (R11). -/
def Die.capacity (d : Die) : Nat := d.ncrew * (0x8000000 + 0x80000000)

/-- Whether a die's shadow reserve holds state (R309). -/
def hasShadow (s : State) (d : Die) : Bool := s.pkg.parts.any fun p => p.shadow.any fun x => p.first + x.pos == d.num && d.part == some p.num

/-- Free memory of the package's other ONLINE dies (DESIGN CHOICE, log 16; log 73, DEDUCED). -/
def freeMemory (s : State) : Nat :=
  let ds := s.pkg.dies.filter fun d => d.boot == .online && d.service == .online
  (ds.map fun d => d.capacity - mappedBytes d - if hasShadow s d then Config.shadowBytes else 0).foldl (· + ·) 0
    - (s.pkg.evac.map Evacuated.bytes).foldl (· + ·) 0

/-- What the selected die must move: its mapped pages and its shadow reserve (log 16, DESIGN CHOICE). -/
def evacBytes (s : State) : Nat := mappedBytes s.die + Config.shadowBytes

/-- The evacuation check (log 73, DEDUCED). -/
def checkEvacuation (s : State) : State :=
  if evacBytes s ≤ freeMemory s then s.upDie fun d => { d with copying := true }
  else s.post (.offlineRefused s.die.num (evacBytes s - freeMemory s))

/-- Whether the state of its partition's context keeps a die in service. -/
def heldInService (s : State) : Bool := match partOf s with
  | none => false
  | some p => [.running, .draining, .halted, .loading, .ready].contains p.state

/-- OFFLINE (R323; log 73, DEDUCED). -/
def execOffline (s : State) : Host.Outcome State Fault Refusal :=
  .next (match s.die.service with
    | .online =>
      if s.die.boot != .online then s
      else if heldInService s then s.status "OFFLINE" "BUSY" s.die.num
      else checkEvacuation (s.upDie fun d => { d with service := .draining, copying := false })
    | .draining => if s.die.copying then s else checkEvacuation s
    | .offline | .fenced => s)

/-- The tables that a tree holds below and with one, each with its size (R313). -/
def treeTables (d : Die) : Nat → Nat → Nat → List (Nat × Nat)
  | 0, _, _ => []
  | fuel + 1, lvl, table => (table, 8 * 2 ^ lvlWidth lvl) :: (List.range (2 ^ lvlWidth lvl)).flatMap fun i =>
    let e := natOf (memGetN d.mem (table + 8 * i) 8)
    if !bitAt e 0 || pteBad d.ncrew lvl e || bitAt e 1 then [] else treeTables d fuel (lvl - 1) (bits e 49 11 * 2 ^ 11)

/-- The pages and the tables of the tree of a partition slot. -/
def contextTree (d : Die) (slot : Fin 16) : List (Nat × Nat) × List (Nat × Nat) :=
  let r := d.ptroots[slot].toNat
  if bitAt r 0 then
    ((tableLeaves d 5 4 (bits r 49 13 * 2 ^ 13)).map leafPage, treeTables d 5 4 (bits r 49 13 * 2 ^ 13))
  else ([], [])

/-- What the store takes of the selected die: the pages of the context that its partition holds, if it holds one
(R323; log 73, DEDUCED). -/
def evacuated (s : State) : Option Evacuated := match partOf s with
  | none => none
  | some p =>
    if p.state == .empty || p.state == .killed then none
    else
      let d := s.die
      let t := contextTree d p.slot
      some ⟨d.num, p.num, p.ctx, d.num - p.first, d.base, d.mem, d.log, d.stampPages, d.stampLines, d.released, t.1, t.2,
        evacBytes s⟩

/-- EVACUATION_COMPLETE (R323). -/
def execEvacuationComplete (s : State) : Host.Outcome State Fault Refusal :=
  .next (if s.die.service == .draining && s.die.copying then
      (s.upDie fun d => { d with service := .offline, copying := false, away := true }).upPkg fun k =>
        { k with evac := k.evac ++ (evacuated s).toList }
    else s)

/-! Fencing and boot (R12 to R14, R367 to R369). -/

/-- Every die's boot state. -/
def bootStates (s : State) : List Boot := s.dies.map Die.boot

/-- The name of a status of BOOTSTS (R369). -/
def bootName (k : Nat) : String := match k with
  | 0 => "OK"
  | 1 => "CFGSIG"
  | 2 => "CFGSERIAL"
  | 3 => "NOROOT"
  | _ => "PARTIAL"

/-- Whether the boot has ended: every die has reached ONLINE, FENCED or CFGFAIL (R367). -/
def bootDone (s : State) : Bool := (bootStates s).all fun b => b == .online || b == .fenced || b == .cfgfail

/-- Once the boot has ended the package root reports it to the host, and stepping starts, with L at 7 and no calm tick
(R367, R374). -/
def reportBoot (s s' : State) : State :=
  if bootDone s' && !bootDone s then
    (s'.upPkg fun k => { k with lvl := 7, calm := 0 }).status "BOOT" (bootName s'.pkg.bootCode.toNat)
      s'.pkg.bootFenced.toNat
  else s'

/-- The selected die is fenced (R14, R297, R369). When a context holds the die, the die leaves its partition and no more
happens to that context: its state, its other dies and its records and cores on the die stay as they are (log 107, DESIGN
CHOICE). -/
def fence (reason : String) (s : State) : State :=
  let d := s.die.num
  let noRoot := d == 0 && (s.die.boot == .bist || s.die.boot == .auth)
  ((s.upDie fun x => { x with boot := .fenced, part := none }).upPkg fun k => { k with
    bootFenced := k.bootFenced ||| BitVec.twoPow 12 d
    bootCode := if noRoot then 3 else if k.bootCode == 0 then 4 else k.bootCode }).post
    (.dieFenced d s.die.stage.toNat reason)

/-- What the reading of the configuration record gives (R12, R13): 0 passes, else the status code of R369. -/
def recordStatus (k : Package) : BitVec 4 :=
  if !Config.sigOk k.cfgRecord k.signature then 1 else if k.recSerial != k.flashSerial then 2 else 0

/-- What a die takes from the configuration record: its grade with as many crews and cores, CFGSER, its features and
MCREV (R3, R11, R12, R237; log 102, DESIGN CHOICE). -/
def Die.configured (r : List Byte) (d : Die) : Die :=
  let g := (Config.cfgGrade r).val
  let x : Word := (Config.cfgFeatures r d.num).setWidth 64 ||| 0x10000
  { d with
    ncrew := 14 + g, grade := BitVec.ofNat 4 (0xD + g), cfgser := Config.cfgSerial r, feat := x, cfgFeat := x
    mcrev := (Config.cfgMcrev r).setWidth 64, cores := d.cores.filter fun c => c.num < 8 * (14 + g) }

/-- A die leaves reset: its record is read, its maps and trims are applied, and its self-test begins; or the
configuration has failed (R367). -/
def Die.boots (st : BitVec 4) (r : List Byte) (d : Die) : Die :=
  if d.boot != .cold then d
  else if st == 0 then { d.configured r with boot := .bist, level := 7 } else { d with boot := .cfgfail }

/-- RESET_RELEASE, of the whole package (R367, R12, R13; log 74, DEDUCED). A core that the record leaves out is
selected no longer. -/
def execResetRelease (s : State) : Host.Outcome State Fault Refusal :=
  let st := recordStatus s.pkg
  let r := s.pkg.cfgRecord
  let t := if 112 ≤ s.core.num then selCore 0 s else s
  .next (if (bootStates s).any (· == .cold) then
      reportBoot t ((t.upDie (Die.boots st r)).upPkg fun k => { k with
        dies := k.dies.map (Die.boots st r), bootCode := st
        mcrev := if st == 0 then (Config.cfgMcrev r).setWidth 64 else k.mcrev })
    else s)

/-- BIST_COMPLETE (R367; log 74, DEDUCED). -/
def execBistComplete (pass : Bool) (s : State) : Host.Outcome State Fault Refusal :=
  .next (if s.die.boot != .bist then s
    else if pass then s.upDie fun d => { d with boot := .auth } else reportBoot s (fence "BIST" s))

/-- Whether stage 0 has become ONLINE: without it no die does (R368). -/
def rootUp (s : State) : Bool := s.die.num == 0 || s.dies.any fun d => d.num == 0 && d.boot == .online

/-- Whether the identity key of the selected die is the one that the record certifies for it (R368; log 102, DESIGN
CHOICE). -/
def keyCertified (s : State) : Bool := Config.identityKey s.die.num == Config.certifiedKey s.pkg.cfgRecord s.die.num

/-- AUTH_COMPLETE, with the outcome of the responses in both directions; a key other than the one certified fails too
(R367, R368; log 74, DEDUCED). -/
def execAuthComplete (pass : Bool) (s : State) : Host.Outcome State Fault Refusal :=
  .next (if s.die.boot != .auth then s
    else if !pass || !keyCertified s then reportBoot s (fence "AUTH" s)
    else if rootUp s then reportBoot s (s.upDie fun d => { d with boot := .online })
    else s)

/-- AUTH_TIMEOUT (R367). -/
def execAuthTimeout (s : State) : Host.Outcome State Fault Refusal :=
  .next (if s.die.boot != .auth then s else reportBoot s (fence "AUTH" s))

/-- RAIL_FAULT (R375). -/
def execRailFault (s : State) : Host.Outcome State Fault Refusal :=
  .next (let s1 := s.post (.railFault s.die.num)
    if s.die.boot == .fenced then s1 else reportBoot s1 (fence "RAIL" s1))

/-- The die's memory cleared (R323). -/
def Die.clearMemory (d : Die) : Die :=
  { d with base := [], mem := [], log := [], hostView := [], released := [], stampPages := [], stampLines := [], ueccLines := [] }

/-- ONLINE: a draining die returns with its memory; an offline one after its self-test, its memory cleared, or it is
fenced (R323). -/
def execOnline (pass : Bool) (s : State) : Host.Outcome State Fault Refusal :=
  .next (match s.die.service with
    | .draining => s.upDie fun d => { d with service := .online, copying := false, found := [] }
    | .offline =>
      if pass then s.upDie fun d => { d.clearMemory with service := .online, found := [], away := false }
      else fence "ONLINE" (s.upDie fun d => { d with service := .fenced })
    | .online | .fenced => s)

/-! Clocks (R338, R340). -/

/-- DOMAIN_FLOOR: a floor, not above the earliest bound of any die, arrives (R340; log 75, DEDUCED). -/
def execDomainFloor (f : Nat) (s : State) : Host.Outcome State Fault Refusal :=
  .next (if s.dies.any fun d => d.earliest < f then s
    else settleWaiters (s.upDie fun d => { d with floor := max d.floor f }))

/-- CLOCK_WIDE is posted when a die's width first exceeds CLKW (R338; log 75, DEDUCED). -/
def execClockWide (s : State) : Host.Outcome State Fault Refusal :=
  .next (if s.die.latest - s.die.earliest ≤ s.die.clkw.toNat then s.upDie fun d => { d with widePosted := false }
    else if s.die.widePosted then s
    else (s.upDie fun d => { d with widePosted := true }).post (.clockWide s.die.num))

/-! Sensors and stepping (R372 to R374, R45, R24). -/

/-- THERM_REFRESH (R372). -/
def execThermRefresh (tj tin : BitVec 12) (pwr : BitVec 16) (s : State) : Host.Outcome State Fault Refusal :=
  .next (s.upDie fun d => { d with
    tj := tj, tin := tin, pwr := pwr, trip := decide (880 ≤ tj.toNat), pwrs := d.pwrs ++ [pwr.toNat] })

/-- ASTEP_WRITE: a write with TDOWN ≥ TUP, PDOWN ≥ PUP or HOLD = 0 is ignored (R373). -/
def execAstepWrite (x : BitVec 64) (s : State) : Host.Outcome State Fault Refusal :=
  .next (if wbits x 7 0 ≤ wbits x 15 8 || wbits x 39 28 ≤ wbits x 51 40 || wbits x 23 16 == 0 then s
    else s.upPkg fun k => { k with
      tup := BitVec.ofNat 8 (wbits x 7 0), tdown := BitVec.ofNat 8 (wbits x 15 8), hold := BitVec.ofNat 8 (wbits x 23 16)
      lmin := Fin.ofNat 8 (wbits x 26 24), pup := BitVec.ofNat 12 (wbits x 39 28), pdown := BitVec.ofNat 12 (wbits x 51 40) })

/-- What a tick sees: the hottest junction in 1/8 °C, the power in 1/160 W, and whether a die has tripped (R374). -/
structure Sensed where
  t : Nat
  p : Nat
  trip : Bool
  deriving DecidableEq, Repr

/-- The sensors at a tick (R374; log 76, DEDUCED). -/
def sensed (s : State) : Sensed :=
  let ds := s.dies.filter fun d => d.boot == .online
  { t := (ds.map fun d => d.tj.toNat).foldl max 0
    p := (ds.map fun d => (d.pwrs.drop (d.pwrs.length - 10)).foldl (· + ·) 0).foldl (· + ·) 0
    trip := s.dies.any Die.trip }

/-- tick() of R374: L and calm (log 76, DEDUCED). -/
def stepLevel (k : Package) (x : Sensed) : Nat × Nat :=
  let l := k.lvl.val
  if x.trip then (7, 0)
  else if 8 * k.tup.toNat ≤ x.t || 160 * k.pup.toNat ≤ x.p then (min (l + 1) 7, 0)
  else if l < k.lmin.val then (l + 1, 0)
  else if x.t < 8 * k.tdown.toNat && x.p < 160 * k.pdown.toNat then
    if k.hold.toNat ≤ k.calm + 1 && k.lmin.val < l then (l - 1, 0) else (l, k.calm + 1)
  else (l, 0)

/-- ALLOW of a die written at a tick (R45, R374; log 76, DEDUCED). -/
def Die.setLevel (l : Nat) (d : Die) : Die :=
  let d1 := { d with pwrs := [] }
  if d.boot != .online || d.level.val == l then d1 else { d1 with level := Fin.ofNat 8 l, changes := d.changes + 1 }

/-- PROMISE_SUSPENDED for every running kernel whose rating the raised level passes (R24). -/
def promisePosts (old new : Nat) (s : State) : List Post :=
  (s.pkg.parts.filter fun p => p.state == .running || p.state == .draining).flatMap fun p =>
    (p.kernels.filter fun k => k.st == .resident && old ≤ k.rating.val && k.rating.val < new).map fun k =>
      .promiseSuspended p.num k.kid.toNat new

/-- STEPPING_TICK, once the boot has ended (R374). -/
def execSteppingTick (s : State) : Host.Outcome State Fault Refusal :=
  let r := stepLevel s.pkg (sensed s)
  .next (if !bootDone s then s else (s.upDie (Die.setLevel r.1)).upPkg fun k => { k with
    dies := k.dies.map (Die.setLevel r.1), lvl := Fin.ofNat 8 r.1, calm := r.2
    posts := k.posts ++ promisePosts k.lvl.val r.1 s })

/-! The mailbox (R278, R371, R59). -/

/-- The partition of a slot. -/
def slotPart (s : State) (slot : Fin 16) : Option Partition := s.pkg.parts.find? fun p => p.slot == slot

/-- Entries of a slot that strands have popped and not yet freed (R59; log 77, DEDUCED). -/
def mboxPopped (s : State) (slot : Fin 16) : Nat :=
  countIf (fun p => match p with
    | .mbox n .. => n == slot.val
    | _ => false) ((s.cores ++ s.pkg.dies.flatMap Die.cores).flatMap Core.popped)

/-- Entries that a slot's mailbox holds, those popped and not yet freed included (R59, R371; log 77, DEDUCED). -/
def mboxHeld (s : State) (slot : Fin 16) : Nat := (vget s.pkg.mbox slot []).length + mboxPopped s slot

/-- MBOX_WRITE: the host appends an entry; a write to a full mailbox is dropped and counted (R371; log 77, DEDUCED).
-/
def execMboxWrite (slot : Fin 16) (x : BitVec 64) (s : State) : Host.Outcome State Fault Refusal :=
  .next (if 64 ≤ mboxHeld s slot then
      s.upPkg fun k => { k with drops := vmod k.drops slot fun n => if n == 0xFFFF then n else n + 1 }
    else
      let s1 := (s.upMbox slot fun l => l ++ [(s.fresh, x)]).useId
      match slotPart s slot with
      | none => s1
      | some p => eachDie (diesOf p.num s) settleWaiters s1)

/-- MBOXSTS_WRITE: DROPS is cleared where ones are written (R371). -/
def execMboxstsWrite (slot : Fin 16) (x : BitVec 64) (s : State) : Host.Outcome State Fault Refusal :=
  .next (s.upPkg fun k => { k with drops := vmod k.drops slot fun n => n &&& ~~~(BitVec.ofNat 16 (wbits x 31 16)) })

/-! The host's memory (R370, R222, R342). -/

/-- HOSTOPEN (R370). -/
def execHostopen (s : State) : Host.Outcome State Fault Refusal := .next (s.upPart fun p => { p with hostOpen := true })
/-- HOSTCLOSE (R370). -/
def execHostclose (s : State) : Host.Outcome State Fault Refusal := .next (s.upPart fun p => { p with hostOpen := false })

/-- Whether the host may reach bytes of the selected die (R370; log 16, DESIGN CHOICE). -/
def hostReaches (s : State) (pa len : Nat) : Bool :=
  (match partOf s with
    | none => false
    | some p => p.hostOpen)
  && s.die.boot == .online && s.die.service != .offline && s.die.service != .fenced && pa + len ≤ 2 ^ 36
  && (List.range len).all fun k =>
    (levelOf s.die.ncrew (pa + k) == .vault || levelOf s.die.ncrew (pa + k) == .dram)
      && !Config.reserved s.die.num (pa + k)

/-- The writes of the phase that a host read sees: those it sees already, and every .system release (R222). -/
def hostSees (d : Die) : List Nat :=
  joinIds d.hostView ((d.log.filter fun w => w.heads.any fun h => h.scope == .system).map WriteRec.id)

/-- A byte as the host reads it; none: its as-of value is no longer held, or its ECC cannot be corrected (R222, R342;
log 78, DEDUCED). -/
def hostByte (s : State) (pa : Nat) : Option Byte :=
  if s.die.ueccLines.contains (pa / 64 * 64) then none
  else if isStamped s.die pa then (asOfBelow s.die (pastLimit s) pa).map Prod.snd
  else some (viewByte s.die (hostSees s.die) pa)

/-- What happens before the .system releases whose values a host read of n bytes returns (R222). -/
def hostGains (d : Die) (pa n : Nat) : List Nat :=
  let seen := d.log.reverse.filter fun w => (hostSees d).contains w.id
  ((List.range n).flatMap fun k => match seen.find? fun w => covers w.addr w.bytes (pa + k) with
    | some w => (w.heads.filter fun h => h.scope == .system).flatMap Head.hb
    | none => (d.released.filter fun x => x.1 == pa + k).flatMap fun x => x.2.flatMap Head.hb).eraseDups

/-- The host sees writes on every die of the package (R222). -/
def hostJoins (ids : List Nat) (s : State) : State :=
  (s.upDie fun d => { d with hostView := joinIds d.hostView ids }).upPkg fun k =>
    { k with dies := k.dies.map fun d => { d with hostView := joinIds d.hostView ids } }

/-- A host read on the selected die (log 78, DEDUCED). -/
def hostRead (addr pa len : Nat) (s : State) : State :=
  let bs := (List.range len).map fun k => hostByte s (pa + k)
  if !hostReaches s pa len || bs.any (·.isNone) then s.post (.hostError addr)
  else (hostJoins (hostGains s.die pa len) s).post (.hostData addr (bs.filterMap id))

/-! BAR0 (R369 to R373). -/

/-- BOOTSTS (R369). -/
def bootsts (k : Package) : Word := wordN (k.bootCode.toNat + 2 ^ 16 * k.bootFenced.toNat)

/-- MBOXSTS of a slot (R371). -/
def mboxsts (s : State) (slot : Fin 16) : Word := wordN (mboxHeld s slot + 2 ^ 16 * s.pkg.drops[slot].toNat)

/-- THERM of a die (R372). -/
def Die.therm (d : Die) : Word :=
  wordN (d.tj.toNat + 2 ^ 12 * d.tin.toNat + 2 ^ 24 * d.pwr.toNat + 2 ^ 40 * d.trip.toNat)

/-- ASTEP (R373). -/
def astep (k : Package) : Word :=
  wordN (k.tup.toNat + 2 ^ 8 * k.tdown.toNat + 2 ^ 16 * k.hold.toNat + 2 ^ 24 * k.lmin.val + 2 ^ 28 * k.pup.toNat
    + 2 ^ 40 * k.pdown.toNat)

/-- PACED summed over the cores of a die, each half as its width holds it (R45, R370; log 78, DEDUCED). -/
def pacedSum (s : State) (d : Die) : Word :=
  let l := if d.num == s.die.num then s.cores else d.cores
  let n := (l.map fun c => c.pacedN.toNat).foldl (· + ·) 0
  let m := (l.map fun c => c.stretchN.toNat).foldl (· + ·) 0
  wordN (n % 2 ^ 32 + 2 ^ 32 * (m % 2 ^ 32))

/-- A register of a die, which reads 0 where the package has no such die. -/
def ofDie (s : State) (n : Nat) (f : Die → Word) : Word := match s.dies.find? fun d => d.num == n with
  | none => 0
  | some d => f d

/-- What the host reads of a register of BAR0 (R370). -/
def bar0Word (s : State) (r : Bar0) : Word := match r with
  | .bootsts => bootsts s.pkg
  | .astep => astep s.pkg
  | .mboxsts n => mboxsts s n
  | .therm d => ofDie s d.val Die.therm
  | .paced d => ofDie s d.val (pacedSum s)

/-- HOST_CXL_READ: bytes of CXL.mem, where die d's physical addresses stand at 64 GiB·d, or a register of BAR0, which is
read whole (R370). -/
def execHostCxlRead (addr : HostWin) (len : Nat) (s : State) : Host.Outcome State Fault Refusal :=
  .next (match addr with
    | .mem addr =>
      if s.dies.any fun d => d.num == addr / 2 ^ 36 then atDie (addr / 2 ^ 36) (hostRead addr (addr % 2 ^ 36) len) s
      else s.post (.hostError addr)
    | .bar0 r => s.post (.hostWord r (bar0Word s r)))

/-- A host write on the selected die; it is ordered after what the host has seen on every die (R222, R342; log 78,
DEDUCED). -/
def hostWrite (addr pa : Nat) (b : List Byte) (s : State) : State :=
  if !hostReaches s pa b.length || (List.range b.length).any fun k => isStamped s.die (pa + k) then
    s.post (.hostError addr)
  else
    let hb := joinIds (s.dies.foldl (fun l d => joinIds l d.hostView) []) [s.fresh]
    let h : Head := ⟨hostSid, 0xFF, .system, pa, b.length, hb⟩
    (writeMem pa b [h] s).upDie fun d => { d with hostView := joinIds d.hostView hb }

/-- HOST_CXL_WRITE (R370, R222). -/
def execHostCxlWrite (addr : Nat) (bytes : List (BitVec 8)) (s : State) : Host.Outcome State Fault Refusal :=
  .next (if s.dies.any fun d => d.num == addr / 2 ^ 36 then atDie (addr / 2 ^ 36) (hostWrite addr (addr % 2 ^ 36) bytes) s
    else s.post (.hostError addr))

/-! SPDM (R368 to R370). -/

/-- GET_VERSION. -/
def execGetVersion (s : State) : Host.Outcome State Fault Refusal := .next (s.post (.spdm "GET_VERSION" (Config.spdmReply 0 [])))
/-- GET_CAPABILITIES. -/
def execGetCapabilities (s : State) : Host.Outcome State Fault Refusal :=
  .next (s.post (.spdm "GET_CAPABILITIES" (Config.spdmReply 1 [])))
/-- NEGOTIATE_ALGORITHMS. -/
def execNegotiateAlgorithms (s : State) : Host.Outcome State Fault Refusal :=
  .next (s.post (.spdm "NEGOTIATE_ALGORITHMS" (Config.spdmReply 2 [])))
/-- GET_DIGESTS. -/
def execGetDigests (s : State) : Host.Outcome State Fault Refusal := .next (s.post (.spdm "GET_DIGESTS" (Config.spdmReply 3 [])))
/-- GET_CERTIFICATE. -/
def execGetCertificate (s : State) : Host.Outcome State Fault Refusal :=
  .next (s.post (.spdm "GET_CERTIFICATE" (Config.spdmReply 4 [])))
/-- CHALLENGE. -/
def execChallenge (nonce : List (BitVec 8)) (s : State) : Host.Outcome State Fault Refusal :=
  .next (s.post (.spdm "CHALLENGE" (Config.spdmReply 5 nonce)))
/-- GET_MEASUREMENTS: 1 to 4 are the boot ROM, the steward firmware, the configuration record and the microcode, 5 is
BOOTSTS (R369, R370; log 9, DESIGN CHOICE). -/
def execGetMeasurements (s : State) : Host.Outcome State Fault Refusal :=
  .next (s.post (.spdm "GET_MEASUREMENTS" (Config.romDigest ++ Config.firmwareDigest ++ Config.sha384 s.pkg.cfgRecord
    ++ bytesOf 8 s.pkg.mcrev.toNat ++ bytesOf 8 (bootsts s.pkg).toNat)))

/-! ECC (R229). -/

/-- Data of the selected core or die whose ECC cannot be corrected: 1 a register, 2 spill memory, 3 scratchpad, 4
vault, 5 DRAM, 6 table memory, 7 an accumulator, 8 the shadows (log 63, DEDUCED). -/
def damage (level addr : Nat) (s : State) : State :=
  match level with
  | 1 => s.upCore fun c => { c with ueccRegs := joinIds c.ueccRegs [addr] }
  | 4 | 5 => s.upDie fun d => { d with ueccLines := joinIds d.ueccLines [addr / 64 * 64] }
  | 8 => s.upCore fun c => { c with ueccShadow := c.record.isSome }
  | k => s.upCore fun c => { c with ueccMem := (c.ueccMem.filter (· != (k, addr))) ++ [(k, addr)] }

/-- Such data corrected. -/
def correct (level addr : Nat) (s : State) : State :=
  match level with
  | 1 => s.upCore fun c => { c with ueccRegs := c.ueccRegs.filter (· != addr) }
  | 4 | 5 => s.upDie fun d => { d with ueccLines := d.ueccLines.filter (· != addr / 64 * 64) }
  | 8 => s.upCore fun c => { c with ueccShadow := false }
  | k => s.upCore fun c => { c with ueccMem := c.ueccMem.filter (· != (k, addr)) }

/-- SCRUB_ERROR: an error is found, and corrected or posted (R229). -/
def execScrubError (level addr : Nat) (corrected : Bool) (s : State) : Host.Outcome State Fault Refusal :=
  .next (if corrected then correct level addr s else (damage level addr s).post (.eccError s.die.num addr))

/-! Registers that only the steward writes (R35, R186, R233, R270, R315, R339). -/

/-- Whether the registers of an aperture keep R186 (log 79, DEDUCED). -/
def Aperture.ok (a : Aperture) : Bool :=
  let n := wbits a.ctl 11 6
  let w := wbits a.win 49 0
  wbits a.ctl 3 1 < 4 && (wbits a.ctl 3 1 != 1 || wbits a.ctl 5 4 != 0)
    && (!a.ctl.toNat.testBit 0 || 16 ≤ n && n ≤ 40 && w % 2 ^ n == 0 && 0x2000000000000 ≤ w && w + 2 ^ n ≤ 0x3000000000000)

/-- An aperture of the selected die takes new registers, if they keep R186. -/
def setAperture (i : Fin 16) (f : Aperture → Aperture) (s : State) : State :=
  if (f s.die.aps[i]).ok then s.upDie fun d => { d with aps := d.aps.set i (f d.aps[i]) } else s

/-- The low 50 bits of a word. -/
def low50 (x : Word) : Word := x &&& 0x0003FFFFFFFFFFFF

/-- Whether a partition slot's context may issue, so that its tables may not change (R317; log 79, DEDUCED). -/
def slotRuns (s : State) (slot : Fin 16) : Bool := match slotPart s slot with
  | none => false
  | some p => s.die.part == some p.num && (p.state == .running || p.state == .draining)

/-- REGISTER_WRITE: the steward writes a register; reserved bits stay 0, and what a register never accepts is left
(log 79, DEDUCED). -/
def execRegisterWrite (reg : StewReg) (x : BitVec 64) (s : State) : Host.Outcome State Fault Refusal :=
  .next (match reg with
    | .dbgctl => s.upDie fun d => { d with dbgPend := x.toNat.testBit 0, dbgStep := x.toNat.testBit 1 }
    | .rvzto => s.upDie fun d => { d with rvzto := x.setWidth 32 }
    | .clkw => s.upDie fun d => { d with clkw := x.setWidth 32 }
    | .horizon => s.upDie fun d => { d with horizon := x.setWidth 32 }
    | .qcfg q =>
      let s1 := s.upDie fun d => { d with queues := d.queues.set q { d.queues[q] with cfg := x &&& 0x0000FFFFFFFF001F } }
      if s.die.queues[q].all.isEmpty then s1 else rouse s1
    | .qring q =>
      if wbits x 5 0 != 0 then s
      else s.upDie fun d => { d with queues := d.queues.set q { d.queues[q] with ring := low50 x } }
    | .ptroot k =>
      -- A tree that PTROOT brings into use or takes out of it brings or takes its leaves (R317).
      if slotRuns s k && s.die.ptroots[k].toNat.testBit 0 then s
      else changeTables "REGISTER_WRITE" k.val 0 0
        (fun t => t.upDie fun d => { d with ptroots := d.ptroots.set k (x &&& 0x0003FFFFFFFFE001) }) s
    | .apctl i => setAperture i (fun a => { a with ctl := x &&& 0x00000000FFFF0FFF }) s
    | .apwin i => setAperture i (fun a => { a with win := low50 x }) s
    | .apbuf i => setAperture i (fun a => { a with buf := low50 x }) s
    | .apaux i => setAperture i (fun a => { a with aux := x }) s)

end Sys2Proof.Machine
end

