-- ==== Sys2Proof/Machine/Zw1.lean ====
section
/-! DEFINITION. The deprecated ZW1 opcodes (spec/04 R64, R65): each runs two steps in one issue, and a trap names the
step that raised it. -/

namespace Sys2Proof.Machine

/-- A trap of step 1 of an expansion (R65). -/
def Trap.atStep1 (t : Trap) : Trap := { t with step := true }

/-- The issue of an expansion: the registers and checks of step 0, then those of step 1 (R65). -/
def issueSteps (s : State) (y0 y1 : Syl) (effect : State → State) : Host.Outcome State Fault Refusal :=
  if y0.late || y1.late || (y0.srcs ++ y1.srcs).any (portEmpty s) then .next (s.ended (.frozen .emptyPort))
  else match (sylTrap s y0).orElse fun _ => (sylTrap s y1).map Trap.atStep1 with
    | some t => .next (trapHere t s)
    | none => match (sylStall s y0).orElse fun _ => sylStall s y1 with
      | some f => .next (s.ended (.frozen f))
      | none => .next (effect (popAll (dedupR (y0.srcs ++ y1.srcs)) s))

/-- ZW1.MADD. -/
def execZw1Madd (d a b c : SReg) (s : State) : Host.Outcome State Fault Refusal :=
  issueSteps s { srcs := [.s a, .s b] } { srcs := [.s c], dsts := [.s d] }
    (wrS d 4 (wordN ((regS s a).toNat * (regS s b).toNat + (regS s c).toNat)))

/-- The trap that the data of a step's load meets when it lands, in the name of the syllable's bundle (R65). -/
def stepLanding (l : Loaded) (step : Bool) (s : State) : State :=
  match l with
  | .got _ _ (some t) => s.flight 4 (.trap { t with step := step } (some s.core.issue.ba))
  | _ => s

/-- ZW1.LDPAIR. -/
def execZw1Ldpair (d a : SReg) (imm : BitVec 16) (s : State) : Host.Outcome State Fault Refusal :=
  let va := addrOf s a imm
  let l0 := loadAt s 8 8 [va]
  let l1 := loadAt s 8 8 [(va + 8) % 2 ^ 56]
  let d1 : SReg := d + 1
  issueSteps s { srcs := [.s a], dsts := [.s d], trap := l0.fault, stall := l0.stall s.core }
    { srcs := [], dsts := [.s d1], trap := l1.fault, stall := l1.stall s.core }
    (fun u => wrS d1 4 (wordN (natOf l1.bytes)) (wrS d 4 (wordN (natOf l0.bytes))
      (stepLanding l1 true (stepLanding l0 false u))))

/-- The sum of 256 i32 elements modulo 2^32. -/
def sum32 (x : VWord) : Nat := ((List.range 256).map (elem x 4)).foldl (· + ·) 0 % 2 ^ 32

/-- ZW1.VSUM. -/
def execZw1Vsum (d : SReg) (a : VReg) (s : State) : Host.Outcome State Fault Refusal :=
  issueSteps s { srcs := [.v a] } { srcs := [], dsts := [.s d] } (wrS d 4 (wordI (sextN (sum32 (regV s a)) 32)))

/-- ZW1.DBNZ. -/
def execZw1Dbnz (a : SReg) (off : BitVec 30) (s : State) : Host.Outcome State Fault Refusal :=
  let x := regS s a - 1
  issueSteps s { srcs := [.s a], dsts := [.s a] } { srcs := [] }
    (fun u => if x == 0 then wrS a 1 x u else jump (relTarget s off.toInt) (wrS a 1 x u))

end Sys2Proof.Machine
end

