-- ==== Sys2Proof/Machine/Dispatch.lean ====
section
/-! DEFINITION. The one dispatch of instructions to their meanings: an arm for each row of spec/opcode_table.json. -/

namespace Sys2Proof.Machine

/-- The effect of an instruction whose guard is true, or of an event, on the selected core and die. -/
def exec (i : Instr) (s : State) : Host.Outcome State Fault Refusal :=
  match i with
  | .sNop imm => Sys2Proof.Machine.execSNop imm s
  | .sAdd d a b => Sys2Proof.Machine.execSAdd d a b s
  | .sSub d a b => Sys2Proof.Machine.execSSub d a b s
  | .sAddi d a imm => Sys2Proof.Machine.execSAddi d a imm s
  | .sMovi d imm => Sys2Proof.Machine.execSMovi d imm s
  | .sMovhi d a imm => Sys2Proof.Machine.execSMovhi d a imm s
  | .sAnd d a b => Sys2Proof.Machine.execSAnd d a b s
  | .sOr d a b => Sys2Proof.Machine.execSOr d a b s
  | .sXor d a b => Sys2Proof.Machine.execSXor d a b s
  | .sAndn d a b => Sys2Proof.Machine.execSAndn d a b s
  | .sAndi d a imm => Sys2Proof.Machine.execSAndi d a imm s
  | .sOri d a imm => Sys2Proof.Machine.execSOri d a imm s
  | .sXori d a imm => Sys2Proof.Machine.execSXori d a imm s
  | .sShl d a b => Sys2Proof.Machine.execSShl d a b s
  | .sShr d a b => Sys2Proof.Machine.execSShr d a b s
  | .sSar d a b => Sys2Proof.Machine.execSSar d a b s
  | .sShli d a pos => Sys2Proof.Machine.execSShli d a pos s
  | .sShri d a pos => Sys2Proof.Machine.execSShri d a pos s
  | .sSari d a pos => Sys2Proof.Machine.execSSari d a pos s
  | .sRor d a b => Sys2Proof.Machine.execSRor d a b s
  | .sMin d a b => Sys2Proof.Machine.execSMin d a b s
  | .sMax d a b => Sys2Proof.Machine.execSMax d a b s
  | .sMinu d a b => Sys2Proof.Machine.execSMinu d a b s
  | .sMaxu d a b => Sys2Proof.Machine.execSMaxu d a b s
  | .sAbs d a => Sys2Proof.Machine.execSAbs d a s
  | .sNeg d a => Sys2Proof.Machine.execSNeg d a s
  | .sClz d a => Sys2Proof.Machine.execSClz d a s
  | .sCtz d a => Sys2Proof.Machine.execSCtz d a s
  | .sPopc d a => Sys2Proof.Machine.execSPopc d a s
  | .sBswap d a => Sys2Proof.Machine.execSBswap d a s
  | .sSext d a w1 => Sys2Proof.Machine.execSSext d a w1 s
  | .sZext d a w1 => Sys2Proof.Machine.execSZext d a w1 s
  | .sBfx signed d a pos w1 => Sys2Proof.Machine.execSBfx signed d a pos w1 s
  | .sBfi d a b pos w1 => Sys2Proof.Machine.execSBfi d a b pos w1 s
  | .sSel d a b c => Sys2Proof.Machine.execSSel d a b c s
  | .sMul d a b => Sys2Proof.Machine.execSMul d a b s
  | .sMulh d a b => Sys2Proof.Machine.execSMulh d a b s
  | .sMulhu d a b => Sys2Proof.Machine.execSMulhu d a b s
  | .sMadd d a b c => Sys2Proof.Machine.execSMadd d a b c s
  | .sCmp cond d a b => Sys2Proof.Machine.execSCmp cond d a b s
  | .sCmpi cond d a imm => Sys2Proof.Machine.execSCmpi cond d a imm s
  | .sPand d a b => Sys2Proof.Machine.execSPand d a b s
  | .sPor d a b => Sys2Proof.Machine.execSPor d a b s
  | .sPxor d a b => Sys2Proof.Machine.execSPxor d a b s
  | .sPnot d a => Sys2Proof.Machine.execSPnot d a s
  | .sPset d a => Sys2Proof.Machine.execSPset d a s
  | .sLea k d a b imm => Sys2Proof.Machine.execSLea k d a b imm s
  | .sMov d a => Sys2Proof.Machine.execSMov d a s
  | .sCrd d c => Sys2Proof.Machine.execSCrd d c s
  | .sCwr c a => Sys2Proof.Machine.execSCwr c a s
  | .sGrd d g => Sys2Proof.Machine.execSGrd d g s
  | .sGwr g a => Sys2Proof.Machine.execSGwr g a s
  | .sSpl d slot => Sys2Proof.Machine.execSSpl d slot s
  | .sSps a slot => Sys2Proof.Machine.execSSps a slot s
  | .sClk strict d => Sys2Proof.Machine.execSClk strict d s
  | .sChk x => Sys2Proof.Machine.execSChk x s
  | .sMskIns q d a b => Sys2Proof.Machine.execSMskIns q d a b s
  | .sMskExt q d a => Sys2Proof.Machine.execSMskExt q d a s
  | .sMski d n => Sys2Proof.Machine.execSMski d n s
  | .bBr off => Sys2Proof.Machine.execBBr off s
  | .bCall off => Sys2Proof.Machine.execBCall off s
  | .bRet a => Sys2Proof.Machine.execBRet a s
  | .bJmpi a => Sys2Proof.Machine.execBJmpi a s
  | .bCalli a cls => Sys2Proof.Machine.execBCalli a cls s
  | .bLoop lvl a off => Sys2Proof.Machine.execBLoop lvl a off s
  | .bPloop lvl k1 a off => Sys2Proof.Machine.execBPloop lvl k1 a off s
  | .bRep reg count stride fmask => Sys2Proof.Machine.execBRep reg count stride fmask s
  | .bCkpt => Sys2Proof.Machine.execBCkpt s
  | .bRvz a slot mask => Sys2Proof.Machine.execBRvz a slot mask s
  | .bCbar d => Sys2Proof.Machine.execBCbar d s
  | .bYield a q => Sys2Proof.Machine.execBYield a q s
  | .bWaitTime a b => Sys2Proof.Machine.execBWaitTime a b s
  | .bWaitMbox b => Sys2Proof.Machine.execBWaitMbox b s
  | .bWaitCrewq b q => Sys2Proof.Machine.execBWaitCrewq b q s
  | .bWaitRecv b n => Sys2Proof.Machine.execBWaitRecv b n s
  | .bMwait a b c => Sys2Proof.Machine.execBMwait a b c s
  | .bPhase b => Sys2Proof.Machine.execBPhase b s
  | .bEnd => Sys2Proof.Machine.execBEnd s
  | .bSpawn a q => Sys2Proof.Machine.execBSpawn a q s
  | .bWany d a => Sys2Proof.Machine.execBWany d a s
  | .bWall d a => Sys2Proof.Machine.execBWall d a s
  | .bFfr d a => Sys2Proof.Machine.execBFfr d a s
  | .bTrap code => Sys2Proof.Machine.execBTrap code s
  | .bGroupQuery d a => Sys2Proof.Machine.execBGroupQuery d a s
  | .bGroupForm a b => Sys2Proof.Machine.execBGroupForm a b s
  | .bGroupDissolve a => Sys2Proof.Machine.execBGroupDissolve a s
  | .vAdd t d a b m => Sys2Proof.Machine.execVAdd t d a b m s
  | .vSub t d a b m => Sys2Proof.Machine.execVSub t d a b m s
  | .vMul t d a b m => Sys2Proof.Machine.execVMul t d a b m s
  | .vMulh t d a b m => Sys2Proof.Machine.execVMulh t d a b m s
  | .vFma t d a b c m => Sys2Proof.Machine.execVFma t d a b c m s
  | .vFms t d a b c m => Sys2Proof.Machine.execVFms t d a b c m s
  | .vFnma t d a b c m => Sys2Proof.Machine.execVFnma t d a b c m s
  | .vMin t d a b m => Sys2Proof.Machine.execVMin t d a b m s
  | .vMax t d a b m => Sys2Proof.Machine.execVMax t d a b m s
  | .vAbs t d a m => Sys2Proof.Machine.execVAbs t d a m s
  | .vNeg t d a m => Sys2Proof.Machine.execVNeg t d a m s
  | .vClamp t d a b c m => Sys2Proof.Machine.execVClamp t d a b c m s
  | .vAnd t d a b m => Sys2Proof.Machine.execVAnd t d a b m s
  | .vOr t d a b m => Sys2Proof.Machine.execVOr t d a b m s
  | .vXor t d a b m => Sys2Proof.Machine.execVXor t d a b m s
  | .vNot t d a m => Sys2Proof.Machine.execVNot t d a m s
  | .vShl t d a b m => Sys2Proof.Machine.execVShl t d a b m s
  | .vShr t d a b m => Sys2Proof.Machine.execVShr t d a b m s
  | .vSar t d a b m => Sys2Proof.Machine.execVSar t d a b m s
  | .vFshl t d a b c m => Sys2Proof.Machine.execVFshl t d a b c m s
  | .vFshr t d a b c m => Sys2Proof.Machine.execVFshr t d a b c m s
  | .vCmp t d a b cond => Sys2Proof.Machine.execVCmp t d a b cond s
  | .vSel t d a b mask => Sys2Proof.Machine.execVSel t d a b mask s
  | .vMov t d a m => Sys2Proof.Machine.execVMov t d a m s
  | .vBcast t d b m => Sys2Proof.Machine.execVBcast t d b m s
  | .vIota t d b m step => Sys2Proof.Machine.execVIota t d b m step s
  | .vExtr t d a b idx => Sys2Proof.Machine.execVExtr t d a b idx s
  | .vIns t d a b c idx => Sys2Proof.Machine.execVIns t d a b c idx s
  | .vPerm t d a b m => Sys2Proof.Machine.execVPerm t d a b m s
  | .vSlide t d a b m => Sys2Proof.Machine.execVSlide t d a b m s
  | .vZip t d a b m h => Sys2Proof.Machine.execVZip t d a b m h s
  | .vCmprs t d a mask => Sys2Proof.Machine.execVCmprs t d a mask s
  | .vCvt src d a dst part m => Sys2Proof.Machine.execVCvt src d a dst part m s
  | .vMaxexp a mask => Sys2Proof.Machine.execVMaxexp a mask s
  | .vPxpose signed d a planes1 g => Sys2Proof.Machine.execVPxpose signed d a planes1 g s
  | .vRsum t d a m => Sys2Proof.Machine.execVRsum t d a m s
  | .vRmax t d a m => Sys2Proof.Machine.execVRmax t d a m s
  | .vRmin t d a m => Sys2Proof.Machine.execVRmin t d a m s
  | .vGmax t d a m g abs => Sys2Proof.Machine.execVGmax t d a m g abs s
  | .vRowsum t d a m => Sys2Proof.Machine.execVRowsum t d a m s
  | .vColsum t d a m => Sys2Proof.Machine.execVColsum t d a m s
  | .vAread d a b q => Sys2Proof.Machine.execVAread d a b q s
  | .vAwrite d a b q => Sys2Proof.Machine.execVAwrite d a b q s
  | .vMcnt d a => Sys2Proof.Machine.execVMcnt d a s
  | .vPopc t d a m => Sys2Proof.Machine.execVPopc t d a m s
  | .vClz t d a m => Sys2Proof.Machine.execVClz t d a m s
  | .vRound t d a m => Sys2Proof.Machine.execVRound t d a m s
  | .vScale t d a b m => Sys2Proof.Machine.execVScale t d a b m s
  | .vAvg t d a b m => Sys2Proof.Machine.execVAvg t d a b m s
  | .vAbd t d a b m => Sys2Proof.Machine.execVAbd t d a b m s
  | .vMset d a => Sys2Proof.Machine.execVMset d a s
  | .vMand op d a b => Sys2Proof.Machine.execVMand op d a b s
  | .fTbl t d a b m tbl => Sys2Proof.Machine.execFTbl t d a b m tbl s
  | .fTblwr a tbl => Sys2Proof.Machine.execFTblwr a tbl s
  | .fTblrd d tbl => Sys2Proof.Machine.execFTblrd d tbl s
  | .fRcp t d a m => Sys2Proof.Machine.execFRcp t d a m s
  | .fRsq t d a m => Sys2Proof.Machine.execFRsq t d a m s
  | .fSqrt t d a m => Sys2Proof.Machine.execFSqrt t d a m s
  | .fDiv t d a b m => Sys2Proof.Machine.execFDiv t d a b m s
  | .fExp2 t d a m => Sys2Proof.Machine.execFExp2 t d a m s
  | .fLog2 t d a m => Sys2Proof.Machine.execFLog2 t d a m s
  | .fExp t d a m => Sys2Proof.Machine.execFExp t d a m s
  | .fLog t d a m => Sys2Proof.Machine.execFLog t d a m s
  | .fGeo pred opt a mask => Sys2Proof.Machine.execFGeo pred opt a mask s
  | .fGeoidx d a b => Sys2Proof.Machine.execFGeoidx d a b s
  | .fLq d a b => Sys2Proof.Machine.execFLq d a b s
  | .fLdq t d a b m => Sys2Proof.Machine.execFLdq t d a b m s
  | .fLqcnt d => Sys2Proof.Machine.execFLqcnt d s
  | .fLscale d a adj => Sys2Proof.Machine.execFLscale d a adj s
  | .mLd cls ty d a imm => Sys2Proof.Machine.execMLd cls ty d a imm s
  | .mSt ty a b imm => Sys2Proof.Machine.execMSt ty a b imm s
  | .mLdp cls d a imm => Sys2Proof.Machine.execMLdp cls d a imm s
  | .mStp a b imm => Sys2Proof.Machine.execMStp a b imm s
  | .mVld cls d a imm => Sys2Proof.Machine.execMVld cls d a imm s
  | .mVst a b imm => Sys2Proof.Machine.execMVst a b imm s
  | .mVstu a b c imm => Sys2Proof.Machine.execMVstu a b c imm s
  | .mVlds cls d a b imm => Sys2Proof.Machine.execMVlds cls d a b imm s
  | .mVsts a b c imm => Sys2Proof.Machine.execMVsts a b c imm s
  | .mVldb cls d a t => Sys2Proof.Machine.execMVldb cls d a t s
  | .mVgath d a b mask => Sys2Proof.Machine.execMVgath d a b mask s
  | .mVscat a b c mask => Sys2Proof.Machine.execMVscat a b c mask s
  | .mLdaq cls ty scope d a => Sys2Proof.Machine.execMLdaq cls ty scope d a s
  | .mStrl ty scope a b => Sys2Proof.Machine.execMStrl ty scope a b s
  | .mAadd o d a b => Sys2Proof.Machine.execMAadd o d a b s
  | .mAmin o d a b => Sys2Proof.Machine.execMAmin o d a b s
  | .mAmax o d a b => Sys2Proof.Machine.execMAmax o d a b s
  | .mAand o d a b => Sys2Proof.Machine.execMAand o d a b s
  | .mAor o d a b => Sys2Proof.Machine.execMAor o d a b s
  | .mAxor o d a b => Sys2Proof.Machine.execMAxor o d a b s
  | .mSwap o d a b => Sys2Proof.Machine.execMSwap o d a b s
  | .mCas o ford d a b c => Sys2Proof.Machine.execMCas o ford d a b c s
  | .mFence kind scope => Sys2Proof.Machine.execMFence kind scope s
  | .mFenceStamp => Sys2Proof.Machine.execMFenceStamp s
  | .mSts ty d a b imm => Sys2Proof.Machine.execMSts ty d a b imm s
  | .mLdas cls ty d a b imm => Sys2Proof.Machine.execMLdas cls ty d a b imm s
  | .mPref a imm => Sys2Proof.Machine.execMPref a imm s
  | .mGld cls ty d a c imm => Sys2Proof.Machine.execMGld cls ty d a c imm s
  | .mGst ty a b c imm => Sys2Proof.Machine.execMGst ty a b c imm s
  | .mTinv a => Sys2Proof.Machine.execMTinv a s
  | .mZero a imm => Sys2Proof.Machine.execMZero a imm s
  | .xMma t ta tb => Sys2Proof.Machine.execXMma t ta tb s
  | .xMmac t ta tb => Sys2Proof.Machine.execXMmac t ta tb s
  | .xAclr f32 t => Sys2Proof.Machine.execXAclr f32 t s
  | .xAmov t src => Sys2Proof.Machine.execXAmov t src s
  | .xAload t ta => Sys2Proof.Machine.execXAload t ta s
  | .xAsave t ta tag => Sys2Proof.Machine.execXAsave t ta tag s
  | .xMode alt8 => Sys2Proof.Machine.execXMode alt8 s
  | .xMirr off => Sys2Proof.Machine.execXMirr off s
  | .xFence => Sys2Proof.Machine.execXFence s
  | .xStat d => Sys2Proof.Machine.execXStat d s
  | .dPp t ta tb tag fn => Sys2Proof.Machine.execDPp t ta tb tag fn s
  | .dPpcmp t ta tb tag fn => Sys2Proof.Machine.execDPpcmp t ta tb tag fn s
  | .dPpcfg a => Sys2Proof.Machine.execDPpcfg a s
  | .dPpact d => Sys2Proof.Machine.execDPpact d s
  | .cCopy ta tb tag => Sys2Proof.Machine.execCCopy ta tb tag s
  | .cCopy2d ta tb tag => Sys2Proof.Machine.execCCopy2d ta tb tag s
  | .cFill t tb tag => Sys2Proof.Machine.execCFill t tb tag s
  | .cFill2d t tb tag => Sys2Proof.Machine.execCFill2d t tb tag s
  | .cGath ta tb tag => Sys2Proof.Machine.execCGath ta tb tag s
  | .cScat ta tb tag => Sys2Proof.Machine.execCScat ta tb tag s
  | .cXpose ta tb tag => Sys2Proof.Machine.execCXpose ta tb tag s
  | .cPlane toBytes ta tb tag => Sys2Proof.Machine.execCPlane toBytes ta tb tag s
  | .cConv kind ta tb tag => Sys2Proof.Machine.execCConv kind ta tb tag s
  | .cXch ta tb tag slot => Sys2Proof.Machine.execCXch ta tb tag slot s
  | .cTclr a => Sys2Proof.Machine.execCTclr a s
  | .cPref ta tag => Sys2Proof.Machine.execCPref ta tag s
  | .lOpenSend n => Sys2Proof.Machine.execLOpenSend n s
  | .lOpenRecv n => Sys2Proof.Machine.execLOpenRecv n s
  | .lSend ta n tag => Sys2Proof.Machine.execLSend ta n tag s
  | .lSendst t ta n tag => Sys2Proof.Machine.execLSendst t ta n tag s
  | .lRecv tb n tag => Sys2Proof.Machine.execLRecv tb n tag s
  | .lPeek d n => Sys2Proof.Machine.execLPeek d n s
  | .lClose n => Sys2Proof.Machine.execLClose n s
  | .lStat d n => Sys2Proof.Machine.execLStat d n s
  | .dJpeg ta tag => Sys2Proof.Machine.execDJpeg ta tag s
  | .dG4 ta tag => Sys2Proof.Machine.execDG4 ta tag s
  | .dRaw b1 ta tag => Sys2Proof.Machine.execDRaw b1 ta tag s
  | .dRingSet a b => Sys2Proof.Machine.execDRingSet a b s
  | .dRingFree a => Sys2Proof.Machine.execDRingFree a s
  | .dPortCount d => Sys2Proof.Machine.execDPortCount d s
  | .dPortSkip d => Sys2Proof.Machine.execDPortSkip d s
  | .dDstat d => Sys2Proof.Machine.execDDstat d s
  | .dDabort => Sys2Proof.Machine.execDDabort s
  | .dDfence => Sys2Proof.Machine.execDDfence s
  | .zw1Madd d a b c => Sys2Proof.Machine.execZw1Madd d a b c s
  | .zw1Ldpair d a imm => Sys2Proof.Machine.execZw1Ldpair d a imm s
  | .zw1Vsum d a => Sys2Proof.Machine.execZw1Vsum d a s
  | .zw1Dbnz a off => Sys2Proof.Machine.execZw1Dbnz a off s
  | .rvzDeadline crew slot => Sys2Proof.Machine.execRvzDeadline crew slot s
  | .cbarDeadline crew => Sys2Proof.Machine.execCbarDeadline crew s
  | .waitTimeExpiry => Sys2Proof.Machine.execWaitTimeExpiry s
  | .exchangeEnd => Sys2Proof.Machine.execExchangeEnd s
  | .exchangeTimeExpiry => Sys2Proof.Machine.execExchangeTimeExpiry s
  | .geoRecordFill n => Sys2Proof.Machine.execGeoRecordFill n s
  | .modeSwitch => Sys2Proof.Machine.execModeSwitch s
  | .matrixCommandStart => Sys2Proof.Machine.execMatrixCommandStart s
  | .matrixCommandFinish mismatch => Sys2Proof.Machine.execMatrixCommandFinish mismatch s
  | .postprocComplete => Sys2Proof.Machine.execPostprocComplete s
  | .copyCommandStart serial => Sys2Proof.Machine.execCopyCommandStart serial s
  | .copyComplete serial => Sys2Proof.Machine.execCopyComplete serial s
  | .copyFault serial => Sys2Proof.Machine.execCopyFault serial s
  | .copyDemandPark serial => Sys2Proof.Machine.execCopyDemandPark serial s
  | .ringSetPerformed => Sys2Proof.Machine.execRingSetPerformed s
  | .decodeEngineAssign => Sys2Proof.Machine.execDecodeEngineAssign s
  | .decodeRecordEmit => Sys2Proof.Machine.execDecodeRecordEmit s
  | .decodePageEnd => Sys2Proof.Machine.execDecodePageEnd s
  | .streamSlotPresent w => Sys2Proof.Machine.execStreamSlotPresent w s
  | .creditReturn w => Sys2Proof.Machine.execCreditReturn w s
  | .reserve wavelength port die n => Sys2Proof.Machine.execReserve wavelength port die n s
  | .tune circuit => Sys2Proof.Machine.execTune circuit s
  | .tuneLocked circuit => Sys2Proof.Machine.execTuneLocked circuit s
  | .linkFail circuit => Sys2Proof.Machine.execLinkFail circuit s
  | .linkError circuit => Sys2Proof.Machine.execLinkError circuit s
  | .circuitDrain circuit => Sys2Proof.Machine.execCircuitDrain circuit s
  | .circuitDrainComplete circuit => Sys2Proof.Machine.execCircuitDrainComplete circuit s
  | .circuitRelease circuit => Sys2Proof.Machine.execCircuitRelease circuit s
  | .pminWrite x => Sys2Proof.Machine.execPminWrite x s
  | .partminWrite slot x => Sys2Proof.Machine.execPartminWrite slot x s
  | .flitArrival cls slot => Sys2Proof.Machine.execFlitArrival cls slot s
  | .flitLeavesIngress => Sys2Proof.Machine.execFlitLeavesIngress s
  | .debugRelease => Sys2Proof.Machine.execDebugRelease s
  | .budget => Sys2Proof.Machine.execBudget s
  | .budgetRefill left => Sys2Proof.Machine.execBudgetRefill left s
  | .coreFill => Sys2Proof.Machine.execCoreFill s
  | .queueOverflowMove q => Sys2Proof.Machine.execQueueOverflowMove q s
  | .submit kid container => Sys2Proof.Machine.execSubmit kid container s
  | .verificationEnd kid => Sys2Proof.Machine.execVerificationEnd kid s
  | .load kid vector => Sys2Proof.Machine.execLoad kid vector s
  | .retire kid => Sys2Proof.Machine.execRetire kid s
  | .microcodeUpdate mcrev => Sys2Proof.Machine.execMicrocodeUpdate mcrev s
  | .formPartition num slot first count mask => Sys2Proof.Machine.execFormPartition num slot first count mask s
  | .partitionRelease => Sys2Proof.Machine.execPartitionRelease s
  | .create sbase => Sys2Proof.Machine.execCreate sbase s
  | .start x => Sys2Proof.Machine.execStart x s
  | .preempt limit => Sys2Proof.Machine.execPreempt limit s
  | .prelimitExpiry => Sys2Proof.Machine.execPrelimitExpiry s
  | .halt => Sys2Proof.Machine.execHalt s
  | .resume => Sys2Proof.Machine.execResume s
  | .swap => Sys2Proof.Machine.execSwap s
  | .swapComplete => Sys2Proof.Machine.execSwapComplete s
  | .restore first => Sys2Proof.Machine.execRestore first s
  | .restoreComplete => Sys2Proof.Machine.execRestoreComplete s
  | .kill => Sys2Proof.Machine.execKill s
  | .killScrubComplete => Sys2Proof.Machine.execKillScrubComplete s
  | .resolve va => Sys2Proof.Machine.execResolve va s
  | .pageTableUpdate addr entry => Sys2Proof.Machine.execPageTableUpdate addr entry s
  | .offline => Sys2Proof.Machine.execOffline s
  | .evacuationComplete => Sys2Proof.Machine.execEvacuationComplete s
  | .online pass => Sys2Proof.Machine.execOnline pass s
  | .domainFloor f => Sys2Proof.Machine.execDomainFloor f s
  | .clockWide => Sys2Proof.Machine.execClockWide s
  | .resetRelease => Sys2Proof.Machine.execResetRelease s
  | .bistComplete pass => Sys2Proof.Machine.execBistComplete pass s
  | .authComplete pass => Sys2Proof.Machine.execAuthComplete pass s
  | .authTimeout => Sys2Proof.Machine.execAuthTimeout s
  | .railFault => Sys2Proof.Machine.execRailFault s
  | .steppingTick => Sys2Proof.Machine.execSteppingTick s
  | .thermRefresh tj tin pwr => Sys2Proof.Machine.execThermRefresh tj tin pwr s
  | .astepWrite x => Sys2Proof.Machine.execAstepWrite x s
  | .mboxWrite slot x => Sys2Proof.Machine.execMboxWrite slot x s
  | .mboxstsWrite slot x => Sys2Proof.Machine.execMboxstsWrite slot x s
  | .hostopen => Sys2Proof.Machine.execHostopen s
  | .hostclose => Sys2Proof.Machine.execHostclose s
  | .hostCxlRead addr len => Sys2Proof.Machine.execHostCxlRead addr len s
  | .hostCxlWrite addr bytes => Sys2Proof.Machine.execHostCxlWrite addr bytes s
  | .getVersion => Sys2Proof.Machine.execGetVersion s
  | .getCapabilities => Sys2Proof.Machine.execGetCapabilities s
  | .negotiateAlgorithms => Sys2Proof.Machine.execNegotiateAlgorithms s
  | .getDigests => Sys2Proof.Machine.execGetDigests s
  | .getCertificate => Sys2Proof.Machine.execGetCertificate s
  | .challenge nonce => Sys2Proof.Machine.execChallenge nonce s
  | .getMeasurements => Sys2Proof.Machine.execGetMeasurements s
  | .scrubError level addr corrected => Sys2Proof.Machine.execScrubError level addr corrected s
  | .registerWrite reg x => Sys2Proof.Machine.execRegisterWrite reg x s

end Sys2Proof.Machine
end

