-- ==== Sys2Proof/Machine/Issue.lean ====
section
/-! DEFINITION. The issue of a bundle: what is met before it (spec/03 R36, spec/11 R216, spec/12 R231, spec/15 R276,
spec/18 R305 to R308), its decode (spec/04 R63), guards (R51), the checks and effects of its syllables (R27, R36),
pacing (R42, R43), and the end of the bundle (R30). -/

namespace Sys2Proof.Machine

/-! Ranks: the syllables of a bundle take effect as if at once (R27), so the readers of state that another syllable
of the bundle changes at issue come first, and what ends the bundle or the segment comes last. -/

/-- The rank of an instruction within its bundle (log 18, DEDUCED). -/
def rank (i : Instr) : Nat :=
  match i with
  | .sCrd .. | .xStat .. | .dPpact .. | .lPeek .. | .lStat .. | .dPortCount .. | .dDstat .. | .bGroupQuery ..
  | .bWany .. | .bWall .. | .bFfr .. => 0
  | .cTclr .. => 1
  | .mSt .. | .mStp .. | .mVst .. | .mVstu .. | .mVsts .. | .mVscat .. | .mLdaq .. | .mStrl .. | .mAadd ..
  | .mAmin .. | .mAmax .. | .mAand .. | .mAor .. | .mAxor .. | .mSwap .. | .mCas .. | .mFence .. | .mSts ..
  | .mGst .. | .mZero .. => 3
  | .lOpenSend .. | .lOpenRecv .. => 4
  | .bBr .. | .bCall .. | .bRet .. | .bJmpi .. | .bCalli .. | .bLoop .. | .bPloop .. | .bRep .. | .zw1Dbnz .. => 5
  | .mFenceStamp => 6
  | .bCkpt | .bRvz .. | .bCbar .. | .bYield .. | .bWaitTime .. | .bWaitMbox .. | .bWaitCrewq .. | .bWaitRecv ..
  | .bMwait .. | .bPhase .. | .bEnd | .bTrap .. => 7
  | _ => 2

/-- Whether the rank is that of C.TCLR, whose effect no rollback undoes (R204). -/
def isTclr (x : Slotted) : Bool := rank x.instr == 1

/-- Whether the guard lets a syllable execute (R51). -/
def guardTrue (s : State) (f : Frame) : Bool := regP s f.gpred != f.ginv

/-- What reading the guard raises (R35, R229). -/
def guardTrap (s : State) (f : Frame) : Option Trap := sylTrap s { srcs := [.p f.gpred] }

/-- Whether a syllable reads the bound receive stream through both s62 and v30, and then whether v30 is the later of the
two fields, in the order D, A, B, C (R330). -/
def twinOf (x : Slotted) : Option Bool :=
  let u := usesOf x.enc.opc x.enc.md
  let l := numsIf u.d false x.enc.f.d ++ numsIf u.a false x.enc.f.a ++ numsIf u.b false x.enc.f.b
    ++ numsIf u.c false x.enc.f.c
  if l.contains 62 && l.contains 94 then some (l.idxOf 62 < l.idxOf 94) else none

/-- Whether a state is one that a trap has left. -/
def trapped (s : State) : Bool := s.core.issue.status == .trapped

/-- The freeze of a state, if it is one. -/
def frozen (s : State) : Option Freeze := match s.core.issue.status with
  | .frozen f => some f
  | .ok => none
  | .trapped => none

/-- Whether an outcome is the freeze of step 1 of R36. -/
def waitsForData : Host.Outcome State Fault Refusal → Bool
  | .next t => frozen t == some .emptyPort
  | .fault _ => false
  | .refused _ => false

/-- One syllable with a true guard: it freezes for a value that is not there before its guard's trap is taken (R36). -/
def runSyl (s : State) (x : Slotted) : Host.Outcome State Fault Refusal :=
  let o := exec x.instr (s.upCore fun c => { c with issue := { c.issue with dup := x.frame.dup, twin := twinOf x } })
  match guardTrap s x.frame with
  | some t => if waitsForData o then o else .next (trapHere t s)
  | none => o

/-- The first outcome of a list that is no next state. -/
def firstStop : List (Host.Outcome State Fault Refusal) → Option (Host.Outcome State Fault Refusal)
  | [] => none
  | .next _ :: t => firstStop t
  | .fault f :: _ => some (.fault f)
  | .refused r :: _ => some (.refused r)

/-- The next states of a list. -/
def nextStates (l : List (Host.Outcome State Fault Refusal)) : List State := l.filterMap fun o => match o with
  | .next s => some s
  | _ => none

/-- What the syllables find, each on the state before the bundle, in the order of R36: data not there freezes, then
the first syllable in address order that fails a check traps, then the other freezes (log 19, DEDUCED). -/
def checkAll (s : State) (l : List Slotted) : Option (Host.Outcome State Fault Refusal) :=
  let outs := l.map (runSyl s)
  match firstStop outs with
  | some o => some o
  | none =>
    let ns := nextStates outs
    if ns.any fun t => frozen t == some .emptyPort then some (.next (s.ended (.frozen .emptyPort)))
    else match ns.find? trapped with
      | some t => some (.next t)
      | none => match ns.findSome? frozen with
        | some f => some (.next (s.ended (.frozen f)))
        | none => none

/-- The effects of syllables one after another, until one traps or freezes. -/
def runAll : List Slotted → State → Host.Outcome State Fault Refusal
  | [], s => .next s
  | x :: t, s =>
    match runSyl s x with
    | .next s' => if s'.core.issue.status == .ok then runAll t s' else .next s'
    | .fault f => .fault f
    | .refused r => .refused r

/-- The syllables of ranks lo to hi, by rank (log 18, DEDUCED). -/
def byRank (lo hi : Nat) (l : List Slotted) : List Slotted :=
  (List.range' lo (hi + 1 - lo)).flatMap fun k => l.filter fun x => rank x.instr == k

/-! Pacing (R42, R43). -/

/-- One more position in the history. -/
def pushHist (c : Nat) (h : List Nat) : List Nat := (c :: h).take 7

/-- Step 2 of R43: paced bundles until the window allows the charge, and how many. -/
def paceWindow (wa c : Nat) : Nat → List Nat → List Nat × Nat
  | 0, h => (h, 0)
  | k + 1, h =>
    if wa < h.foldl (· + ·) 0 + c then
      let r := paceWindow wa c k (pushHist 0 h)
      (r.1, r.2 + 1)
    else (h, 0)

/-- Steps 1 to 3 of R43 for a charge: the history and the counts of PACED (R45). -/
def pace (ba wa c : Nat) (k : Core) : Core :=
  let stretch := if ba < c then (c + ba - 1) / ba - 1 else 0
  let h1 := (List.range stretch).foldl (fun h _ => pushHist 0 h) k.hist
  let r := paceWindow wa c 7 h1
  { k with hist := pushHist c r.1
           pacedN := k.pacedN + BitVec.ofNat 32 (stretch + r.2)
           stretchN := if ba < c then k.stretchN + 1 else k.stretchN }

/-! The bundle. -/

/-- A debug stop after an issued bundle (R305; log 32, DEDUCED). -/
def debugStop (s : State) : State :=
  if s.die.dbgStep && !trapped s then
    stopped ((s.upCore fun c => { c with dbgStop := true }).post (.debugStop s.die.num s.core.num))
  else s

/-- A bundle that traps before it issues inserts no paced bundle (R36, R43). -/
def unpaced (s t : State) : State :=
  if t.core.issue.finished then t
  else t.upCore fun k => { k with pacedN := s.core.pacedN, stretchN := s.core.stretchN }

/-- The last part of a bundle: its branch and what commits or suspends, then its end (R30, R109). -/
def endBundle (s0 : State) (l : List Slotted) (s : State) : Host.Outcome State Fault Refusal :=
  match runAll (byRank 5 7 l) s with
  | .next t =>
    match t.core.issue.status with
    | .trapped => .next (unpaced s0 t)
    | .frozen f => .next (s0.ended (.frozen f))
    | .ok => .next (debugStop (finishBundle t))
  | o => o

/-- The effects of a bundle whose checks have passed: it is paced, then it issues (R27, R36, R43). A freeze or a trap
that only several syllables together meet, at a limit or a full queue, leaves no effect (log 18, DEDUCED). -/
def runBundle (l act : List Slotted) (s : State) : Host.Outcome State Fault Refusal :=
  let s1 := s.upCore (pace (bundleAllow s) (windowAllow s) (charge s.core l))
  let early := byRank 0 4 act
  match runAll (early.filter fun x => !isTclr x) s1 with
  | .next t =>
    match t.core.issue.status with
    | .trapped => .next (unpaced s t)
    | .frozen f => .next (s.ended (.frozen f))
    | .ok =>
      match (if early.any isTclr then runAll early s1 else .next t) with
      | .next t' => endBundle s act t'
      | o => o
  | o => o

/-- The syllables of the bundle at an address, those of a repeat stepped, after the checks of R63 and the decode limit
of R28. -/
def bundleAt (s : State) (ba : Nat) : Except Trap (List Slotted) :=
  match fetchWords s ba 13 with
  | .error t => .error t
  | .ok ws =>
    let r := s.core.arch.rpc
    let on (w : Nat) : Bool := guardTrue s (frameOf w)
    let ws' := if r.act then stepWords (curKernel s) on (r.iter.toNat * r.stride.toNat) r.fmask ws else .ok ws
    match ws' with
    | .error t => .error t
    | .ok x => match checkWords s.die.feat x with
      | .error t => .error t
      | .ok l => if decodeLimit s < charge s.core l then .error (illBundle 8) else .ok l

/-- The issue context of a bundle (log 5). -/
def beginIssue (ba n : Nat) (s : State) : State :=
  s.upCore fun c => { c with issue :=
    { ba := ba, nb := (ba + 8 * n) % 2 ^ 56, dup := false, twin := none, taken := false, finished := false, status := .ok
      since := some s.fresh, rebound := none } }

/-- The bundle at the pc issues, traps or freezes. A trap of an iteration of a repeat, ALLOT and those of R28 included,
names the bundle that the repeat holds (log 27, DEDUCED). -/
def issueBundle (s : State) : Host.Outcome State Fault Refusal :=
  let ba := s.core.pc.toNat
  match bundleAt s ba with
  | .error t => .next (takeTrap t ba (beginIssue ba 0 s))
  | .ok l =>
    let s1 := beginIssue ba l.length s
    let act := l.filter fun x => guardTrue s1 x.frame
    match checkAll s1 act with
    | some o => o
    | none => runBundle l act s1

/-! Before the bundle. -/

/-- A result that is due and cannot land: an ordering access that no commit has performed (R216), a trap that its data
raises (R229, R344), or an as-of load whose stamp is not yet surely past (R344; log 64, DEDUCED). -/
def dueTrap (a : Arch) : Option (Trap × Option Nat) :=
  a.inflight.findSome? fun e =>
    if e.due != 0 then none
    else match e.land with
      | .ordPend .. => some ({ cause := .memory, detail := 6 }, none)
      | .trap t ba => some (t, ba)
      | _ => none

/-- Whether a result that is due is late (R36; log 64, DEDUCED). -/
def dueLate (a : Arch) : Bool := a.inflight.any fun e => e.due == 0 && lateResult e.land

/-- Whether the pair's SOLO mode keeps this core from issuing (R41). -/
def soloIdle (s : State) : Bool := 2 ≤ (engineOf s).mode.val && !soloSide s

/-- A bundle time frozen for the rows alone that a V.AWRITE has in flight to a bank brings those rows one bundle nearer:
the busy bit that they hold would else never clear (R135, R148; log 100, DESIGN CHOICE). -/
def thawTiles (s : State) : State := match frozen s with
  | some (.rows b) => s.upArch fun a => { a with inflight := a.inflight.map fun e => match e.land with
    | .tile k _ _ => if bankOf s k.val == some b then { e with due := e.due - 1 } else e
    | _ => e }
  | some .emptyPort | some .queueFull | some .scoreboard | none => s

/-- The results due before the next bundle (log 37, DEDUCED). -/
def settleDue (s : State) : State := landDue (thawTiles (settleAsOf s))

/-- Whether a core whose context has halted is still to halt (R307): one that completes its suspension does not, and one
inside a repeat does so after it (R306). -/
def haltsNow (s : State) : Bool :=
  !ctxActive s && !s.core.haltPend && (match s.core.wait with
    | some (.susp _ _) => false
    | _ => true)

/-- The next bundle of a core that is not held back (R36; log 37, DEDUCED) (log 64, DEDUCED). -/
def nextBundle (s : State) : Host.Outcome State Fault Refusal :=
  let s1 := settleDue s
  match (dueTrap s1.core.arch).orElse fun _ => (aloadTrap s1.core).map fun p => (p.1, some p.2) with
  | some (t, ba) => .next (takeTrap t (ba.getD s1.core.pc.toNat) s1)
  | none =>
    if dueLate s1.core.arch then .next (s1.ended (.frozen .emptyPort))
    else if s1.core.left == 0 then .next (stopBudget s1)
    else issueBundle s1

/-- What a core that runs a strand does at its next moment of issue; a die that is not ONLINE runs nothing (R12, R14),
and an uncorrectable error in the core's shadows is a context fault (R229; log 32, DEDUCED) (DEDUCED, log 35; log 63,
DEDUCED). -/
def coreMove (s : State) : Host.Outcome State Fault Refusal :=
  match s.core.record with
  | none => .next s
  | some _ =>
    if s.core.halted || s.die.boot != .online || soloIdle s then .next s
    else if s.core.ueccShadow then
      .next (takeTrap { cause := .uecc, detail := 8 } s.core.pc.toNat (s.upCore fun c => { c with ueccShadow := false }))
    else if haltsNow s then .next (haltHere s)
    else match s.core.wait with
      | some w => .next (resumeWait w s)
      | none =>
        if s.core.haltPend && (!s.core.arch.rpc.act || s.core.dbgStop || s.core.budgetStop) then .next (haltHere s)
        else if s.core.dbgStop || s.core.budgetStop then .next s
        else match s.core.rvzTrap with
          | some k =>
            .next (takeTrap { cause := .rvz, detail := k } s.core.pc.toNat
              (s.upCore fun c => { c with rvzTrap := none }))
          | none => nextBundle s

end Sys2Proof.Machine
end

