-- ==== Sys2Proof/Machine/Step.lean ====
section
/-! DEFINITION. One step of the package: the first move of the schedule, or the next bundle of the selected core
(log 1, log 7). -/

namespace Sys2Proof.Machine

/-- Whether an instruction is a syllable; the others are events. -/
def isSyllable (i : Instr) : Bool := i.enc.isSome

/-- The selected die's interval clock reaches bounds; neither bound runs backwards. A width that has come to be within
CLKW lets a later one be posted again (spec/21 R338, DESIGN CHOICE, log 7). -/
def clockMove (e l : Nat) (s : State) : State :=
  settleWaiters (s.upDie fun d =>
    let e' := max d.earliest e
    let l' := max (max d.latest e') l
    { d with earliest := e', latest := l', widePosted := d.widePosted && decide (d.clkw.toNat < l' - e') })

/-- Bundle times pass on the selected die (spec/17 R287, DESIGN CHOICE, log 7). -/
def elapseMove (n : Nat) (s : State) : State := s.upDie fun d => { d with elapsed := d.elapsed + n }

/-- A soft error changes a scalar register of the selected core other than s0 (spec/12 R228, spec/29 R393, DESIGN
CHOICE, log 7). -/
def upsetMove (r : Fin 64) (x : Word) (s : State) : State :=
  if r.val == 0 then s else s.upArch fun a => { a with s := a.s.set r x }

/-- What one move does (log 1, DESIGN CHOICE). -/
def moveStep (m : Move) (s : State) : Host.Outcome State Fault Refusal :=
  match m with
  | .core d c => coreMove (selAt d c s)
  | .event i => if isSyllable i then .next s else exec i s
  | .select d c => .next (selAt d c s)
  | .ingress i => .next { s with pkg := { s.pkg with ingress := i } }
  | .clock e l => .next (clockMove e l s)
  | .elapse n => .next (elapseMove n s)
  | .upset r x => .next (upsetMove r x s)

/-- One step: the first move of the schedule; with none, the selected core's next bundle (log 1, DESIGN CHOICE). -/
def step (s : State) : Host.Outcome State Fault Refusal :=
  match s.sched with
  | [] => coreMove s
  | m :: t => moveStep m { s with sched := t }

/-- A kernel that owns every register and no vector: the load that `withFetchWord` stands for (log 12, DESIGN CHOICE).
-/
def placedKernel : Kernel where
  kid := 1
  st := .resident
  container := []
  rating := 7
  regs := 46
  vregs := 28
  spill := 512
  modes := []
  crews := 0
  stageLo := 0
  stageHi := 0
  phases := []
  streams := []
  entries := []
  rev := 1
  req := 0
  opt := 0
  secs := []
  vector := 0

/-- A running context in partition 0 with that kernel (log 12, DESIGN CHOICE). -/
def placedPartition : Partition where
  num := 0
  slot := 0
  first := 0
  ndie := 1
  ctx := 0
  state := .running
  reason := .none
  pre := false
  prelimit := 0
  swapHeld := false
  kernels := [placedKernel]
  hostOpen := false
  shadow := []
  savedMbox := []
  pipePrev := none
  pipeNext := none

/-- The bytes placed: one leaf of 1 GiB that maps address 0 to itself, and the bundle at address 0 (log 12). -/
def placedBytes (w : Nat) (m : List Host.Cell) : List Host.Cell :=
  let code := bytesOf 8 w ++ if bits w 63 63 == 1 then [] else bytesOf 8 (encode ⟨true, false, false, 0⟩ (.sNop 0))
  memSetN (memSetN (memSetN (memSetN m 0 code) 0xFF8000 (bytesOf 8 0xFFA001)) 0xFFA000 (bytesOf 8 0xFFA801))
    0xFFA800 (bytesOf 8 0x9F)

/-- The state in which the selected core's next bundle is the syllable w, with an S.NOP after it where it does not end
its bundle (log 12, DESIGN CHOICE). -/
def State.withFetchWord (s : State) (nbits w : Nat) : State :=
  let x := w % 2 ^ (if nbits == 0 then 64 else min nbits 64)
  { s with
    sched := []
    pkg := { s.pkg with parts := placedPartition :: s.pkg.parts.filter fun p => p.num != 0 }
    die := { s.die with
      part := some 0
      boot := .online
      service := .online
      mem := placedBytes x s.die.mem
      base := placedBytes x s.die.base
      ueccLines := []
      ptroots := s.die.ptroots.set 0 0xFF8001
      engines := vmod s.die.engines (s.core.num / 2) fun e => { e with mode := 0 } }
    core := { s.core with
      record := some { Record.zero with kid := 1, crew := 0xFF }
      partid := 0
      pc := 0
      halted := false
      haltPend := false
      wait := none
      dbgStop := false
      rvzTrap := none
      budgetStop := false
      left := 0xFFFFFFFF
      arch := { s.core.arch with inflight := [], rpc := ⟨0, 0, false, 0, 0⟩ } } }

end Sys2Proof.Machine
end

