-- ==== Sys2Proof/Safety.lean ====
section
/-! DEFINITION. What counts as a safe run, in the terms that statements use: the conditions under which a syllable
takes its effect (spec/03 R36), the state its reads leave (spec/04 R58), what a syllable may change, and the canonical
form of every memory. -/

namespace Sys2Proof.Machine

/-- The conditions of R36 that every syllable shares, for the registers it reads, those it writes, those a masked
merge reads, and those it names but reads no word of: every read port among its sources has an entry (step 1), no
check on its registers fails (step 2: R35, R241, the port rules, R229, R226), and no write port among its destinations
is full (step 3). -/
def Runs (s : State) (srcs dsts : List Reg) (also quiet : List Reg := []) : Prop :=
  srcs.any (portEmpty s) = false ∧ sylTrap s { srcs := srcs, dsts := dsts, also := also, quiet := quiet } = none
    ∧ dsts.any (portFull s) = false

/-- The state in which the read ports among the sources have popped, each once (R58); without ports it is the state
itself. -/
def reads (srcs : List Reg) (s : State) : State := popAll (dedupR srcs) s

/-- When nothing that every syllable shares keeps it from taking its effect, instruction i answers the next state that
the effect f makes of the state its reads leave. -/
def RunsTo (i : Instr) (s : State) (srcs dsts : List Reg) (f : State → State) (also quiet : List Reg := []) : Prop :=
  Runs s srcs dsts also quiet → exec i s = .next (f (reads srcs s))

/-- The core holds a strand and nothing of R36, R41, R276, R305 to R308 or spec/12 keeps its next bundle from
issuing. -/
def MayIssue (s : State) : Prop :=
  s.core.record.isSome = true ∧ s.core.halted = false ∧ s.die.boot = .online ∧ soloIdle s = false
    ∧ s.core.ueccShadow = false ∧ haltsNow s = false ∧ s.core.wait = none ∧ s.core.dbgStop = false
    ∧ s.core.budgetStop = false ∧ (s.core.haltPend && !s.core.arch.rpc.act) = false ∧ s.core.rvzTrap = none
    ∧ dueTrap (settleDue s).core.arch = none ∧ aloadTrap (settleDue s).core = none
    ∧ dueLate (settleDue s).core.arch = false ∧ (settleDue s).core.left ≠ 0

/-- Whether an address lies in the ring of a run queue, where a record that enters the queue may be written (R271). -/
def ringed (d : Die) (a : Nat) : Prop :=
  ∃ q : Fin 64, wbits d.queues[q].ring 49 0 ≤ a ∧ a < wbits d.queues[q].ring 49 0 + 64 * d.queues[q].places

/-- The memories of a die, and the scratchpads of its cores, are in canonical form. -/
def dieMemOk (d : Die) : Bool := Memory.wf d.mem && Memory.wf d.base && d.cores.all fun c => Memory.wf c.spad

/-- Every memory of the package is in canonical form: those of the selected core and die, those of the others, the
evacuation store, and the scratchpads of the cores that a swap has written to a shadow. -/
def MemInv (s : State) : Prop :=
  Memory.wf s.core.spad = true ∧ dieMemOk s.die = true ∧ (∀ d ∈ s.pkg.dies, dieMemOk d = true)
    ∧ (∀ e ∈ s.pkg.evac, Memory.wf e.mem = true ∧ Memory.wf e.base = true)
    ∧ ∀ p ∈ s.pkg.parts, ∀ x ∈ p.shadow, ∀ c ∈ x.cores, Memory.wf c.spad = true

/-- Two states differ at most in what a syllable that computes registers may change: its results in flight (R30),
and, for the ports it reads and writes, the queues behind them, the entries they hold back and the writes that a popped
slot makes known (R57 to R59, R211). Every register, every special and control register, the memories, the program
counter and the other cores and dies are as before. -/
def OnlyFlight (s t : State) : Prop :=
  t = { s with
    core := { s.core with
      arch := { s.core.arch with inflight := t.core.arch.inflight }
      strand := { s.core.strand with hb := t.core.strand.hb }
      stats := t.core.stats, statHalf := t.core.statHalf, patch := t.core.patch, geo := t.core.geo
      popped := t.core.popped, held := t.core.held, seg := t.core.seg, sq := t.core.sq }
    die := { s.die with crews := t.die.crews, recv := t.die.recv }
    pkg := { s.pkg with mbox := t.pkg.mbox, nextId := t.pkg.nextId } }

/-- Whether an instruction only computes results from registers, control registers, queues and memory: the S class, the
queries and tag waits of the B class, the V and F classes, the loads and hints of the M class but M.LDAQ, the reads of
the engines' and the streams' state, and the deprecated opcodes that do not branch. -/
def computes : Instr → Bool
  | .sNop .. | .sAdd .. | .sSub .. | .sAddi .. | .sMovi .. | .sMovhi .. | .sAnd .. | .sOr .. | .sXor .. | .sAndn ..
  | .sAndi .. | .sOri .. | .sXori .. | .sShl .. | .sShr .. | .sSar .. | .sShli .. | .sShri .. | .sSari .. | .sRor ..
  | .sMin .. | .sMax .. | .sMinu .. | .sMaxu .. | .sAbs .. | .sNeg .. | .sClz .. | .sCtz .. | .sPopc .. | .sBswap ..
  | .sSext .. | .sZext .. | .sBfx .. | .sBfi .. | .sSel .. | .sMul .. | .sMulh .. | .sMulhu .. | .sMadd .. | .sCmp ..
  | .sCmpi .. | .sPand .. | .sPor .. | .sPxor .. | .sPnot .. | .sPset .. | .sLea .. | .sMov .. | .sCrd .. | .sCwr ..
  | .sGrd .. | .sGwr .. | .sSpl .. | .sSps .. | .sClk .. | .sChk .. | .sMskIns .. | .sMskExt .. | .sMski ..
  | .bWany .. | .bWall .. | .bFfr .. | .bGroupQuery ..
  | .vAdd .. | .vSub .. | .vMul .. | .vMulh .. | .vFma .. | .vFms .. | .vFnma .. | .vMin .. | .vMax .. | .vAbs ..
  | .vNeg .. | .vClamp .. | .vPopc .. | .vClz .. | .vRound .. | .vScale .. | .vAvg .. | .vAbd .. | .vAnd .. | .vOr ..
  | .vXor .. | .vNot .. | .vShl .. | .vShr .. | .vSar .. | .vFshl .. | .vFshr .. | .vCmp .. | .vSel .. | .vMcnt ..
  | .vMset .. | .vMand .. | .vMov .. | .vBcast .. | .vIota .. | .vExtr .. | .vIns .. | .vPerm .. | .vSlide .. | .vZip ..
  | .vCmprs .. | .vRsum .. | .vRmax .. | .vRmin .. | .vRowsum .. | .vColsum .. | .vGmax .. | .vCvt .. | .vMaxexp ..
  | .vPxpose .. | .vAread .. | .vAwrite ..
  | .fTbl .. | .fTblwr .. | .fTblrd .. | .fRcp .. | .fRsq .. | .fSqrt .. | .fDiv .. | .fExp2 .. | .fLog2 .. | .fExp ..
  | .fLog .. | .fGeo .. | .fGeoidx .. | .fLscale .. | .fLq .. | .fLdq .. | .fLqcnt ..
  | .mLd .. | .mLdp .. | .mVld .. | .mVlds .. | .mVldb .. | .mVgath .. | .mGld .. | .mLdas .. | .mPref ..
  | .mTinv .. | .xStat .. | .xFence | .dPpact .. | .dPortCount .. | .dPortSkip .. | .dDstat .. | .dDfence | .lPeek ..
  | .lStat .. | .zw1Madd .. | .zw1Ldpair .. | .zw1Vsum .. => true
  | _ => false

/-- The syllable has taken its effect: it has neither frozen nor trapped. -/
def Done (t : State) : Prop := t.core.issue.status = .ok

end Sys2Proof.Machine
end

