-- ==== Sys2Proof/Certificates/Slice0/Obligations.lean ====
section
/-! DEFINITION. The statements about the model: one Prop each, from the numbered rules of spec/. -/

section

open Sys2Proof Sys2Proof.Machine

/-! Encoding and decoding (spec/04 R49 to R64). -/

/-- R50, R53, R54, R61, R63: the syllable that carries a well-formed instruction under any guard, STOP and DUP has 64
bits, decodes to that instruction, and reads back as that frame. -/
def Obligations.DecodeInvertsEncode : Prop :=
  ∀ (i : Instr) (fr : Frame), i.wf = true → i.enc.isSome = true →
    encode fr i < 2 ^ 64 ∧ decodeWord (encode fr i) = .ok i ∧ frameOf (encode fr i) = fr

/-- R54, R63: a word that decodes carries a well-formed instruction, and the encoder gives that very word back, so no
bit of a syllable is ignored and no instruction has two words under one frame. And R62, R63: exactly 32 opcode values
are unassigned, those listed; a word that holds one is refused as UNASSIGNED whatever its other bits are; and the
frame bits of a word never change whether or as what it decodes. -/
def Obligations.EncodeInvertsDecode : Prop :=
  (∀ (w : Nat) (i : Instr), w < 2 ^ 64 → decodeWord w = .ok i →
    i.wf = true ∧ i.enc.isSome = true ∧ encode (frameOf w) i = w) ∧
  (((List.range 256).filter fun o => !assigned o) =
    [0x3A, 0x3B, 0x3C, 0x3D, 0x3E, 0x3F, 0x56, 0x57, 0x8C, 0x8D, 0x8E, 0x8F, 0xA1, 0xA2, 0xA3, 0xC2, 0xC3, 0xCE, 0xCF,
      0xE3, 0xF4, 0xF5, 0xF6, 0xF7, 0xF8, 0xF9, 0xFA, 0xFB, 0xFC, 0xFD, 0xFE, 0xFF] ∧
  (∀ w : Nat, assigned (bits w 56 49) = false → decodeWord w = .error .unassigned) ∧
  (∀ w : Nat, decodeWord w = decodeWord (w % 2 ^ 57)))

/-- Words written out from the encoding tables of the spec decode to the instructions they stand for: one of each of
the four formats, A, B, I and J, and of every slot class, S, V, X, M, C, L, B, F and D. -/
def Obligations.WordsOfTheSpecDecode : Prop :=
  decodeWord 0x80DE4BF100000000 = .ok (.vMov .i32 31 4 ⟨0, false, .rne, false⟩) ∧
  decodeWord 0x01880F0002000000 = .ok (.xMma 0 0 1) ∧
  decodeWord 0x80800FFFFFFFFFFD = .ok (.bBr (-3)) ∧
  decodeWord 0x8136787105800000 = .ok (.fLq 3 4 11) ∧
  decodeWord 0x808E000000000030 = .ok (.bRep none 48 0 0) ∧
  decodeWord 0x01A8000102280000 = .ok (.cGath 2 1 5) ∧
  decodeWord 0x81BA000180480002 = .ok (.lSend 3 2 9) ∧
  decodeWord 0x8174300000000010 = .ok (.mFence .acqRel .die) ∧
  decodeWord 0x81D4000000200001 = .ok (.dRaw true 0 4) ∧
  decodeWord 0x809A000508950000 = .ok (.bMwait 20 17 21) ∧
  decodeWord 0x8149916280000000 = .ok (.mLd .vt .i64 11 10 0) ∧
  decodeWord 0x005A010000000011 = .ok (.sCrd 8 .trapinfo)

/-! A bundle issues (spec/03 R36, R37, R43; spec/04 R51, R63). -/

/-- R63: a bundle whose only syllable is the word w, fetched at an address while no repeat is active, is that syllable
decoded; with R36, R51, R109 and R43, a core that nothing holds back runs it: a false guard gives no effect; a freeze
or a trap of the instruction is the step's; otherwise the bundle is paced (R43), the instruction takes its effect, and
the end of the bundle (R30, R39, R109) and a debug stop (R305) follow. The model's readings: logs 18, 19. -/
def Obligations.StepRunsTheDecodedInstruction : Prop :=
  (∀ (s : State) (ba w : Nat) (l : List Slotted), s.core.arch.rpc.act = false → fetchWords s ba 13 = .ok [w] →
    bundleAt s ba = .ok l → ∃ x : Slotted, l = [x] ∧ x.word = w ∧ x.frame = frameOf w ∧ decodeWord w = .ok x.instr) ∧
  (∀ (s : State) (x : Slotted), s.sched = [] → MayIssue s →
    let s1 := settleDue s
    bundleAt s1 s1.core.pc.toNat = .ok [x] →
    let s2 := beginIssue s1.core.pc.toNat 1 s1
    let meant : State → State := fun u =>
      u.upCore fun c => { c with issue := { c.issue with dup := x.frame.dup, twin := twinOf x } }
    let s3 := s2.upCore (pace (bundleAllow s2) (windowAllow s2) (charge s2.core [x]))
    (guardTrue s2 x.frame = false → step s = .next (debugStop (finishBundle s3))) ∧
    (guardTrue s2 x.frame = true → guardTrap s2 x.frame = none →
      (∀ t f, exec x.instr (meant s2) = .next t → frozen t = some f → step s = .next (s2.ended (.frozen f))) ∧
      (∀ t, exec x.instr (meant s2) = .next t → trapped t = true → step s = .next t) ∧
      (∀ t u, exec x.instr (meant s2) = .next t → Done t → exec x.instr (meant s3) = .next u → Done u →
        step s = .next (debugStop (finishBundle u)))))

/-- No step of the machine stops: whatever the schedule, the events and the bundles, a step answers a next state. A
trap is a next state (R227), and so is a freeze (R37). -/
def Obligations.StepAnswersNext : Prop := ∀ s : State, ∃ t : State, step s = .next t

/-- Whatever moves next, every memory of the package keeps its canonical form: addresses strictly rising, no listed
byte equal to what an unlisted one reads as. The form is the model's choice, not a rule of the spec (log 3, DESIGN
CHOICE); what it carries is the memory of spec/11 that performed writes make. -/
def Obligations.StepKeepsMemoryForm : Prop := ∀ s t : State, MemInv s → step s = .next t → MemInv t

/-- At reset every memory has its canonical form: nothing is listed. The model's readings: log 3. -/
def Obligations.ResetMemoryForm : Prop :=
  MemInv State.reset ∧ State.reset.die.mem = [] ∧ State.reset.die.base = [] ∧ State.reset.pkg.evac = []

/-! Reset, registers, landing and memory. -/

/-- The values at reset, in every core, die and part of the package. The spec gives SHAPE and QSL (R117, R132), the
loop registers and RPC (R110, R111), TRAPPC and TRAPINFO (R299, R300), PACED and BUDGET (R45, R276), the tags (R203),
CREWID and STRANDID (R282); ALLOW (R45), DBGCTL (R35), RVZTO (R233), CLKW and HORIZON (R339), the apertures (R186),
PTROOT (R315), the queues (R270), the engines' MODE (R138), PMIN and PARTMIN (R337), COLD (R367); ASTEP (R373),
BOOTSTS (R369), the mailboxes (R371). The model's choice (log 2, DESIGN CHOICE), as the spec's rules speak of a pickup,
of a context's start or of nothing: CKPTPC, HND and RETRIED, the history of the charges, the lists of results in
flight, of held and popped entries and of undone accumulators, the counts of the open segment, the phase and its
number, the crews' GEN and ARR, and the lists of contexts and links, all empty, zero or false. -/
def Obligations.ResetState : Prop :=
  (∀ c : Core, c = State.reset.core ∨ c ∈ State.reset.die.cores ∨ (∃ d ∈ State.reset.pkg.dies, c ∈ d.cores) →
    c.record = none ∧ c.arch.shape = 0x0000000200100010 ∧ c.arch.qsl = 0 ∧ c.arch.inflight = [] ∧
    (∀ n : Fin 3, c.arch.loops[n].word = 0 ∧ c.arch.loops[n].ls = 0 ∧ c.arch.loops[n].le = 0) ∧
    c.arch.rpc.word = 0 ∧ c.held = [] ∧ c.popped = [] ∧ c.undo = [] ∧ c.seg = ⟨0, 0, 0, 0, 0⟩ ∧
    c.trappc = 0 ∧ c.trapinfo = 0 ∧ c.ckptpc = 0 ∧ c.hnd = false ∧ c.retried = false ∧
    c.pacedN = 0 ∧ c.stretchN = 0 ∧ c.left = 0 ∧ c.budgetStop = false ∧ c.hist = [0, 0, 0, 0, 0, 0, 0] ∧
    tagBits (·.done) c = 0 ∧ tagBits (·.err) c = 0 ∧ c.crewid = 0xFF ∧ c.strandid = 0) ∧
  (∀ d : Die, d = State.reset.die ∨ d ∈ State.reset.pkg.dies →
    d.level = 7 ∧ d.changes = 0 ∧ d.dbgPend = false ∧ d.dbgStep = false ∧ d.rvzto = 0x3E8 ∧ d.clkw = 0x3E8 ∧
    d.horizon = 0x7D0 ∧ (∀ i : Fin 16, d.aps[i] = ⟨0, 0, 0, 0⟩ ∧ d.ptroots[i] = 0 ∧ d.crews[i].word 0 = 0 ∧
      d.crews[i].gen = 0 ∧ d.crews[i].arr = 0 ∧ d.recv[i] = none ∧ d.send[i] = none) ∧
    (∀ q : Fin 64, d.queues[q].cfg = 0 ∧ d.queues[q].ring = 0 ∧ d.queues[q].hw = [] ∧ d.queues[q].overflow = []) ∧
    (∀ p : Fin 64, d.engines[p].mode = 0) ∧ d.phase = .compute ∧ d.k = 0 ∧
    d.ingress.pmin = BitVec.ofNat 64 (1024 + 256 * 2 ^ 16 + 64 * 2 ^ 28 + 256 * 2 ^ 40 + 64 * 2 ^ 52) ∧
    (∀ i : Fin 16, d.ingress.partmin[i] = 0) ∧ d.boot = .cold ∧ d.part = none) ∧
  State.reset.pkg.dies.length = 11 ∧ State.reset.pkg.parts = [] ∧ State.reset.pkg.conns = [] ∧
  State.reset.pkg.tup = 95 ∧ State.reset.pkg.tdown = 85 ∧ State.reset.pkg.hold = 10 ∧ State.reset.pkg.lmin = 0 ∧
  State.reset.pkg.pup = 2400 ∧ State.reset.pkg.pdown = 2200 ∧ State.reset.pkg.bootCode = 0 ∧
  State.reset.pkg.bootFenced = 0 ∧ (∀ i : Fin 16, State.reset.pkg.mbox[i] = [] ∧ State.reset.pkg.drops[i] = 0)

/-- R56: s0 reads 0, p0 reads 1 and m0 reads all ones in every state, and a result that lands on one of them, however
it came to be in flight, leaves every scalar register, predicate and mask register, and every vector register, as it
was. -/
def Obligations.HardwiredRegisters : Prop :=
  ∀ s : State, regS s 0 = 0 ∧ regP s 0 = true ∧ regM s 0 = BitVec.allOnes 256 ∧
    (∀ (l : Land) (x : Word) (b : Bool) (m : Mask), (l = .s 0 x ∨ l = .p 0 b ∨ l = .m 0 m) →
      (landOne s l).core.arch = s.core.arch ∧ (landOne s l).die = s.die ∧ (landOne s l).pkg = s.pkg)

/-- R30, R32, R33: the end of a bundle, its branch taken or not, counts every result in flight one bundle nearer and
lands those that are then due, in the order of issue: of several for one register the last issued stands, and a
register with none keeps its value; the others stay in flight. This holds of scalar, vector and mask registers, and of
the predicates that no pipelined loop shifts (p12 to p15, R109). So a result of distance k lands at the end of the
k-th bundle from its own and no sooner, and a register read sees what the register holds. The results whose data R216,
R229 and R344 settle before the next bundle are not yet due here. -/
def Obligations.ResultsLandAtTheirDistance : Prop :=
  (∀ s : State, s.core.issue.finished = false →
    (∀ e ∈ s.core.arch.inflight, e.due ≤ 1 → e.land.ripe = true) →
    let t := finishBundle s
    let due := (s.core.arch.inflight.filter fun e => e.due ≤ 1).map (·.land)
    t.core.arch.inflight = (s.core.arch.inflight.filter fun e => 2 ≤ e.due).map (fun e => { e with due := e.due - 1 }) ∧
    (∀ r : SReg, r ≠ 0 → t.core.arch.s[r] = ((due.filterMap fun l => match l with
      | .s q x => if q = r then some x else none
      | _ => none).getLast?).getD s.core.arch.s[r]) ∧
    (∀ r : VReg, t.core.arch.v[r] = ((due.filterMap fun l => match l with
      | .v q x => if q = r then some x else none
      | _ => none).getLast?).getD s.core.arch.v[r]) ∧
    (∀ r : MReg, r ≠ 0 → t.core.arch.m[r] = ((due.filterMap fun l => match l with
      | .m q x => if q = r then some x else none
      | _ => none).getLast?).getD s.core.arch.m[r]) ∧
    (∀ r : PReg, r ≠ 0 → r.val < 12 → regP t r = ((due.filterMap fun l => match l with
      | .p q x => if q = r then some x else none
      | _ => none).getLast?).getD (regP s r))) ∧
  (∀ (s : State) (x : Word) (r : SReg) (k : Nat), s.core.arch.inflight = [] → r.val < 56 → r ≠ 0 →
    let next : State → State := fun u => finishBundle (beginIssue u.core.pc.toNat 1 u)
    (∀ j ≤ k, (next^[j] (wrS r (k + 1) x s)).core.arch.s[r] = s.core.arch.s[r] ∧
      (next^[j] (wrS r (k + 1) x s)).core.arch.inflight = [⟨k + 1 - j, .s r x⟩]) ∧
    (next^[k + 1] (wrS r (k + 1) x s)).core.arch.s[r] = x ∧
    (next^[k + 1] (wrS r (k + 1) x s)).core.arch.inflight = []) ∧
  (∀ (u : State) (r : SReg), r ≠ 0 → r.val < 56 → regS u r = u.core.arch.s[r])

/-! The S class (spec/06 R93 to R105). -/

/-- R95: each format A syllable of the table has its opcode, its operands in D, A and B with C and IMM16 zero, and,
when nothing keeps it from issuing, answers the state with D := trunc(f, 64) in flight at its latency (R93): 3 for the
multiplies and 1 for the others. S.SHL, S.SHR, S.SAR and S.ROR use bits [5:0] of reg(B) alone. A destination port
takes the value in its reserved entry and s0 discards it (R56, R94). -/
def Obligations.ScalarTwoSource : Prop :=
  ∀ (s : State) (d a b : SReg),
    let x := regS s a
    let y := regS s b
    let n := y.toNat % 64
    ∀ p ∈ ([(0x01, .sAdd d a b, 1, .ofInt 64 (x.toInt + y.toInt)),
      (0x02, .sSub d a b, 1, .ofInt 64 (x.toInt - y.toInt)),
      (0x06, .sAnd d a b, 1, x &&& y), (0x07, .sOr d a b, 1, x ||| y), (0x08, .sXor d a b, 1, x ^^^ y),
      (0x09, .sAndn d a b, 1, x &&& ~~~y),
      (0x0D, .sShl d a b, 1, .ofNat 64 (x.toNat * 2 ^ n)), (0x0E, .sShr d a b, 1, .ofNat 64 (x.toNat / 2 ^ n)),
      (0x0F, .sSar d a b, 1, .ofInt 64 (x.toInt / 2 ^ n)),
      (0x13, .sRor d a b, 1, .ofNat 64 (x.toNat / 2 ^ n + x.toNat % 2 ^ n * 2 ^ (64 - n))),
      (0x14, .sMin d a b, 1, .ofInt 64 (min x.toInt y.toInt)), (0x15, .sMax d a b, 1, .ofInt 64 (max x.toInt y.toInt)),
      (0x37, .sMinu d a b, 1, .ofNat 64 (min x.toNat y.toNat)),
      (0x38, .sMaxu d a b, 1, .ofNat 64 (max x.toNat y.toNat)),
      (0x21, .sMul d a b, 3, .ofInt 64 (x.toInt * y.toInt)),
      (0x22, .sMulh d a b, 3, .ofInt 64 (x.toInt * y.toInt / 2 ^ 64)),
      (0x23, .sMulhu d a b, 3, .ofNat 64 (x.toNat * y.toNat / 2 ^ 64))] : List (Nat × Instr × Nat × Word)),
      p.2.1.enc = some ⟨p.1, 0, ⟨d.val, a.val, b.val, 0, 0, 0, 0, 0⟩⟩ ∧
      RunsTo p.2.1 s [.s a, .s b] [.s d] (wrS d p.2.2.1 p.2.2.2)

/-- R96: the syllables of one source, of three, S.LEA with its factor in MOD, and S.NOP, which has no effect. The
counts and S.BSWAP are given by what their value is: the leading zeros of x are the c with 2^(63−c) ≤ x < 2^(64−c). -/
def Obligations.ScalarOneAndThreeSource : Prop :=
  ∀ (s : State) (d a b c : SReg),
    let x := regS s a
    let y := regS s b
    let u : Nat → Enc := fun o => ⟨o, 0, ⟨d.val, a.val, 0, 0, 0, 0, 0, 0⟩⟩
    let puts (i : Instr) (z : Word) : Prop := RunsTo i s [.s a] [.s d] (wrS d 1 z)
    (∀ imm, (Instr.sNop imm).enc = some ⟨0x00, 0, ⟨0, 0, 0, 0, imm.toNat, 0, 0, 0⟩⟩ ∧ RunsTo (.sNop imm) s [] [] id) ∧
    ((Instr.sAbs d a).enc = some (u 0x16) ∧ puts (.sAbs d a) (.ofNat 64 x.toInt.natAbs)) ∧
    ((Instr.sNeg d a).enc = some (u 0x17) ∧ puts (.sNeg d a) (.ofInt 64 (-x.toInt))) ∧
    ((Instr.sClz d a).enc = some (u 0x18) ∧ ∃ k ≤ 64, x.toNat < 2 ^ (64 - k) ∧ (k < 64 → 2 ^ (63 - k) ≤ x.toNat) ∧
      puts (.sClz d a) (.ofNat 64 k)) ∧
    ((Instr.sCtz d a).enc = some (u 0x19) ∧ ∃ k ≤ 64, x.toNat % 2 ^ k = 0 ∧ (k < 64 → x.toNat / 2 ^ k % 2 = 1) ∧
      puts (.sCtz d a) (.ofNat 64 k)) ∧
    ((Instr.sPopc d a).enc = some (u 0x1A) ∧ puts (.sPopc d a) (.ofNat 64 ((List.range 64).countP x.getLsbD))) ∧
    ((Instr.sBswap d a).enc = some (u 0x1B) ∧
      ∃ z : Word, (∀ k < 8, z.toNat / 2 ^ (8 * (7 - k)) % 256 = x.toNat / 2 ^ (8 * k) % 256) ∧ puts (.sBswap d a) z) ∧
    ((Instr.sMov d a).enc = some (u 0x2C) ∧ puts (.sMov d a) x) ∧
    ((Instr.sMadd d a b c).enc = some ⟨0x24, 0, ⟨d.val, a.val, b.val, c.val, 0, 0, 0, 0⟩⟩ ∧
      RunsTo (.sMadd d a b c) s [.s a, .s b, .s c] [.s d]
        (wrS d 3 (.ofInt 64 (x.toInt * y.toInt + (regS s c).toInt)))) ∧
    (∀ p : PReg, (Instr.sSel d a b p).enc = some ⟨0x20, 0, ⟨d.val, a.val, b.val, 96 + p.val, 0, 0, 0, 0⟩⟩ ∧
      RunsTo (.sSel d a b p) s [.s a, .s b, .p p] [.s d] (wrS d 1 (if regP s p then x else y))) ∧
    (∀ (k : Fin 4) (imm : BitVec 16),
      (Instr.sLea k d a b imm).enc = some ⟨0x2B, k.val, ⟨d.val, a.val, b.val, 0, imm.toNat, 0, 0, 0⟩⟩ ∧
      RunsTo (.sLea k d a b imm) s [.s a, .s b] [.s d]
        (wrS d 1 (.ofInt 64 (x.toInt + y.toInt * 2 ^ k.val + imm.toInt))))

/-- R97: the format I syllables. sext(x, n) of a natural number x is the number congruent to x modulo 2^n from
−2^(n−1) up to 2^(n−1) − 1. -/
def Obligations.ScalarImmediate : Prop :=
  ∀ (s : State) (d a : SReg) (imm : BitVec 30),
    let x := regS s a
    let i64 : Word := .ofInt 64 imm.toInt
    (∀ p ∈ ([(0x03, .sAddi d a imm, .ofInt 64 (x.toInt + imm.toInt)),
      (0x05, .sMovhi d a imm, .ofInt 64 (Int.bmod (imm.toNat * 2 ^ 30 + x.toNat % 2 ^ 30 : Nat) (2 ^ 60))),
      (0x0A, .sAndi d a imm, x &&& i64), (0x0B, .sOri d a imm, x ||| i64), (0x0C, .sXori d a imm, x ^^^ i64)]
        : List (Nat × Instr × Word)),
      p.2.1.enc = some ⟨p.1, 0, ⟨d.val, a.val, 0, 0, imm.toNat, 0, 0, 0⟩⟩ ∧
      RunsTo p.2.1 s [.s a] [.s d] (wrS d 1 p.2.2)) ∧
    (Instr.sMovi d imm).enc = some ⟨0x04, 0, ⟨d.val, 0, 0, 0, imm.toNat, 0, 0, 0⟩⟩ ∧
    RunsTo (.sMovi d imm) s [] [.s d] (wrS d 1 i64)

/-- R98: shifts by POS, extensions to W bits, and bit fields, with IMM16 holding POS in [5:0] and W−1 in [11:6]; a
shift uses POS alone, an extension W alone. sext is as in ScalarImmediate. -/
def Obligations.ScalarShiftsAndFields : Prop :=
  ∀ (s : State) (d a b : SReg) (pos w1 : Fin 64),
    let x := regS s a
    let w := w1.val + 1
    let sext (y : Nat) : Word := .ofInt 64 (Int.bmod y (2 ^ w))
    let zext (y : Nat) : Word := .ofNat 64 (y % 2 ^ w)
    let m : Word := .ofNat 64 ((2 ^ w - 1) * 2 ^ pos.val)
    (∀ p ∈ ([(0x10, .sShli d a pos, 0, pos.val, .ofNat 64 (x.toNat * 2 ^ pos.val)),
      (0x11, .sShri d a pos, 0, pos.val, .ofNat 64 (x.toNat / 2 ^ pos.val)),
      (0x12, .sSari d a pos, 0, pos.val, .ofInt 64 (x.toInt / 2 ^ pos.val)),
      (0x1C, .sSext d a w1, 0, 64 * w1.val, sext x.toNat), (0x1D, .sZext d a w1, 0, 64 * w1.val, zext x.toNat),
      (0x1E, .sBfx true d a pos w1, 1, pos.val + 64 * w1.val, sext (x.toNat / 2 ^ pos.val)),
      (0x1E, .sBfx false d a pos w1, 0, pos.val + 64 * w1.val, zext (x.toNat / 2 ^ pos.val))]
        : List (Nat × Instr × Nat × Nat × Word)),
      p.2.1.enc = some ⟨p.1, p.2.2.1, ⟨d.val, a.val, 0, 0, p.2.2.2.1, 0, 0, 0⟩⟩ ∧
      RunsTo p.2.1 s [.s a] [.s d] (wrS d 1 p.2.2.2.2)) ∧
    (Instr.sBfi d a b pos w1).enc = some ⟨0x1F, 0, ⟨d.val, a.val, b.val, 0, pos.val + 64 * w1.val, 0, 0, 0⟩⟩ ∧
    RunsTo (.sBfi d a b pos w1) s [.s a, .s b] [.s d]
      (wrS d 1 ((regS s b &&& ~~~m) ||| (.ofNat 64 (x.toNat * 2 ^ pos.val) &&& m)))

/-- R99: S.CMP and S.CMPI write 1 if the condition that MOD selects holds and 0 if not; MOD values from 10 on are
refused with RESMOD. -/
def Obligations.ScalarCompares : Prop :=
  ∀ (s : State) (d : PReg) (a b : SReg) (imm : BitVec 30),
    let holds (x y : Word) : List (Nat × Cond × Bool) :=
      [(0, .eq, x == y), (1, .ne, x != y), (2, .lt, x.toInt < y.toInt), (3, .le, x.toInt ≤ y.toInt),
        (4, .gt, x.toInt > y.toInt), (5, .ge, x.toInt ≥ y.toInt), (6, .ltu, x.toNat < y.toNat),
        (7, .leu, x.toNat ≤ y.toNat), (8, .gtu, x.toNat > y.toNat), (9, .geu, x.toNat ≥ y.toNat)]
    (∀ p ∈ holds (regS s a) (regS s b),
      (Instr.sCmp p.2.1 d a b).enc = some ⟨0x25, p.1, ⟨96 + d.val, a.val, b.val, 0, 0, 0, 0, 0⟩⟩ ∧
      RunsTo (.sCmp p.2.1 d a b) s [.s a, .s b] [.p d] (wrP d 1 p.2.2)) ∧
    (∀ p ∈ holds (regS s a) (.ofInt 64 imm.toInt),
      (Instr.sCmpi p.2.1 d a imm).enc = some ⟨0x26, p.1, ⟨96 + d.val, a.val, 0, 0, imm.toNat, 0, 0, 0⟩⟩ ∧
      RunsTo (.sCmpi p.2.1 d a imm) s [.s a] [.p d] (wrP d 1 p.2.2)) ∧
    (∀ md f, 10 ≤ md → decodeEnc ⟨0x25, md, f⟩ = .error .resmod ∧ decodeEnc ⟨0x26, md, f⟩ = .error .resmod)

/-- R100: the predicate syllables; and while a loop level with PIPE = 1 is active, a write to p12 to p15 by any
syllable is discarded when it would land (where the discard is judged is the model's reading, log 33), while the
charge of a bundle depends on no loop level or predicate. And R101: S.MSK.ins puts reg(A) into quarter q of reg(B),
S.MSK.ext reads quarter q, and S.MSKI sets the lanes below n; an immediate n above 256 is refused as RESFIELD. -/
def Obligations.ScalarPredicatesAndMasks : Prop :=
  (∀ (s : State) (d a b : PReg) (x : SReg),
    let e (o aa bb : Nat) : Option Enc := some ⟨o, 0, ⟨96 + d.val, aa, bb, 0, 0, 0, 0, 0⟩⟩
    ((Instr.sPand d a b).enc = e 0x27 (96 + a.val) (96 + b.val) ∧
      RunsTo (.sPand d a b) s [.p a, .p b] [.p d] (wrP d 1 (regP s a && regP s b))) ∧
    ((Instr.sPor d a b).enc = e 0x28 (96 + a.val) (96 + b.val) ∧
      RunsTo (.sPor d a b) s [.p a, .p b] [.p d] (wrP d 1 (regP s a || regP s b))) ∧
    ((Instr.sPxor d a b).enc = e 0x29 (96 + a.val) (96 + b.val) ∧
      RunsTo (.sPxor d a b) s [.p a, .p b] [.p d] (wrP d 1 (regP s a ^^ regP s b))) ∧
    ((Instr.sPnot d a).enc = e 0x2A (96 + a.val) 0 ∧ RunsTo (.sPnot d a) s [.p a] [.p d] (wrP d 1 (!regP s a))) ∧
    ((Instr.sPset d x).enc = e 0x39 x.val 0 ∧ RunsTo (.sPset d x) s [.s x] [.p d] (wrP d 1 (regS s x != 0))) ∧
    (∀ (n : Fin 3) (v : Bool), s.core.arch.loops[n].act = true → s.core.arch.loops[n].pipe = true → 12 ≤ d.val →
      (landOne s (.p d v)).core.arch = s.core.arch) ∧
    (∀ (u : Arch) (l : List Slotted), charge { s.core with arch := u } l = charge s.core l)) ∧
  (∀ (s : State) (q : Fin 4) (d : MReg) (e : SReg) (a : SReg) (b : MReg) (n : Fin 257),
    ((Instr.sMskIns q d a b).enc = some ⟨0x31, 2 * q.val, ⟨112 + d.val, a.val, 112 + b.val, 0, 0, 0, 0, 0⟩⟩ ∧
      ∃ r : Mask, (∀ i < 256, r.getLsbD i = if i / 64 = q.val then (regS s a).getLsbD (i % 64) else (regM s b).getLsbD i) ∧
        RunsTo (.sMskIns q d a b) s [.s a, .m b] [.m d] (wrM d 1 r)) ∧
    ((Instr.sMskExt q e b).enc = some ⟨0x31, 1 + 2 * q.val, ⟨e.val, 112 + b.val, 0, 0, 0, 0, 0, 0⟩⟩ ∧
      ∃ r : Word, (∀ j < 64, r.getLsbD j = (regM s b).getLsbD (64 * q.val + j)) ∧
        RunsTo (.sMskExt q e b) s [.m b] [.s e] (wrS e 1 r)) ∧
    ((Instr.sMski d n).enc = some ⟨0x32, 0, ⟨112 + d.val, 0, 0, 0, n.val, 0, 0, 0⟩⟩ ∧
      ∃ r : Mask, (∀ i < 256, r.getLsbD i = decide (i < n.val)) ∧ RunsTo (.sMski d n) s [] [.m d] (wrM d 1 r)) ∧
    (∀ k, 256 < k → k < 2 ^ 30 → decodeEnc ⟨0x32, 0, ⟨112 + d.val, 0, 0, 0, k, 0, 0, 0⟩⟩ = .error .resfield))

/-- R102, R103: S.CRD and S.GRD give D the register as it stands at issue; a write of S.CWR, S.GWR or S.SPS is in
flight for the next bundle, so that a read in the same bundle sees the old value; what lands in SHAPE, QSL and TTBASE
(bits [5:0] zero) and in REM of LCn; and that every other control register ignores its write with no fault. That SHAPE
keeps no bit its layout does not name, x AND 0x307FF01FF, is the model's reading (log 80, DEDUCED). S.SPL
reads the spill memory that S.SPS writes, unless the word's ECC has failed (R229). -/
def Obligations.ScalarAccess : Prop :=
  ∀ (s : State) (d a : SReg) (x : Word) (slot : Fin 512) (n : Fin 3),
    (∀ (c : CReg), (Instr.sCrd d c).enc = some ⟨0x2D, 0, ⟨d.val, 0, 0, 0, c.num, 0, 0, 0⟩⟩ ∧
      RunsTo (.sCrd d c) s [] [.s d] (wrS d 1 (cregValue s c)) ∧
      (Instr.sCwr c a).enc = some ⟨0x2E, 0, ⟨0, a.val, 0, 0, c.num, 0, 0, 0⟩⟩ ∧
      RunsTo (.sCwr c a) s [.s a] [] (fun t => t.flight 1 (.creg c (regS s a))) ∧
      (c ≠ .shape → c ≠ .qsl → c ≠ .ttbase → (∀ k, c ≠ .lc k) → landOne s (.creg c x) = s)) ∧
    (∀ (g : GReg), (Instr.sGrd d g).enc = some ⟨0x34, 0, ⟨d.val, 0, 0, 0, g.num, 0, 0, 0⟩⟩ ∧
      RunsTo (.sGrd d g) s [] [.s d] (wrS d 1 (gregValue s.core.arch g)) ∧
      (Instr.sGwr g a).enc = some ⟨0x33, 0, ⟨0, a.val, 0, 0, g.num, 0, 0, 0⟩⟩ ∧
      RunsTo (.sGwr g a) s [.s a] [] (fun t => t.flight 1 (.greg g (regS s a))) ∧
      gregValue (landOne s (.greg g x)).core.arch g = x) ∧
    (cregValue (landOne s (.creg .shape x)) .shape = x &&& 0x0000000307FF01FF ∧
      cregValue (landOne s (.creg .qsl x)) .qsl = x ∧
      cregValue (landOne s (.creg .ttbase x)) .ttbase = x &&& ~~~63 ∧
      (landOne s (.creg (.lc n) x)).core.arch.loops[n] = { s.core.arch.loops[n] with rem := x.setWidth 32 }) ∧
    ((Instr.sSpl d slot).enc = some ⟨0x35, 0, ⟨d.val, 0, 0, 0, 8 * slot.val, 0, 0, 0⟩⟩ ∧
      (ueccWord s.core 2 (8 * slot.val) 8 = none →
        RunsTo (.sSpl d slot) s [] [.s d] (wrS d 1 (wordN (natOf (s.core.arch.spill.getN (8 * slot.val) 8)))))) ∧
    ((Instr.sSps a slot).enc = some ⟨0x36, 0, ⟨0, a.val, 0, 0, 8 * slot.val, 0, 0, 0⟩⟩ ∧
      RunsTo (.sSps a slot) s [.s a] [] (fun t => t.flight 1 (.spill slot (regS s a))) ∧
      (landOne s (.spill slot x)).core.arch.spill = s.core.arch.spill.setN (8 * slot.val) (bytesOf 8 x.toNat))

/-- R45, R35, R103, R110, R111, R203, R276, R138: the fields of the control registers a strand reads, each as the spec
lays it out. -/
def Obligations.ControlRegisterFields : Prop :=
  ∀ s : State,
    let f (c : CReg) (hi lo : Nat) : Nat := wbits (cregValue s c) hi lo
    f .allow 2 0 = s.die.level.val ∧ f .allow 15 3 = 0 ∧ f .allow 31 16 = s.die.changes.toNat ∧
    f .paced 31 0 = s.core.pacedN.toNat ∧ f .paced 63 32 = s.core.stretchN.toNat ∧
    f .budget 31 0 = s.core.left.toNat ∧ f .budget 32 32 = s.core.budgetStop.toNat ∧
    f .dbgctl 0 0 = s.die.dbgPend.toNat ∧ f .dbgctl 1 1 = s.die.dbgStep.toNat ∧ f .dbgctl 63 2 = 0 ∧
    f .trappc 55 0 = s.core.trappc.toNat ∧ cregValue s .trapinfo = s.core.trapinfo ∧
    f .ckptpc 55 0 = s.core.ckptpc.toNat ∧
    f .rpc 15 0 = s.core.arch.rpc.iter.toNat ∧ f .rpc 31 16 = s.core.arch.rpc.count.toNat ∧
    f .rpc 32 32 = s.core.arch.rpc.act.toNat ∧ f .rpc 63 33 = 0 ∧
    f .matmode 2 0 = (engineOf s).mode.val ∧ f .matmode 3 3 = (sideB s.core).toNat ∧
    f .matmode 4 4 = s.core.arch.mirroff.toNat ∧ cregValue s .shape = s.core.arch.shape ∧
    (∀ t : Fin 64, f .tagdone t t = s.core.tags[t].done.toNat ∧ f .tagerr t t = s.core.tags[t].err.toNat) ∧
    f .crewid 7 0 = s.core.crewid.toNat ∧ f .stage 15 0 = s.die.stage.toNat ∧ f .rvzto 31 0 = s.die.rvzto.toNat ∧
    f .clkw 31 0 = s.die.clkw.toNat ∧ f .horizon 31 0 = s.die.horizon.toNat ∧
    (∀ n : Fin 3, f (.lc n) 31 0 = s.core.arch.loops[n].rem.toNat ∧ f (.lc n) 32 32 = s.core.arch.loops[n].act.toNat ∧
      f (.lc n) 33 33 = s.core.arch.loops[n].pipe.toNat ∧ f (.lc n) 35 34 = s.core.arch.loops[n].stg.val ∧
      f (.lc n) 36 36 = s.core.arch.loops[n].drained.toNat ∧ f (.ls n) 55 0 = s.core.arch.loops[n].ls.toNat ∧
      f (.le n) 55 0 = s.core.arch.loops[n].le.toNat)

/-- R104: S.CLK samples the clock at issue: the earliest bound goes to sD and the latest to s(D+1), both at latency 1;
with .strict, a width above CLKW traps CLKWIDE, which writes nothing. D is even and in s10 to s54. And R105: S.CHK has
no effect when its registers agree; when they differ in any bit the bundle traps CHECK and TRAPINFO names A. -/
def Obligations.ClockSampleAndCheck : Prop :=
  (∀ (s : State) (strict : Bool) (d : SReg),
    (Instr.sClk strict d).enc = some ⟨0x2F, strict.toNat, ⟨d.val, 0, 0, 0, 0, 0, 0, 0⟩⟩ ∧
    ((Instr.sClk strict d).wf = true ↔ 10 ≤ d.val ∧ d.val ≤ 54 ∧ d.val % 2 = 0) ∧
    (strict = false ∨ s.die.latest - s.die.earliest ≤ s.die.clkw.toNat →
      RunsTo (.sClk strict d) s [] [.s d, .s (d + 1)]
        (fun t => wrS (d + 1) 1 (wordN s.die.latest) (wrS d 1 (wordN s.die.earliest) t))) ∧
    (strict = true → s.die.clkw.toNat < s.die.latest - s.die.earliest → Runs s [] [.s d, .s (d + 1)] →
      exec (.sClk strict d) s = .next (trapHere { cause := .clkwide } s))) ∧
  (∀ (s : State) (a b : SReg) (p q : PReg) (m n : MReg),
    let chk (x : ChkPair) (i j : Reg) (same : Prop) : Prop :=
      (same → RunsTo (.sChk x) s [i, j] [] id) ∧
      (¬same → Runs s [i, j] [] → exec (.sChk x) s = .next (trapHere { cause := .check, arg := i.num } s))
    chk (.s a b) (.s a) (.s b) (regS s a = regS s b) ∧ chk (.p p q) (.p p) (.p q) (regP s p = regP s q) ∧
    chk (.m m n) (.m m) (.m n) (regM s m = regM s n) ∧
    ((Instr.sChk (.s a b)).enc = some ⟨0x30, 0, ⟨0, a.val, b.val, 0, 0, 0, 0, 0⟩⟩) ∧
    ((Instr.sChk (.p p q)).enc = some ⟨0x30, 0, ⟨0, 96 + p.val, 96 + q.val, 0, 0, 0, 0, 0⟩⟩) ∧
    ((Instr.sChk (.m m n)).enc = some ⟨0x30, 0, ⟨0, 112 + m.val, 112 + n.val, 0, 0, 0, 0, 0⟩⟩) ∧
    ((Instr.sChk (.s a b)).wf = true → a.val < 56 ∧ b.val < 56))

/-- R102, R182, R164: the private arrays of a core (spill memory, table memory, tile banks) hold what was last written
to each byte. An array whose unlisted bytes read 0 stands in the canonical form of memory, which every write keeps;
one whose unlisted bytes are free values (R20) needs no form. And R212: a performed write puts its bytes at its
address and leaves every other byte of memory as it was; a read finds the last byte written. The memory at the start
of the phase, which views start from (R210), is not changed. Only the rings of run queues may differ besides: a record
that the write frees from its watch (R295) may enter one (R271). -/
def Obligations.MemoryReadsBack : Prop :=
  (let form (st : Store) : Prop := st.seed = none → memOk st.cells = true
  form .zero ∧ (∀ k, form ⟨some k, []⟩) ∧
  (∀ (st : Store) (a : Nat) (l : List Byte), form st → form (st.setN a l) ∧
    (∀ k : Fin l.length, (st.setN a l).get (a + k) = l[k]) ∧
    (∀ b, ¬(a ≤ b ∧ b < a + l.length) → (st.setN a l).get b = st.get b)) ∧
  (∀ (st : Store) (a : Nat) (x : Word), form st → natOf ((st.setN a (bytesOf 8 x.toNat)).getN a 8) = x.toNat)) ∧
  (∀ (s : State) (pa a : Nat) (b : List Byte) (heads : List Head), memOk s.die.mem = true →
    let t := writeMem pa b heads s
    (¬ringed s.die a →
      (∀ h : pa ≤ a ∧ a < pa + b.length, memGet t.die.mem a = b[a - pa]) ∧
      (¬(pa ≤ a ∧ a < pa + b.length) → memGet t.die.mem a = memGet s.die.mem a) ∧
      (memOk s.die.base = true → memGet t.die.base a = memGet s.die.base a)) ∧
    memOk t.die.mem = true)

/-! What computing leaves unchanged (spec/03 R27, R30; spec/04 R58). -/

/-- R27, R30, R58: when an instruction that only computes results has its effect, every register, control register and
special register, every byte of every memory, the program counter, and every other core and die are as before: its
results are in flight, and only a port it names moves its queue. A syllable that names no port changes its results in
flight alone: reading plain registers changes nothing, and a result for a plain register is one entry in flight. -/
def Obligations.ComputingFrame : Prop :=
  (∀ (i : Instr) (s t : State), computes i = true → exec i s = .next t → Done t → OnlyFlight s t) ∧
  (∀ (l : List Reg) (s : State), l.all (fun r => !isPort r) = true → reads l s = s) ∧
  (∀ (r : SReg) (k : Nat) (x : Word) (s : State), r.val < 56 → wrS r k x s = s.flight k (.s r x)) ∧
  (∀ (r : VReg) (k : Nat) (x : VWord) (s : State), r.val < 28 → wrV r k x s = s.flight k (.v r x)) ∧
  (∀ (s : State) (k : Nat) (l : Land), s.flight k l =
    { s with core := { s.core with arch := { s.core.arch with inflight := s.core.arch.inflight ++ [⟨k, l⟩] } } })

/-! Branches, loops, the repeat and software traps (spec/06 R106 to R114). -/

/-- R54, R106, R107: each branch, when nothing keeps its bundle from issuing, makes the target the next bundle: ba +
8·sext(OFF44) modulo 2^56 for B.BR and B.CALL, the register for the others; the calls write nb to s1 at latency 1;
B.JMPI clears HND (R304). A register whose bits [2:0] or [63:56] are not 0 traps BADTARGET, with the target in ADDR.
B.CALLI further needs the target's first syllable to be S.NOP of its class with GINV and GPRED 0: another traps
SIGCLASS, and a fetch that fails traps with its cause. The model's readings: log 87. -/
def Obligations.Branches : Prop :=
  ∀ (s : State) (off : BitVec 44) (a : SReg) (cls : BitVec 16) (w : Nat),
    let x := regS s a
    let goes (n : Nat) (u : State) : State :=
      { u with core := { u.core with pc := BitVec.ofNat 56 n, issue := { u.core.issue with taken := true } } }
    let rel := (((s.core.issue.ba : Int) + 8 * off.toInt) % 2 ^ 56).toNat
    let nb : Word := BitVec.ofNat 64 s.core.issue.nb
    let good : Prop := x.toNat % 8 = 0 ∧ x.toNat < 2 ^ 56
    RunsTo (.bBr off) s [] [] (goes rel) ∧
    RunsTo (.bCall off) s [] [.s 1] (fun u => wrS 1 1 nb (goes rel u)) ∧
    (good → RunsTo (.bRet a) s [.s a] [] (goes x.toNat) ∧
      RunsTo (.bJmpi a) s [.s a] [] (fun u => goes x.toNat { u with core := { u.core with hnd := false } }) ∧
      (fetchSyl s x.toNat = .ok w → decodeWord w = .ok (.sNop cls) → (frameOf w).ginv = false → (frameOf w).gpred = 0 →
        RunsTo (.bCalli a cls) s [.s a] [.s 1] (fun u => wrS 1 1 nb (goes x.toNat u))) ∧
      (∀ e, fetchSyl s x.toNat = .error e → Runs s [.s a] [.s 1] → exec (.bCalli a cls) s = .next (trapHere e s)) ∧
      (fetchSyl s x.toNat = .ok w →
        ¬(decodeWord w = .ok (.sNop cls) ∧ (frameOf w).ginv = false ∧ (frameOf w).gpred = 0) → Runs s [.s a] [.s 1] →
        exec (.bCalli a cls) s = .next (trapHere { cause := .sigclass, addr := x.toNat } s))) ∧
    (¬good →
      (Runs s [.s a] [] → exec (.bRet a) s = .next (trapHere { cause := .badtarget, addr := x.toNat } s) ∧
        exec (.bJmpi a) s = .next (trapHere { cause := .badtarget, addr := x.toNat } s)) ∧
      (Runs s [.s a] [.s 1] →
        exec (.bCalli a cls) s = .next (trapHere { cause := .badtarget, addr := x.toNat } s)))

/-- R108: B.LOOP and B.PLOOP. The traps COUNT, RANGE and PIPE in their order; a trip count of 0 starts nothing and
goes on after the bundle at the end; else the level is set and, for B.PLOOP, p12 becomes 1 and p13 to p15 become 0.
And R109: the end test. Levels are tested from 2 down to 0; a level that is not active or ends elsewhere is passed
over. A plain level goes back to LS, with REM one less, while REM > 0 and no pre-emption is pending. A pipelined level
shifts its stage predicates, starts an iteration into p12 under the same condition, and goes back while any of p12 to
p(12+STG) is 1. A level that does not go back is no longer active, and DRAINED says whether iterations were left. The
end of a bundle that took no branch, runs no repeat and is no handler's makes the test of levels 2, 1 and 0 in this
order, before its results land: the level that goes back gives the next bundle, and nb is next when none does. The
model's readings: log 23 (where the write of p12 to p15 by B.PLOOP stands), log 34, log 88. -/
def Obligations.Loops : Prop :=
  (∀ (s : State) (l : Fin 3) (k1 : Fin 4) (a : SReg) (off : BitVec 30) (pipe : Bool),
    let i : Instr := if pipe then .bPloop l k1 a off else .bLoop l a off
    let n := (regS s a).toNat
    let e := (((s.core.issue.ba : Int) + 8 * off.toInt) % 2 ^ 56).toNat
    let nb := s.core.issue.nb
    let other : Prop := pipe = true ∧ ∃ m : Fin 3, m ≠ l ∧ s.core.arch.loops[m].act = true ∧ s.core.arch.loops[m].pipe = true
    let traps (k : Nat) : Prop := Runs s [.s a] [] → exec i s = .next (trapHere { cause := .loop, detail := k } s)
    (2 ^ 32 < n → traps 1) ∧ (n ≤ 2 ^ 32 → e < nb → traps 2) ∧ (n ≤ 2 ^ 32 → nb ≤ e → other → traps 3) ∧
    (n ≤ 2 ^ 32 → nb ≤ e → ¬other →
      (0 < n → RunsTo i s [.s a] [] fun u => { u with core := { u.core with
        pc := BitVec.ofNat 56 nb
        issue := { u.core.issue with taken := true }
        arch := { u.core.arch with
          loops := u.core.arch.loops.set l ⟨BitVec.ofNat 32 (n - 1), true, pipe, if pipe then k1 else 0, false,
            BitVec.ofNat 56 nb, BitVec.ofNat 56 e⟩
          p := if pipe then u.core.arch.p &&& 0x0FFF ||| 0x1000 else u.core.arch.p } } }) ∧
      (n = 0 → ∀ ws, fetchWords s e 13 = .ok ws → RunsTo i s [.s a] [] fun u => { u with core := { u.core with
        issue := { u.core.issue with nb := e + 8 * ws.length } } }) ∧
      (n = 0 → ∀ t, fetchWords s e 13 = .error t → Runs s [.s a] [] → exec i s = .next (trapHere t s)))) ∧
  (∀ (a : Arch) (ba : Nat) (pre : Bool) (n : Fin 3) (t : List (Fin 3)),
    let l := a.loops[n]
    let start := l.rem ≠ 0 ∧ pre = false
    let rem := if start then l.rem - 1 else l.rem
    ((l.act = false ∨ l.le.toNat ≠ ba) → endTest ba pre (n :: t) a = endTest ba pre t a) ∧
    (l.act = true → l.le.toNat = ba → l.pipe = false →
      (start → endTest ba pre (n :: t) a = ({ a with loops := a.loops.set n { l with rem := rem } }, some l.ls)) ∧
      (¬start → endTest ba pre (n :: t) a =
        endTest ba pre t { a with loops := a.loops.set n { l with act := false, drained := l.rem != 0 } })) ∧
    (l.act = true → l.le.toNat = ba → l.pipe = true → ∃ p : Preds,
      (∀ i < 16, p.getLsbD i = if i = 12 then decide start
        else if 12 < i ∧ i ≤ 12 + l.stg.val then a.p.getLsbD (i - 1) else a.p.getLsbD i) ∧
      let again : Prop := ∃ i, 12 ≤ i ∧ i ≤ 12 + l.stg.val ∧ p.getLsbD i = true
      (again → endTest ba pre (n :: t) a = ({ a with loops := a.loops.set n { l with rem := rem }, p := p }, some l.ls)) ∧
      (¬again → endTest ba pre (n :: t) a = endTest ba pre t
        { a with loops := a.loops.set n { l with rem := rem, act := false, drained := rem != 0 }, p := p })) ∧
    endTest ba pre [] a = (a, none)) ∧
  (∀ s : State, s.core.issue.finished = false → s.core.issue.taken = false → s.core.arch.rpc.act = false →
    s.core.hnd = false →
    let r := endTest s.core.issue.ba (preOf s) [2, 1, 0] s.core.arch
    finishBundle s = landDue (advance { s with core := { s.core with
      arch := r.1, pc := r.2.getD (BitVec.ofNat 56 s.core.issue.nb), left := s.core.left - 1, occ := occNext s.core.occ
      issue := { s.core.issue with finished := true } } }))

/-- R111: B.REP. COUNT, a target that cannot be fetched, TARGET and a target that is no bundle trap in that order; N =
0 goes on after the target; else the repeat begins with ITER 0, COUNT N and ACT 1, and the target is the next bundle.
At the end of an iteration's bundle, ITER rises and the same bundle is next, until the last one clears ACT. An
iteration issues its syllables with each register field of kind S or V that FMASK selects, in format A or I, raised by
ITER·STRIDE, and no other bit changed; a number raised past the strand's allotment, s55 or v27 traps ALLOT, unless the
syllable's guard is false. The model's readings: logs 27, 88. -/
def Obligations.RepeatPrefix : Prop :=
  ∀ (s : State) (reg : Option SReg) (cnt : BitVec 12) (str : BitVec 3) (fm : BitVec 4),
    let i : Instr := .bRep reg cnt str fm
    let nb := s.core.issue.nb
    let srcs : List Reg := match reg with
      | none => []
      | some r => [.s r]
    let n : Nat := match reg with
      | none => cnt.toNat
      | some r => (regS s r).toNat
    let traps (t : Trap) : Prop := Runs s srcs [] → exec i s = .next (trapHere t s)
    let barred (ws : List Nat) : Prop := (∃ w ∈ ws, assigned (bits w 56 49) = true ∧ classOf (bits w 56 49) = .b) ∨
      ∃ l : Fin 3, s.core.arch.loops[l].act = true ∧
        (s.core.arch.loops[l].le.toNat = nb ∨ s.core.arch.loops[l].le.toNat = s.core.issue.ba)
    (reg.isSome = true → 65535 < n → traps { cause := .rep, detail := 1 }) ∧
    (n ≤ 65535 →
      (∀ t, fetchWords s nb 13 = .error t → traps t) ∧
      (∀ ws, fetchWords s nb 13 = .ok ws →
        (barred ws → traps { cause := .rep, detail := 2 }) ∧
        (¬barred ws →
          (n = 0 → RunsTo i s srcs [] fun u => { u with core := { u.core with
            issue := { u.core.issue with nb := u.core.issue.nb + 8 * ws.length } } }) ∧
          (∀ t, 0 < n → checkWords s.die.feat ws = .error t → traps t) ∧
          (∀ l, 0 < n → checkWords s.die.feat ws = .ok l →
            decodeLimit s < weightSum l + sustained (occNext s.core.occ) → traps (illBundle 8)) ∧
          (∀ l, 0 < n → checkWords s.die.feat ws = .ok l →
            weightSum l + sustained (occNext s.core.occ) ≤ decodeLimit s →
            RunsTo i s srcs [] fun u => { u with core := { u.core with
              pc := BitVec.ofNat 56 nb, issue := { u.core.issue with taken := true }
              arch := { u.core.arch with rpc := ⟨0, BitVec.ofNat 16 n, true, str, fm⟩ } } })))) ∧
    (∀ r, s.core.arch.rpc = r → r.act = true → s.core.issue.taken = false → s.core.issue.finished = false →
      s.core.arch.inflight = [] →
      (r.iter.toNat + 1 < r.count.toNat →
        (finishBundle s).core.pc = BitVec.ofNat 56 s.core.issue.ba ∧
        (finishBundle s).core.arch.rpc = { r with iter := r.iter + 1 }) ∧
      (r.count.toNat ≤ r.iter.toNat + 1 →
        (finishBundle s).core.pc = BitVec.ofNat 56 nb ∧ (finishBundle s).core.arch.rpc = { r with act := false })) ∧
    (∀ (k : Option Kernel) (delta w : Nat), w < 2 ^ 64 →
      let u := usesOf (bits w 56 49) (bits w 48 44)
      let fields : List (Nat × Use × Nat) := match fmtOf (bits w 56 49) with
        | .a => [(0, u.d, 37), (1, u.a, 30), (2, u.b, 23), (3, u.c, 16)]
        | .i => [(0, u.d, 37), (1, u.a, 30)]
        | .j | .e => []
      let num (f : Nat × Use × Nat) : Nat := w / 2 ^ f.2.2 % 128
      let moves (f : Nat × Use × Nat) : Bool :=
        fm.getLsbD f.1 && (f.2.1 == .rd || f.2.1 == .wr || f.2.1 == .rw) && num f < 96
      let past (f : Nat × Use × Nat) : Prop :=
        let m := num f + delta
        if num f < 64 then 55 < m ∨ (10 ≤ m ∧ 9 + (k.elim 46 (·.regs)) < m) else 91 < m ∨ 64 + (k.elim 28 (·.vregs)) ≤ m
      (0 < delta → (∃ f ∈ fields, moves f = true ∧ past f) → ∃ t, stepWord k delta fm w = .error t ∧ t.cause = .allot) ∧
      ((delta = 0 ∨ ∀ f ∈ fields, moves f = true → ¬past f) →
        stepWord k delta fm w = .ok (w + ((fields.filter moves).map fun f => delta * 2 ^ f.2.2).sum))) ∧
    (∀ (ba w : Nat) (l : List Slotted), s.core.arch.rpc.act = true → fetchWords s ba 13 = .ok [w] →
      let r := s.core.arch.rpc
      let z := stepWord (curKernel s) (r.iter.toNat * r.stride.toNat) r.fmask w
      bundleAt s ba = .ok l →
        (∃ w', z = .ok w' ∧ checkWords s.die.feat [w'] = .ok l) ∨
        ((∃ t, z = .error t) ∧ guardTrue s (frameOf w) = false ∧ checkWords s.die.feat [w] = .ok l))

/-- R114: B.TRAP takes the trap SWTRAP with DETAIL 0 and its code in ARG; its weight is 1 and its operands are the
code alone. Under a false guard its bundle runs with no syllable of it. -/
def Obligations.SoftwareTrap : Prop :=
  ∀ (s : State) (code : BitVec 16),
    (Instr.bTrap code).enc = some ⟨0x54, 0, ⟨0, 0, 0, 0, code.toNat, 0, 0, 0⟩⟩ ∧ weightOf 0x54 0 = 1 ∧
    exec (.bTrap code) s = .next (trapHere { cause := .swtrap, arg := code.toNat } s) ∧
    (trapHere { cause := .swtrap, arg := code.toNat } s).core.issue.status = .trapped ∧
    wbits (Trap.info { cause := .swtrap, arg := code.toNat }) 5 0 = 14 ∧
    wbits (Trap.info { cause := .swtrap, arg := code.toNat }) 15 8 = 0 ∧
    wbits (Trap.info { cause := .swtrap, arg := code.toNat }) 63 20 = code.toNat ∧
    (∀ x : Slotted, x.instr = .bTrap code → bundleAt s s.core.pc.toNat = .ok [x] →
      let s1 := beginIssue s.core.pc.toNat 1 s
      guardTrue s1 x.frame = false → issueBundle s = runBundle [x] [] s1)

/-! The checkpoint, suspension points, tags and groups (spec/02 R19, spec/10 R204, spec/12, spec/15 to 17). -/

/-- R19, R110, R112, R231, R273, R289, R294, R113: a suspension point that meets no trap ends its bundle, with the
state after it as the strand's, and its suspension begins; inside an active loop it traps LOOP, SUSPEND. Its own
checks: the crew of B.RVZ and its slot, the queue and its quota of B.YIELD, the crew of B.WAIT.crewq, the stream of
B.WAIT.recv, and the watch of B.MWAIT, whose word's address is the one R294 translates. B.END inside a handler is
exempt from R110. And R112, R231, R272, R273, R286, R294, R329: where a suspension point traps by its own checks:
B.RVZ, UNCREWED and MASK; B.YIELD, QNUM and QUOTA; B.WAIT.crewq, UNCREWED; B.WAIT.recv, STREAM; B.MWAIT, what its
word's checks give. The model's readings: log 34. -/
def Obligations.SuspensionPointsAndTraps : Prop :=
  (∀ (s : State) (a b c : SReg) (q : Fin 64) (cq : Fin 4) (n slot : Fin 16) (k : BitVec 8) (pa : Nat),
    let run (r : SReg) : BitVec 32 := BitVec.ofNat 32 (regS s r).toNat
    let w := (regS s a).toNat % 2 ^ 56
    let looping : Prop := ∃ l : Fin 3, s.core.arch.loops[l].act = true
    let crewedNow : Prop := s.core.crewid ≠ 0xFF
    let placed (u : State) : State := { u with die := { u.die with
      queues := u.die.queues.set q { u.die.queues[q] with reserved := u.die.queues[q].reserved + 1 } } }
    (∀ p ∈ ([
      (.bRvz a slot k, [.s a], .rvz slot k, run a,
        crewedNow ∧ rvzBad (crewOf s s.core.crewid.toNat).rvz[slot] (strandNum s.core) k = false, id),
      (.bYield a q, [.s a], .yield q, run a, queueUsable s.die (partNum s) q = true ∧ queueRoom s.die q = true, placed),
      (.bWaitTime a b, [.s a, .s b], .waitTime (regS s a).toNat, run b, True, id),
      (.bWaitMbox b, [.s b], .waitMbox, run b, True, id),
      (.bWaitCrewq b cq, [.s b], .waitCrewq cq, run b, crewedNow, id),
      (.bWaitRecv b n, [.s b], .waitRecv n, run b, s.die.recv[n].isSome = true, id),
      (.bMwait a b c, [.s a, .s b, .s c], .mwait w pa (regS s c), run b, watchAt s w = .ok pa, id),
      (.bPhase b, [.s b], .phase, run b, True, id)] : List (Instr × List Reg × Susp × BitVec 32 × Prop × (State → State))),
      p.2.2.2.2.1 →
      (¬looping → RunsTo p.1 s p.2.1 [] fun u => suspend p.2.2.1 p.2.2.2.1 (p.2.2.2.2.2 u)) ∧
      (looping → Runs s p.2.1 [] → exec p.1 s = .next (trapHere { cause := .loop, detail := 4 } s))) ∧
    (¬looping ∨ s.core.hnd = true → RunsTo .bEnd s [] [] (suspend .done 0)) ∧
    (looping → s.core.hnd = false → Runs s [] [] → exec .bEnd s = .next (trapHere { cause := .loop, detail := 4 } s))) ∧
  (∀ (s : State) (a b c : SReg) (q : Fin 64) (cq : Fin 4) (n slot : Fin 16) (k : BitVec 8) (e : Trap),
    let w := (regS s a).toNat % 2 ^ 56
    let traps (i : Instr) (l : List Reg) (t : Trap) : Prop := Runs s l [] → exec i s = .next (trapHere t s)
    (s.core.crewid = 0xFF → traps (.bRvz a slot k) [.s a] { cause := .rvz, detail := 3 } ∧
      traps (.bWaitCrewq b cq) [.s b] { cause := .group, detail := 2 }) ∧
    (s.core.crewid ≠ 0xFF → rvzBad (crewOf s s.core.crewid.toNat).rvz[slot] (strandNum s.core) k = true →
      traps (.bRvz a slot k) [.s a] { cause := .rvz, detail := 1 }) ∧
    (queueUsable s.die (partNum s) q = false → traps (.bYield a q) [.s a] { cause := .queue, detail := 1, arg := q.val }) ∧
    (queueUsable s.die (partNum s) q = true → queueRoom s.die q = false →
      traps (.bYield a q) [.s a] { cause := .queue, detail := 3, arg := q.val }) ∧
    (s.die.recv[n] = none → traps (.bWaitRecv b n) [.s b] { cause := .link, detail := 1, arg := n.val }) ∧
    (w % 8 ≠ 0 → traps (.bMwait a b c) [.s a, .s b, .s c] { cause := .memory, detail := 1 }) ∧
    (watchAt s w = .error e → traps (.bMwait a b c) [.s a, .s b, .s c] e))

/-- R21, R33, R20: what a suspension does once its bundle has ended and nothing holds it: with no result that traps,
no tag in error and no matrix command of its segment unfinished, every result in flight lands, the segment commits
and, the engines done, the strand leaves its core: its record is written back with the pc after the point, the landed
s2, s3 and s4 and the stated run, and the core holds no strand. Results pending only because their access was withheld
land after the commit. And R273, R112, R289, R295, R113: where the record so written back stands. B.YIELD appends it
to its queue; B.WAIT.time, when its time is not past, and B.PHASE wait with it; B.MWAIT arms its watch with it while
the word's performed value is the expected one; B.END of an uncrewed strand drops it, and that of a crewed one retires
its member. The model's readings: logs 30, 31. -/
def Obligations.SuspensionCommits : Prop :=
  (∀ (s : State) (p : Susp) (run : BitVec 32), trapInFlight (settleAsOf s).core.arch = none →
    errTag (settleAsOf s).core (2 ^ 64 - 1) = none → matrixPending (settleAsOf s).core = false →
    ((settleAsOf s).core.arch.inflight.any fun e => lateResult e.land) = false →
    let s1 := landAll (settleAsOf s)
    let s2 := landAll (commitSegment s1.core.pc s1)
    commitSuspension p run s = finishSuspension p run { s2 with core := { s2.core with wait := some (.susp p run) } }) ∧
  (∀ (s : State) (p : Susp) (run : BitVec 32) (r : Record), s.core.record = some r → enginesDone s.core = true →
    s.core.stampWait = false → errTag s.core (2 ^ 64 - 1) = none → lateSuspTrap s p = none →
    finishSuspension p run s =
      settleContext (leaveCore p run r { s with core := { s.core with geo := [] } })) ∧
  (∀ (s : State) (r : Record) (run : BitVec 32), writtenBack s r run = { r with
    pc := BitVec.ofNat 64 s.core.pc.toNat, arg0 := s.core.arch.s[2], arg1 := s.core.arch.s[3], arg2 := s.core.arch.s[4]
    run := run }) ∧
  (∀ s : State, (idleCore s).core.record = none ∧ (idleCore s).core.wait = none ∧ (idleCore s).die.mem = s.die.mem) ∧
  (∀ (s : State) (p : Susp) (run : BitVec 32) (r : Record),
    let x : Cont := ⟨writtenBack s r run, s.core.strand, s.core.q, none⟩
    let left (p : Susp) : State := leaveCore p run r s
    (left p).core.record = none ∧ (left p).core.wait = none ∧
    (∀ q : Fin 64, (left (.yield q)).die.queues[q].hw ++ (left (.yield q)).die.queues[q].overflow =
      s.die.queues[q].hw ++ s.die.queues[q].overflow ++
        [{ x with q := q, record := x.record.setRank (wbits s.die.queues[q].cfg 3 0) }]) ∧
    (∀ n, s.die.earliest < n → ⟨.time n, x⟩ ∈ (left (.waitTime n)).die.waiters) ∧
    ⟨.phase, x⟩ ∈ (left .phase).die.waiters ∧
    (∀ (va pa : Nat) (e : Word), natOf ((List.range 8).map fun k => performedByte s.die (pa + k)) = e.toNat →
      (left (.mwait va pa e)).die.watches = s.die.watches ++ [⟨va, pa, e, x, false⟩]) ∧
    (crewed s.core = false → left .done = idleCore (handOver s)) ∧
    (crewed s.core = true → left .done =
      (idleCore (handOver s)).upCrew s.core.crewid.toNat fun w => w.retire (strandNum s.core)))

/-- R225, R292, R345, R274: the syllables that commit or withhold without leaving the core. B.CKPT, once its bundle
has ended and no matrix command of the segment is unfinished, commits; B.CBAR commits and arrives; M.FENCE.stamp waits
for its commit; B.SPAWN withholds the record it read from memory and reserves its place. With each, where it traps. -/
def Obligations.CheckpointsAndSpawns : Prop :=
  ∀ (s : State) (a d : SReg) (q : Fin 64) (ps : List Piece) (b : List Byte),
    (RunsTo .bCkpt s [] [] fun u => tryCheckpoint (beginWait .ckpt u)) ∧
    (∀ u : State, matrixPending u.core = false →
      let c := commitSegment u.core.pc u
      tryCheckpoint u = { c with core := { c.core with
        wait := if c.core.stampWait then some .stamp else none, stampWait := false } }) ∧
    (s.core.crewid ≠ 0xFF → (crewOf s s.core.crewid.toNat).memb.toNat.testBit (strandNum s.core) = true →
      RunsTo (.bCbar d) s [] [.s d] fun u => resumeWait (.cbarCommit d) (beginWait (.cbarCommit d) u)) ∧
    (∀ u : State, matrixPending u.core = false →
      resumeWait (.cbarCommit d) u = arriveBarrier d (commitSegment u.core.pc u)) ∧
    (s.core.crewid = 0xFF → Runs s [] [.s d] → exec (.bCbar d) s = .next (trapHere { cause := .barrier, detail := 1 } s)) ∧
    (s.core.crewid ≠ 0xFF → (crewOf s s.core.crewid.toNat).memb.toNat.testBit (strandNum s.core) = false →
      Runs s [] [.s d] → exec (.bCbar d) s = .next (trapHere { cause := .barrier, detail := 2 } s)) ∧
    (RunsTo .mFenceStamp s [] [] (beginWait .stampCommit)) ∧
    (let va := (regS s a).toNat % 2 ^ 56
     let l := loadAt s 64 64 [va]
     (l = .got ps b none → spadStall s.core false (spadRanges ps) = none → spawnTrap s q (recordOf b) = none →
       RunsTo (.bSpawn a q) s [.s a] [] (holdSpawn q (recordOf b) va)) ∧
     (∀ t, l = .trap t → Runs s [.s a] [] → exec (.bSpawn a q) s = .next (trapHere t s)) ∧
     (∀ t, l = .got ps b none → spadStall s.core false (spadRanges ps) = none → spawnTrap s q (recordOf b) = some t →
       Runs s [.s a] [] → exec (.bSpawn a q) s = .next (trapHere t s))) ∧
    (∀ (r : Record) (va : Nat) (u : State),
      (holdSpawn q r va u).core.held = u.core.held ++ [.spawn q r va] ∧
      (holdSpawn q r va u).die.queues[q].reserved = u.die.queues[q].reserved + 1 ∧
      (holdSpawn q r va u).die.queues[q].hw = u.die.queues[q].hw ∧ (holdSpawn q r va u).die.mem = u.die.mem)

/-- R204: B.WANY, B.WALL, B.FFR and C.TCLR over the mask m in reg(A). An idle tag traps IDLETAG; a tag of a command
held by the segment traps HELDWAIT; B.WANY is ready when TAGDONE and m share a bit, B.WALL when TAGDONE holds all of
m, and until then it freezes; a fault that the wait observes traps FAULTED, else D := TAGDONE and m. B.FFR gives the
lowest finished tag of m, or −1. C.TCLR clears TAGERR for the tags of m, unless one is outstanding. The model's
readings: log 29 (which writes a wait makes known, and that a cleared tag still names those of its commands). -/
def Obligations.TagWaits : Prop :=
  ∀ (s : State) (d a : SReg),
    let m := regS s a
    let done := tagBits (·.done) s.core
    let tag (p : Fin 64 → Prop) (t : Fin 64) : Prop := m.toNat.testBit t = true ∧ p t ∧ ∀ u < t, ¬(m.toNat.testBit u = true ∧ p u)
    let idle (t : Fin 64) : Prop := s.core.tags[t].out = 0 ∧ s.core.tags[t].done = false
    let held (t : Fin 64) : Prop := heldTag s.core t = true
    let failed (t : Fin 64) : Prop := s.core.tags[t].done = true ∧ s.core.tags[t].err = true
    let none' (p : Fin 64 → Prop) : Prop := ∀ t : Fin 64, ¬(m.toNat.testBit t = true ∧ p t)
    (∀ p ∈ ([(.bWany d a, done &&& m ≠ 0), (.bWall d a, done &&& m = m)] : List (Instr × Prop)),
      (∀ t, tag idle t → Runs s [.s a] [.s d] → exec p.1 s = .next (trapHere { cause := .copy, detail := 7, arg := t.val } s)) ∧
      (∀ t, none' idle → tag held t → Runs s [.s a] [.s d] →
        exec p.1 s = .next (trapHere { cause := .copy, detail := 6, arg := t.val } s)) ∧
      (∀ t, none' idle → none' held → p.2 → tag failed t → Runs s [.s a] [.s d] →
        exec p.1 s = .next (trapHere (faultedTrap s.core t) s)) ∧
      (none' idle → none' held → ¬p.2 → Runs s [.s a] [.s d] → exec p.1 s = .next (s.ended (.frozen .scoreboard))) ∧
      (none' idle → none' held → p.2 → none' failed →
        RunsTo p.1 s [.s a] [.s d] fun u => wrS d 1 (done &&& m) (observe (done &&& m) u))) ∧
    (∀ t, tag (fun t => s.core.tags[t].err = true) t → Runs s [.s a] [.s d] →
      exec (.bFfr d a) s = .next (trapHere (faultedTrap s.core t) s)) ∧
    (none' (fun t => s.core.tags[t].err = true) →
      (∀ t, tag (fun t => s.core.tags[t].done = true) t → RunsTo (.bFfr d a) s [.s a] [.s d] fun u =>
        wrS d 1 (BitVec.ofNat 64 t.val) (observe (BitVec.ofNat 64 (2 ^ t.val)) u)) ∧
      (none' (fun t => s.core.tags[t].done = true) →
        RunsTo (.bFfr d a) s [.s a] [.s d] (wrS d 1 (BitVec.ofInt 64 (-1))))) ∧
    (∀ t, tag (fun t => s.core.tags[t].out ≠ 0) t → Runs s [.s a] [] →
      exec (.cTclr a) s = .next (trapHere { cause := .copy, detail := 8, arg := t.val } s)) ∧
    (none' (fun t => s.core.tags[t].out ≠ 0) → ∃ v : Vector TagSt 64,
      (∀ t : Fin 64, v[t] = if m.toNat.testBit t then { TagSt.clear with writes := s.core.tags[t].writes }
        else s.core.tags[t]) ∧
      RunsTo (.cTclr a) s [.s a] [] fun u => { u with core := { u.core with tags := v } })

/-- R286: B.GROUP. Bits [7:0] of reg(A) name a crew, 0xFF the strand's own: one that the die does not have traps CREW,
and 0xFF of an uncrewed strand UNCREWED. The query gives MEMB, NEXT, LIVE, PEND, EPOCH and the crew's number; form and
dissolve are withheld until the commit, and an empty mask traps EMPTY. -/
def Obligations.Groups : Prop :=
  ∀ (s : State) (d a b : SReg),
    let x := (regS s a).toNat % 256
    let c := if x = 255 then s.core.crewid.toNat else x
    let w := crewOf s c
    let k : BitVec 8 := BitVec.ofNat 8 (regS s b).toNat
    let known : Prop := if x = 255 then s.core.crewid ≠ 0xFF else x < s.die.ncrew
    let hold (h : Held) (u : State) : State := { u with core := { u.core with held := u.core.held ++ [h] } }
    let t : Trap := { cause := .group, detail := if x = 255 then 2 else 1 }
    (known →
      RunsTo (.bGroupQuery d a) s [.s a] [.s d] (wrS d 1 (BitVec.ofNat 64 (w.memb.toNat + 2 ^ 8 * w.next.toNat
        + 2 ^ 16 * w.live.toNat + 2 ^ 24 * w.pend.toNat + 2 ^ 32 * w.epoch.toNat + 2 ^ 48 * (c % 16)))) ∧
      (k ≠ 0 → RunsTo (.bGroupForm a b) s [.s a, .s b] [] (hold (.form c k))) ∧
      (k = 0 → Runs s [.s a, .s b] [] → exec (.bGroupForm a b) s = .next (trapHere { cause := .group, detail := 3 } s)) ∧
      RunsTo (.bGroupDissolve a) s [.s a] [] (hold (.dissolve c))) ∧
    (¬known → (Runs s [.s a] [.s d] → exec (.bGroupQuery d a) s = .next (trapHere t s)) ∧
      (Runs s [.s a, .s b] [] → exec (.bGroupForm a b) s = .next (trapHere t s)) ∧
      (Runs s [.s a] [] → exec (.bGroupDissolve a) s = .next (trapHere t s)))

/-! Taking a trap (spec/12 R224, R227, R228; spec/18 R299 to R304). -/

/-- R227, R224, R228, R300, R303, R304: taking a trap sets TRAPPC and TRAPINFO, rolls the core back, and then retries,
vectors or faults. After the rollback the registers, control registers and results in flight are those of the
checkpoint, the core stands at CKPTPC, nothing withheld is left, the limits are counted anew, the history is empty and
memory is as it was but for the rings of run queues, which hold a record that a returned entry makes runnable (R271).
A retry cause issues again with RETRIED set; another cause goes to the kernel's vector with HND
set; with RETRIED or HND set already, or without a vector, the context faults, and CONTEXT_FAULT carries the address of
a copy's fault (R320). A demand fault halts (R321). TRAPINFO
holds CAUSE in [5:0], STEP in [6], FORM in [7], and DETAIL, SYL and ARG, or the address. The model's readings: logs
62, 82. -/
def Obligations.TakingATrap : Prop :=
  (∀ (s : State) (t : Trap) (ba : Nat),
    let s0 : State := { s with core := { s.core with trappc := BitVec.ofNat 56 ba, trapinfo := t.info } }
    let r := rollback s0
    let stop (u : State) : State :=
      { u with core := { u.core with issue := { u.core.issue with status := .trapped } } }
    let core (f : Core → Core) : State := { r with core := f r.core }
    let fatal : Prop := t.cause = .badcont ∨ (t.cause = .uecc ∧ t.detail = 8)
    let again : Prop := t.cause = .check ∨ t.cause = .mirror ∨ (t.cause = .uecc ∧ t.detail ≠ 8)
    let plain : Prop := ¬(t.cause = .queue ∧ t.detail = 3)
    (t.cause = .demand → takeTrap t ba s = stop (demandFault t.addr t.kind r)) ∧
    (fatal → takeTrap t ba s = stop (contextFault 0 r)) ∧
    (again → r.core.retried = true → takeTrap t ba s = stop (contextFault 0 r)) ∧
    (again → r.core.retried = false → ∃ e, takeTrap t ba s = stop ((core fun c => { c with retried := true }).post e)) ∧
    (t.cause ≠ .demand → ¬fatal → ¬again → plain →
      (r.core.hnd = true ∨ vectorOf r = 0 → takeTrap t ba s = stop (contextFault (faultVa t r.core) r)) ∧
      (r.core.hnd = false → vectorOf r ≠ 0 → takeTrap t ba s =
        stop (core fun c => { c with hnd := true, pc := BitVec.ofNat 56 (vectorOf r) })))) ∧
  (∀ s : State,
    let r := rollback s
    r.core.arch = s.core.ck ∧ r.core.pc = s.core.ckptpc ∧ r.core.held = [] ∧ r.core.popped = [] ∧
    r.core.undo = [] ∧ r.core.seg = ⟨0, 0, 0, 0, 0⟩ ∧ r.core.hist = [0, 0, 0, 0, 0, 0, 0] ∧ r.core.wait = none ∧
    r.core.spad = s.core.undo.foldl (fun m p => memSetN m p.1 p.2) s.core.spad ∧
    r.core.trappc = s.core.trappc ∧ r.core.trapinfo = s.core.trapinfo ∧ r.core.hnd = s.core.hnd ∧
    r.core.retried = s.core.retried ∧
    (∀ a : Nat, memOk s.die.mem = true → ¬ringed s.die a → memGet r.die.mem a = memGet s.die.mem a)) ∧
  (∀ t : Trap,
    let f := wbits t.info
    f 5 0 = t.cause.code ∧ f 6 6 = t.step.toNat ∧ f 7 7 = t.cause.addrForm.toNat ∧
    (t.cause.addrForm = false → f 15 8 = t.detail % 256 ∧ f 19 16 = t.syl % 16 ∧ f 63 20 = t.arg % 2 ^ 44) ∧
    (t.cause.addrForm = true → f 63 8 = t.addr % 2 ^ 56))

/-! The V class (spec/07 R116 to R136). -/

/-- R121, R116: the law of every masked element-wise result, k bundles on. For an element e below n = ROWS·COLS, an
enabled one (mask lane floor(e·w/4)) is f(e) cut to w bytes; a disabled one is 0 under ZERO or for v31, else the
element of D as it stood at issue; elements from n on are 0. The events are those of the enabled elements. With R123,
a syllable whose type's width differs from 2^WB traps VECTOR, WIDTH, and one that finds SHAPE not valid VECTOR, SHAPE.
-/
def Obligations.MaskedElements : Prop :=
  (∀ (s t : State) (u : StatUnit) (w k : Nat) (m : VMod) (d : VReg) (f : Nat → Nat × Ev), w ∈ [1, 2, 4, 8] →
    shCount s * w ≤ 1024 →
    let on (e : Nat) : Prop := (regM s m.mask).toNat.testBit (e * w / 4) = true
    ∃ (x : VWord) (l : List Ev), velem s u w k m d f t = raise u k l (wrV d k x t) ∧
      (∀ e, e * w < 1024 →
        (e < shCount s → on e → elem x w e = (f e).1 % 2 ^ (8 * w)) ∧
        (e < shCount s → ¬on e → m.zero = true ∨ d.val = 31 → elem x w e = 0) ∧
        (e < shCount s → ¬on e → m.zero = false → d.val ≠ 31 → elem x w e = elem (regV s d) w e) ∧
        (shCount s ≤ e → elem x w e = 0)) ∧
      (∀ v : Ev, v ∈ l ↔ ∃ e, e < shCount s ∧ on e ∧ v = (f e).2)) ∧
  (∀ (s : State) (w : Nat),
    let sh := s.core.arch.shape
    let rows := wbits sh 8 0
    let cols := wbits sh 26 16
    let size := 2 ^ wbits sh 33 32
    let valid : Prop := 1 ≤ rows ∧ rows ≤ 256 ∧ 1 ≤ cols ∧ cols ≤ 1024 ∧ rows * cols * size ≤ 1024
    shCount s = rows * cols ∧
    (size ≠ w → shapeTrap s w = some { cause := .vector, detail := 1 }) ∧
    (size = w → ¬valid → shapeTrap s w = some { cause := .vector, detail := 2 }) ∧
    (size = w → valid → shapeTrap s w = none)) ∧
  (∀ (s : State) (t : EType) (d a : VReg) (b : SV) (m : VMod) (e : Trap), shapeTrap s t.width = some e →
    Runs s [.v a, b.reg, .m m.mask] [.v d] (mergeRead s t.width m d) →
    exec (.vAdd t d a b m) s = .next (trapHere e s) ∧ exec (.vAnd t d a b m) s = .next (trapHere e s))

/-- R122, R124, R125: each element-wise arithmetic entry, when nothing keeps it from issuing, answers the state with
its masked result in flight: latency 2 on the integer types and 4 on floating point, or the fixed figure of its row.
On integers the exact value is narrowed by R69; on floating point it is rounded once by R72. The model's readings: log
58. -/
def Obligations.VectorArithmetic : Prop :=
  ∀ (s : State) (t : EType) (d a : VReg) (b c : SV) (sb : SReg) (m : VMod), shapeTrap s t.width = none →
    let w := t.width
    let k := if t.isInt then 2 else 4
    let x (e : Nat) : Nat := opElem s w (.v a) e
    let y (e : Nat) : Nat := opElem s w b e
    let z (e : Nat) : Nat := opElem s w c e
    let num (i : Int) (r : FRes) : Nat × Ev := if t.isInt then t.narrow m.sat i else t.ffmt.enc m.rm m.sat r
    let exact (i : Int) : Nat × Ev := ((i % (2 ^ (8 * w) : Nat)).toNat, .none)
    let run (i : Instr) (srcs : List Reg) (n : Nat) (f : Nat → Nat × Ev) : Prop :=
      RunsTo i s (srcs ++ [.m m.mask]) [.v d] (velem s .vector w n m d f) (mergeRead s w m d)
    run (.vAdd t d a b m) [.v a, b.reg] k
      (fun e => num (t.int (x e) + t.int (y e)) (fAdd m.rm (t.val (x e)) (t.val (y e)))) ∧
    run (.vSub t d a b m) [.v a, b.reg] k
      (fun e => num (t.int (x e) - t.int (y e)) (fAdd m.rm (t.val (x e)) (t.val (y e)).negate)) ∧
    run (.vMul t d a b m) [.v a, b.reg] k
      (fun e => num (t.int (x e) * t.int (y e)) (fMul (t.val (x e)) (t.val (y e)))) ∧
    run (.vMulh t d a b m) [.v a, b.reg] 2 (fun e => exact (t.int (x e) * t.int (y e) / (2 ^ (8 * w) : Nat))) ∧
    run (.vFma t d a b c m) [.v a, b.reg, c.reg] k (fun e =>
      num (t.int (x e) * t.int (y e) + t.int (z e)) (fMulAdd m.rm (t.val (x e)) (t.val (y e)) (t.val (z e)))) ∧
    run (.vFms t d a b c m) [.v a, b.reg, c.reg] k (fun e =>
      num (t.int (x e) * t.int (y e) - t.int (z e)) (fMulAdd m.rm (t.val (x e)) (t.val (y e)) (t.val (z e)).negate)) ∧
    run (.vFnma t d a b c m) [.v a, b.reg, c.reg] k (fun e =>
      num (t.int (z e) - t.int (x e) * t.int (y e)) (fMulAdd m.rm (t.val (x e)).negate (t.val (y e)) (t.val (z e)))) ∧
    (t.isInt = true →
      run (.vMin t d a b m) [.v a, b.reg] 2 (fun e => (if t.int (y e) < t.int (x e) then y e else x e, .none)) ∧
      run (.vMax t d a b m) [.v a, b.reg] 2 (fun e => (if t.int (x e) < t.int (y e) then y e else x e, .none)) ∧
      run (.vAbs t d a m) [.v a] 2 (fun e => t.narrow m.sat (t.int (x e)).natAbs) ∧
      run (.vNeg t d a m) [.v a] 2 (fun e => t.narrow m.sat (-t.int (x e)))) ∧
    (t.isInt = false →
      run (.vMin t d a b m) [.v a, b.reg] 4 (fun e => pick t false (x e) (y e)) ∧
      run (.vMax t d a b m) [.v a, b.reg] 4 (fun e => pick t true (x e) (y e)) ∧
      (∀ u v, (t.val u).isNan = true ∨ (t.val v).isNan = true → (pick t false u v).1 = t.ffmt.qnan ∧
        (pick t true u v).1 = t.ffmt.qnan) ∧
      run (.vAbs t d a m) [.v a] 4 (absElem t m.sat ∘ x) ∧ run (.vNeg t d a m) [.v a] 4 (negElem t m.sat ∘ x)) ∧
    run (.vClamp t d a b c m) [.v a, b.reg, c.reg] k (fun e => clampElem t (x e) (y e) (z e)) ∧
    run (.vPopc t d a m) [.v a] 2 (fun e => (popcount (8 * w) (x e), .none)) ∧
    run (.vClz t d a m) [.v a] 2 (fun e => (clzN (8 * w) (x e), .none)) ∧
    run (.vRound t d a m) [.v a] k (roundElem t m.rm ∘ x) ∧
    run (.vScale t d a sb m) [.v a, .s sb] k
      (fun e => scaleElem t m (max (-1024) (min (regS s sb).toInt 1024)) (x e)) ∧
    run (.vAvg t d a b m) [.v a, b.reg] 2 (fun e => exact ((t.int (x e) + t.int (y e) + 1) / 2)) ∧
    run (.vAbd t d a b m) [.v a, b.reg] 2 (fun e => t.narrow m.sat (t.int (x e) - t.int (y e)).natAbs)

/-- R126, R128: the bit operations, shifts, funnels, moves and permutations, each of latency 2: the elements as
encodings of 8w bits, a shift count of 8 bits, a funnel count modulo 8w, and an index outside the tile giving 0. -/
def Obligations.VectorBitsAndMoves : Prop :=
  ∀ (s : State) (t : EType) (d a b : VReg) (q c : SV) (sb : SReg) (m : VMod) (step : BitVec 9) (h : Bool),
    shapeTrap s t.width = none →
    let w := t.width
    let n := shCount s
    let x (e : Nat) : Nat := opElem s w (.v a) e
    let y (e : Nat) : Nat := opElem s w q e
    let z (e : Nat) : Nat := opElem s w c e
    let pair (e : Nat) : Nat := x e * 2 ^ (8 * w) + y e
    let at' (r : VReg) (i : Int) : Nat := if 0 ≤ i ∧ i < n then elem (regV s r) w i.toNat else 0
    let run (i : Instr) (srcs : List Reg) (f : Nat → Nat) : Prop :=
      RunsTo i s (srcs ++ [.m m.mask]) [.v d] (velem s .vector w 2 m d fun e => (f e, .none)) (mergeRead s w m d)
    run (.vAnd t d a q m) [.v a, q.reg] (fun e => x e &&& y e) ∧
    run (.vOr t d a q m) [.v a, q.reg] (fun e => x e ||| y e) ∧
    run (.vXor t d a q m) [.v a, q.reg] (fun e => x e ^^^ y e) ∧
    run (.vNot t d a m) [.v a] (fun e => 2 ^ (8 * w) - 1 - x e) ∧
    RunsTo (.vShl t d a q m) s [.v a, q.reg, .m m.mask] [.v d]
      (velem s .vector w 2 m d fun e => t.narrow m.sat (t.int (x e) * (2 ^ (y e % 256) : Nat))) (mergeRead s w m d) ∧
    run (.vShr t d a q m) [.v a, q.reg] (fun e => x e / 2 ^ (y e % 256)) ∧
    run (.vSar t d a q m) [.v a, q.reg]
      (fun e => (sextN (x e) (8 * w) / (2 ^ (y e % 256) : Nat) % (2 ^ (8 * w) : Nat)).toNat) ∧
    run (.vFshl t d a q c m) [.v a, q.reg, c.reg]
      (fun e => pair e * 2 ^ (z e % (8 * w)) / 2 ^ (8 * w) % 2 ^ (8 * w)) ∧
    run (.vFshr t d a q c m) [.v a, q.reg, c.reg] (fun e => pair e / 2 ^ (z e % (8 * w)) % 2 ^ (8 * w)) ∧
    run (.vMov t d a m) [.v a] x ∧
    run (.vBcast t d sb m) [.s sb] (fun _ => (regS s sb).toNat % 2 ^ (8 * w)) ∧
    run (.vIota t d sb m step) [.s sb] (fun e => (((regS s sb).toNat + e * step.toInt) % (2 ^ (8 * w) : Nat)).toNat) ∧
    run (.vPerm t d a b m) [.v a, .v b] (fun e => at' a (elem (regV s b) w e : Nat)) ∧
    run (.vSlide t d a sb m) [.v a, .s sb] (fun e => at' a (e + (regS s sb).toInt)) ∧
    run (.vZip t d a b m h) [.v a, .v b]
      (fun e => at' (if e % 2 = 0 then a else b) ((if h then (n + 1) / 2 else 0) + e / 2 : Nat))

/-- R127, R128: compares into masks, selection, the mask operations, and the single elements. A lane of V.CMP is 1
when it holds an element of the tile and the condition holds for every element it holds; a NaN makes every condition
but .ne false. V.EXTR and V.INS take x = (register + idx) mod 1,024; a V.EXTR whose x lies past the register reads no
word of it (R35). V.CMPRS packs the enabled elements. The model's readings: logs 28, 58. -/
def Obligations.VectorMasksAndElements : Prop :=
  ∀ (s : State) (t : EType) (d a : VReg) (q : SV) (m n p : MReg) (sd sb sc : SReg) (cond : Cond) (op : MaskOp)
    (idx : BitVec 9),
    let w := t.width
    let k := if t.isInt then 2 else 4
    let x (e : Nat) : Nat := opElem s w (.v a) e
    let y (e : Nat) : Nat := opElem s w q e
    let holds (e : Nat) : Prop := match orderElem t (x e) (y e) with
      | none => cond = .ne
      | some o => match cond with
        | .eq => o = 0
        | .ne => o ≠ 0
        | .lt | .ltu => o < 0
        | .le | .leu => o ≤ 0
        | .gt | .gtu => 0 < o
        | .ge | .geu => 0 ≤ o
    let sel (r : MReg) (e : Nat) : Bool := (regM s r).toNat.testBit (e * w / 4)
    let tile : List Nat := List.range (shCount s)
    let ix (r : SReg) : Nat := ((regS s r).toNat + idx.toNat) % 1024
    (shapeTrap s w = none →
      (∃ (u : Mask) (l : List Ev), (∀ j < 256, u.toNat.testBit j = true ↔
          (∃ e < shCount s, e * w / 4 = j) ∧ ∀ e < shCount s, e * w / 4 = j → holds e) ∧
        (∀ v ∈ l, v = .none ∨ v = .invalid) ∧
        RunsTo (.vCmp t m a q cond) s [.v a, q.reg] [.m m] (fun v => raise .vector k l (wrM m k u v))) ∧
      RunsTo (.vSel t d a q m) s [.v a, q.reg, .m m] [.v d]
        (wrV d 2 (ofElems w (tile.map fun e => if sel m e then x e else y e))) ∧
      RunsTo (.vExtr t sd a sb idx) s [.v a, .s sb] [.s sd] (wrS sd 2 (if shCount s ≤ ix sb then 0
        else if t.signed then BitVec.ofInt 64 (sextN (elem (regV s a) w (ix sb)) (8 * w))
        else BitVec.ofNat 64 (elem (regV s a) w (ix sb)))) [] (if 1024 ≤ w * ix sb then [.v a] else []) ∧
      (shCount s ≤ ix sc → RunsTo (.vIns t d a sb sc idx) s [.v a, .s sb, .s sc] [.v d] (wrV d 2 (regV s a))) ∧
      (ix sc < shCount s → shCount s * w ≤ 1024 → ∃ v : VWord,
        (∀ e, e * w < 1024 →
          elem v w e = if e = ix sc then (regS s sb).toNat % 2 ^ (8 * w) else elem (regV s a) w e) ∧
        RunsTo (.vIns t d a sb sc idx) s [.v a, .s sb, .s sc] [.v d] (wrV d 2 v)) ∧
      RunsTo (.vCmprs t d a m) s [.v a, .m m] [.v d] (wrV d 2 (ofElems w ((tile.filter (sel m)).map x)))) ∧
    RunsTo (.vMcnt sd m) s [.m m] [.s sd]
      (wrS sd 2 (BitVec.ofNat 64 ((List.range 256).countP (regM s m).getLsbD))) ∧
    (∃ u : Mask, (∀ j < 256, u.toNat.testBit j = true ↔ elem (regV s a) 4 j ≠ 0) ∧
      RunsTo (.vMset m a) s [.v a] [.m m] (wrM m 2 u)) ∧
    RunsTo (.vMand op m n p) s [.m n, .m p] [.m m] (wrM m 2 (match op with
      | .and => regM s n &&& regM s p
      | .or => regM s n ||| regM s p
      | .xor => regM s n ^^^ regM s p
      | .andn => regM s n &&& ~~~regM s p))

/-- R129, R130: the reductions. Each output is the root of the fixed pairwise tree over the enabled elements of its
group, in ascending flat order: the whole tile, one row, one column, or 2^(X+1) elements for V.GMAX. One present child
passes unchanged, and an absent root gives 0. -/
def Obligations.Reductions : Prop :=
  (∀ (s : State) (t : EType) (d a : VReg) (m : VMod) (g : Fin 8) (ab : Bool), shapeTrap s t.width = none →
    let w := t.width
    let k := if t.isInt then 2 else 4
    let leaf (e : Nat) : Option Nat :=
      if e < shCount s ∧ (regM s m.mask).toNat.testBit (e * w / 4) = true then some (elem (regV s a) w e) else none
    let root (op : Nat → Nat → Nat × Ev) (l : List Nat) : Nat × Ev :=
      let r := treeRoot op 10 (l.map leaf)
      (r.1.getD 0, r.2)
    let run (i : Instr) (l : List (Nat × Ev)) : Prop := RunsTo i s [.v a, .m m.mask] [.v d] fun u =>
      raise .vector k (l.map (·.2)) (wrV d k (ofElems w (l.map (·.1))) u)
    let sum (x y : Nat) : Nat × Ev := if t.isInt then t.narrow m.sat (t.int x + t.int y)
      else t.ffmt.enc m.rm m.sat (fAdd m.rm (t.val x) (t.val y))
    let r := shRows s
    let c := shCols s
    let n := 2 ^ (g.val + 1)
    run (.vRsum t d a m) [root sum (List.range (r * c))] ∧
    run (.vRmax t d a m) [root (pick t true) (List.range (r * c))] ∧
    run (.vRmin t d a m) [root (pick t false) (List.range (r * c))] ∧
    run (.vRowsum t d a m) ((List.range r).map fun i => root sum ((List.range c).map fun j => i * c + j)) ∧
    run (.vColsum t d a m) ((List.range c).map fun j => root sum ((List.range r).map fun i => i * c + j)) ∧
    run (.vGmax t d a m g ab) ((List.range ((shCount s + n - 1) / n)).map fun k =>
      gmaxGroup t ab ((List.range' (k * n) n).map leaf))) ∧
  (∀ (op : Nat → Nat → Nat × Ev) (x y : Nat) (l : List (Option Nat)),
    (∀ k, (∀ o ∈ l, o = none) → (treeRoot op k l).1 = none) ∧
    pairUp op (some x :: some y :: l) = (some (op x y).1 :: (pairUp op l).1, (op x y).2.or (pairUp op l).2) ∧
    pairUp op (some x :: none :: l) = (some x :: (pairUp op l).1, (pairUp op l).2) ∧
    pairUp op (none :: some y :: l) = (some y :: (pairUp op l).1, (pairUp op l).2) ∧
    (∀ k, treeRoot op (k + 1) l = ((treeRoot op k (pairUp op l).1).1, (pairUp op l).2.or (treeRoot op k (pairUp op l).1).2)))

/-- R131 to R134: V.CVT converts source elements PART·c on, under the source element's mask, and zeroes what lies
beyond; V.MAXEXP lands the eight block scales in QSL together, three bundles on; V.PXPOSE writes plane p at bytes 64p,
with element i of the group at bit i. -/
def Obligations.VectorConversions : Prop :=
  ∀ (s : State) (src t : EType) (d a : VReg) (part : Fin 8) (m : VMod) (mask : MReg) (sg : Bool) (p : Fin 8) (g : Bool),
    let on (r : MReg) (w e : Nat) : Bool := (regM s r).toNat.testBit (e * w / 4)
    let cvt (dst : CvtDst) (b : Nat) (code : Nat → Nat → Nat × Ev) : Prop :=
      let c := 8192 / b
      let kept : Prop := ∃ i < c, part.val * c + i < shCount s ∧ on m.mask src.width (part.val * c + i) = false
      ∃ (x : VWord) (l : List Ev),
        (∀ i < c,
          let e := part.val * c + i
          let r := x.toNat / 2 ^ (b * i) % 2 ^ b
          (e < shCount s → on m.mask src.width e = true → r = (code e (elem (regV s a) src.width e)).1 % 2 ^ b) ∧
          (e < shCount s → on m.mask src.width e = false →
            r = if m.zero = true ∨ d.val = 31 then 0 else (regV s d).toNat / 2 ^ (b * i) % 2 ^ b) ∧
          (shCount s ≤ e → r = 0)) ∧
        (∀ also, (kept ∧ m.zero = false ∧ d.val ≠ 31 → also = [Reg.v d]) →
          (¬(kept ∧ m.zero = false ∧ d.val ≠ 31) → also = []) →
          RunsTo (.vCvt src d a dst part m) s [.v a, .m m.mask] [.v d] (fun u => raise .vector 3 l (wrV d 3 x u)) also)
    (shapeTrap s src.width = none →
      cvt (.ty t) (8 * t.width) (fun _ x => convert src t m.rm m.sat x) ∧
      cvt .mx8 8 (fun e x =>
        let r := mxElem 6 127 (wbits s.core.arch.qsl (8 * (e / 32) + 7) (8 * (e / 32))) (src.val x)
        ((r.1 % 256).toNat, r.2)) ∧
      cvt .mx4 4 (fun e x =>
        let r := mxElem 2 7 (wbits s.core.arch.qsl (8 * (e / 32) + 7) (8 * (e / 32))) (src.val x)
        ((r.1 % 16).toNat, r.2))) ∧
    (shapeTrap s 4 = none → ∃ (q : Word) (l : List Ev),
      (∀ b < 8, wbits q (8 * b + 7) (8 * b) = (mxScale ((List.range' (32 * b) 32).map fun e =>
        if e < shCount s ∧ on mask 4 e = true then f32.val (elem (regV s a) 4 e) else .fin false 0 0)).1) ∧
      RunsTo (.vMaxexp a mask) s [.v a, .m mask] [] (fun u => raise .vector 3 l (u.flight 3 (.creg .qsl q)))) ∧
    (shapeTrap s 1 = none → ∃ (x : VWord) (l : List Ev),
      (∀ k i, k < 16 → i < 512 →
        let e := 512 * g.toNat + i
        let n := p.val + 1
        let v : Int := if e < shCount s then EType.int (if sg then .i8 else .n8) (elem (regV s a) 1 e) else 0
        x.toNat.testBit (512 * k + i) = (decide (k < n) &&
          ((clampI v (planarLo sg n) (planarHi sg n) % (2 ^ n : Nat)).toNat).testBit k)) ∧
      RunsTo (.vPxpose sg d a p g) s [.v a] [.v d] (fun u => raise .vector 3 l (wrV d 3 x u)))

/-! The F class (spec/09 R162 to R181). -/

/-- R162, R164, R165, R167, R168: the tables and the functions. F.TBLWR's entries land two bundles on, and a table
reads back what it was written; F.TBL interpolates by R165 and rounds to its type; the others answer their masked
results at latencies 8, 10 and 12. A quotient or a root is the exact one cut below its last bit, with the rest sticky,
then rounded once; a power of two with an integral exponent is exact. -/
def Obligations.SpecialFunctions : Prop :=
  (∀ (s : State) (t : EType) (d a : VReg) (sb : SReg) (q : SV) (m : VMod) (k : Fin 4),
    let w := t.width
    let f := t.ffmt
    let x (e : Nat) : FVal := t.val (opElem s w (.v a) e)
    let run (i : Instr) (srcs : List Reg) (n : Nat) (g : Nat → Nat × Ev) : Prop :=
      RunsTo i s (srcs ++ [.m m.mask]) [.v d] (velem s .special w n m d g) (mergeRead s w m d)
    let entry (i : Nat) : Nat := natOf (s.core.arch.tables.getN (1024 * k.val + 4 * i) 4)
    (RunsTo (.fTblwr a k) s [.v a] [] (fun u => u.flight 2 (.table k (regV s a)))) ∧
    (∀ x, (landOne s (.table k x)).core.arch.tables = s.core.arch.tables.setN (1024 * k.val) (toBytes x)) ∧
    (ueccWord s.core 6 (1024 * k.val) 1024 = none →
      RunsTo (.fTblrd d k) s [] [.v d] (wrV d 2 (ofBytes (s.core.arch.tables.getN (1024 * k.val) 1024))) ∧
      (shapeTrap s w = none → run (.fTbl t d a sb m k) [.v a, .s sb] 6 fun e =>
        let r := tblInterp (x e) (f32.val (wbits (regS s sb) 31 0)) (f32.val (wbits (regS s sb) 63 32)) entry
        let y := convert .f32 t m.rm m.sat r.1
        (y.1, r.2.or y.2))) ∧
    (∀ e, ueccWord s.core 6 (1024 * k.val) 1024 = some e → Runs s [] [.v d] →
      exec (.fTblrd d k) s = .next (trapHere e s)) ∧
    (shapeTrap s w = none →
      run (.fRcp t d a m) [.v a] 8 (fRcpOf f m.rm m.sat ∘ x) ∧ run (.fRsq t d a m) [.v a] 8 (fRsqOf f m.rm m.sat ∘ x) ∧
      run (.fSqrt t d a m) [.v a] 10 (fun e => f.enc m.rm m.sat (fSqrtOf (x e))) ∧
      run (.fDiv t d a q m) [.v a, q.reg] 12
        (fun e => f.enc m.rm m.sat (fDivide (x e) (t.val (opElem s w q e)))) ∧
      run (.fExp2 t d a m) [.v a] 10 (fExpOf true f m.rm m.sat ∘ x) ∧
      run (.fLog2 t d a m) [.v a] 10 (fLogOf true f m.rm m.sat ∘ x) ∧
      run (.fExp t d a m) [.v a] 10 (fExpOf false f m.rm m.sat ∘ x) ∧
      run (.fLog t d a m) [.v a] 10 (fLogOf false f m.rm m.sat ∘ x))) ∧
  (∀ (n1 n2 : Bool) (m1 m2 : Nat) (e1 e2 : Int), m2 ≠ 0 → ∃ (k q : Nat) (st : Bool),
    fDivide (.fin n1 m1 e1) (.fin n2 m2 e2) = .num (n1 != n2) q (e1 - e2 - k) st ∧ q * m2 ≤ m1 * 2 ^ k ∧
    m1 * 2 ^ k < (q + 1) * m2 ∧ (st = true ↔ q * m2 ≠ m1 * 2 ^ k)) ∧
  (∀ (m : Nat) (e : Int), m ≠ 0 → ∃ (k r : Nat) (e' : Int) (st : Bool), fSqrtOf (.fin false m e) = .num false r e' st ∧
    2 * e' = e - k ∧ r * r ≤ m * 2 ^ k ∧ m * 2 ^ k < (r + 1) * (r + 1) ∧ (st = true ↔ r * r ≠ m * 2 ^ k)) ∧
  (∀ (f : FFmt) (rm : RM) (sat : Bool) (k : Nat), 0 < k → k < 2048 →
    fExpOf true f rm sat (.fin false k 0) = f.round rm sat false 1 k ∧
    fLogOf true f rm sat (.fin false 1 k) = f.enc rm sat (.num false k 0 false))

/-- R169 to R175, R384: F.GEO reserves one record of v29, which holds 127 for a disabled lane, −128 for one with a
non-finite used coordinate (which traps GEOOP under .strict), else the exact sign of the determinant; a full queue
freezes. The record can be read once it fills; the statistics of the records are appended in the order of their issue,
so one that fills before an older one waits for it. F.GEOIDX gives lane l the index reg(B) + l. The model's readings:
log 86. -/
def Obligations.GeometricPredicates : Prop :=
  ∀ (s : State) (p : GeoPred) (o : GeoOpt) (d a : VReg) (sb : SReg) (m : MReg),
    let srcs : List Reg := ((List.range p.points).map fun j => .v (Fin.ofNat 32 (a.val + j))) ++ [.m m]
    let on (l : Nat) : Prop := (regM s m).toNat.testBit l = true
    let c (l j k : Nat) : Nat := elem (regV s (Fin.ofNat 32 (a.val + j))) 4 (4 * l + k)
    let u (l j k : Nat) : Int := toUnits (c l j k) - toUnits (c l (p.points - 1) k)
    let fine (l : Nat) : Prop := ∀ j < p.points, ∀ k < p.form.dim, (f32.val (c l j k)).isFin = true
    let q (l j : Nat) : Int := u l j 0 * u l j 0 + u l j 1 * u l j 1
    let d2 (a b c d : Int) : Int := a * d - b * c
    let d3 (a b c d e f g h i : Int) : Int := a * d2 e f h i - b * d2 d f g i + c * d2 d e g h
    let sign (x : Int) : BitVec 8 := if x < 0 then -1 else if x = 0 then 0 else 1
    (geoUsed s.core < 8 → (o = .strict → ∀ l < 64, on l → fine l) → ∃ r : GeoRec,
      r.ready = false ∧ r.codes.length = 64 ∧
      (∀ l < 64,
        let code := r.codes[l]?
        (¬on l → code = some 127) ∧ (on l → ¬fine l → code = some (-128)) ∧
        (on l → fine l →
          (p = .orient2 → (o ≠ .sos ∨ d2 (u l 0 0) (u l 0 1) (u l 1 0) (u l 1 1) ≠ 0) →
            code = some (sign (d2 (u l 0 0) (u l 0 1) (u l 1 0) (u l 1 1)))) ∧
          (p = .orient3 → o ≠ .sos → code = some (sign (d3 (u l 0 0) (u l 0 1) (u l 0 2) (u l 1 0) (u l 1 1) (u l 1 2)
            (u l 2 0) (u l 2 1) (u l 2 2)))) ∧
          (p = .incircle → o ≠ .sos → code = some (sign (d3 (u l 0 0) (u l 0 1) (q l 0) (u l 1 0) (u l 1 1) (q l 1)
            (u l 2 0) (u l 2 1) (q l 2)))) ∧
          code = some (BitVec.ofInt 8 (geoLane p (o == .sos)
            ((List.range p.points).map fun j => (List.range p.form.dim).map (c l j))
            ((List.range p.points).map fun j => c l j 3)).1))) ∧
      RunsTo (.fGeo p o a m) s srcs [] (fun v => { v with core := { v.core with geo := v.core.geo ++ [r] } })) ∧
    (8 ≤ geoUsed s.core → (o = .strict → ∀ l < 64, on l → fine l) → Runs s srcs [] →
      exec (.fGeo p o a m) s = .next (s.ended (.frozen .queueFull))) ∧
    (∀ l < 64, o = .strict → on l → ¬fine l → (∀ k < l, on k → fine k) → Runs s srcs [] → ∃ e : Trap,
      e.cause = .geoop ∧ e.arg % 64 = l ∧ exec (.fGeo p o a m) s = .next (trapHere e s)) ∧
    (∃ x : VWord, (∀ i < 256, elem x 4 i =
        if i % 4 = 3 then ((regS s sb).toNat + i / 4) % 2 ^ 32 else elem (regV s a) 4 i) ∧
      RunsTo (.fGeoidx d a sb) s [.v a, .s sb] [.v d] (wrV d 2 x)) ∧
    (∀ (n : Nat) (r : GeoRec), s.core.geo[n]? = some r → r.ready = false →
      (s.core.geo.takeWhile (·.ready)).all (·.counted) = true →
      let count (y : GeoRec) (k : Nat) : Nat := (y.stages.filter (· == k)).length
      let append (c : Core) (y : GeoRec) : Core :=
        statNow .special y.ba [(9, y.nonfinite), (10, count y 0), (11, count y 1), (12, count y 2)] c
      let run := { r with ready := true } :: (s.core.geo.drop (n + 1)).takeWhile (·.ready)
      ((∃ y ∈ s.core.geo.take n, y.ready = false) → exec (.geoRecordFill n) s =
        .next { s with core := { s.core with geo := s.core.geo.set n { r with ready := true } } }) ∧
      ((∀ y ∈ s.core.geo.take n, y.ready = true) → (∀ y ∈ run, y.counted = false) → exec (.geoRecordFill n) s =
        .next { s with core := { run.foldl append s.core with
          geo := s.core.geo.take n ++ run.map (fun y => { y with counted := true }) ++
            s.core.geo.drop (n + run.length) } }))

/-- R177 to R179, R81, R82: F.LSCALE gives the exact scale 2^g and its reciprocal; F.LQ writes the code of each point
and lands LQO with the codes, but for a dup (R163); F.LDQ gives each coordinate times the scale; F.LQCNT reads LQO.
The model's readings: log 59. -/
def Obligations.LatticeOperations : Prop :=
  ∀ (s : State) (t : EType) (d a : VReg) (sd sb : SReg) (m : VMod) (adj : BitVec 4),
    let n := shCount s
    let x (e : Nat) : FVal := f32.val (elem (regV s a) 4 e)
    let q := f32.val (wbits (regS s sb) 31 0)
    let point (p : Nat) : Nat × Bool × Bool :=
      l8Quant ((List.range 8).map fun i => if 8 * p + i < n then exactMul (x (8 * p + i)) q else .fin false 0 0)
    let points := (List.range ((n + 7) / 8)).map point
    let shell := (points.filter fun r => r.2.2).length
    let bad := (points.filter fun r => r.2.1).length
    let code (g : Int) : Nat := (g + 127).toNat * 2 ^ 23
    (shapeTrap s 4 = none →
      ((∃ e < n, (x e).isFin = false) → RunsTo (.fLscale sd a adj) s [.v a] [.s sd]
        (fun u => raise .special 3 [.invalid] (wrS sd 3 0x7FC000007FC00000 u))) ∧
      ((∀ e < n, (x e).isFin = true) → ∃ g : Int, -126 ≤ g ∧ g ≤ 127 ∧
        ((∀ e < n, (x e).isZero = true) → g = 0) ∧
        (∀ e < n, (∀ j < n, elem (regV s a) 4 j % 2 ^ 31 ≤ elem (regV s a) 4 e % 2 ^ 31) →
          ∀ sg mm ee, x e = .fin sg mm ee → mm ≠ 0 → g = max (-126) (min (ee + (mm.log2 : Int) + adj.toInt) 126)) ∧
        RunsTo (.fLscale sd a adj) s [.v a] [.s sd]
          (wrS sd 3 (BitVec.ofNat 64 (code (-g) + 2 ^ 32 * code g)))) ∧
      (s.core.issue.dup = false → RunsTo (.fLq d a sb) s [.v a, .s sb] [.v d] fun u =>
        statFlight .special 8 ([(1, bad), (8, shell)].filter fun p => p.2 != 0)
          ((wrV d 8 (ofElems 2 (points.map (·.1))) u).flight 8 (.lqo (BitVec.ofNat 64 shell)))) ∧
      (s.core.issue.dup = true →
        RunsTo (.fLq d a sb) s [.v a, .s sb] [.v d] (wrV d 8 (ofElems 2 (points.map (·.1)))))) ∧
    (shapeTrap s t.width = none →
      RunsTo (.fLdq t d a sb m) s [.v a, .s sb, .m m.mask] [.v d] (velem s .special t.width 4 m d fun e =>
        let z := l8Twice (elem (regV s a) 2 (e / 8)) (e % 8)
        if q.isNan = true then (t.ffmt.qnan, .invalid)
        else t.ffmt.enc m.rm m.sat (fMul (.fin (decide (z < 0)) z.natAbs (-1)) q)) (mergeRead s t.width m d)) ∧
    RunsTo (.fLqcnt sd) s [] [.s sd] (wrS sd 1 s.core.arch.lqo) ∧
    (∀ y : Word, (landOne s (.lqo y)).core.arch.lqo = y)

/-! The M class (spec/10 R182 to R194; spec/11 R206 to R217; spec/21 R341 to R345). -/

/-- R184, R185, R188 to R192: each load, when its access meets nothing, answers its result in flight at its
architected latency; what the access traps on is the bundle's trap, and a footprint freezes it. The checks of an
access to the local window come in order: alignment, the window's end, a footprint held by the own segment; then it
reads the scratchpad's bytes. M.GLD turns a failure of R188 into 0 and a false predicate. M.PREF and M.TINV have no
effect. -/
def Obligations.Loads : Prop :=
  (∀ (s : State) (cls : LClass) (ty : SizeTy) (a b d : SReg) (vd : VReg) (p : PReg) (imm : BitVec 16) (k : TId),
    let ea := ((((regS s a).toNat : Int) + imm.toInt) % 2 ^ 56).toNat
    let n := match cls with
      | .sp => 4
      | .vt => 32
      | .dm => 110
    let m := match cls with
      | .sp => 5
      | .vt => 34
      | .dm => 112
    let lines : List Nat := (List.range 16).map fun j => (ea + j * (regS s b).toNat) % 2 ^ 56
    (∀ x ∈ ([
      (.mLd cls ty d a imm, [.s a], [.s d], loadAt s ty.bytes ty.bytes [ea], fun l => wrS d n (ty.extend (natOf l))),
      (.mLdp cls d a imm, [.s a], [.s d, .s (d + 1)], loadAt s 16 16 [ea], fun l u =>
        wrS (d + 1) n (BitVec.ofNat 64 (natOf (l.drop 8))) (wrS d n (BitVec.ofNat 64 (natOf (l.take 8))) u)),
      (.mVld cls vd a imm, [.s a], [.v vd], loadAt s 64 1024 [ea], fun l => wrV vd m (ofBytes l)),
      (.mVlds cls vd a b imm, [.s a, .s b], [.v vd], loadAt s 64 64 lines, fun l => wrV vd m (ofBytes l))]
        : List (Instr × List Reg × List Reg × Loaded × (List Byte → State → State))),
      (∀ ps l, x.2.2.2.1 = .got ps l none →
        (spadStall s.core false (spadRanges ps) = none → RunsTo x.1 s x.2.1 x.2.2.1 (x.2.2.2.2 l)) ∧
        (∀ f, spadStall s.core false (spadRanges ps) = some f → Runs s x.2.1 x.2.2.1 →
          exec x.1 s = .next (s.ended (.frozen f)))) ∧
      (∀ t, x.2.2.2.1 = .trap t → Runs s x.2.1 x.2.2.1 → exec x.1 s = .next (trapHere t s))) ∧
    (tensorStall s k = none → ∀ ps l, expandLoad s (regS s a).toNat k = .got ps l none →
      spadStall s.core false (spadRanges ps) = none →
      RunsTo (.mVldb cls vd a k) s [.s a] [.v vd] (wrV vd (m + 4) (ofBytes l))) ∧
    (∀ ps l, loadAt s ty.bytes ty.bytes [ea] = .got ps l none → spadStall s.core false (spadRanges ps) = none →
      RunsTo (.mGld cls ty d a p imm) s [.s a] [.s d, .p p]
        (fun u => wrP p n true (wrS d n (ty.extend (natOf l)) u))) ∧
    (∀ t, loadAt s ty.bytes ty.bytes [ea] = .trap t →
      (t.cause ∈ [Cause.memory, .absent, .noread, .badpte, .ptue, .demand] →
        RunsTo (.mGld cls ty d a p imm) s [.s a] [.s d, .p p] (fun u => wrP p n false (wrS d n 0 u)))) ∧
    RunsTo (.mPref a imm) s [.s a] [] id ∧ RunsTo (.mTinv a) s [.s a] [] id) ∧
  (∀ (s : State) (al n va : Nat), va < 0x80000 →
    (va % al ≠ 0 → loadAt s al n [va] = .trap { cause := .memory, detail := 1 }) ∧
    (va % al = 0 → 0x80000 < va + n → loadAt s al n [va] = .trap { cause := .memory, detail := 2 }) ∧
    (va % al = 0 → va + n ≤ 0x80000 → heldTrap s.core false [(va, n)] = none →
      loadAt s al n [va] = .got [.spad va n] (memGetN s.core.spad va n) (ueccPieces s [.spad va n])))

/-- R191: M.VGATH reads lane l's word at reg(A) + element l of vB, in the local window; a disabled lane gives 0.
M.VSCAT writes the words of the enabled lanes, the higher of two lanes at one address standing. An enabled lane's
address that is not a multiple of 4, or is not in the local window, traps: the lowest such lane's first failing check.
The model's readings: log 40. -/
def Obligations.GatherAndScatter : Prop :=
  ∀ (s : State) (d b c : VReg) (a : SReg) (m : MReg),
    let on (l : Nat) : Prop := (regM s m).toNat.testBit l = true
    let va (l : Nat) : Nat := ((regS s a).toNat + elem (regV s b) 4 l) % 2 ^ 56
    let fine (l : Nat) : Prop := va l % 4 = 0 ∧ va l < 0x80000
    let lanes : List Nat := (List.range 256).filter fun l => (regM s m).toNat.testBit l
    let ranges : List (Nat × Nat) := lanes.map fun l => (va l, 4)
    (∀ l < 256, on l → ¬fine l → (∀ k < l, on k → fine k) →
      let t : Trap := { cause := .memory, detail := if va l % 4 ≠ 0 then 1 else 3 }
      (Runs s [.s a, .v b, .m m] [.v d] → exec (.mVgath d a b m) s = .next (trapHere t s)) ∧
      (Runs s [.s a, .v b, .v c, .m m] [] → exec (.mVscat a b c m) s = .next (trapHere t s))) ∧
    ((∀ l < 256, on l → fine l) →
      (heldTrap s.core false ranges = none → spadStall s.core false ranges = none →
        ueccPieces s (ranges.map fun r => .spad r.1 r.2) = none → ∃ x : VWord,
        (∀ l < 256, (on l → elem x 4 l = natOf (memGetN s.core.spad (va l) 4)) ∧ (¬on l → elem x 4 l = 0)) ∧
        RunsTo (.mVgath d a b m) s [.s a, .v b, .m m] [.v d] (wrV d 8 x)) ∧
      (heldTrap s.core true ranges = none → spadStall s.core true ranges = none →
        storeLimit s.core ranges 0 = none →
        RunsTo (.mVscat a b c m) s [.s a, .v b, .v c, .m m] [] (putPieces .store (ranges.map fun r => .spad r.1 r.2)
          (lanes.flatMap fun l => bytesOf 4 (elem (regV s c) 4 l)))))

/-- R185, R189, R192, R224, R226: each store, when its access meets nothing and no limit is passed, puts its bytes at
the pieces it names: scratchpad bytes at once, with the old line in the undo log, and others withheld until the
commit, 8 bytes counted at a time. What the access traps on, a footprint it must wait for and a limit it would pass
are the bundle's trap or freeze. M.GST turns a failure of R188 into a false predicate. The model's readings: logs 39,
41. -/
def Obligations.Stores : Prop :=
  (∀ (s : State) (ty : SizeTy) (a b c : SReg) (vb vc : VReg) (p : PReg) (imm : BitVec 16),
    let ea := ((((regS s a).toNat : Int) + imm.toInt) % 2 ^ 56).toNat
    let scalar : List Byte := bytesOf ty.bytes (regS s b).toNat
    let lines : List Nat := (List.range 16).map fun j => (ea + j * (regS s c).toNat) % 2 ^ 56
    (∀ x ∈ ([
      (.mSt ty a b imm, [.s a, .s b], storeAt s ty.bytes ty.bytes [ea], scalar),
      (.mStp a b imm, [.s a, .s b, .s (b + 1)], storeAt s 16 16 [ea],
        bytesOf 8 (regS s b).toNat ++ bytesOf 8 (regS s (b + 1)).toNat),
      (.mVst a vb imm, [.s a, .v vb], storeAt s 64 1024 [ea], bytesOf 1024 (regV s vb).toNat),
      (.mVsts a vb c imm, [.s a, .v vb, .s c], storeAt s 64 64 lines, bytesOf 1024 (regV s vb).toNat),
      (.mZero a imm, [.s a], storeAt s 64 64 [ea], List.replicate 64 0)]
        : List (Instr × List Reg × Stored × List Byte)),
      (∀ ps, x.2.2.1 = .at' ps →
        (spadStall s.core true (spadRanges ps) = none → storeLimit s.core (spadRanges ps) (sharedBytes ps) = none →
          RunsTo x.1 s x.2.1 [] (storePut ps x.2.2.2)) ∧
        (∀ t, storeLimit s.core (spadRanges ps) (sharedBytes ps) = some t → Runs s x.2.1 [] →
          exec x.1 s = .next (trapHere t s)) ∧
        (∀ f, storeLimit s.core (spadRanges ps) (sharedBytes ps) = none →
          spadStall s.core true (spadRanges ps) = some f → Runs s x.2.1 [] → exec x.1 s = .next (s.ended (.frozen f)))) ∧
      (∀ t, x.2.2.1 = .trap t → Runs s x.2.1 [] → exec x.1 s = .next (trapHere t s))) ∧
    (∀ ps, storeAt s 1 1024 [ea] = .at' ps → spadStall s.core true (spadRanges ps) = none →
      let l := selPieces ps ((toBytes (regV s vb)).zip ((toBytes (regV s vc)).map (· != 0)))
      storeLimit s.core (spadRanges (l.map (·.1))) (sharedBytes ps) = none →
      RunsTo (.mVstu a vb vc imm) s [.s a, .v vb, .v vc] []
        (fun u => countBytes (sharedBytes ps) (putPieces .store (l.map (·.1)) (l.flatMap (·.2)) u))) ∧
    (∀ ps, storeAt s ty.bytes ty.bytes [ea] = .at' ps → spadStall s.core true (spadRanges ps) = none →
      storeLimit s.core (spadRanges ps) (sharedBytes ps) = none →
      RunsTo (.mGst ty a b p imm) s [.s a, .s b] [.p p] (fun u => wrP p 4 true (storePut ps scalar u))) ∧
    (∀ t, storeAt s ty.bytes ty.bytes [ea] = .trap t →
      t.cause ∈ [Cause.memory, .absent, .nowrite, .badpte, .ptue, .demand] →
      RunsTo (.mGst ty a b p imm) s [.s a, .s b] [.p p] (wrP p 4 false))) ∧
  (∀ (s : State) (va n : Nat) (l : List Byte), memOk s.core.spad = true → l.length = n →
    let t := storePut [.spad va n] l s
    (∀ k : Fin l.length, memGet t.core.spad (va + k) = l[k]) ∧ t.core.held = s.core.held ∧
    (∀ x, s.core.undo.any (fun u => u.1 == 64 * x) = false → va / 64 ≤ x → x ≤ (va + n - 1) / 64 → 0 < n →
      (64 * x, memGetN s.core.spad (64 * x) 64) ∈ t.core.undo)) ∧
  (∀ s : State, ∀ pa n st l, (storePut [.mem pa n st] l s).core.spad = s.core.spad ∧
    (storePut [.mem pa n st] l s).die.mem = s.die.mem ∧
    (storePut [.mem pa n st] l s).core.seg.bytes = s.core.seg.bytes + (n + 7) / 8 * 8)

/-- R185, R189, R191, R224: what a store leaves unchanged. Its address is the one its meaning computes: the pieces of
`storeAt` at the effective address (for M.VSCAT the four bytes of each enabled lane). Outside those pieces every byte
of the scratchpad reads as before; no byte of shared memory changes, since what goes there is withheld, each withheld
byte for a place that a piece names; and no register, control register, special register or program counter changes:
M.GST's predicate is in flight. The model's readings: logs 39, 40. -/
def Obligations.StoreFrame : Prop :=
  ∀ (s t : State) (ty : SizeTy) (a b c : SReg) (vb vc : VReg) (p : PReg) (m : MReg) (imm : BitVec 16),
    memOk s.core.spad = true →
    let ea := addrOf s a imm
    let lanes : List Piece := (lanesOn (regM s m)).map fun l => .spad (laneAddr s a vb l) 4
    ∀ x ∈ ([(.mSt ty a b imm, (storeAt s ty.bytes ty.bytes [ea]).pieces),
      (.mStp a b imm, (storeAt s 16 16 [ea]).pieces), (.mVst a vb imm, (storeAt s 64 1024 [ea]).pieces),
      (.mVsts a vb c imm, (storeAt s 64 64 (lineAddrs ea (regS s c))).pieces), (.mZero a imm, (storeAt s 64 64 [ea]).pieces),
      (.mVstu a vb vc imm, (storeAt s 1 1024 [ea]).pieces), (.mGst ty a b p imm, (storeAt s ty.bytes ty.bytes [ea]).pieces),
      (.mVscat a vb vc m, lanes)] : List (Instr × List Piece)), exec x.1 s = .next t → Done t →
      (∀ n, (∀ r ∈ spadRanges x.2, ¬(r.1 ≤ n ∧ n < r.1 + r.2)) → memGet t.core.spad n = memGet s.core.spad n) ∧
      t.die.mem = s.die.mem ∧ t.die.base = s.die.base ∧ t.pkg.dies = s.pkg.dies ∧ t.die.cores = s.die.cores ∧
      t.core.arch = { s.core.arch with inflight := t.core.arch.inflight } ∧ t.core.pc = s.core.pc ∧
      t.core.ck = s.core.ck ∧ t.core.record = s.core.record ∧
      (∃ l : List Held, t.core.held = s.core.held ++ l ∧ ∀ h ∈ l, ∃ pa d, h = .store pa d ∧ ∀ k < d.length,
        ∃ q n st, Piece.mem q n st ∈ x.2 ∧ ∃ j < n, homeOf s.die (partNum s) (q + j) = pa + k)

/-- R193, R194, R214, R216, R217: the ordering accesses. Each is withheld until the segment's commit, with its result
awaited; what its access traps on is the bundle's trap. When the commit performs an atomic, the word of memory takes
the operation's value, whole, and no other byte changes, but for the rings of run queues that a record freed from its
watch may enter (R271, R295); a compare that fails writes nothing, and so does an atomic on a word whose ECC cannot be
corrected, whose result traps (R229). The model's readings: logs 21, 98. -/
def Obligations.OrderingAccesses : Prop :=
  (∀ (s : State) (o : AMod) (fo : MemOrd) (cls : LClass) (ty : SizeTy) (sc : Scope) (kind : FenceKind) (d a b c : SReg)
    (pa : Nat) (t : Trap),
    let ea := (regS s a).toNat % 2 ^ 56
    let w := if o.w32 then 4 else 8
    let n := match cls with
      | .sp => 4
      | .vt => 32
      | .dm => 110
    let hold (h : Held) (u : State) : State := { u with core := { u.core with held := u.core.held ++ [h] } }
    (∀ x ∈ ([(.mAadd o d a b, .add, []), (.mAmin o d a b, .min, []), (.mAmax o d a b, .max, []), (.mAand o d a b, .and, []),
      (.mAor o d a b, .or, []), (.mAxor o d a b, .xor, []), (.mSwap o d a b, .swap, []),
      (.mCas o fo d a b c, .cas (regS s c) fo, [.s c])] : List (Instr × AtomOp × List Reg)),
      (orderAt s .atom w ea = .ok pa → storeLimit s.core [] 8 = none →
        RunsTo x.1 s ([.s a, .s b] ++ x.2.2) [.s d] fun u =>
          countBytes 8 (hold (.atom x.2.1 pa o.w32 (regS s b) o.ord o.scope d u.fresh) (awaited d 120 (.ordPend d) u))) ∧
      (orderAt s .atom w ea = .error t → Runs s ([.s a, .s b] ++ x.2.2) [.s d] → exec x.1 s = .next (trapHere t s))) ∧
    (orderAt s .rd ty.bytes ea = .ok pa → storeLimit s.core [] 0 = none →
      RunsTo (.mLdaq cls ty sc d a) s [.s a] [.s d]
        fun u => countBytes 0 (hold (.ldaq pa ty sc d u.fresh) (awaited d n (.ordPend d) u))) ∧
    (orderAt s .rd ty.bytes ea = .error t → Runs s [.s a] [.s d] → exec (.mLdaq cls ty sc d a) s = .next (trapHere t s)) ∧
    (orderAt s .wr ty.bytes ea = .ok pa → storeLimit s.core [] 8 = none →
      RunsTo (.mStrl ty sc a b) s [.s a, .s b] []
        fun u => countBytes 8 (hold (.strl pa (bytesOf ty.bytes (regS s b).toNat) sc) u)) ∧
    (orderAt s .wr ty.bytes ea = .error t → Runs s [.s a, .s b] [] → exec (.mStrl ty sc a b) s = .next (trapHere t s)) ∧
    RunsTo (.mFence kind sc) s [] [] (hold (.fence kind sc)) ∧
    (ea % w ≠ 0 → orderAt s .atom w ea = .error { cause := .memory, detail := 1 }) ∧
    (ea % w = 0 → ea < 0x80000 → orderAt s .atom w ea = .error { cause := .memory, detail := 3 })) ∧
  (∀ (u : State) (op : AtomOp) (pa : Nat) (w32 : Bool) (b : Word) (o : MemOrd) (sc : Scope) (d : SReg) (k : Nat),
    memOk u.die.mem = true →
    ueccShared u.die pa (if w32 then 4 else 8) = none →
    let w := if w32 then 4 else 8
    let old := natOf (memGetN u.die.mem pa w)
    let m := b.toNat % 2 ^ (8 * w)
    let v := perform u (.atom op pa w32 b o sc d k)
    let now := natOf (memGetN v.die.mem pa w)
    (∀ a, a < pa ∨ pa + w ≤ a → ¬ringed u.die a → memGet v.die.mem a = memGet u.die.mem a) ∧
    ((∀ k < w, ¬ringed u.die (pa + k)) →
      (op = .add → now = (old + m) % 2 ^ (8 * w)) ∧ (op = .and → now = old &&& m) ∧ (op = .or → now = old ||| m) ∧
      (op = .xor → now = old ^^^ m) ∧ (op = .swap → now = m) ∧
      (op = .min → now = if sextN old (8 * w) ≤ sextN m (8 * w) then old else m) ∧
      (op = .max → now = if sextN old (8 * w) ≤ sextN m (8 * w) then m else old) ∧
      (∀ x f, op = .cas x f → now = if old = m then x.toNat % 2 ^ (8 * w) else old)) ∧
    (∀ e ∈ u.core.arch.inflight, ∀ k', e.land = .ordPend d k' → k' = k → d.val < 56 →
      ⟨e.due, .s d (BitVec.ofInt 64 (sextN old (8 * w)))⟩ ∈ v.core.arch.inflight)) ∧
  (∀ (u : State) (op : AtomOp) (pa : Nat) (w32 : Bool) (b : Word) (o : MemOrd) (sc : Scope) (d : SReg) (k : Nat)
    (t : Trap), ueccShared u.die pa (if w32 then 4 else 8) = some t →
    let v := perform u (.atom op pa w32 b o sc d k)
    v.die = u.die ∧ (∀ e ∈ u.core.arch.inflight, ∀ d', e.land = .ordPend d' k → ∃ e' ∈ v.core.arch.inflight,
      e'.due = e.due ∧ ∃ ba, e'.land = .trap t ba))

/-- R343, R344, R345: M.STS withholds its bytes with the clock's latest bound as their stamp, which D takes at latency
1; a clock wider than CLKW traps CLKWIDE. M.LDAS awaits the value as of its stamp; a stamp older than the horizon
traps HORIZON, AGE, and an own withheld store to the line at no greater a stamp STAMPHELD. -/
def Obligations.StampedAccesses : Prop :=
  ∀ (s : State) (ty : SizeTy) (cls : LClass) (d a b : SReg) (imm : BitVec 16) (pa : Nat) (t : Trap),
    let ea := ((((regS s a).toNat : Int) + imm.toInt) % 2 ^ 56).toNat
    let wide : Prop := s.die.clkw.toNat < s.die.latest - s.die.earliest
    let stamp := (regS s b).toNat
    let old : Prop := stamp + s.die.horizon.toNat * 10 ^ 6 < s.die.earliest
    let own : Prop := ∃ p l x, Held.sts p l x ∈ s.core.held ∧ p / 64 = pa / 64 ∧ x ≤ stamp
    (wide → Runs s [.s a, .s b] [.s d] → exec (.mSts ty d a b imm) s = .next (trapHere { cause := .clkwide } s)) ∧
    (¬wide →
      (stampAt s .wr ty.bytes ea = .ok pa → storeLimit s.core [] 8 = none →
        RunsTo (.mSts ty d a b imm) s [.s a, .s b] [.s d] fun u => wrS d 1 (BitVec.ofNat 64 s.die.latest)
          (countBytes 8 { u with core := { u.core with
            held := u.core.held ++ [.sts pa (bytesOf ty.bytes (regS s b).toNat) s.die.latest] } })) ∧
      (stampAt s .wr ty.bytes ea = .error t → Runs s [.s a, .s b] [.s d] →
        exec (.mSts ty d a b imm) s = .next (trapHere t s))) ∧
    (stampAt s .rd ty.bytes ea = .ok pa →
      (old → Runs s [.s a, .s b] [.s d] →
        exec (.mLdas cls ty d a b imm) s = .next (trapHere { cause := .horizon, detail := 1 } s)) ∧
      (¬old → own → Runs s [.s a, .s b] [.s d] →
        exec (.mLdas cls ty d a b imm) s = .next (trapHere { cause := .stampheld } s)) ∧
      (¬old → ¬own → RunsTo (.mLdas cls ty d a b imm) s [.s a, .s b] [.s d]
        fun u => awaited d cls.scalar (fun n => .asOf d n pa ty stamp u.core.issue.ba) u)) ∧
    (stampAt s .rd ty.bytes ea = .error t → Runs s [.s a, .s b] [.s d] →
      exec (.mLdas cls ty d a b imm) s = .next (trapHere t s))

/-! The matrix and post-processing engines (spec/08; spec/07 R135). -/

/-- R145, R147, R152, R154, R155: the matrix syllables. Each, when its checks pass and neither the queue nor the
scoreboard is full, joins the queue (X.ASAVE held, with its tag); a tile the core does not hold traps ACCBANK, and the
checks' first failure is the bundle's trap. X.FENCE freezes while something it waits for is unfinished; X.STAT reads
the engine's state. And R135: V.AREAD gives rows 2q and 2q + 1 of a tile at latency 5; V.AWRITE's rows land two
bundles on. Both freeze while the tile is busy, after the checks of their bundle (R36); a tile the core does not hold
traps ACCBANK. Rows written read back. The model's readings: logs 44, 45, 49, 61. -/
def Obligations.MatrixCommandsAndPorts : Prop :=
  ((∀ (s : State) (t src : AReg) (ta tb : TId) (tag : Tag) (f : Bool) (d : SReg) (b b' : Nat) (x : Tensor),
    let mg := s.core.arch.mg
    let room (l : List Foot) : Prop := matqFull s.core = none ∧ boardStall s.core l = none
    let fits (r : MatReq) : Prop := heldClash s.core r.banks r.foots = false ∧ room r.foots
    let traps (i : Instr) (e : Trap) : Prop := Runs s [] [] → exec i s = .next (trapHere e s)
    let accbank : Trap := { cause := .matrix, detail := 1, arg := 120 + t.val }
    (∀ fresh, (∀ k ∈ [ta, tb], entryLate s k = false) →
      let i : Instr := if fresh then .xMma t ta tb else .xMmac t ta tb
      (∀ r, mmaReq s fresh t ta tb = .ok r → fits r → RunsTo i s [] [] fun u =>
        let v := enterMat t.val none r u
        { v with core := { v.core with occ := v.core.occ ++ [account s mg[0]] } }) ∧
      (∀ e, mmaReq s fresh t ta tb = .error e → traps i e)) ∧
    (bankOf s t.val = none → ∀ i ∈ ([.xAclr f t, .xAmov t src] : List Instr), traps i accbank) ∧
    (bankOf s t.val = none → ∀ fresh, mmaReq s fresh t ta tb = .error accbank) ∧
    (bankOf s t.val = some b →
      (fits ⟨.aclr f, b, []⟩ → RunsTo (.xAclr f t) s [] [] (enterMat t.val none ⟨.aclr f, b, []⟩)) ∧
      (bankOf s src.val = none → traps (.xAmov t src) accbank) ∧
      (bankOf s src.val = some b' → fits ⟨.amov b', b, []⟩ →
        RunsTo (.xAmov t src) s [] [] (enterMat t.val none ⟨.amov b', b, []⟩)) ∧
      (entryLate s ta = false → wbits mg[1] 63 32 = 0 → readTensor s ta = .ok x →
        (x.fmt = 4 ∨ x.fmt = 5 ∨ x.fmt = 7) → x.planes = 0 →
        let r := tileRows x mg[1] mg[2]
        (∀ rows, r.2 ≠ 0 → loadRows s r.2 r.1 = .ok rows →
          let q : MatReq := ⟨.aload x rows (rowsUecc s r.2 r.1) mg[1] mg[2], b, tileFoots x mg[1] mg[2] false⟩
          fits q → RunsTo (.xAload t ta) s [] [] (enterMat t.val none q)) ∧
        (let q : MatReq := ⟨.asave x tag mg[1] mg[2], b, tileFoots x mg[1] mg[2] true⟩
         room q.foots → s.core.seg.cmds < 64 → RunsTo (.xAsave t ta tag) s [] [] (enterMat t.val (some tag) q)))) ∧
    ((engineOf s).mode.val < 2 → (∀ m ∈ s.core.matq, m.held = false) →
      (∀ m ∈ s.core.dq, m.op.isPp = true → m.held = false) → matqFull s.core = none →
      RunsTo (.xMode f) s [] [] (enterMat 0 none ⟨.mode f, 0, []⟩)) ∧
    (2 ≤ (engineOf s).mode.val → traps (.xMode f) { cause := .matrix, detail := 6 }) ∧
    (matqFull s.core = none → RunsTo (.xMirr f) s [] [] (enterMat 0 none ⟨.mirr f, 0, []⟩)) ∧
    (fenceWaits s.core = false → RunsTo .xFence s [] [] id) ∧
    (fenceWaits s.core = true → Runs s [] [] → exec .xFence s = .next (s.ended (.frozen .scoreboard))) ∧
    RunsTo (.xStat d) s [] [.s d] (wrS d 1 (xStatWord s)) ∧
    (wbits (xStatWord s) 18 16 = (engineOf s).mode.val ∧ wbits (xStatWord s) 19 19 = s.core.arch.mirroff.toNat ∧
      ∀ k < 8, (xStatWord s).toNat.testBit (8 + k) = tileBusy s k)) ∧
  (∀ (u : State) (k : Nat) (h : Option Tag) (r : MatReq),
    (enterMat k h r u).core.matq = u.core.matq ++ [{ serial := u.pkg.nextId, op := r.op, tile := k, bank := r.bank
                                                     ba := u.core.issue.ba, snap := snapOf u, foots := r.foots
                                                     held := h.isSome, seg := true, running := false, mirrored := false
                                                     parked := none, done := 0 }])) ∧
  (∀ (s : State) (d a : VReg) (k : AReg) (b : SReg) (q : Fin 64) (bank : Nat),
    let n := ((regS s b).toNat + q.val) % 64
    (bankOf s k.val = none → Runs s [.s b] [.v d] →
      exec (.vAread d k b q) s = .next (trapHere { cause := .vector, detail := 3 } s)) ∧
    (bankOf s k.val = none → Runs s [.v a, .s b] [] →
      exec (.vAwrite k a b q) s = .next (trapHere { cause := .vector, detail := 3 } s)) ∧
    (bankOf s k.val = some bank → bankHeld s.core [bank] = false →
      bank < 8 ∧
      (tileBusy s k.val = true → ∃ f : Freeze, (f = .scoreboard ∨ f = .rows bank) ∧
        (tileUecc s.core k.val = none → Runs s [.s b] [.v d] →
          exec (.vAread d k b q) s = .next (s.ended (.frozen f))) ∧
        (Runs s [.v a, .s b] [] → exec (.vAwrite k a b q) s = .next (s.ended (.frozen f)))) ∧
      (tileBusy s k.val = false →
        (tileUecc s.core k.val = none → RunsTo (.vAread d k b q) s [.s b] [.v d]
          (wrV d 5 (ofBytes ((vget (engineOf s).banks bank .zero).getN (1024 * n) 1024)))) ∧
        RunsTo (.vAwrite k a b q) s [.v a, .s b] [] (fun u => u.flight 2 (.tile k n (regV s a)))) ∧
      (∀ x : VWord, landOne s (.tile k n x) = s.upEngine fun e =>
        { e with banks := vmod e.banks bank fun st => st.setN (1024 * n) (toBytes x) })))

/-- R144, R147, R148, R151, R154, R155: what a matrix command does when it finishes. With SCM 0, word (i, j) of an
X.MMA is the exact sum of products of its operands' elements modulo 2^32, added for X.MMAC to the word before; words
outside the operands' rows are 0, or as before. X.ACLR clears its tile, X.AMOV copies one, X.MIRR sets MIRROFF. A
mirror compare that fails, or data that cannot be corrected, traps instead. The operands are read from the scratchpad
as the command's issue left it (R149). A command starts only from the head of the queue; X.MODE takes effect once every
earlier matrix and post-processing command of both cores has finished. The model's readings: log 49. -/
def Obligations.MatrixResults : Prop :=
  ∀ (s : State) (m : MatCmd), matHead s.core = some m →
    let gone : State := { s with core := { s.core with matq := s.core.matq.filter fun x => x.serial != m.serial } }
    ((∀ x, m.op ≠ .mode x) → mayStart s m = true →
      let run (x : MatCmd) : MatCmd := { x with running := true, mirrored := mirrors s.core m.op }
      exec .matrixCommandStart s = .next (landTiles m.banks { s with core := upMat m.serial run s.core })) ∧
    (mayStart s m = false → exec .matrixCommandStart s = .next s) ∧
    (∀ alt8, m.op = .mode alt8 →
      let earlier (c : Core) : Prop :=
        (∃ x ∈ c.matq, x.serial < m.serial) ∨ ∃ x ∈ c.dq, x.op.isPp = true ∧ x.serial < m.serial
      (earlier s.core ∨ (∃ c, partner s = some c ∧ earlier c) → exec .modeSwitch s = .next s) ∧
      (¬earlier s.core → (∀ c, partner s = some c → ¬earlier c) → exec .modeSwitch s = .next
        ((s.upEngine fun e => { e with mode := if alt8 then 1 else 0 }).upCore (dropMat m.serial)))) ∧
    (m.running = true → m.parked = none →
      (m.mirrored = true →
        exec (.matrixCommandFinish true) s = .next (takeTrap { cause := .mirror, arg := m.tile } m.ba s)) ∧
      ((∀ t tag a b, m.op ≠ .asave t tag a b) → ∀ e, matUecc s.core m (tilesRead s m) = some e →
        exec (.matrixCommandFinish false) s = .next (takeTrap e m.ba s)) ∧
      (matUecc s.core m (tilesRead s m) = none →
        (∀ f, m.op = .aclr f → exec (.matrixCommandFinish false) s = .next (putBank m f (.ofBytes []) gone)) ∧
        (∀ b, m.op = .amov b → exec (.matrixCommandFinish false) s =
          .next (putBank m (vget (engineOf s).fp b false) (vget (engineOf s).banks b .zero) gone)) ∧
        (∀ off, m.op = .mirr off → exec (.matrixCommandFinish false) s = .next
          { gone with core := { gone.core with arch := { gone.core.arch with mirroff := off } } }) ∧
        (∀ fresh a b mg0 mg1 mg2, m.op = .mma fresh a b mg0 mg1 mg2 → mgScm mg0 = 0 →
          let ra := wbits mg2 31 0
          let rb := wbits mg2 63 32
          let k0 := wbits mg1 31 0
          let old (i j : Nat) : Nat :=
            if fresh then 0 else nth (tileWords (vget (engineOf s).banks m.bank .zero)) (128 * i + j) 0
          let sp := m.snap.under s.core.spad
          let x (i k : Nat) : Int := opnd sp a (ra + i) (k0 + k) (wbits mg0 2 0 + 1) (mg0.toNat.testBit 3)
          let y (j k : Nat) : Int := if mg0.toNat.testBit 10 then cosetOpnd sp b (rb + j) (k0 + k)
            else opnd sp b (rb + j) (k0 + k) (wbits mg0 6 4 + 1) (mg0.toNat.testBit 7)
          ∃ (st : Store) (l : List (Nat × Nat)),
            (∀ i j, i < 128 → j < 128 → natOf (st.getN (4 * (128 * i + j)) 4) =
              if i < min (a.rows - ra) 128 ∧ j < min (b.rows - rb) 128 then
                (((old i j : Int) + ((List.range (wbits mg0 21 16 + 1)).map fun k => x i k * y j k).sum) % 2 ^ 32).toNat
              else old i j % 2 ^ 32) ∧
            (∀ p ∈ l, p.2 = 0) ∧
            exec (.matrixCommandFinish false) s =
              .next ((putBank m (if fresh then false else vget (engineOf s).fp m.bank false) st gone).upCore fun c =>
                statNow .matrix m.ba l { c with xdone := c.xdone + 1 }))))

/-- R152, R156 to R159: D.PP, D.PPCMP and D.PPCFG join the D queue, held until their segment commits, and count one
engine command; what their checks find, a full queue, the scoreboard and the limit stop them. D.PPACT reads the queue.
The next command runs when it is its turn: D.PPCFG's bytes are then the post-processing table, and the others write
their region. The model's readings: logs 45, 48. -/
def Obligations.Postprocessing : Prop :=
  ∀ (s : State) (t : AReg) (ta tb : TId) (tag : Tag) (fn : PpFn) (a : VReg) (d : SReg),
    let room (l : List Foot) : Prop := dqFull s.core = none ∧ boardStall s.core l = none ∧ s.core.seg.cmds < 64
    let counted (u : State) : State :=
      { u with core := { u.core with seg := { u.core.seg with cmds := u.core.seg.cmds + 1 } } }
    (∀ cmp, entryLate s ta = false → (fn.sbias = true → entryLate s tb = false) →
      let i : Instr := if cmp then .dPpcmp t ta tb tag fn else .dPp t ta tb tag fn
      (∀ op l, ppReq s cmp t ta tb fn = .ok (op, l) → room l →
        RunsTo i s [] [] fun u => counted (enterD op (some tag) l u)) ∧
      (∀ e, ppReq s cmp t ta tb fn = .error e → Runs s [] [] → exec i s = .next (trapHere e s)) ∧
      (∀ op l, ppReq s cmp t ta tb fn = .ok (op, l) → 64 ≤ s.core.seg.cmds → Runs s [] [] →
        exec i s = .next (trapHere { cause := .segment, detail := 3 } s))) ∧
    (room [] → RunsTo (.dPpcfg a) s [.v a] [] fun u => counted (enterD (.ppcfg (regV s a)) none [] u)) ∧
    RunsTo (.dPpact d) s [] [.s d] (wrS d 1 (ppactWord s.core)) ∧
    (∀ op l (u : State), ∃ m : DCmd, (enterD op (some tag) l u).core.dq = u.core.dq ++ [m] ∧ m.op = op ∧ m.held = true ∧
      m.foots = l ∧ m.tag = some tag ∧ m.serial = u.pkg.nextId) ∧
    (ppReady s s.core = none → exec .postprocComplete s = .next s) ∧
    (∀ m, ppReady s s.core = some m → (ppTurn s = false → exec .postprocComplete s = .next s) ∧
      (ppTurn s = true →
        exec .postprocComplete s =
          .next ((waitHead (runPp m s)).upEngine fun e => { e with ppNext := !sideB s.core }) ∧
        ∀ x, m.op = .ppcfg x → ∃ c : Core, runPp m s = { s with core := c } ∧
          c.arch = { s.core.arch with pptable := .ofBytes (toBytes x) } ∧
          c.ck = { s.core.ck with pptable := .ofBytes (toBytes x) } ∧ c.spad = s.core.spad))

/-! The copy engine (spec/10 R195 to R205). -/

/-- R195, R201 to R203: each copy command, when its entries read, its checks pass and there is room, enters held, with
its staging registers and footprints and its tag outstanding, and counts one engine command; a fill samples its
register. A reserved bit of CG3 or CG4 fails PARAM on every copy command; the first check that fails is the bundle's
trap. C.PREF checks nothing, and enters with its footprints. The limits stop it with SEGMENT, COPY. And R202, R203,
R205, R207, R322: a copy command's progress. The first released command that has not started starts when no earlier
footprint conflicts; a running one writes what its walk gives, and completes, stops with its tag marked in TAGERR, or
parks at a page that demand paging must bring in, as its pass ends; an event that does not fit changes nothing. A pass
over an uncompressed destination performs its walk from the first byte not yet written; a park keeps what has been
read, so that the next pass reads on from the step at which this one stopped, with the scratchpad as the first pass
found it. The model's readings: logs 22, 45, 46, 47, 101. -/
def Obligations.CopyCommandsAndProgress : Prop :=
  (∀ (s : State) (r : SReg) (ta tb : TId) (tag : Tag) (pl : Bool) (ck : ConvKind) (slot : BitVec 16) (a b : Tensor),
    let cg := s.core.arch.cg
    let cmd (k : CopyKind) (x : Tensor) (table : List Byte) : CopyCmd :=
      { serial := s.pkg.nextId, kind := k, src := x, dst := b, srow := wbits cg[0] 31 0, scol := wbits cg[0] 63 32
        drow := wbits cg[1] 31 0, dcol := wbits cg[1] 63 32, nrows := wbits cg[2] 31 0, ncols := wbits cg[2] 63 32
        table := tableEntries (table.length / 8) table, tag := tag, ba := s.core.issue.ba, snap := snapOf s
        foots := cgFoots s, held := true, running := false, parked := none, done := 0, blk := 0, rest := [], step := 0, puts := []
        tail := [], evs := [], spad := none }
    let traps (i : Instr) (l : List Reg) (e : Trap) : Prop := Runs s l [] → exec i s = .next (trapHere e s)
    let room : Prop := s.core.copyq.length < 512 ∧ boardStall s.core (cgFoots s) = none
    (readTensor s tb = .ok b → entryLate s tb = false → room → s.core.seg.cmds < 64 →
      (readTensor s ta = .ok a → entryLate s ta = false →
        (∀ p ∈ ([(.cCopy ta tb tag, .copy), (.cCopy2d ta tb tag, .copy2d), (.cXpose ta tb tag, .xpose),
          (.cPlane pl ta tb tag, .plane pl), (.cConv ck ta tb tag, .conv ck), (.cXch ta tb tag slot, .xch slot)]
            : List (Instr × CopyKind)),
          (copyCheck s (cmd p.2 a []) = none → RunsTo p.1 s [] [] (enterCopy (cmd p.2 a []))) ∧
          (∀ e, copyCheck s (cmd p.2 a []) = some e → traps p.1 [] e)) ∧
        (∀ p ∈ ([(.cGath ta tb tag, .gath), (.cScat ta tb tag, .scat)] : List (Instr × CopyKind)),
          (∀ ps l, tableLoad s p.2 = .got ps l none → spadStall s.core false (spadRanges ps) = none →
            copyCheck s (cmd p.2 a l) = none → RunsTo p.1 s [] [] (enterCopy (cmd p.2 a l))) ∧
          (∀ e, tableParam s p.2 = false → tableLoad s p.2 = .trap e →
            (cmd p.2 a []).outside (wbits cg[4] 31 0) = false → traps p.1 [] e))) ∧
      (∀ p ∈ ([(.cFill r tb tag, .fill (regS s r)), (.cFill2d r tb tag, .fill2d (regS s r))]
          : List (Instr × CopyKind)),
        (copyCheck s (cmd p.2 Tensor.none []) = none →
          RunsTo p.1 s [.s r] [] (enterCopy (cmd p.2 Tensor.none []))) ∧
        (∀ e, copyCheck s (cmd p.2 Tensor.none []) = some e → traps p.1 [.s r] e))) ∧
    (∀ k x table, wbits cg[3] 63 56 ≠ 0 ∨ wbits cg[4] 63 32 ≠ 0 →
      copyCheck s (cmd k x table) = some { cause := .copy, detail := 3, arg := tag.val }) ∧
    (room → s.core.seg.cmds < 64 → ∃ x : CopyCmd, x.kind = .pref ∧ x.foots = cgFoots s ∧ x.tag = tag ∧
      x.writes = [] ∧ RunsTo (.cPref ta tag) s [] [] (enterCopy x)) ∧
    (64 ≤ s.core.seg.cmds → Runs s [] [] →
      exec (.cPref ta tag) s = .next (trapHere { cause := .segment, detail := 3 } s)) ∧
    (∀ (x : CopyCmd) (u : State),
      let v := enterCopy x u
      v.core.copyq = u.core.copyq ++ [{ x with serial := u.pkg.nextId }] ∧ v.core.seg.cmds = u.core.seg.cmds + 1 ∧
      v.core.tags[x.tag].out = u.core.tags[x.tag].out + 1 ∧ v.core.tags[x.tag].done = false ∧
      v.die.mem = u.die.mem ∧ v.core.spad = u.core.spad)) ∧
  (∀ (s : State) (n : Nat),
    (∀ m, (s.core.copyq.find? fun m => !m.held && !m.running && !m.isXch) = some m → m.serial = n →
      (boardClear s.core n m.foots = true → ∃ q : List CopyCmd,
        q = s.core.copyq.map (fun x => if x.serial = n then { x with running := true } else x) ∧
        exec (.copyCommandStart n) s = .next { s with core := { s.core with copyq := q } }) ∧
      (boardClear s.core n m.foots = false → exec (.copyCommandStart n) s = .next s)) ∧
    ((s.core.copyq.find? fun m => m.serial == n && m.running && m.parked.isNone) = none →
      ∀ i ∈ ([.copyComplete n, .copyFault n, .copyDemandPark n] : List Instr), exec i s = .next s) ∧
    (∀ m, (s.core.copyq.find? fun m => m.serial == n && m.running && m.parked.isNone) = some m →
      let r := copyPass m s
      (r.how = .done → exec (.copyComplete n) s = .next (endCopy m (tally r.evs) none r.ids r.s) ∧
        exec (.copyFault n) s = .next s ∧ exec (.copyDemandPark n) s = .next s) ∧
      (∀ e, r.how = .failed e →
        exec (.copyFault n) s = .next (endCopy m (tally r.evs) (some e) r.ids r.s) ∧
        exec (.copyComplete n) s = .next s ∧ exec (.copyDemandPark n) s = .next s) ∧
      (∀ va kind, r.how = .parked va kind → (∃ t, exec (.copyDemandPark n) s = .next t ∧
          (∃ e, t.pkg.posts = r.s.pkg.posts ++ [e]) ∧ t.die.mem = r.s.die.mem ∧ t.core.spad = r.s.core.spad ∧
          t.core.copyq = r.s.core.copyq.map fun x =>
            if x.serial == n then { r.keep x with parked := some va } else x) ∧
        exec (.copyComplete n) s = .next s ∧ exec (.copyFault n) s = .next s) ∧
      (m.dst.cmp = 0 →
        let before : State := match m.spad with
          | none => s
          | some x => { s with core := { s.core with spad := x } }
        let v := copyWalk before m
        let all : Walk := ⟨m.puts ++ v.puts, m.evs ++ v.evs, v.stop, m.step + v.read⟩
        let w := runWalk m.done all s
        r.s = w.1 ∧ r.how = w.2.2.1 ∧ r.ids = w.2.2.2 ∧ r.evs = all.evs ∧
        ∀ x, r.keep x = { x with done := w.2.1, step := all.read, puts := all.puts, tail := [], evs := all.evs
                                 spad := some before.core.spad })) ∧
    (∀ (m : CopyCmd) (k : List (Nat × Nat)) (e : Option Trap) (ids : List Nat),
      let t := (endCopy m k e ids s).core.tags[m.tag]
      t.out = s.core.tags[m.tag].out - 1 ∧ t.done = decide (s.core.tags[m.tag].out ≤ 1) ∧
      t.err = (e.isSome || s.core.tags[m.tag].err) ∧
      (endCopy m k e ids s).core.copyq = s.core.copyq.filter fun x => x.serial != m.serial))

/-! Streams (spec/20 R326 to R334) and the decode engines' syllables (spec/22 R358 to R363). -/

/-- R326, R328 to R334: the L syllables. L.OPEN binds a port, from the next bundle on; L.SEND and L.SENDST put a slot
of LG0's bytes in the stream queue, held, and count one send, after their checks in the order of R332: the entry, the
length, CMP; L.RECV takes the head slot, to be written at its entry, and pops it; L.PEEK and L.STAT read the stream;
L.CLOSE is withheld. An undeclared stream traps STREAM, and a length out of range SIZE. The model's readings: logs 43,
50. -/
def Obligations.Streams : Prop :=
  ∀ (s : State) (n : Fin 16) (k : TId) (tag : Tag) (r d : SReg) (t : Tensor),
    let undeclared : Trap := { cause := .link, detail := 1, arg := n.val }
    let traps (i : Instr) (l m : List Reg) (e : Trap) : Prop := Runs s l m → exec i s = .next (trapHere e s)
    let off := wbits s.core.arch.lg[0] 31 0
    let len := wbits s.core.arch.lg[0] 63 32
    let va := (t.base + off) % 2 ^ 56
    let hold (h : Held) (u : State) : State := { u with core := { u.core with
      held := u.core.held ++ [h], seg := { u.core.seg with sends := u.core.seg.sends + 1 } } }
    let full : Prop := 16 ≤ s.core.sq.length
    (s.die.send[n] = none → traps (.lOpenSend n) [] [] undeclared ∧ traps (.lStat d n) [] [.s d] undeclared ∧
      traps (.lClose n) [] [] undeclared ∧ traps (.lSend k n tag) [] [] undeclared) ∧
    (s.die.recv[n] = none → traps (.lOpenRecv n) [] [] undeclared ∧ traps (.lPeek d n) [] [.s d] undeclared ∧
      traps (.lRecv k n tag) [] [] undeclared) ∧
    (s.die.recv[n] ≠ none → RunsTo (.lOpenRecv n) s [] [] fun u =>
      { u with core := { u.core with
        arch := { u.core.arch with recvBind := some n }
        issue := { u.core.issue with rebound := some (u.core.issue.rebound.getD u.core.arch.recvBind) } } }) ∧
    (∀ (o : Option (Fin 16)) (u : Core), u.issue.rebound = some o → recvPort u = o) ∧
    (∀ u : Core, u.issue.rebound = none → recvPort u = u.arch.recvBind) ∧
    (∀ (u : State) (b j : Nat), recvPort (beginIssue b j u).core = u.core.arch.recvBind) ∧
    (∀ x : SendStream, s.die.send[n] = some x →
      (RunsTo (.lOpenSend n) s [] [] fun u =>
        { u with core := { u.core with arch := { u.core.arch with sendBind := some n } } }) ∧
      RunsTo (.lStat d n) s [] [.s d] (wrS d 1 (BitVec.ofNat 64 (min 64 (x.credits - readySends s n)
        + 2 ^ 8 * min 16 ((s.core.sq.filter fun e => e.n == n && e.sends).length)
        + 2 ^ 16 * x.closed.toNat + 2 ^ 17 * x.broken.toNat))) ∧
      (x.closed = false → x.broken = false →
        (s.core.seg.sends < 16 → RunsTo (.lClose n) s [] [] (hold (.close n))) ∧
        (16 ≤ s.core.seg.sends → traps (.lClose n) [] [] { cause := .segment, detail := 4 }) ∧
        (∀ e, entryLate s k = false → readTensor s k = .error e → traps (.lSend k n tag) [] [] e) ∧
        (entryLate s k = false → readTensor s k = .ok t → len = 0 ∨ x.slotsz < len →
          traps (.lSend k n tag) [] [] { cause := .link, detail := 3, arg := n.val }) ∧
        (entryLate s k = false → 0 < len → len ≤ x.slotsz → readTensor s k = .ok t → t.cmp = 0 → ¬full →
          s.core.seg.sends < 16 → boardStall s.core (footOf va (va + len) false) = none →
          RunsTo (.lSend k n tag) s [] [] (fun u => hold (.send u.pkg.nextId)
            (enterStream n (.send va len none) tag (footOf va (va + len) false) u)) ∧
          RunsTo (.lSendst r k n tag) s [.s r] [] (fun u => hold (.send u.pkg.nextId)
            (enterStream n (.send va len (some (regS s r).toNat)) tag (footOf va (va + len) false) u))))) ∧
    (∀ x : RecvStream, s.die.recv[n] = some x →
      RunsTo (.lPeek d n) s [] [.s d] (wrS d 1 (peekWord s.die n x)) ∧
      (∀ h : Slot, headSlot s.die n = some h →
        (wbits (peekWord s.die n x) 32 32 = 1 ∧ wbits (peekWord s.die n x) 31 0 = h.len % 2 ^ 32) ∧
        (recvTrap s n = none → entryLate s k = false → h.len ≤ wbits s.core.arch.lg[1] 63 32 →
          readTensor s k = .ok t → t.cmp = 0 → ¬full →
          let dest := (t.base + wbits s.core.arch.lg[1] 31 0) % 2 ^ 56
          boardStall s.core (footOf dest (dest + h.len) true) = none →
          RunsTo (.lRecv k n tag) s [] []
            (fun u => popSlot false n (enterStream n (.recv h dest) tag (footOf dest (dest + h.len) true) u))))) ∧
    (∀ op l (u : State), ∃ e : StreamEnt, (enterStream n op tag l u).core.sq = u.core.sq ++ [e] ∧ e.n = n ∧ e.op = op ∧
      e.tag = some tag ∧ e.held = true ∧ e.foots = l)

/-- R358 to R363: the decode syllables. D.JPEG, D.G4 and D.RAW join the D queue with DG3 and DG4; D.RING.set joins it
with its registers; D.RING.free and D.DABORT are withheld; D.PORT.count, D.PORT.skip and D.DSTAT read the port and the
engine; D.DFENCE freezes while a decode command issued before the segment is unfinished. A ring whose BASE or SIZE is
not valid, or whose BASE is no address of vault or DRAM, or a length not a multiple of 1,024, traps DECODE, RING. The
model's readings: logs 52, 104. -/
def Obligations.DecodeSyllables : Prop :=
  ∀ (s : State) (ta : TId) (tag : Tag) (b1 : Bool) (a b d : SReg) (t : Tensor),
    let p := s.core.arch.dg[3]
    let x := s.core.arch.dg[4]
    let hold (h : Held) (u : State) : State := { u with core := { u.core with held := u.core.held ++ [h] } }
    let ringBad : Trap := { cause := .decode, detail := 2 }
    let base := (regS s a).toNat
    let size := (regS s b).toNat
    let valid : Prop := base % 1024 = 0 ∧ 0x80000 ≤ base ∧ base + size ≤ 2 ^ 56 ∧ inMemory s base = true ∧
      size % 1024 = 0 ∧ 4096 ≤ size ∧ size ≤ 2 ^ 30
    let busy : Prop := ∃ m ∈ s.core.dq, m.op.isDecode = true ∧ m.seg = false
    (∀ q ∈ ([(.dJpeg ta tag, .jpeg t p x), (.dG4 ta tag, .g4 t p x), (.dRaw b1 ta tag, .raw b1 t p x)] : List (Instr × DOp)),
      readTensor s ta = .ok t → entryLate s ta = false →
      (decodeCheck s.core (x.toNat.testBit 6) q.2 = none → dqFull s.core = none → boardStall s.core (inputFoot q.2) = none →
        RunsTo q.1 s [] [] (enterD q.2 (some tag) (inputFoot q.2))) ∧
      (∀ e, decodeCheck s.core (x.toNat.testBit 6) q.2 = some e → Runs s [] [] → exec q.1 s = .next (trapHere e s))) ∧
    (valid → dqFull s.core = none →
      RunsTo (.dRingSet a b) s [.s a, .s b] [] (enterD (.ringSet (regS s a) (regS s b)) none [])) ∧
    (¬valid → Runs s [.s a, .s b] [] → exec (.dRingSet a b) s = .next (trapHere ringBad s)) ∧
    (base % 1024 = 0 → RunsTo (.dRingFree a) s [.s a] [] (hold (.ringFree (regS s a)))) ∧
    (base % 1024 ≠ 0 → Runs s [.s a] [] → exec (.dRingFree a) s = .next (trapHere ringBad s)) ∧
    (∀ n u, (perform u (.ringFree n)).core.ringFree =
      if u.core.ringSize.toNat ≤ u.core.ringFree.toNat + n.toNat then u.core.ringSize else u.core.ringFree + n) ∧
    RunsTo (.dPortCount d) s [] [.s d] (wrS d 1 (BitVec.ofNat 64 s.core.patch.length)) ∧
    (∀ l r, throughPage s.core.patch = some (l, r) → s.core.patch = l ++ r ∧
      RunsTo (.dPortSkip d) s [] [.s d] fun u => wrS d 1 (BitVec.ofNat 64 l.length)
        { u with core := { u.core with patch := r, popped := u.core.popped ++ l.map Popped.patch } }) ∧
    (throughPage s.core.patch = none → exec (.dPortSkip d) s = .next (s.ended (.frozen .emptyPort))) ∧
    (RunsTo (.dDstat d) s [] [.s d] (wrS d 1 (dstatWord s.core)) ∧ wbits (dstatWord s.core) 7 0 = s.core.lastPage.toNat) ∧
    (RunsTo .dDabort s [] [] fun u =>
      let v := hold (.dabort u.pkg.nextId) u
      { v with pkg := { v.pkg with nextId := v.pkg.nextId + 1 } }) ∧
    (¬busy → RunsTo .dDfence s [] [] id) ∧
    (busy → Runs s [] [] → exec .dDfence s = .next (s.ended (.frozen .scoreboard)))

/-! The deprecated opcodes (spec/04 R64, R65). -/

/-- R64, R65: the ZW1 expansions, each two steps in one issue. ZW1.MADD gives A·B + C at latency 4; ZW1.LDPAIR loads
the words at its address and at the next 8 bytes; ZW1.VSUM sums the 256 words of A modulo 2^32, sign-extended;
ZW1.DBNZ decrements A and branches unless it became 0. A trap of step 1 has STEP set. -/
def Obligations.DeprecatedOpcodes : Prop :=
  ∀ (s : State) (d a b c : SReg) (v : VReg) (imm : BitVec 16) (off : BitVec 30) (ps ps' : List Piece) (x y : List Byte),
    let steps (l m l' m' : List Reg) : Prop := (l ++ l').any (portEmpty s) = false ∧
      sylTrap s { srcs := l, dsts := m } = none ∧ sylTrap s { srcs := l', dsts := m' } = none ∧
      m.any (portFull s) = false ∧ m'.any (portFull s) = false
    let va := ((((regS s a).toNat : Int) + imm.toInt) % 2 ^ 56).toNat
    let n : Word := regS s a - 1
    (steps [.s a, .s b] [] [.s c] [.s d] → exec (.zw1Madd d a b c) s = .next (wrS d 4
      (BitVec.ofNat 64 ((regS s a).toNat * (regS s b).toNat + (regS s c).toNat)) (reads [.s a, .s b, .s c] s))) ∧
    (steps [.s a] [.s d] [] [.s (d + 1)] → loadAt s 8 8 [va] = .got ps x none →
      loadAt s 8 8 [(va + 8) % 2 ^ 56] = .got ps' y none → spadStall s.core false (spadRanges ps) = none →
      spadStall s.core false (spadRanges ps') = none → exec (.zw1Ldpair d a imm) s = .next
        (wrS (d + 1) 4 (BitVec.ofNat 64 (natOf y)) (wrS d 4 (BitVec.ofNat 64 (natOf x)) (reads [.s a] s)))) ∧
    (∀ t, steps [.s a] [.s d] [] [.s (d + 1)] → loadAt s 8 8 [va] = .got ps x none →
      loadAt s 8 8 [(va + 8) % 2 ^ 56] = .trap t →
      exec (.zw1Ldpair d a imm) s = .next (trapHere { t with step := true } s)) ∧
    (steps [.v v] [] [] [.s d] → ∃ k : Word, k.toInt % 2 ^ 32 = ((List.range 256).map (elem (regV s v) 4)).sum % 2 ^ 32 ∧
      -(2 ^ 31) ≤ k.toInt ∧ k.toInt < 2 ^ 31 ∧ exec (.zw1Vsum d v) s = .next (wrS d 4 k (reads [.v v] s))) ∧
    (steps [.s a] [.s a] [] [] → exec (.zw1Dbnz a off) s = .next
      (let u := wrS a 1 n (reads [.s a] s)
       if n = 0 then u else { u with core := { u.core with
         pc := BitVec.ofNat 56 (((s.core.issue.ba : Int) + 8 * off.toInt) % 2 ^ 56).toNat
         issue := { u.core.issue with taken := true } } }))

/-! Events of a core, its queues and its phase (spec/02, spec/12, spec/15, spec/17, spec/18). -/

/-- R22, R112, R231, R271, R275, R276, R287, R291, R305, R308: deadlines, stops, the arbiter and the phase. A
rendezvous whose deadline has surely passed returns its records with TIMEOUT; a crew barrier's frozen members time out;
waiters whose event holds become runnable; BUDGET stops a core whose LEFT is 0, and halts it there and then if its
context has halted (R308); a refill sets it; the oldest ring record moves up, and leaves the ring, when there is room.
A fill faults the context for a malformed head; else it picks a record from a queue, ages the others and sets LAST, or
waits for its next fill event; a pickup sets s2 to s9, the pc, SHAPE and the counts of R20. With no exchange copy
queued, the end of the exchange part begins the next phase; an exchange part that takes too long posts PHASE_LATE once.
The model's readings: logs 2, 54, 55, 64, 66. -/
def Obligations.CoreEvents : Prop :=
  ∀ (s : State) (crew slot : Fin 16) (left : BitVec 32) (q : Fin 64),
    let w := crewOf s crew
    let r := w.rvz[slot]
    let core (f : Core → Core) : State := { s with core := f s.core }
    let due (i : Instr) (p : Prop) (t : State) : Prop := (p → exec i s = .next t) ∧ (¬p → exec i s = .next s)
    (∀ t, r.deadline = some t → due (.rvzDeadline crew slot) (r.arr ≠ 0 ∧ t < s.die.earliest)
      (returnArrived 2 r.conts (s.upRvz crew slot fun _ => .empty))) ∧
    (r.deadline = none → exec (.rvzDeadline crew slot) s = .next s) ∧
    due (.cbarDeadline crew) (w.arr ≠ 0 ∧ s.die.rvzto ≠ 0 ∧ w.deadline < s.die.earliest)
      (s.upCrew crew fun w => { w with arr := 0, hb := [], ends := w.ends ++ [none] }) ∧
    (∃ t : State, exec .waitTimeExpiry s = .next t ∧ t.core = s.core ∧
      (t.die.waiters = s.die.waiters.filter fun x => !waitHolds s (partSlot s) x.what) ∧
      (memOk s.die.mem = true → ∀ a, ¬ringed s.die a → memGet t.die.mem a = memGet s.die.mem a)) ∧
    due .budget (s.core.record.isSome = true ∧ s.core.halted = false ∧ s.core.wait = none ∧ s.core.dbgStop = false ∧
      s.core.budgetStop = false ∧ s.core.left = 0)
      (let t := (core fun c => { c with budgetStop := true }).post (.budget s.die.num s.core.num)
       if s.core.haltPend then haltHere t else t) ∧
    due (.budgetRefill left) (s.core.budgetStop = true) (core fun c => { c with left := left, budgetStop := false }) ∧
    exec .debugRelease s = .next (core fun c => { c with dbgStop := false }) ∧
    (s.die.queues[q].overflow = [] → exec (.queueOverflowMove q) s = .next s) ∧
    (∀ c l, s.die.queues[q].overflow = c :: l →
      due (.queueOverflowMove q) (s.die.queues[q].hw.length < 32) { s with die := { s.die with
        queues := s.die.queues.set q { s.die.queues[q] with
          hw := s.die.queues[q].hw ++ [c], overflow := l
          ringHead := (s.die.queues[q].ringHead + 1) % s.die.queues[q].places } } }) ∧
    (mayFill s = false → exec .coreFill s = .next s) ∧
    (mayFill s = true →
      (∀ c, badHead s = some c → exec .coreFill s = .next (badContinuation c s)) ∧
      ((∀ p ∈ heads s, recordBad s.die.ncrew p.2.record = false) →
        exec .coreFill s = .next (settlePhase (eachCore fillCore s)))) ∧
    (mayFill s = true → s.core.record = none → s.core.num ∉ s.die.found →
      (∀ c, badHead s = some c → fillCore s = badContinuation c s) ∧
      (badHead s = none → mayPick s = false ∨ pickQueue s = none → fillCore s = foundNothing s) ∧
      ∀ f c k, badHead s = none → mayPick s = true → pickQueue s = some (q, f) → s.die.queues[q].all.head? = some c →
        kernelOf s c.record.kid = some k → fillCore s = pickup c (afterPick q f s)) ∧
    (s.core.num ∈ s.die.found → fillCore s = s) ∧
    (∀ c : Cont,
      let t := pickup c s
      let a := t.core.arch
      t.core.record = some c.record ∧ a.s[2] = c.record.arg0 ∧ a.s[3] = c.record.arg1 ∧ a.s[4] = c.record.arg2 ∧
      a.s[5] = BitVec.ofNat 64 c.record.status ∧ (∀ n : Fin 64, 6 ≤ n.val → n.val ≤ 9 → a.s[n] = 0) ∧
      a.shape = 0x0000000200100010 ∧ a.qsl = 0 ∧ a.lqo = 0 ∧ a.inflight = [] ∧ t.core.ck = a ∧
      t.core.pc.toNat = c.record.pc.toNat % 2 ^ 56 ∧ t.core.ckptpc = t.core.pc ∧ t.core.hnd = false ∧
      t.core.retried = false ∧ t.core.left = c.record.run ∧ t.core.trapinfo = 0 ∧
      t.core.hist = [0, 0, 0, 0, 0, 0, 0] ∧ tagBits (·.done) t.core = 0 ∧ t.die.mem = s.die.mem) ∧
    (s.die.phase ≠ .exchange → exec .exchangeEnd s = .next s ∧ exec .exchangeTimeExpiry s = .next s) ∧
    (s.die.phase = .exchange → s.die.xch = [] → exec .exchangeEnd s = .next (nextPhase (exchangeLate 1 s))) ∧
    ((nextPhase s).die.phase = .compute ∧ (nextPhase s).die.k = s.die.k + 1 ∧ (nextPhase s).die.elapsed = 0) ∧
    (∀ l, s.die.phase = .exchange → s.die.xch ≠ [] → phaseLens s s.die.k = some l →
      let late : State := { s with die := { s.die with latePosted := true } }
      due .exchangeTimeExpiry (s.die.latePosted = false ∧ l.2 ≤ 20 * s.die.elapsed / 17) (late.post
        (.phaseLate (s.die.part.getD 0) s.die.stage.toNat (20 * s.die.elapsed / 17 - l.2))))

/-- R324, R326, R327, R332 to R334, R349, R360 to R363: what streams and decode engines do by themselves. The next
ready send of a stream transfers to the receiving die once its flits pass, and its slot stands behind those present;
the end marker follows the sends before it; a slot of another package arrives within the credits of its sender. A
receive writes its slot's bytes, and a credit owed returns to the sender while the circuit passes, and one from another
package through the ingress of its optical port. D.RING.set takes effect at the head of the queue; the longest waiter
takes a free decode engine; a record goes to port v28, entry by entry, or to the ring if it fits with 1,024 bytes to
spare, and a page that does not fit ends as RINGFULL; the page-end record ends the command. The model's readings: logs
15, 50, 51, 52, 103. -/
def Obligations.StreamAndDecodeEvents : Prop :=
  (∀ (s : State) (n : Fin 16),
    let idle (i : Instr) : Prop := exec i s = .next s
    let back (t : State) : State := selAt s.die.num s.core.num t
    let passes (g : Ingress) (len : Nat) : Prop := flitsPass g (partSlot s) (max 1 (ceilDiv len 256), 1) = true
    (senderOf s n = none → idle (.streamSlotPresent (.inner n))) ∧
    (∀ a x, senderOf s n = some a → (selDie a s).die.send[n] = some x →
      let src := selDie a s
      (∀ m, x.marker = some m → (∀ p ∈ (sendsOf src n).head?, m < p.2.order) →
        (circuitPasses s a n 1 = 0 → idle (.streamSlotPresent (.inner n))) ∧
        (circuitPasses s a n 1 ≠ 0 → exec (.streamSlotPresent (.inner n)) s =
          .next (landMarker n (back (src.upSend n fun y => { y with marker := none }))))) ∧
      (x.marker = none → sendsOf src n = [] → idle (.streamSlotPresent (.inner n))) ∧
      (∀ p l, sendsOf src n = p :: l → (∀ m, x.marker = some m → p.2.order ≤ m) →
        let goes : Prop := readySends src n ≠ 0 ∧ stampPassed s.die p.2 = true ∧ passes src.die.ingress (sendLen p.2)
        (goes → exec (.streamSlotPresent (.inner n)) s = .next (transfer a n p.1.num p.2 s)) ∧
        (¬goes → idle (.streamSlotPresent (.inner n))))) ∧
    (∀ x r, s.die.recv[n] = some r → (landSlot n x s).die.recv[n] =
      some (if r.eos then r else { r with present := r.present ++ [{ x with no := s.fresh }] })) ∧
    (∀ a len stamp b, senderOf s n = some a →
      idle (.streamSlotPresent (.arrive n len stamp b)) ∧ idle (.streamSlotPresent (.marker n))) ∧
    (∀ r len stamp b, senderOf s n = none → s.die.recv[n] = some r →
      let fits : Prop := 1 ≤ len ∧ len ≤ r.slotsz ∧ b.length = len ∧ buffersUsed s n r < r.slots ∧
        circuitPasses s (256 + s.die.num) n 1 ≠ 0 ∧ passes (entryIngress s n) len
      (fits → exec (.streamSlotPresent (.arrive n len stamp b)) s = .next (landSlot n ⟨0, len, b, stamp, []⟩ s)) ∧
      (¬fits → idle (.streamSlotPresent (.arrive n len stamp b)))) ∧
    (∀ x p l, s.die.send[n] = some x → peerDie s s.die.num x = none → x.marker = none → sendsOf s n = p :: l →
      (readySends s n = 0 ∨ ¬passes s.die.ingress (sendLen p.2) → idle (.streamSlotPresent (.out n))) ∧
      (readySends s n ≠ 0 → passes s.die.ingress (sendLen p.2) →
        (∃ y, readSlot ((selCore p.1.num s).upCircuit s.die.num n fun c => { c with flight := c.flight - 1 }) p.2
          = .ok (some y)) →
        ∃ t, exec (.streamSlotPresent (.out n)) s = .next t ∧
          t.die.send[n] = some { x with credits := x.credits - 1 })) ∧
    (s.die.recv[n] = none → idle (.creditReturn (.returns n))) ∧
    (∀ r, s.die.recv[n] = some r →
      exec (.creditReturn (.returns n)) s = .next (giveCredit n (runReceive n s)) ∧
      ((∀ e ∈ s.core.sq, e.n ≠ n ∨ e.sends = true) → runReceive n s = s) ∧
      (∀ e x va w, s.core.sq.find? (fun e => e.n == n && !e.sends) = some e → e.op = .recv x va → e.held = false →
        boardClear s.core e.serial e.foots = true →
        runWalk 0 (.ofPuts (putBytesAt va (slotBytes x.len x))) s = w → w.2.2.1 = .done →
        runReceive n s = (endStream e none w.2.2.2 w.1).upRecv n fun y => { y with owed := y.owed + 1 }) ∧
      (let goes : Prop := r.owed ≠ 0 ∧ circuitPasses s (sourceOf s n) n 1 ≠ 0 ∧
          flitsPass s.die.ingress (partSlot s) (0, 1) = true
       let given : State := s.upRecv n fun y => { y with owed := y.owed - 1 }
       (¬goes → giveCredit n s = s) ∧
       (goes → senderOf s n = none → giveCredit n s = given) ∧
       (∀ a, goes → senderOf s n = some a → giveCredit n s =
         back ((selDie a given).upSend n fun x => { x with credits := x.credits + 1 })))) ∧
    (∀ x, s.die.send[n] = some x →
      let goes : Prop := peerDie s s.die.num x = none ∧ x.credits < x.slots ∧ circuitPasses s s.die.num n 1 ≠ 0 ∧
        flitsPass (portIngress s s.die.num n) (partSlot s) (0, 1) = true
      (goes → exec (.creditReturn (.back n)) s = .next (s.upSend n fun x => { x with credits := x.credits + 1 })) ∧
      (¬goes → idle (.creditReturn (.back n))))) ∧
  (∀ s : State,
    (∀ m base size, dHead s.core = some m → m.op = .ringSet base size → ∃ t, exec .ringSetPerformed s = .next t ∧
      t.core.ringBase = base ∧ t.core.ringSize = size ∧ t.core.ringWoff = 0 ∧ t.core.ringFree = size) ∧
    (8 ≤ decodesRunning s ∨ longestWaiter s.cores = none → exec .decodeEngineAssign s = .next s) ∧
    (∀ c m, decodesRunning s < 8 → longestWaiter s.cores = some (c, m) →
      let run (u : State) : DecodeRun := if m.aborted then abortedDecode m else startDecode u m
      let begun (u : State) : Core := upD m.serial (fun x => { x with run := some (run u), foots := [] }) u.core
      exec .decodeEngineAssign s = .next (withCore c.num (fun u => { u with core := begun u }) s)) ∧
    (∀ m r, runningDecode s.core = some (m, r) → m.aborted = false →
      (∀ e l rs, r.recs = (e :: l) :: rs → dgPort m.op.dgs.2 = true → patchRoom s.core = true → ∃ t,
        exec .decodeRecordEmit s = .next t ∧ t.core.patch = s.core.patch ++ [⟨e, false⟩] ∧ t.die.mem = s.die.mem) ∧
      (∀ l rs, r.recs = l :: rs → dgPort m.op.dgs.2 = false →
        s.core.ringFree.toNat < (l.flatMap toBytes).length + 1024 →
        let ended (x : DecodeRun) : DecodeRun :=
          { x with recs := [], offs := [], status := 4, stopoff := nth x.offs 0 x.pos, err := none }
        exec .decodeRecordEmit s = .next { s with core := upRun m.serial ended s.core }) ∧
      (r.recs ≠ [] → exec .decodePageEnd s = .next s) ∧
      (r.recs = [] → exec .decodeRecordEmit s = .next s) ∧
      (r.recs = [] → dgPort m.op.dgs.2 = true → patchRoom s.core = true → ∃ t, exec .decodePageEnd s = .next t ∧
        t.core.patch = s.core.patch ++ [⟨pageEndRecord m r, true⟩] ∧ t.core.lastPage = BitVec.ofNat 8 r.status ∧
        t.die.mem = s.die.mem)))

/-- R335 to R337: circuits and buffer permits. RESERVE takes a wavelength and a port that are free; TUNE, a lock and a
failure, a drain and its end, and a release move a circuit through its states; a lock sets the credits to SLOTS, and
the end of a drain that is no swap's, a failure or an error breaks the stream. The minima of classes and partitions
never pass 4,096 together; a flit takes its class's permit, else its partition's, else the shared one, of an optical
port or of a die, never more than 4,096 together, and frees it when it leaves. The model's readings: logs 50, 51, 103.
-/
def Obligations.CircuitsAndPermits : Prop :=
  (∀ (s : State) (k : Nat) (c : Circuit), s.pkg.conns[k]? = some c →
    let put (x : Circuit) : State := { s with pkg := { s.pkg with conns := s.pkg.conns.set k x } }
    let idle (i : Instr) : Prop := exec i s = .next s
    (c.st = .reserved ∨ c.st = .closed ∧ c.swap = true → exec (.tune k) s = .next (put { c with st := .tuning })) ∧
    (c.st ≠ .reserved → c.st ≠ .closed ∨ c.swap = false → idle (.tune k)) ∧
    (c.st = .tuning →
      (c.swap = false → exec (.tuneLocked k) s = .next (atSender c
        (fun t => t.upSend c.n fun x => { x with credits := x.slots }) (put { c with st := .open, flight := 0 }))) ∧
      (c.swap = true → exec (.tuneLocked k) s = .next (put { c with st := .open, flight := 0, swap := false })) ∧
      exec (.linkFail k) s =
        .next (breakStream c ((put { c with st := .closed, swap := false }).post (.linkFail k)))) ∧
    (c.st ≠ .tuning → idle (.tuneLocked k) ∧ idle (.linkFail k)) ∧
    (c.st = .open →
      exec (.linkError k) s = .next (breakStream c ((put { c with st := .closed }).post (.linkFail k))) ∧
      let drains (swap : Bool) : State := put { c with
        st := .draining, flight := if c.src < 256 then readySends (selDie c.src s) c.n else 0, swap := swap }
      exec (.circuitDrain (.teardown k)) s = .next (drains false) ∧
      exec (.circuitDrain (.peerSwap k)) s = .next (drains true)) ∧
    (c.st ≠ .open → idle (.linkError k) ∧ idle (.circuitDrain (.teardown k)) ∧ idle (.circuitDrain (.peerSwap k))) ∧
    (c.st = .draining → c.flight = 0 →
      (c.swap = true → exec (.circuitDrainComplete k) s = .next (put { c with st := .closed })) ∧
      (c.swap = false → exec (.circuitDrainComplete k) s = .next (breakStream c (put { c with st := .closed })))) ∧
    (c.st ≠ .draining ∨ c.flight ≠ 0 → idle (.circuitDrainComplete k)) ∧
    (c.st = .reserved → exec (.circuitRelease k) s = .next (put { c with st := .free })) ∧
    (c.st = .closed → exec (.circuitRelease k) s = .next (clearBuffers c (put { c with st := .free }))) ∧
    (c.st ≠ .reserved → c.st ≠ .closed → idle (.circuitRelease k))) ∧
  (∀ (s : State) (wl port : Nat) (e : CircuitEnd) (n : Fin 16),
    let i : Instr := .reserve wl port e n
    let src : Nat := match e with
      | .sends d => d.val
      | .receives d => 256 + d.val
    let used : Prop := ∃ c ∈ s.pkg.conns, c.st ≠ .free ∧ (c.wavelength = wl ∨ c.port = port)
    let becomes (l : List Circuit) : State := { s with pkg := { s.pkg with conns := l } }
    (s.die.part = none ∨ used → exec i s = .next s) ∧
    (∀ p, s.die.part = some p → ¬used →
      let new : Circuit := ⟨.reserved, p, wl, port, src, n, 0, false⟩
      ((∀ c ∈ s.pkg.conns, c.st ≠ .free) → exec i s = .next (becomes (s.pkg.conns ++ [new]))) ∧
      (∀ k, s.pkg.conns.findIdx? (fun c => c.st == .free) = some k →
        exec i s = .next (becomes (s.pkg.conns.set k new))))) ∧
  (∀ (s : State) (x : Word) (cls : Fin 5) (slot : Fin 16),
    let g := match s.pkg.ingress with
      | none => s.die.ingress
      | some i => s.pkg.ports[i]
    let dest (h : Ingress) : State := s.upIngress fun _ => h
    let cmin (y : Word) : Nat := wbits y 11 0 + wbits y 23 12 + wbits y 35 24 + wbits y 47 36 + wbits y 59 48
    let pmins (v : Vector Word 16) : Nat := (v.toList.map fun y => wbits y 11 0).sum
    let shared := 4096 - cmin g.pmin - pmins g.partmin
    let room : Prop := g.flits.length < 4096
    let own : Prop := g.clsHeld[cls] < wbits g.pmin (12 * cls.val + 11) (12 * cls.val)
    let part : Prop := cls.val < 2 ∧ g.partHeld[slot] < wbits g.partmin[slot] 11 0
    let comes (h : Ingress) : Prop := exec (.flitArrival cls slot) s = .next (dest h)
    let goes (h : Ingress) : Prop := exec .flitLeavesIngress s = .next (dest h)
    (cmin x + pmins g.partmin ≤ 4096 →
      exec (.pminWrite x) s = .next (dest { g with pmin := x &&& 0x0FFFFFFFFFFFFFFF })) ∧
    (4096 < cmin x + pmins g.partmin → exec (.pminWrite x) s = .next s) ∧
    (let v := g.partmin.set slot (x &&& 0x00000000FFFF0FFF)
     (cmin g.pmin + pmins v ≤ 4096 → exec (.partminWrite slot x) s = .next (dest { g with partmin := v })) ∧
     (4096 < cmin g.pmin + pmins v → exec (.partminWrite slot x) s = .next s)) ∧
    (room → own → comes { g with
      clsHeld := g.clsHeld.set cls (g.clsHeld[cls] + 1), flits := g.flits ++ [(cls.val, slot.val, 0)] }) ∧
    (room → ¬own → part → comes { g with
      partHeld := g.partHeld.set slot (g.partHeld[slot] + 1), flits := g.flits ++ [(cls.val, slot.val, 1)] }) ∧
    (room → ¬own → ¬part → g.shared < shared → comes { g with
      shared := g.shared + 1, flits := g.flits ++ [(cls.val, slot.val, 2)] }) ∧
    (¬room ∨ (¬own ∧ ¬part ∧ shared ≤ g.shared) → exec (.flitArrival cls slot) s = .next s) ∧
    (g.flits = [] → exec .flitLeavesIngress s = .next s) ∧
    (∀ t, (g.flits = (cls.val, slot.val, 0) :: t →
        goes { g with clsHeld := g.clsHeld.set cls (g.clsHeld[cls] - 1), flits := t }) ∧
      (g.flits = (cls.val, slot.val, 1) :: t →
        goes { g with partHeld := g.partHeld.set slot (g.partHeld[slot] - 1), flits := t }) ∧
      (g.flits = (cls.val, slot.val, 2) :: t → goes { g with shared := g.shared - 1, flits := t })))

/-! Kernels and contexts (spec/13 R235 to R245; spec/18 R297, R298, R306 to R312). -/

/-- R235, R240, R245: SUBMIT puts a kernel in the context, or answers KIDBUSY; the end of its verification makes it
VERIFIED, or discards it with the status of the check that fails; LOAD makes it RESIDENT with its vector and a LOADING
context READY, or answers with its status; RETIRE discards it, or answers BUSY while a live continuation names it. A
microcode update sets MCREV on every die and drops the translations made under another. The model's readings: logs 57,
67. -/
def Obligations.KernelStates : Prop :=
  ∀ (s : State) (p : Partition) (k : Kernel) (kid : BitVec 32) (b : List Byte) (x : BitVec 64) (rev : BitVec 16),
    partOf s = some p →
    let put (s : State) (f : Partition → Partition) : State := s.upPart f
    let answers (s : State) (r st : String) (a : Nat) : State := s.post (.status r st a)
    let drop (p : Partition) : Partition := { p with kernels := p.kernels.filter fun k => k.kid != kid }
    (p.state ≠ .empty → p.state ≠ .killed →
      ((∃ k ∈ p.kernels, k.kid = kid) → exec (.submit kid b) s = .next (answers s "SUBMIT" "KIDBUSY" kid.toNat)) ∧
      ((∀ k ∈ p.kernels, k.kid ≠ kid) → exec (.submit kid b) s =
        .next (put s fun p => { p with kernels := p.kernels ++ [submitted kid b] }))) ∧
    (p.state = .empty ∨ p.state = .killed → exec (.submit kid b) s = .next s) ∧
    (p.kernel kid .submitted = some k →
      let r := selectImage s.pkg.cache s.die.feat s.die.cfgFeat s.die.mcrev s.die.numv kid.toNat k.container
      let s1 : State := { s with pkg := { s.pkg with cache := r.2 } }
      (r.1 = none → exec (.verificationEnd kid) s = .next (answers (put s1 drop) "SUBMIT" "IMAGE" 0)) ∧
      (∀ i, r.1 = some i →
        (∀ e a, verifyImage i s.die.feat = some (e, a) →
          exec (.verificationEnd kid) s = .next (answers (put s1 drop) "SUBMIT" e a)) ∧
        (verifyImage i s.die.feat = none → exec (.verificationEnd kid) s =
          .next (put s1 fun p => p.setKernel (i.kernel kid k.container))))) ∧
    (p.kernel kid .verified = some k →
      (∀ st, loadStatus s p k x.toNat = some st → exec (.load kid x) s = .next (answers s "LOAD" st kid.toNat)) ∧
      (loadStatus s p k x.toNat = none → exec (.load kid x) s = .next (put
        (eachDie ((List.range 12).filter fun d => k.stageLo ≤ d && d ≤ k.stageHi) (placeImage p.slot k.secs) s) fun p =>
          let q := p.setKernel { k with st := .resident, vector := x.toNat }
          { q with state := if q.state = .loading then .ready else q.state }))) ∧
    (p.kernel kid .resident = some k →
      ((∃ r ∈ contextRecords s p, r.kid = kid) → exec (.retire kid) s = .next (answers s "RETIRE" "BUSY" kid.toNat)) ∧
      ((∀ r ∈ contextRecords s p, r.kid ≠ kid) → exec (.retire kid) s = .next (put s drop))) ∧
    (exec (.microcodeUpdate rev) s = .next { s with
      die := { s.die with mcrev := rev.setWidth 64 }
      pkg := { s.pkg with
        mcrev := rev.setWidth 64
        dies := s.pkg.dies.map fun d => { d with mcrev := rev.setWidth 64 }
        cache := s.pkg.cache.filter fun e => e.mcrev == rev.setWidth 64 && e.numv == s.die.numv } })

/-- R230, R297, R298, R306, R307, R309 to R312, R321, R322, R371: a context moves only from the states the spec names,
and each request or end does there what it says; in every other state it changes nothing. A formed partition has an
EMPTY context; CREATE numbers it, wrapping past 0xFFFF to 1; START makes it RUNNING, or done at once, or answers with
its status; PREEMPT drains; HALT, the pre-emption limit and RESUME halt and run; SWAP, RESTORE and KILL write, load and
discard it, a restored core with RETRIED 0 (R230) and the mailbox within its 64 entries (R371). The model's readings:
logs 51, 68, 69, 70, 71, 92. -/
def Obligations.ContextStates : Prop :=
  (∀ (s : State) (p : Partition), partOf s = some p →
    let upd (s : State) (f : Partition → Partition) : State := s.upPart f
    let st := p.state
    let other (i : Instr) (l : List CtxState) : Prop := st ∉ l → exec i s = .next s
    (∀ sbase x, other .partitionRelease [.empty] ∧ other (.create sbase) [.empty] ∧
      other (.start x) [.ready]) ∧
    (∀ lim first va, other (.preempt lim) [.running] ∧ other .prelimitExpiry [.draining] ∧ other .halt [.running] ∧
      other .resume [.halted] ∧ other .swap [.halted] ∧ other .swapComplete [.halted] ∧ other (.restore first) [.swapped] ∧
      other .restoreComplete [.restoring] ∧ other .killScrubComplete [.killed] ∧
      other (.resolve va) [.running, .draining, .halted]) ∧
    other .kill [.loading, .ready, .running, .draining, .halted, .swapped, .restoring] ∧
    (st = .empty → ∃ t, exec .partitionRelease s = .next t ∧ ∀ q ∈ t.pkg.parts, q.num ≠ p.num) ∧
    (∀ sbase, st = .empty → exec (.create sbase) s = .next (upd (eachCtxDie (fun t => t.upDie (Die.cleared sbase)) s)
      fun p => { p with
        ctx := if p.ctx = 0xFFFF then 1 else p.ctx + 1, state := .loading, reason := .none, pre := false
        pipePrev := none, pipeNext := none })) ∧
    (∀ x, st = .ready →
      let q := { p with pipePrev := x.prev, pipeNext := x.next }
      (∀ e, startStatus q = some e → exec (.start x) s = .next (s.post (.status "START" e 0))) ∧
      (startStatus q = none → exec (.start x) s = .next (settleContext (upd
        (x.recs.foldl (fun t r => eachCtxDie (appendInitial r.1 (recordOf r.2)) t) (eachCtxDie (startDie q) s))
        fun p => { p with state := .running, reason := .none, pre := false, pipePrev := x.prev, pipeNext := x.next })))) ∧
    (st = .running →
      (∀ lim, exec (.preempt lim) s =
        .next (settleContext (upd s fun p => { p with state := .draining, pre := true, prelimit := lim }))) ∧
      exec .halt s = .next (upd (haltContext s) fun p => { p with state := .halted, reason := .operator })) ∧
    (st = .draining →
      (p.prelimit = 0 → exec .prelimitExpiry s = .next s) ∧
      (p.prelimit ≠ 0 → exec .prelimitExpiry s =
        .next (upd (haltContext s) fun p => { p with state := .halted, reason := .drain }))) ∧
    (st = .halted →
      (p.reason = .fault → exec .resume s = .next s) ∧
      (p.reason = .demand → exec .resume s = .next (s.post (.status "RESUME" "BUSY" 0))) ∧
      (p.reason ≠ .demand → p.swapHeld = true → exec .resume s = .next s) ∧
      (p.reason ≠ .fault → p.reason ≠ .demand → p.swapHeld = false → exec .resume s = .next (resumeContext false s)) ∧
      (p.reason = .fault → exec .swap s = .next s) ∧
      (p.reason ≠ .fault →
        exec .swap s = .next (drainOwned true p.num (upd s fun p => { p with swapHeld := true }))) ∧
      (p.swapHeld = false ∨ p.reason = .fault ∨ swapReady s p = false → exec .swapComplete s = .next s) ∧
      (p.swapHeld = true → p.reason ≠ .fault → swapReady s p = true →
        let saved := eachCtxDie (swapDie p.first p.slot) (upd s fun p => { p with shadow := [] })
        let gone := saved.upMbox p.slot fun _ => []
        exec .swapComplete s = .next ((upd gone fun x => { x with
          state := .swapped, swapHeld := false, savedMbox := vget s.pkg.mbox p.slot [] }).post (.status "SWAP" "OK" 0)))) ∧
    (∀ va, st = .running ∨ st = .draining ∨ st = .halted → ∃ t, t = eachCtxDie (unparkDie va) s ∧
      exec (.resolve va) s =
        .next (if st = .halted ∧ p.reason = .demand ∧ p.swapHeld = false then resumeContext p.pre t else t)) ∧
    (∀ first, st = .swapped →
      (∀ e, restoreStatus s p first = some e → exec (.restore first) s = .next (s.post (.status "RESTORE" e 0))) ∧
      (restoreStatus s p first = none → ∃ q, placeOf s p first = some q ∧ exec (.restore first) s =
        .next ((restoreMbox q.slot p.savedMbox (eachDie (diesOf q.num s) (loadDie p q) s)).upPkg
          fun k => moveContext p q (retune p q k)))) ∧
    (∀ (q : Partition) (x : DieShadow) (u : State) (c : Core), x.cores.find? (fun c => c.num == u.core.num) = some c →
      c.record.isSome = true → (loadCore q x u).core = { c with partid := partWord q, retried := false }) ∧
    (∀ (slot : Fin 16) (saved : List (Nat × Word)) (u : State),
      let t := restoreMbox slot saved u
      t.pkg.mbox[slot] = (saved ++ u.pkg.mbox[slot]).take 64 ∧
      t.pkg.drops[slot].toNat = min 0xFFFF (u.pkg.drops[slot].toNat + (saved.length + u.pkg.mbox[slot].length - 64))) ∧
    (st = .restoring → exec .restoreComplete s = .next (resumeContext false (eachCtxDie rearm s))) ∧
    (st ∉ [CtxState.empty, .killed] →
      let r := eachCtxDie (fun t => (eachCore killCore t).upDie Die.killed) s
      ∃ u, exec .kill s = .next (upd u fun x => { x with
        state := .killed, reason := .none, pre := false, swapHeld := false, hostOpen := false, shadow := [], savedMbox := []
        kernels := if (partDies p.num r).any (fun y => y.1.any fun c => c.record.isSome) then x.kernels else [] })) ∧
    (st = .killed →
      (((partDies p.num s).any fun y => y.1.any fun c => c.record.isSome) = true → exec .killScrubComplete s = .next s) ∧
      (((partDies p.num s).any fun y => y.1.any fun c => c.record.isSome) = false → ∃ u, exec .killScrubComplete s =
        .next ((upd u fun p => { p with state := .empty, reason := .none, kernels := [] }).post (.killed p.num))))) ∧
  (∀ (s : State) (num : BitVec 16) (slot : Fin 16) (first count : Nat) (mask : BitVec 16),
    let ds := s.dies.filter fun d => first ≤ d.num && d.num < first + count
    let fits : Prop := 1 ≤ count ∧ count ≤ 12 ∧ ds.length = count ∧
      (∀ q ∈ s.pkg.parts, q.num ≠ num.toNat ∧ q.slot ≠ slot) ∧
      ∀ d ∈ ds, d.boot = .online ∧ d.service = .online ∧ d.part = none
    (¬fits → exec (.formPartition num slot first count mask) s = .next s) ∧
    (fits → ∃ u : State, u.pkg.parts = s.pkg.parts ++ [newPartition num.toNat slot first count] ∧
      exec (.formPartition num slot first count mask) s = .next (eachDie (ds.map Die.num) (fun t => { t with
        die := { t.die with part := some num.toNat, feat := t.die.cfgFeat &&& ~~~(mask.setWidth 64) } }) u)))

/-! The steward (spec/01, spec/11, spec/12, spec/19, spec/21, spec/23). -/

/-- R12 to R14, R317, R323, R338, R340, R367 to R369, R375: page tables, service, clocks and boot. The steward writes
one entry of a partition's tables, or answers BUSY or STAMPMIX. A die goes out of service once its memory fits
elsewhere, and returns as it was, or cleared after its self-test; evacuated pages that return replace themselves alone.
A domain floor never passes any die's earliest bound; CLOCK_WIDE is posted once. A die goes from COLD, where it takes
its grade and features from the configuration record, through BIST and AUTH to ONLINE, and is fenced where a test, its
authentication, its key or a rail fails. The model's readings: logs 72, 73, 74, 75, 102. -/
def Obligations.ServiceAndBoot : Prop :=
  ∀ (s : State) (addr f : Nat) (entry : BitVec 64) (ok : Bool),
    let die (g : Die → Die) : State := { s with die := g s.die }
    let answers (st : String) : State := s.post (.status "PAGE_TABLE_UPDATE" st addr)
    let old := natOf (memGetN s.die.mem addr 8)
    let inMem : Prop := addr % 8 = 0 ∧ (levelOf s.die.ncrew addr = .vault ∨ levelOf s.die.ncrew addr = .dram)
    (∀ p, partOf s = some p →
      let busy : Prop := (p.state = .running ∨ p.state = .draining) ∧ (old % 2 = 1 ∨ entry.toNat % 2 = 0)
      (¬inMem → exec (.pageTableUpdate addr entry) s = .next s) ∧
      (inMem → busy → exec (.pageTableUpdate addr entry) s = .next (answers "BUSY")) ∧
      let t := writeMem addr (bytesOf 8 entry.toNat) [] s
      (inMem → ¬busy → stampMix s.die t.die entry.toNat = true →
        exec (.pageTableUpdate addr entry) s = .next (answers "STAMPMIX")) ∧
      (inMem → ¬busy → stampMix s.die t.die entry.toNat = false →
        exec (.pageTableUpdate addr entry) s = .next (recordStamps s.die old entry.toNat t))) ∧
    (s.die.service = .online →
      (s.die.boot ≠ .online → exec .offline s = .next s) ∧
      (s.die.boot = .online → heldInService s = true →
        exec .offline s = .next (s.post (.status "OFFLINE" "BUSY" s.die.num))) ∧
      (s.die.boot = .online → heldInService s = false →
        exec .offline s = .next (checkEvacuation (die fun d => { d with service := .draining, copying := false }))) ∧
      exec .evacuationComplete s = .next s ∧ exec (.online ok) s = .next s) ∧
    ((evacBytes s ≤ freeMemory s → checkEvacuation s = die fun d => { d with copying := true }) ∧
      (freeMemory s < evacBytes s →
        checkEvacuation s = s.post (.offlineRefused s.die.num (evacBytes s - freeMemory s)))) ∧
    (s.die.service = .draining →
      (s.die.copying = false → exec .offline s = .next (checkEvacuation s) ∧ exec .evacuationComplete s = .next s) ∧
      (s.die.copying = true → exec .offline s = .next s ∧ ∃ t, exec .evacuationComplete s = .next t ∧
        t.die = { s.die with service := .offline, copying := false, away := true } ∧
        ∀ p, partOf s = some p → p.state ≠ .empty → p.state ≠ .killed → ∃ e ∈ t.pkg.evac,
          e.part = p.num ∧ e.ctx = p.ctx ∧ e.pos = s.die.num - p.first ∧ e.mem = s.die.mem) ∧
      exec (.online ok) s = .next (die fun d => { d with service := .online, copying := false, found := [] })) ∧
    (∀ (e : Evacuated) (d : Die) (a : Nat), memOk e.mem = true → memOk d.mem = true →
      let t := Die.takesBack e d
      memOk t.mem = true ∧ memGet t.mem a = (if e.returns d a then memGet e.mem a else memGet d.mem a) ∧
      (e.pages = [] → e.tables = [] → t.mem = d.mem)) ∧
    (s.die.service = .offline →
      (∃ t, exec (.online true) s = .next t ∧ t.die.service = .online ∧ t.die.mem = []) ∧
      exec (.online false) s = .next (fence "ONLINE" (die fun d => { d with service := .fenced }))) ∧
    ((∃ d ∈ s.dies, d.earliest < f) → exec (.domainFloor f) s = .next s) ∧
    ((∀ d ∈ s.dies, f ≤ d.earliest) →
      exec (.domainFloor f) s = .next (settleWaiters (die fun d => { d with floor := max d.floor f }))) ∧
    (let wide : Prop := s.die.clkw.toNat < s.die.latest - s.die.earliest
     (¬wide → exec .clockWide s = .next (die fun d => { d with widePosted := false })) ∧
     (wide → s.die.widePosted = true → exec .clockWide s = .next s) ∧
     (wide → s.die.widePosted = false →
       exec .clockWide s = .next ((die fun d => { d with widePosted := true }).post (.clockWide s.die.num)))) ∧
    ((∀ d ∈ s.dies, d.boot ≠ .cold) → exec .resetRelease s = .next s) ∧
    ((∃ d ∈ s.dies, d.boot = .cold) → ∃ t, exec .resetRelease s = .next t ∧
      (t.pkg.bootCode = if Config.sigOk s.pkg.cfgRecord s.pkg.signature = false then 1
        else if s.pkg.recSerial ≠ s.pkg.flashSerial then 2 else 0) ∧
      (s.die.boot = .cold → t.die.boot = if t.pkg.bootCode = 0 then .bist else .cfgfail) ∧
      (s.die.boot = .cold → t.pkg.bootCode = 0 → t.die.ncrew = 14 + (Config.cfgGrade s.pkg.cfgRecord).val ∧
        t.die.cfgser = Config.cfgSerial s.pkg.cfgRecord ∧ t.die.level = 7 ∧
        t.die.feat = (Config.cfgFeatures s.pkg.cfgRecord s.die.num).setWidth 64 ||| 0x10000)) ∧
    (s.die.boot = .bist → exec (.bistComplete true) s = .next (die fun d => { d with boot := .auth }) ∧
      exec (.bistComplete false) s = .next (reportBoot s (fence "BIST" s))) ∧
    (s.die.boot ≠ .bist → exec (.bistComplete ok) s = .next s) ∧
    (s.die.boot = .auth →
      (keyCertified s = true → rootUp s = true →
        exec (.authComplete true) s = .next (reportBoot s (die fun d => { d with boot := .online }))) ∧
      (keyCertified s = true → rootUp s = false → exec (.authComplete true) s = .next s) ∧
      (keyCertified s = false → exec (.authComplete true) s = .next (reportBoot s (fence "AUTH" s))) ∧
      exec (.authComplete false) s = .next (reportBoot s (fence "AUTH" s)) ∧
      exec .authTimeout s = .next (reportBoot s (fence "AUTH" s))) ∧
    (s.die.boot ≠ .auth → exec (.authComplete ok) s = .next s ∧ exec .authTimeout s = .next s) ∧
    (let r := s.post (.railFault s.die.num)
     (s.die.boot = .fenced → exec .railFault s = .next r) ∧
     (s.die.boot ≠ .fenced → exec .railFault s = .next (reportBoot r (fence "RAIL" r)))) ∧
    (∀ reason, (fence reason s).die.boot = .fenced ∧ (fence reason s).die.part = none ∧
      (s.die.num < 12 → (fence reason s).pkg.bootFenced.toNat.testBit s.die.num = true))

/-- R45, R229, R315, R370 to R374: sensors, stepping, mailboxes, the host and the steward's registers. A tick raises L
while it is hot or over power, or to 7 at a trip, and lowers it one level after HOLD calm ticks; a die whose level
changes counts one change. A full mailbox drops and counts; DROPS is cleared where ones are written. A host access
outside what the partition opened answers an error; inside, a write is performed and a read returns the bytes, and a
read of BAR0 returns the register's fields in their places. Each SPDM request is answered. A register keeps its
reserved bits 0. The model's readings: logs 76, 77, 78, 79. -/
def Obligations.SensorsHostAndRegisters : Prop :=
  ∀ (s : State) (x : Word) (tj tin : BitVec 12) (pwr : BitVec 16) (slot : Fin 16) (q : Fin 64) (addr len : Nat)
    (b : List Byte),
    let die (g : Die → Die) : State := { s with die := g s.die }
    let box := s.pkg.mbox[slot]
    (exec (.thermRefresh tj tin pwr) s = .next (die fun d => { d with
      tj := tj, tin := tin, pwr := pwr, trip := decide (880 ≤ tj.toNat), pwrs := d.pwrs ++ [pwr.toNat] })) ∧
    (let bad : Prop := wbits x 7 0 ≤ wbits x 15 8 ∨ wbits x 39 28 ≤ wbits x 51 40 ∨ wbits x 23 16 = 0
     (bad → exec (.astepWrite x) s = .next s) ∧
     (¬bad → ∃ k : Package, exec (.astepWrite x) s = .next { s with pkg := k } ∧ k.tup.toNat = wbits x 7 0 ∧
       k.tdown.toNat = wbits x 15 8 ∧ k.hold.toNat = wbits x 23 16 ∧ k.lmin.val = wbits x 26 24 ∧
       k.pup.toNat = wbits x 39 28 ∧ k.pdown.toNat = wbits x 51 40)) ∧
    (let k := s.pkg
     let y := sensed s
     let l := k.lvl.val
     let hot : Prop := 8 * k.tup.toNat ≤ y.t ∨ 160 * k.pup.toNat ≤ y.p
     let cool : Prop := y.t < 8 * k.tdown.toNat ∧ y.p < 160 * k.pdown.toNat
     (bootDone s = false → exec .steppingTick s = .next s) ∧
     (bootDone s = true → ∃ t, exec .steppingTick s = .next t ∧
       (y.trip = true → t.pkg.lvl = 7 ∧ t.pkg.calm = 0) ∧
       (y.trip = false →
         (hot → t.pkg.lvl.val = min (l + 1) 7 ∧ t.pkg.calm = 0) ∧
         (¬hot → l < k.lmin.val → t.pkg.lvl.val = l + 1 ∧ t.pkg.calm = 0) ∧
         (¬hot → k.lmin.val ≤ l → cool → k.hold.toNat ≤ k.calm + 1 → k.lmin.val < l →
           t.pkg.lvl.val = l - 1 ∧ t.pkg.calm = 0) ∧
         (¬hot → k.lmin.val ≤ l → cool → k.calm + 1 < k.hold.toNat ∨ l = k.lmin.val →
           t.pkg.lvl.val = l ∧ t.pkg.calm = k.calm + 1) ∧
         (¬hot → k.lmin.val ≤ l → ¬cool → t.pkg.lvl.val = l ∧ t.pkg.calm = 0)) ∧
       (s.die.boot = .online → t.die.level = t.pkg.lvl ∧
         t.die.changes = if s.die.level = t.pkg.lvl then s.die.changes else s.die.changes + 1))) ∧
    (64 ≤ box.length + mboxPopped s slot → exec (.mboxWrite slot x) s = .next { s with pkg := { s.pkg with
      drops := s.pkg.drops.set slot (if s.pkg.drops[slot] = 0xFFFF then 0xFFFF else s.pkg.drops[slot] + 1) } }) ∧
    (box.length + mboxPopped s slot < 64 →
      let t : State := { s with pkg := { s.pkg with
        mbox := s.pkg.mbox.set slot (box ++ [(s.fresh, x)]), nextId := s.pkg.nextId + 1 } }
      (slotPart s slot = none → exec (.mboxWrite slot x) s = .next t) ∧
      (∀ p, slotPart s slot = some p →
        exec (.mboxWrite slot x) s = .next (eachDie (diesOf p.num s) settleWaiters t))) ∧
    (exec (.mboxstsWrite slot x) s = .next { s with pkg := { s.pkg with
      drops := s.pkg.drops.set slot (s.pkg.drops[slot] &&& ~~~(BitVec.ofNat 16 (wbits x 31 16))) } }) ∧
    (exec .hostopen s = .next (s.upPart fun p => { p with hostOpen := true }) ∧
      exec .hostclose s = .next (s.upPart fun p => { p with hostOpen := false })) ∧
    ((∀ d ∈ s.dies, d.num ≠ addr / 2 ^ 36) → exec (.hostCxlRead (.mem addr) len) s = .next (s.post (.hostError addr)) ∧
      exec (.hostCxlWrite addr b) s = .next (s.post (.hostError addr))) ∧
    (addr / 2 ^ 36 = s.die.num →
      let pa := addr % 2 ^ 36
      (hostReaches s pa len = false → exec (.hostCxlRead (.mem addr) len) s = .next (s.post (.hostError addr))) ∧
      (hostReaches s pa len = true → (∀ k < len, (hostByte s (pa + k)).isSome = true) → ∃ t : State,
        exec (.hostCxlRead (.mem addr) len) s = .next (t.post
          (.hostData addr ((List.range len).filterMap fun k => hostByte s (pa + k)))) ∧ t.die.mem = s.die.mem) ∧
      (hostReaches s pa b.length = false → exec (.hostCxlWrite addr b) s = .next (s.post (.hostError addr))) ∧
      (hostReaches s pa b.length = true → (∀ k < b.length, isStamped s.die (pa + k) = false) → ∃ t : State,
        exec (.hostCxlWrite addr b) s = .next t ∧ (memOk s.die.mem = true → ∀ a, ¬ringed s.die a →
          memGet t.die.mem a = memGet (memSetN s.die.mem pa b) a))) ∧
    (∀ d : Fin 12,
      let word (r : Bar0) (f : Word → Prop) : Prop :=
        ∃ y, exec (.hostCxlRead (.bar0 r) len) s = .next (s.post (.hostWord r y)) ∧ f y
      word .bootsts (fun y => wbits y 3 0 = s.pkg.bootCode.toNat ∧ wbits y 15 4 = 0 ∧
        wbits y 27 16 = s.pkg.bootFenced.toNat ∧ wbits y 63 28 = 0) ∧
      word .astep (fun y => wbits y 7 0 = s.pkg.tup.toNat ∧ wbits y 15 8 = s.pkg.tdown.toNat ∧
        wbits y 23 16 = s.pkg.hold.toNat ∧ wbits y 26 24 = s.pkg.lmin.val ∧ wbits y 27 27 = 0 ∧
        wbits y 39 28 = s.pkg.pup.toNat ∧ wbits y 51 40 = s.pkg.pdown.toNat ∧ wbits y 63 52 = 0) ∧
      (mboxHeld s slot ≤ 64 → word (.mboxsts slot) fun y => wbits y 6 0 = box.length + mboxPopped s slot ∧
        wbits y 15 7 = 0 ∧ wbits y 31 16 = s.pkg.drops[slot].toNat ∧ wbits y 63 32 = 0) ∧
      (s.die.num = d.val → (∀ e ∈ s.pkg.dies, e.num ≠ d.val) →
        word (.therm d) (fun y => wbits y 11 0 = s.die.tj.toNat ∧ wbits y 23 12 = s.die.tin.toNat ∧
          wbits y 39 24 = s.die.pwr.toNat ∧ wbits y 40 40 = s.die.trip.toNat ∧ wbits y 63 41 = 0) ∧
        word (.paced d) (fun y =>
          wbits y 31 0 = (s.cores.map fun c => c.pacedN.toNat).foldl (· + ·) 0 % 2 ^ 32 ∧
          wbits y 63 32 = (s.cores.map fun c => c.stretchN.toNat).foldl (· + ·) 0 % 2 ^ 32)) ∧
      ((∀ e ∈ s.dies, e.num ≠ d.val) → word (.therm d) (fun y => y = 0) ∧ word (.paced d) fun y => y = 0)) ∧
    (exec .getVersion s = .next (s.post (.spdm "GET_VERSION" (Config.spdmReply 0 []))) ∧
      exec .getCapabilities s = .next (s.post (.spdm "GET_CAPABILITIES" (Config.spdmReply 1 []))) ∧
      exec .negotiateAlgorithms s = .next (s.post (.spdm "NEGOTIATE_ALGORITHMS" (Config.spdmReply 2 []))) ∧
      exec .getDigests s = .next (s.post (.spdm "GET_DIGESTS" (Config.spdmReply 3 []))) ∧
      exec .getCertificate s = .next (s.post (.spdm "GET_CERTIFICATE" (Config.spdmReply 4 []))) ∧
      exec (.challenge b) s = .next (s.post (.spdm "CHALLENGE" (Config.spdmReply 5 b))) ∧
      ∃ l, exec .getMeasurements s = .next (s.post (.spdm "GET_MEASUREMENTS" l))) ∧
    (exec (.scrubError 4 addr false) s = .next ((die fun d => { d with
        ueccLines := joinIds d.ueccLines [addr / 64 * 64] }).post (.eccError s.die.num addr)) ∧
      exec (.scrubError 4 addr true) s =
        .next (die fun d => { d with ueccLines := d.ueccLines.filter (· != addr / 64 * 64) })) ∧
    (exec (.registerWrite .dbgctl x) s =
        .next (die fun d => { d with dbgPend := x.toNat.testBit 0, dbgStep := x.toNat.testBit 1 }) ∧
      exec (.registerWrite .rvzto x) s = .next (die fun d => { d with rvzto := x.setWidth 32 }) ∧
      exec (.registerWrite .clkw x) s = .next (die fun d => { d with clkw := x.setWidth 32 }) ∧
      exec (.registerWrite .horizon x) s = .next (die fun d => { d with horizon := x.setWidth 32 }) ∧
      (∃ t, exec (.registerWrite (.qcfg q) x) s = .next t ∧ t.die.queues[q].cfg = x &&& 0x0000FFFFFFFF001F) ∧
      (slotRuns s slot = false ∨ s.die.ptroots[slot].toNat % 2 = 0 →
        let t := die fun d => { d with ptroots := d.ptroots.set slot (x &&& 0x0003FFFFFFFFE001) }
        (stampMix s.die t.die 0 = true →
          exec (.registerWrite (.ptroot slot) x) s = .next (s.post (.status "REGISTER_WRITE" "STAMPMIX" slot))) ∧
        (stampMix s.die t.die 0 = false →
          exec (.registerWrite (.ptroot slot) x) s = .next (recordStamps s.die 0 0 t))) ∧
      (slotRuns s slot = true → s.die.ptroots[slot].toNat % 2 = 1 →
        exec (.registerWrite (.ptroot slot) x) s = .next s) ∧
      (let a : Aperture := { s.die.aps[slot] with ctl := x &&& 0x00000000FFFF0FFF }
       (a.ok = true → exec (.registerWrite (.apctl slot) x) s = .next (die fun d => { d with aps := d.aps.set slot a })) ∧
       (a.ok = false → exec (.registerWrite (.apctl slot) x) s = .next s)))

end
end

