-- ==== Sys2Proof/Laws/Codes.lean ====
section
/-! SUPPORT. Each small code and each register number reads back as what it was written from, and fits its field. -/

namespace Sys2Proof

/-! Register fields. -/

@[simp] theorem rs_val (r : SReg) : rs r.val = r := by simp [rs]
@[simp] theorem rv_num (r : VReg) : rv (numV r) = r := by
  have h : (64 + r.val) % 32 = r.val := by omega
  ext; simp [rv, numV, h]
@[simp] theorem rp_num (r : PReg) : rp (numP r) = r := by
  have h : (96 + r.val) % 16 = r.val := by omega
  ext; simp [rp, numP, h]
@[simp] theorem rm_num (r : MReg) : rm (numM r) = r := by
  have h : (112 + r.val) % 8 = r.val := by omega
  ext; simp [rm, numM, h]
@[simp] theorem rm_val (r : MReg) : rm r.val = r := by simp [rm]
@[simp] theorem ra_num (r : AReg) : ra (numA r) = r := by
  have h : (120 + r.val) % 8 = r.val := by omega
  ext; simp [ra, numA, h]
@[simp] theorem sv_num (o : SV) : sv o.num = o := by
  cases o with
  | v r =>
    have h : ¬ numV r < 64 := by simp [numV]
    simp [sv, SV.num, h]
  | s r => simp [sv, SV.num]
@[simp] theorem tid_val (t : Fin 64) : tid t.val = t := by simp [tid]
@[simp] theorem bv_toNat {w : Nat} (x : BitVec w) : bv x.toNat = x := by simp [bv]
@[simp] theorem bit0_toNat (b : Bool) : bit0 b.toNat = b := by cases b <;> rfl
@[simp] theorem bit0_zero : bit0 0 = false := rfl
@[simp] theorem bit0_one : bit0 1 = true := rfl

theorem numV_lt (r : VReg) : numV r < 128 := by have := r.isLt; simp only [numV]; omega
theorem numP_lt (r : PReg) : numP r < 128 := by have := r.isLt; simp only [numP]; omega
theorem numM_lt (r : MReg) : numM r < 128 := by have := r.isLt; simp only [numM]; omega
theorem numA_lt (r : AReg) : numA r < 128 := by have := r.isLt; simp only [numA]; omega
theorem SV.num_lt (o : SV) : o.num < 128 := by
  cases o with
  | v r => exact numV_lt r
  | s r => have := r.isLt; simp only [SV.num]; omega

/-! Codes. -/

@[simp] theorem condOf_code (k : Cond) : condOf k.code = some k := by cases k <;> rfl
@[simp] theorem etyOf_code (t : EType) : etyOf t.code = some t := by cases t <;> rfl
@[simp] theorem clsOf_code (k : LClass) : clsOf k.code = some k := by cases k <;> rfl
@[simp] theorem styOf_code (t : SizeTy) : styOf t.code = some t := by cases t <;> rfl
@[simp] theorem scopeOf_code (k : Scope) : scopeOf k.code = k := by cases k <;> rfl
@[simp] theorem ordOf_code (k : MemOrd) : ordOf k.code = some k := by cases k <;> rfl
@[simp] theorem ordOf_mod (k : MemOrd) : ordOf (k.code % 8) = some k := by cases k <;> rfl
@[simp] theorem geoPredOf_code (k : GeoPred) : geoPredOf k.code = some k := by cases k <;> rfl
@[simp] theorem geoOptOf_code (k : GeoOpt) : geoOptOf k.code = some k := by cases k <;> rfl
@[simp] theorem maskOpOf_code (k : MaskOp) : maskOpOf k.code = k := by cases k <;> rfl
@[simp] theorem convOf_code (k : ConvKind) : convOf k.code = k := by cases k <;> rfl
@[simp] theorem cvtOf_code (k : CvtDst) : cvtOf k.code = k := by
  cases k with
  | ty t => cases t <;> rfl
  | mx8 => rfl
  | mx4 => rfl
@[simp] theorem lvlOf_val (n : Fin 3) : lvlOf n.val = some n := by revert n; decide
@[simp] theorem cregOf_num (r : CReg) : cregOf r.num = r := by
  cases r with
  | lc n => revert n; decide
  | ls n => revert n; decide
  | le n => revert n; decide
  | _ => rfl
@[simp] theorem gregOf_num (g : GReg) : gregOf g.num = g := by
  cases g with
  | mg n => revert n; decide
  | cg n => revert n; decide
  | dg n => revert n; decide
  | lg n => revert n; decide

theorem Cond.code_lt (k : Cond) : k.code < 10 := by cases k <;> decide
theorem EType.code_lt (t : EType) : t.code < 12 := by cases t <;> decide
theorem LClass.code_lt (k : LClass) : k.code < 3 := by cases k <;> decide
theorem SizeTy.code_lt (t : SizeTy) : t.code < 7 := by cases t <;> decide
theorem Scope.code_lt (k : Scope) : k.code < 5 := by cases k <;> decide
theorem MemOrd.code_lt (k : MemOrd) : k.code < 5 := by cases k <;> decide
theorem FenceKind.code_lt (k : FenceKind) : k.code < 5 := by cases k <;> decide
theorem GeoPred.code_lt (k : GeoPred) : k.code < 5 := by cases k <;> decide
theorem GeoOpt.code_lt (k : GeoOpt) : k.code < 3 := by cases k <;> decide
theorem MaskOp.code_lt (k : MaskOp) : k.code < 4 := by cases k <;> decide
theorem ConvKind.code_lt (k : ConvKind) : k.code < 3 := by cases k <;> decide
theorem CvtDst.code_lt (k : CvtDst) : k.code < 14 := by
  cases k with
  | ty t => have := t.code_lt; simp only [CvtDst.code]; omega
  | mx8 => decide
  | mx4 => decide
theorem CReg.num_lt (r : CReg) : r.num < 128 := by
  cases r with
  | lc n => have := n.isLt; simp only [CReg.num]; omega
  | ls n => have := n.isLt; simp only [CReg.num]; omega
  | le n => have := n.isLt; simp only [CReg.num]; omega
  | _ => decide
theorem GReg.num_lt (g : GReg) : g.num < 64 := by
  cases g with
  | mg n => have := n.isLt; simp only [GReg.num]; omega
  | cg n => have := n.isLt; simp only [GReg.num]; omega
  | dg n => have := n.isLt; simp only [GReg.num]; omega
  | lg n => have := n.isLt; simp only [GReg.num]; omega
theorem RM.code_lt (k : RM) : k.code < 4 := by cases k <;> decide
theorem PpAct.code_lt (k : PpAct) : k.code < 4 := by cases k <;> decide
theorem toNat_lt2 (b : Bool) : b.toNat < 2 := by cases b <;> decide
theorem VMod.num_lt (m : VMod) : m.num < 128 := by
  have := m.mask.isLt; have := m.rm.code_lt; have := toNat_lt2 m.zero; have := toNat_lt2 m.sat
  simp only [VMod.num]; omega
theorem AMod.code_lt (o : AMod) : o.code < 16 := by
  have := o.ord.code_lt; have := toNat_lt2 o.w32; simp only [AMod.code]; omega
theorem PpFn.num_lt (f : PpFn) : f.num < 64 := by
  have := f.act.code_lt; have := f.rm.code_lt; have := toNat_lt2 f.sbias; have := toNat_lt2 f.sat
  simp only [PpFn.num]; omega
theorem repImm_lt (n : BitVec 12) (k : BitVec 3) (m : BitVec 4) : repImm n k m < 2 ^ 30 := by
  have := n.isLt; have := k.isLt; have := m.isLt; simp only [repImm]; omega

/-! Fields packed together. -/

/-- The mask, ZERO, RM and SAT of an immediate whose higher bits hold something else. -/
theorem vm_add (m : VMod) (k : Nat) : vm (m.num + 128 * k) = m := by
  obtain ⟨⟨mk, hk⟩, z, r, s⟩ := m
  simp only [vm, VMod.num, VMod.mk.injEq, bit0]
  refine ⟨?_, ?_, ?_, ?_⟩
  · ext; cases z <;> cases r <;> cases s <;> simp [RM.code] <;> omega
  · cases z <;> cases r <;> cases s <;> simp [RM.code] <;> omega
  · have : (mk + 8 * z.toNat + 16 * r.code + 64 * s.toNat + 128 * k) / 16 % 4 = r.code := by
      cases z <;> cases r <;> cases s <;> simp [RM.code] <;> omega
    simp only [rmOf, this]; cases r <;> rfl
  · cases z <;> cases r <;> cases s <;> simp [RM.code] <;> omega
@[simp] theorem vm_num (m : VMod) : vm m.num = m := by simpa using vm_add m 0
/-- What an immediate holds above MASK, ZERO, RM and SAT. -/
theorem vm_above (m : VMod) (k : Nat) : (m.num + 128 * k) / 128 = k := by have := m.num_lt; omega
@[simp] theorem ppFnOf_num (f : PpFn) : ppFnOf f.num = f := by
  obtain ⟨a, b, r, s⟩ := f
  cases a <;> cases b <;> cases r <;> cases s <;> rfl
@[simp] theorem ordOf_amod (o : AMod) : ordOf (o.code % 8) = some o.ord := by
  obtain ⟨k, w, c⟩ := o
  cases k <;> cases w <;> cases c <;> rfl
@[simp] theorem bit0_amod (o : AMod) : bit0 (o.code / 8) = o.w32 := by
  obtain ⟨k, w, c⟩ := o
  cases k <;> cases w <;> cases c <;> rfl
@[simp] theorem scopeOf_mul (k : Scope) : scopeOf (8 * k.code / 8) = k := by cases k <;> rfl
@[simp] theorem scopeOf_add (f : MemOrd) (k : Scope) : scopeOf ((f.code + 8 * k.code) / 8) = k := by
  cases f <;> cases k <;> rfl
@[simp] theorem ordOf_add (f : MemOrd) (k : Scope) : ordOf ((f.code + 8 * k.code) % 8) = some f := by
  cases f <;> cases k <;> rfl
@[simp] theorem clsOf_add (c : LClass) (t : SizeTy) : clsOf ((c.code + 4 * t.code) % 4) = some c := by
  cases c <;> cases t <;> rfl
@[simp] theorem clsOf_mod (c : LClass) : clsOf (c.code % 4) = some c := by cases c <;> rfl
@[simp] theorem styOf_add (c : LClass) (t : SizeTy) : styOf ((c.code + 4 * t.code) / 4) = some t := by
  cases c <;> cases t <;> rfl
@[simp] theorem styOf_mul (t : SizeTy) : styOf (4 * t.code / 4) = some t := by cases t <;> rfl
@[simp] theorem geoPredOf_add (p : GeoPred) (o : GeoOpt) : geoPredOf ((p.code + 8 * o.code) % 8) = some p := by
  cases p <;> cases o <;> rfl
@[simp] theorem geoOptOf_add (p : GeoPred) (o : GeoOpt) : geoOptOf ((p.code + 8 * o.code) / 8) = some o := by
  cases p <;> cases o <;> rfl
@[simp] theorem bv_repImm (n : BitVec 12) (k : BitVec 3) (m : BitVec 4) : (bv (repImm n k m) : BitVec 12) = n := by
  apply BitVec.eq_of_toNat_eq
  have := n.isLt; have := k.isLt; have := m.isLt
  simp only [bv, repImm, BitVec.toNat_ofNat]; omega
@[simp] theorem bv_repStride (n : BitVec 12) (k : BitVec 3) (m : BitVec 4) :
    (bv (repImm n k m / 4096) : BitVec 3) = k := by
  apply BitVec.eq_of_toNat_eq
  have := n.isLt; have := k.isLt; have := m.isLt
  simp only [bv, repImm, BitVec.toNat_ofNat]; omega
@[simp] theorem bv_repFmask (n : BitVec 12) (k : BitVec 3) (m : BitVec 4) :
    (bv (repImm n k m / 32768) : BitVec 4) = m := by
  apply BitVec.eq_of_toNat_eq
  have := n.isLt; have := k.isLt; have := m.isLt
  simp only [bv, repImm, BitVec.toNat_ofNat]; omega
/-- A small number below a second one written above it. -/
theorem fin_low {n : Nat} [NeZero n] (x : Fin n) (k : Nat) : Fin.ofNat n (x.val + n * k) = x := by
  ext; simp [Nat.add_mul_mod_self_left, Nat.mod_eq_of_lt x.isLt]
/-- The number above a small one. -/
theorem fin_high {n : Nat} (x : Fin n) (k : Nat) : (x.val + n * k) / n = k := by
  have hx := x.isLt
  have : 0 < n := by omega
  rw [Nat.add_mul_div_left _ _ this, Nat.div_eq_of_lt hx]; omega
/-- A number that fits its field. -/
theorem fin_val {n : Nat} [NeZero n] (x : Fin n) : Fin.ofNat n x.val = x := by simp
theorem lvlOf_low (n : Fin 3) (k : Nat) : lvlOf ((n.val + 4 * k) % 4) = some n := by
  have h : (n.val + 4 * k) % 4 = n.val := by omega
  rw [h, lvlOf_val]
theorem lvl_high (n : Fin 3) (k : Nat) : (n.val + 4 * k) / 4 = k := by omega
theorem cvtOf_low (d : CvtDst) (p : Nat) : cvtOf ((d.code + 32 * p) % 32) = d := by
  have h : (d.code + 32 * p) % 32 = d.code := by have := d.code_lt; omega
  rw [h, cvtOf_code]
theorem cvt_high (m : VMod) (d : CvtDst) (p : Nat) : (m.num + 128 * (d.code + 32 * p)) / 4096 = p := by
  have := m.num_lt; have := d.code_lt; omega
theorem bit0_above (m : VMod) (g : Fin 8) (b : Bool) : bit0 ((m.num + 128 * (g.val + 8 * b.toNat)) / 1024) = b := by
  have h : (m.num + 128 * (g.val + 8 * b.toNat)) / 1024 = b.toNat := by have := m.num_lt; omega
  rw [h, bit0_toNat]
theorem mul_div (k : Nat) : 128 * k / 128 = k := by omega
theorem bit0_planes (g : Fin 8) (b : Bool) : bit0 (128 * (g.val + 8 * b.toNat) / 1024) = b := by
  have h : 128 * (g.val + 8 * b.toNat) / 1024 = b.toNat := by omega
  rw [h, bit0_toNat]
theorem bit0_not (b : Bool) : bit0 (1 - b.toNat) = !b := by cases b <;> rfl

end Sys2Proof
end

