-- ==== Sys2Proof/Laws/PerInstr.lean ====
section
/-! SUPPORT. Statements for every instruction, made one by one: coding. -/

namespace Sys2Proof.Laws

/-- The fields of a syllable fit its format (R53); OPC has eight bits and MOD five (R50). -/
def Fits (e : Enc) : Prop :=
  e.opc < 256 ∧ e.md < 32 ∧ e.f.d < 128 ∧ e.f.a < 128 ∧ e.f.b < 128 ∧ e.f.c < 128 ∧ e.f.tida < 64 ∧ e.f.tidb < 64
    ∧ e.f.tag < 64 ∧ match fmtOf e.opc with
      | .a => e.f.imm < 2 ^ 16 ∧ e.f.tida = 0 ∧ e.f.tidb = 0 ∧ e.f.tag = 0
      | .i => e.f.imm < 2 ^ 30 ∧ e.f.b = 0 ∧ e.f.c = 0 ∧ e.f.tida = 0 ∧ e.f.tidb = 0 ∧ e.f.tag = 0
      | .j => e.f.imm < 2 ^ 44 ∧ e.f.d = 0 ∧ e.f.a = 0 ∧ e.f.b = 0 ∧ e.f.c = 0 ∧ e.f.tida = 0 ∧ e.f.tidb = 0
        ∧ e.f.tag = 0
      | .e => e.f.imm < 2 ^ 19 ∧ e.f.a = 0 ∧ e.f.b = 0 ∧ e.f.c = 0

namespace Coding

/-- The opcode, MOD and fields that carry an instruction fit the syllable, and the checks of R63 on them give that
instruction back when it is well-formed. -/
def Statement (i : Instr) : Prop := ∀ e, i.enc = some e → Fits e ∧ (i.wf = true → decodeEnc e = .ok i)

/-- Fields that no entry uses are zero (R54). -/
def unusedZero (e : Enc) : Bool :=
  let u := usesOf e.opc e.md
  fieldZero u.d e.f.d && fieldZero u.a e.f.a && fieldZero u.b e.f.b && fieldZero u.c e.f.c
    && (if e.opc == 0xC7 then e.f.imm / 128 == 0 else true)

/-- Fields of format A that fit. -/
theorem fitsA {o md d a b c imm : Nat} (hk : fmtOf o = .a) (ho : o < 256) (hm : md < 32) (hd : d < 128) (ha : a < 128)
    (hb : b < 128) (hc : c < 128) (hi : imm < 2 ^ 16) : Fits ⟨o, md, ⟨d, a, b, c, imm, 0, 0, 0⟩⟩ := by
  simp only [Nat.reducePow] at hi
  simp [Fits, *]

/-- Fields of format I that fit. -/
theorem fitsI {o md d a imm : Nat} (hk : fmtOf o = .i) (ho : o < 256) (hm : md < 32) (hd : d < 128) (ha : a < 128)
    (hi : imm < 2 ^ 30) : Fits ⟨o, md, ⟨d, a, 0, 0, imm, 0, 0, 0⟩⟩ := by
  simp only [Nat.reducePow] at hi
  simp [Fits, *]

/-- Fields of format J that fit. -/
theorem fitsJ {o md imm : Nat} (hk : fmtOf o = .j) (ho : o < 256) (hm : md < 32)
    (hi : imm < 2 ^ 44) : Fits ⟨o, md, ⟨0, 0, 0, 0, imm, 0, 0, 0⟩⟩ := by
  simp only [Nat.reducePow] at hi
  simp [Fits, *]

/-- Fields of format E that fit. -/
theorem fitsE {o md d imm p q g : Nat} (hk : fmtOf o = .e) (ho : o < 256) (hm : md < 32) (hd : d < 128)
    (hi : imm < 2 ^ 19) (hp : p < 64) (hq : q < 64) (hg : g < 64) : Fits ⟨o, md, ⟨d, 0, 0, 0, imm, p, q, g⟩⟩ := by
  simp only [Nat.reducePow] at hi
  simp [Fits, *]

/-- The statement from its parts: the reading of the fields, the unused ones and the sizes. -/
theorem coded {i : Instr} {e : Enc} (h : i.enc = some e) (ha : assigned e.opc = true)
    (hb : build e.opc e.md e.f = some i) (hz : unusedZero e = true) (hf : Fits e) : Statement i := by
  intro e' h'
  rw [h] at h'
  cases h'
  refine ⟨hf, fun hw => ?_⟩
  simp only [Instr.wf, Bool.and_eq_true] at hw
  simp only [unusedZero, Bool.and_eq_true] at hz
  have hfo : fieldsOk e e i = true := by
    simp only [fieldsOk, hz.1.1.1.1, hz.1.1.1.2, hz.1.1.2, hz.1.2, hw.1.2, beq_self_eq_true, Bool.and_true]
    simpa using hz.2
  simp [decodeEnc, ha, hb, h, hfo, hw.1.1, hw.2]

/-- An event is carried by no syllable. -/
theorem event {i : Instr} (h : i.enc = none) : Statement i := by
  intro e h'
  rw [h] at h'
  cases h'

theorem sNop (imm : BitVec 16) : Statement (.sNop imm) :=
  coded rfl rfl (by show some _ = _; simp) rfl
    (fitsA rfl (by decide) (by decide) (by decide) (by decide) (by decide) (by decide) (by have := imm.isLt; omega))
theorem sAdd (d a b : SReg) : Statement (.sAdd d a b) :=
  coded rfl rfl (by show some _ = _; simp) rfl
    (fitsA rfl (by decide) (by decide) (by have := d.isLt; omega) (by have := a.isLt; omega) (by have := b.isLt; omega) (by decide) (by decide))
theorem sSub (d a b : SReg) : Statement (.sSub d a b) :=
  coded rfl rfl (by show some _ = _; simp) rfl
    (fitsA rfl (by decide) (by decide) (by have := d.isLt; omega) (by have := a.isLt; omega) (by have := b.isLt; omega) (by decide) (by decide))
theorem sAddi (d a : SReg) (imm : BitVec 30) : Statement (.sAddi d a imm) :=
  coded rfl rfl (by show some _ = _; simp) rfl
    (fitsI rfl (by decide) (by decide) (by have := d.isLt; omega) (by have := a.isLt; omega) (by have := imm.isLt; omega))
theorem sMovi (d : SReg) (imm : BitVec 30) : Statement (.sMovi d imm) :=
  coded rfl rfl (by show some _ = _; simp) rfl
    (fitsI rfl (by decide) (by decide) (by have := d.isLt; omega) (by decide) (by have := imm.isLt; omega))
theorem sMovhi (d a : SReg) (imm : BitVec 30) : Statement (.sMovhi d a imm) :=
  coded rfl rfl (by show some _ = _; simp) rfl
    (fitsI rfl (by decide) (by decide) (by have := d.isLt; omega) (by have := a.isLt; omega) (by have := imm.isLt; omega))
theorem sAnd (d a b : SReg) : Statement (.sAnd d a b) :=
  coded rfl rfl (by show some _ = _; simp) rfl
    (fitsA rfl (by decide) (by decide) (by have := d.isLt; omega) (by have := a.isLt; omega) (by have := b.isLt; omega) (by decide) (by decide))
theorem sOr (d a b : SReg) : Statement (.sOr d a b) :=
  coded rfl rfl (by show some _ = _; simp) rfl
    (fitsA rfl (by decide) (by decide) (by have := d.isLt; omega) (by have := a.isLt; omega) (by have := b.isLt; omega) (by decide) (by decide))
theorem sXor (d a b : SReg) : Statement (.sXor d a b) :=
  coded rfl rfl (by show some _ = _; simp) rfl
    (fitsA rfl (by decide) (by decide) (by have := d.isLt; omega) (by have := a.isLt; omega) (by have := b.isLt; omega) (by decide) (by decide))
theorem sAndn (d a b : SReg) : Statement (.sAndn d a b) :=
  coded rfl rfl (by show some _ = _; simp) rfl
    (fitsA rfl (by decide) (by decide) (by have := d.isLt; omega) (by have := a.isLt; omega) (by have := b.isLt; omega) (by decide) (by decide))
theorem sAndi (d a : SReg) (imm : BitVec 30) : Statement (.sAndi d a imm) :=
  coded rfl rfl (by show some _ = _; simp) rfl
    (fitsI rfl (by decide) (by decide) (by have := d.isLt; omega) (by have := a.isLt; omega) (by have := imm.isLt; omega))
theorem sOri (d a : SReg) (imm : BitVec 30) : Statement (.sOri d a imm) :=
  coded rfl rfl (by show some _ = _; simp) rfl
    (fitsI rfl (by decide) (by decide) (by have := d.isLt; omega) (by have := a.isLt; omega) (by have := imm.isLt; omega))
theorem sXori (d a : SReg) (imm : BitVec 30) : Statement (.sXori d a imm) :=
  coded rfl rfl (by show some _ = _; simp) rfl
    (fitsI rfl (by decide) (by decide) (by have := d.isLt; omega) (by have := a.isLt; omega) (by have := imm.isLt; omega))
theorem sShl (d a b : SReg) : Statement (.sShl d a b) :=
  coded rfl rfl (by show some _ = _; simp) rfl
    (fitsA rfl (by decide) (by decide) (by have := d.isLt; omega) (by have := a.isLt; omega) (by have := b.isLt; omega) (by decide) (by decide))
theorem sShr (d a b : SReg) : Statement (.sShr d a b) :=
  coded rfl rfl (by show some _ = _; simp) rfl
    (fitsA rfl (by decide) (by decide) (by have := d.isLt; omega) (by have := a.isLt; omega) (by have := b.isLt; omega) (by decide) (by decide))
theorem sSar (d a b : SReg) : Statement (.sSar d a b) :=
  coded rfl rfl (by show some _ = _; simp) rfl
    (fitsA rfl (by decide) (by decide) (by have := d.isLt; omega) (by have := a.isLt; omega) (by have := b.isLt; omega) (by decide) (by decide))
theorem sShli (d a : SReg) (pos : Fin 64) : Statement (.sShli d a pos) :=
  coded rfl rfl (by show some _ = _; simp) rfl
    (fitsA rfl (by decide) (by decide) (by have := d.isLt; omega) (by have := a.isLt; omega) (by decide) (by decide) (by have := pos.isLt; omega))
theorem sShri (d a : SReg) (pos : Fin 64) : Statement (.sShri d a pos) :=
  coded rfl rfl (by show some _ = _; simp) rfl
    (fitsA rfl (by decide) (by decide) (by have := d.isLt; omega) (by have := a.isLt; omega) (by decide) (by decide) (by have := pos.isLt; omega))
theorem sSari (d a : SReg) (pos : Fin 64) : Statement (.sSari d a pos) :=
  coded rfl rfl (by show some _ = _; simp) rfl
    (fitsA rfl (by decide) (by decide) (by have := d.isLt; omega) (by have := a.isLt; omega) (by decide) (by decide) (by have := pos.isLt; omega))
theorem sRor (d a b : SReg) : Statement (.sRor d a b) :=
  coded rfl rfl (by show some _ = _; simp) rfl
    (fitsA rfl (by decide) (by decide) (by have := d.isLt; omega) (by have := a.isLt; omega) (by have := b.isLt; omega) (by decide) (by decide))
theorem sMin (d a b : SReg) : Statement (.sMin d a b) :=
  coded rfl rfl (by show some _ = _; simp) rfl
    (fitsA rfl (by decide) (by decide) (by have := d.isLt; omega) (by have := a.isLt; omega) (by have := b.isLt; omega) (by decide) (by decide))
theorem sMax (d a b : SReg) : Statement (.sMax d a b) :=
  coded rfl rfl (by show some _ = _; simp) rfl
    (fitsA rfl (by decide) (by decide) (by have := d.isLt; omega) (by have := a.isLt; omega) (by have := b.isLt; omega) (by decide) (by decide))
theorem sMinu (d a b : SReg) : Statement (.sMinu d a b) :=
  coded rfl rfl (by show some _ = _; simp) rfl
    (fitsA rfl (by decide) (by decide) (by have := d.isLt; omega) (by have := a.isLt; omega) (by have := b.isLt; omega) (by decide) (by decide))
theorem sMaxu (d a b : SReg) : Statement (.sMaxu d a b) :=
  coded rfl rfl (by show some _ = _; simp) rfl
    (fitsA rfl (by decide) (by decide) (by have := d.isLt; omega) (by have := a.isLt; omega) (by have := b.isLt; omega) (by decide) (by decide))
theorem sAbs (d a : SReg) : Statement (.sAbs d a) :=
  coded rfl rfl (by show some _ = _; simp) rfl
    (fitsA rfl (by decide) (by decide) (by have := d.isLt; omega) (by have := a.isLt; omega) (by decide) (by decide) (by decide))
theorem sNeg (d a : SReg) : Statement (.sNeg d a) :=
  coded rfl rfl (by show some _ = _; simp) rfl
    (fitsA rfl (by decide) (by decide) (by have := d.isLt; omega) (by have := a.isLt; omega) (by decide) (by decide) (by decide))
theorem sClz (d a : SReg) : Statement (.sClz d a) :=
  coded rfl rfl (by show some _ = _; simp) rfl
    (fitsA rfl (by decide) (by decide) (by have := d.isLt; omega) (by have := a.isLt; omega) (by decide) (by decide) (by decide))
theorem sCtz (d a : SReg) : Statement (.sCtz d a) :=
  coded rfl rfl (by show some _ = _; simp) rfl
    (fitsA rfl (by decide) (by decide) (by have := d.isLt; omega) (by have := a.isLt; omega) (by decide) (by decide) (by decide))
theorem sPopc (d a : SReg) : Statement (.sPopc d a) :=
  coded rfl rfl (by show some _ = _; simp) rfl
    (fitsA rfl (by decide) (by decide) (by have := d.isLt; omega) (by have := a.isLt; omega) (by decide) (by decide) (by decide))
theorem sBswap (d a : SReg) : Statement (.sBswap d a) :=
  coded rfl rfl (by show some _ = _; simp) rfl
    (fitsA rfl (by decide) (by decide) (by have := d.isLt; omega) (by have := a.isLt; omega) (by decide) (by decide) (by decide))
theorem sSext (d a : SReg) (w1 : Fin 64) : Statement (.sSext d a w1) :=
  coded rfl rfl (by show some _ = _; simp only [rs_val, Nat.mul_div_cancel_left w1.val (show 0 < 64 by decide), fin_val]) rfl
    (fitsA rfl (by decide) (by decide) (by have := d.isLt; omega) (by have := a.isLt; omega) (by decide) (by decide) (by have := w1.isLt; omega))
theorem sZext (d a : SReg) (w1 : Fin 64) : Statement (.sZext d a w1) :=
  coded rfl rfl (by show some _ = _; simp only [rs_val, Nat.mul_div_cancel_left w1.val (show 0 < 64 by decide), fin_val]) rfl
    (fitsA rfl (by decide) (by decide) (by have := d.isLt; omega) (by have := a.isLt; omega) (by decide) (by decide) (by have := w1.isLt; omega))
theorem sBfx (signed : Bool) (d a : SReg) (pos w1 : Fin 64) : Statement (.sBfx signed d a pos w1) :=
  coded rfl rfl (by show some _ = _; simp only [rs_val, bit0_toNat, fin_low, fin_high, fin_val]) rfl
    (fitsA rfl (by decide) (by have := toNat_lt2 signed; omega) (by have := d.isLt; omega) (by have := a.isLt; omega) (by decide) (by decide) (by have := pos.isLt; have := w1.isLt; omega))
theorem sBfi (d a b : SReg) (pos w1 : Fin 64) : Statement (.sBfi d a b pos w1) :=
  coded rfl rfl (by show some _ = _; simp only [rs_val, fin_low, fin_high, fin_val]) rfl
    (fitsA rfl (by decide) (by decide) (by have := d.isLt; omega) (by have := a.isLt; omega) (by have := b.isLt; omega) (by decide) (by have := pos.isLt; have := w1.isLt; omega))
theorem sSel (d a b : SReg) (c : PReg) : Statement (.sSel d a b c) :=
  coded rfl rfl (by show some _ = _; simp) rfl
    (fitsA rfl (by decide) (by decide) (by have := d.isLt; omega) (by have := a.isLt; omega) (by have := b.isLt; omega) (by have := numP_lt c; omega) (by decide))
theorem sMul (d a b : SReg) : Statement (.sMul d a b) :=
  coded rfl rfl (by show some _ = _; simp) rfl
    (fitsA rfl (by decide) (by decide) (by have := d.isLt; omega) (by have := a.isLt; omega) (by have := b.isLt; omega) (by decide) (by decide))
theorem sMulh (d a b : SReg) : Statement (.sMulh d a b) :=
  coded rfl rfl (by show some _ = _; simp) rfl
    (fitsA rfl (by decide) (by decide) (by have := d.isLt; omega) (by have := a.isLt; omega) (by have := b.isLt; omega) (by decide) (by decide))
theorem sMulhu (d a b : SReg) : Statement (.sMulhu d a b) :=
  coded rfl rfl (by show some _ = _; simp) rfl
    (fitsA rfl (by decide) (by decide) (by have := d.isLt; omega) (by have := a.isLt; omega) (by have := b.isLt; omega) (by decide) (by decide))
theorem sMadd (d a b c : SReg) : Statement (.sMadd d a b c) :=
  coded rfl rfl (by show some _ = _; simp) rfl
    (fitsA rfl (by decide) (by decide) (by have := d.isLt; omega) (by have := a.isLt; omega) (by have := b.isLt; omega) (by have := c.isLt; omega) (by decide))
theorem sCmp (cond : Cond) (d : PReg) (a b : SReg) : Statement (.sCmp cond d a b) :=
  coded rfl rfl (by show Option.map _ _ = _; simp) rfl
    (fitsA rfl (by decide) (by have := cond.code_lt; omega) (by have := numP_lt d; omega) (by have := a.isLt; omega) (by have := b.isLt; omega) (by decide) (by decide))
theorem sCmpi (cond : Cond) (d : PReg) (a : SReg) (imm : BitVec 30) : Statement (.sCmpi cond d a imm) :=
  coded rfl rfl (by show Option.map _ _ = _; simp) rfl
    (fitsI rfl (by decide) (by have := cond.code_lt; omega) (by have := numP_lt d; omega) (by have := a.isLt; omega) (by have := imm.isLt; omega))
theorem sPand (d a b : PReg) : Statement (.sPand d a b) :=
  coded rfl rfl (by show some _ = _; simp) rfl
    (fitsA rfl (by decide) (by decide) (by have := numP_lt d; omega) (by have := numP_lt a; omega) (by have := numP_lt b; omega) (by decide) (by decide))
theorem sPor (d a b : PReg) : Statement (.sPor d a b) :=
  coded rfl rfl (by show some _ = _; simp) rfl
    (fitsA rfl (by decide) (by decide) (by have := numP_lt d; omega) (by have := numP_lt a; omega) (by have := numP_lt b; omega) (by decide) (by decide))
theorem sPxor (d a b : PReg) : Statement (.sPxor d a b) :=
  coded rfl rfl (by show some _ = _; simp) rfl
    (fitsA rfl (by decide) (by decide) (by have := numP_lt d; omega) (by have := numP_lt a; omega) (by have := numP_lt b; omega) (by decide) (by decide))
theorem sPnot (d a : PReg) : Statement (.sPnot d a) :=
  coded rfl rfl (by show some _ = _; simp) rfl
    (fitsA rfl (by decide) (by decide) (by have := numP_lt d; omega) (by have := numP_lt a; omega) (by decide) (by decide) (by decide))
theorem sPset (d : PReg) (a : SReg) : Statement (.sPset d a) :=
  coded rfl rfl (by show some _ = _; simp) rfl
    (fitsA rfl (by decide) (by decide) (by have := numP_lt d; omega) (by have := a.isLt; omega) (by decide) (by decide) (by decide))
theorem sLea (k : Fin 4) (d a b : SReg) (imm : BitVec 16) : Statement (.sLea k d a b imm) :=
  coded rfl rfl (by show some _ = _; simp) rfl
    (fitsA rfl (by decide) (by have := k.isLt; omega) (by have := d.isLt; omega) (by have := a.isLt; omega) (by have := b.isLt; omega) (by decide) (by have := imm.isLt; omega))
theorem sMov (d a : SReg) : Statement (.sMov d a) :=
  coded rfl rfl (by show some _ = _; simp) rfl
    (fitsA rfl (by decide) (by decide) (by have := d.isLt; omega) (by have := a.isLt; omega) (by decide) (by decide) (by decide))
theorem sCrd (d : SReg) (c : CReg) : Statement (.sCrd d c) :=
  coded rfl rfl (by show some _ = _; simp) rfl
    (fitsA rfl (by decide) (by decide) (by have := d.isLt; omega) (by decide) (by decide) (by decide) (by have := c.num_lt; omega))
theorem sCwr (c : CReg) (a : SReg) : Statement (.sCwr c a) :=
  coded rfl rfl (by show some _ = _; simp) rfl
    (fitsA rfl (by decide) (by decide) (by decide) (by have := a.isLt; omega) (by decide) (by decide) (by have := c.num_lt; omega))
theorem sGrd (d : SReg) (g : GReg) : Statement (.sGrd d g) :=
  coded rfl rfl (by show some _ = _; simp) rfl
    (fitsA rfl (by decide) (by decide) (by have := d.isLt; omega) (by decide) (by decide) (by decide) (by have := g.num_lt; omega))
theorem sGwr (g : GReg) (a : SReg) : Statement (.sGwr g a) :=
  coded rfl rfl (by show some _ = _; simp) rfl
    (fitsA rfl (by decide) (by decide) (by decide) (by have := a.isLt; omega) (by decide) (by decide) (by have := g.num_lt; omega))
theorem sSpl (d : SReg) (slot : Fin 512) : Statement (.sSpl d slot) :=
  coded rfl rfl (by show some _ = _; simp) rfl
    (fitsA rfl (by decide) (by decide) (by have := d.isLt; omega) (by decide) (by decide) (by decide) (by have := slot.isLt; omega))
theorem sSps (a : SReg) (slot : Fin 512) : Statement (.sSps a slot) :=
  coded rfl rfl (by show some _ = _; simp) rfl
    (fitsA rfl (by decide) (by decide) (by decide) (by have := a.isLt; omega) (by decide) (by decide) (by have := slot.isLt; omega))
theorem sClk (strict : Bool) (d : SReg) : Statement (.sClk strict d) :=
  coded rfl rfl (by show some _ = _; simp) rfl
    (fitsA rfl (by decide) (by have := toNat_lt2 strict; omega) (by have := d.isLt; omega) (by decide) (by decide) (by decide) (by decide))
theorem sChk (x : ChkPair) : Statement (.sChk x) := by
  cases x with
  | s a b =>
    exact coded rfl rfl (by show some (Instr.sChk (if a.val < 64 then _ else _)) = _; rw [if_pos a.isLt, rs_val, rs_val]) rfl
      (fitsA rfl (by decide) (by decide) (by decide) (by have := a.isLt; omega) (by have := b.isLt; omega) (by decide) (by decide))
  | p a b =>
    exact coded rfl rfl (by show some (Instr.sChk (if numP a < 64 then _ else if numP a < 112 then _ else _)) = _; rw [if_neg (by simp only [numP]; omega), if_pos (by have := a.isLt; simp only [numP]; omega), rp_num, rp_num]) rfl
      (fitsA rfl (by decide) (by decide) (by decide) (by have := numP_lt a; omega) (by have := numP_lt b; omega) (by decide) (by decide))
  | m a b =>
    exact coded rfl rfl (by show some (Instr.sChk (if numM a < 64 then _ else if numM a < 112 then _ else _)) = _; rw [if_neg (by simp only [numM]; omega), if_neg (by simp only [numM]; omega), rm_num, rm_num]) rfl
      (fitsA rfl (by decide) (by decide) (by decide) (by have := numM_lt a; omega) (by have := numM_lt b; omega) (by decide) (by decide))
theorem sMskIns (q : Fin 4) (d : MReg) (a : SReg) (b : MReg) : Statement (.sMskIns q d a b) :=
  coded rfl rfl (by obtain ⟨k, hk⟩ := q; interval_cases k <;> (show some _ = _; simp) <;> rfl) (by simp [unusedZero, usesOf, useIf, fieldZero])
    (fitsA rfl (by decide) (by have := q.isLt; omega) (by have := numM_lt d; omega) (by have := a.isLt; omega) (by have := numM_lt b; omega) (by decide) (by decide))
theorem sMskExt (q : Fin 4) (d : SReg) (a : MReg) : Statement (.sMskExt q d a) :=
  coded rfl rfl (by obtain ⟨k, hk⟩ := q; interval_cases k <;> (show some _ = _; simp) <;> rfl) (by simp [unusedZero, usesOf, useIf, fieldZero])
    (fitsA rfl (by decide) (by have := q.isLt; omega) (by have := d.isLt; omega) (by have := numM_lt a; omega) (by decide) (by decide) (by decide))
theorem sMski (d : MReg) (n : Fin 257) : Statement (.sMski d n) :=
  coded rfl rfl (by show some _ = _; simp) rfl
    (fitsI rfl (by decide) (by decide) (by have := numM_lt d; omega) (by decide) (by have := n.isLt; omega))
theorem bBr (off : BitVec 44) : Statement (.bBr off) :=
  coded rfl rfl (by show some _ = _; simp) rfl
    (fitsJ rfl (by decide) (by decide) (by have := off.isLt; omega))
theorem bCall (off : BitVec 44) : Statement (.bCall off) :=
  coded rfl rfl (by show some _ = _; simp) rfl
    (fitsJ rfl (by decide) (by decide) (by have := off.isLt; omega))
theorem bRet (a : SReg) : Statement (.bRet a) :=
  coded rfl rfl (by show some _ = _; simp) rfl
    (fitsA rfl (by decide) (by decide) (by decide) (by have := a.isLt; omega) (by decide) (by decide) (by decide))
theorem bJmpi (a : SReg) : Statement (.bJmpi a) :=
  coded rfl rfl (by show some _ = _; simp) rfl
    (fitsA rfl (by decide) (by decide) (by decide) (by have := a.isLt; omega) (by decide) (by decide) (by decide))
theorem bCalli (a : SReg) (cls : BitVec 16) : Statement (.bCalli a cls) :=
  coded rfl rfl (by show some _ = _; simp) rfl
    (fitsA rfl (by decide) (by decide) (by decide) (by have := a.isLt; omega) (by decide) (by decide) (by have := cls.isLt; omega))
theorem bLoop (lvl : Fin 3) (a : SReg) (off : BitVec 30) : Statement (.bLoop lvl a off) :=
  coded rfl rfl (by show Option.map _ _ = _; simp) rfl
    (fitsI rfl (by decide) (by have := lvl.isLt; omega) (by decide) (by have := a.isLt; omega) (by have := off.isLt; omega))
theorem bPloop (lvl : Fin 3) (k1 : Fin 4) (a : SReg) (off : BitVec 30) : Statement (.bPloop lvl k1 a off) :=
  coded rfl rfl (by show Option.map _ _ = _; simp only [lvlOf_low, lvl_high, fin_val, rs_val, bv_toNat, Option.map_some]) rfl
    (fitsI rfl (by decide) (by have := lvl.isLt; have := k1.isLt; omega) (by decide) (by have := a.isLt; omega) (by have := off.isLt; omega))
theorem bRep (reg : Option SReg) (count : BitVec 12) (stride : BitVec 3) (fmask : BitVec 4) : Statement (.bRep reg count stride fmask) := by
  cases reg with
  | none =>
    exact coded rfl rfl (by show some _ = _; simp) rfl
      (fitsI rfl (by decide) (by decide) (by decide) (by decide) (by have := repImm_lt count stride fmask; omega))
  | some r =>
    exact coded rfl rfl (by show some _ = _; simp) rfl
      (fitsI rfl (by decide) (by decide) (by decide) (by have := r.isLt; omega) (by have := repImm_lt count stride fmask; omega))
theorem bCkpt : Statement (.bCkpt) :=
  coded rfl rfl (by show some _ = _; simp) rfl
    (fitsA rfl (by decide) (by decide) (by decide) (by decide) (by decide) (by decide) (by decide))
theorem bRvz (a : SReg) (slot : Fin 16) (mask : BitVec 8) : Statement (.bRvz a slot mask) :=
  coded rfl rfl (by show some _ = _; simp only [rs_val, fin_low, fin_high, bv_toNat]) rfl
    (fitsI rfl (by decide) (by decide) (by decide) (by have := a.isLt; omega) (by have := slot.isLt; have := mask.isLt; omega))
theorem bCbar (d : SReg) : Statement (.bCbar d) :=
  coded rfl rfl (by show some _ = _; simp) rfl
    (fitsI rfl (by decide) (by decide) (by have := d.isLt; omega) (by decide) (by decide))
theorem bYield (a : SReg) (q : Fin 64) : Statement (.bYield a q) :=
  coded rfl rfl (by show some _ = _; simp) rfl
    (fitsI rfl (by decide) (by decide) (by decide) (by have := a.isLt; omega) (by have := q.isLt; omega))
theorem bWaitTime (a b : SReg) : Statement (.bWaitTime a b) :=
  coded rfl rfl (by show some _ = _; simp) rfl
    (fitsA rfl (by decide) (by decide) (by decide) (by have := a.isLt; omega) (by have := b.isLt; omega) (by decide) (by decide))
theorem bWaitMbox (b : SReg) : Statement (.bWaitMbox b) :=
  coded rfl rfl (by show some _ = _; simp) rfl
    (fitsA rfl (by decide) (by decide) (by decide) (by decide) (by have := b.isLt; omega) (by decide) (by decide))
theorem bWaitCrewq (b : SReg) (q : Fin 4) : Statement (.bWaitCrewq b q) :=
  coded rfl rfl (by show some _ = _; simp) rfl
    (fitsA rfl (by decide) (by decide) (by decide) (by decide) (by have := b.isLt; omega) (by decide) (by have := q.isLt; omega))
theorem bWaitRecv (b : SReg) (n : Fin 16) : Statement (.bWaitRecv b n) :=
  coded rfl rfl (by show some _ = _; simp) rfl
    (fitsA rfl (by decide) (by decide) (by decide) (by decide) (by have := b.isLt; omega) (by decide) (by have := n.isLt; omega))
theorem bMwait (a b c : SReg) : Statement (.bMwait a b c) :=
  coded rfl rfl (by show some _ = _; simp) rfl
    (fitsA rfl (by decide) (by decide) (by decide) (by have := a.isLt; omega) (by have := b.isLt; omega) (by have := c.isLt; omega) (by decide))
theorem bPhase (b : SReg) : Statement (.bPhase b) :=
  coded rfl rfl (by show some _ = _; simp) rfl
    (fitsA rfl (by decide) (by decide) (by decide) (by decide) (by have := b.isLt; omega) (by decide) (by decide))
theorem bEnd : Statement (.bEnd) :=
  coded rfl rfl (by show some _ = _; simp) rfl
    (fitsA rfl (by decide) (by decide) (by decide) (by decide) (by decide) (by decide) (by decide))
theorem bSpawn (a : SReg) (q : Fin 64) : Statement (.bSpawn a q) :=
  coded rfl rfl (by show some _ = _; simp) rfl
    (fitsA rfl (by decide) (by decide) (by decide) (by have := a.isLt; omega) (by decide) (by decide) (by have := q.isLt; omega))
theorem bWany (d a : SReg) : Statement (.bWany d a) :=
  coded rfl rfl (by show some _ = _; simp) rfl
    (fitsA rfl (by decide) (by decide) (by have := d.isLt; omega) (by have := a.isLt; omega) (by decide) (by decide) (by decide))
theorem bWall (d a : SReg) : Statement (.bWall d a) :=
  coded rfl rfl (by show some _ = _; simp) rfl
    (fitsA rfl (by decide) (by decide) (by have := d.isLt; omega) (by have := a.isLt; omega) (by decide) (by decide) (by decide))
theorem bFfr (d a : SReg) : Statement (.bFfr d a) :=
  coded rfl rfl (by show some _ = _; simp) rfl
    (fitsA rfl (by decide) (by decide) (by have := d.isLt; omega) (by have := a.isLt; omega) (by decide) (by decide) (by decide))
theorem bTrap (code : BitVec 16) : Statement (.bTrap code) :=
  coded rfl rfl (by show some _ = _; simp) rfl
    (fitsI rfl (by decide) (by decide) (by decide) (by decide) (by have := code.isLt; omega))
theorem bGroupQuery (d a : SReg) : Statement (.bGroupQuery d a) :=
  coded rfl rfl (by show some _ = _; simp) rfl
    (fitsA rfl (by decide) (by decide) (by have := d.isLt; omega) (by have := a.isLt; omega) (by decide) (by decide) (by decide))
theorem bGroupForm (a b : SReg) : Statement (.bGroupForm a b) :=
  coded rfl rfl (by show some _ = _; simp) rfl
    (fitsA rfl (by decide) (by decide) (by decide) (by have := a.isLt; omega) (by have := b.isLt; omega) (by decide) (by decide))
theorem bGroupDissolve (a : SReg) : Statement (.bGroupDissolve a) :=
  coded rfl rfl (by show some _ = _; simp) rfl
    (fitsA rfl (by decide) (by decide) (by decide) (by have := a.isLt; omega) (by decide) (by decide) (by decide))
theorem vAdd (t : EType) (d a : VReg) (b : SV) (m : VMod) : Statement (.vAdd t d a b m) :=
  coded rfl rfl (by show Option.map _ _ = _; simp) rfl
    (fitsA rfl (by decide) (by have := t.code_lt; omega) (by have := numV_lt d; omega) (by have := numV_lt a; omega) (by have := b.num_lt; omega) (by decide) (by have := m.num_lt; omega))
theorem vSub (t : EType) (d a : VReg) (b : SV) (m : VMod) : Statement (.vSub t d a b m) :=
  coded rfl rfl (by show Option.map _ _ = _; simp) rfl
    (fitsA rfl (by decide) (by have := t.code_lt; omega) (by have := numV_lt d; omega) (by have := numV_lt a; omega) (by have := b.num_lt; omega) (by decide) (by have := m.num_lt; omega))
theorem vMul (t : EType) (d a : VReg) (b : SV) (m : VMod) : Statement (.vMul t d a b m) :=
  coded rfl rfl (by show Option.map _ _ = _; simp) rfl
    (fitsA rfl (by decide) (by have := t.code_lt; omega) (by have := numV_lt d; omega) (by have := numV_lt a; omega) (by have := b.num_lt; omega) (by decide) (by have := m.num_lt; omega))
theorem vMulh (t : EType) (d a : VReg) (b : SV) (m : VMod) : Statement (.vMulh t d a b m) :=
  coded rfl rfl (by show Option.map _ _ = _; simp) rfl
    (fitsA rfl (by decide) (by have := t.code_lt; omega) (by have := numV_lt d; omega) (by have := numV_lt a; omega) (by have := b.num_lt; omega) (by decide) (by have := m.num_lt; omega))
theorem vFma (t : EType) (d a : VReg) (b c : SV) (m : VMod) : Statement (.vFma t d a b c m) :=
  coded rfl rfl (by show Option.map _ _ = _; simp) rfl
    (fitsA rfl (by decide) (by have := t.code_lt; omega) (by have := numV_lt d; omega) (by have := numV_lt a; omega) (by have := b.num_lt; omega) (by have := c.num_lt; omega) (by have := m.num_lt; omega))
theorem vFms (t : EType) (d a : VReg) (b c : SV) (m : VMod) : Statement (.vFms t d a b c m) :=
  coded rfl rfl (by show Option.map _ _ = _; simp) rfl
    (fitsA rfl (by decide) (by have := t.code_lt; omega) (by have := numV_lt d; omega) (by have := numV_lt a; omega) (by have := b.num_lt; omega) (by have := c.num_lt; omega) (by have := m.num_lt; omega))
theorem vFnma (t : EType) (d a : VReg) (b c : SV) (m : VMod) : Statement (.vFnma t d a b c m) :=
  coded rfl rfl (by show Option.map _ _ = _; simp) rfl
    (fitsA rfl (by decide) (by have := t.code_lt; omega) (by have := numV_lt d; omega) (by have := numV_lt a; omega) (by have := b.num_lt; omega) (by have := c.num_lt; omega) (by have := m.num_lt; omega))
theorem vMin (t : EType) (d a : VReg) (b : SV) (m : VMod) : Statement (.vMin t d a b m) :=
  coded rfl rfl (by show Option.map _ _ = _; simp) rfl
    (fitsA rfl (by decide) (by have := t.code_lt; omega) (by have := numV_lt d; omega) (by have := numV_lt a; omega) (by have := b.num_lt; omega) (by decide) (by have := m.num_lt; omega))
theorem vMax (t : EType) (d a : VReg) (b : SV) (m : VMod) : Statement (.vMax t d a b m) :=
  coded rfl rfl (by show Option.map _ _ = _; simp) rfl
    (fitsA rfl (by decide) (by have := t.code_lt; omega) (by have := numV_lt d; omega) (by have := numV_lt a; omega) (by have := b.num_lt; omega) (by decide) (by have := m.num_lt; omega))
theorem vAbs (t : EType) (d a : VReg) (m : VMod) : Statement (.vAbs t d a m) :=
  coded rfl rfl (by show Option.map _ _ = _; simp) rfl
    (fitsA rfl (by decide) (by have := t.code_lt; omega) (by have := numV_lt d; omega) (by have := numV_lt a; omega) (by decide) (by decide) (by have := m.num_lt; omega))
theorem vNeg (t : EType) (d a : VReg) (m : VMod) : Statement (.vNeg t d a m) :=
  coded rfl rfl (by show Option.map _ _ = _; simp) rfl
    (fitsA rfl (by decide) (by have := t.code_lt; omega) (by have := numV_lt d; omega) (by have := numV_lt a; omega) (by decide) (by decide) (by have := m.num_lt; omega))
theorem vClamp (t : EType) (d a : VReg) (b c : SV) (m : VMod) : Statement (.vClamp t d a b c m) :=
  coded rfl rfl (by show Option.map _ _ = _; simp) rfl
    (fitsA rfl (by decide) (by have := t.code_lt; omega) (by have := numV_lt d; omega) (by have := numV_lt a; omega) (by have := b.num_lt; omega) (by have := c.num_lt; omega) (by have := m.num_lt; omega))
theorem vAnd (t : EType) (d a : VReg) (b : SV) (m : VMod) : Statement (.vAnd t d a b m) :=
  coded rfl rfl (by show Option.map _ _ = _; simp) rfl
    (fitsA rfl (by decide) (by have := t.code_lt; omega) (by have := numV_lt d; omega) (by have := numV_lt a; omega) (by have := b.num_lt; omega) (by decide) (by have := m.num_lt; omega))
theorem vOr (t : EType) (d a : VReg) (b : SV) (m : VMod) : Statement (.vOr t d a b m) :=
  coded rfl rfl (by show Option.map _ _ = _; simp) rfl
    (fitsA rfl (by decide) (by have := t.code_lt; omega) (by have := numV_lt d; omega) (by have := numV_lt a; omega) (by have := b.num_lt; omega) (by decide) (by have := m.num_lt; omega))
theorem vXor (t : EType) (d a : VReg) (b : SV) (m : VMod) : Statement (.vXor t d a b m) :=
  coded rfl rfl (by show Option.map _ _ = _; simp) rfl
    (fitsA rfl (by decide) (by have := t.code_lt; omega) (by have := numV_lt d; omega) (by have := numV_lt a; omega) (by have := b.num_lt; omega) (by decide) (by have := m.num_lt; omega))
theorem vNot (t : EType) (d a : VReg) (m : VMod) : Statement (.vNot t d a m) :=
  coded rfl rfl (by show Option.map _ _ = _; simp) rfl
    (fitsA rfl (by decide) (by have := t.code_lt; omega) (by have := numV_lt d; omega) (by have := numV_lt a; omega) (by decide) (by decide) (by have := m.num_lt; omega))
theorem vShl (t : EType) (d a : VReg) (b : SV) (m : VMod) : Statement (.vShl t d a b m) :=
  coded rfl rfl (by show Option.map _ _ = _; simp) rfl
    (fitsA rfl (by decide) (by have := t.code_lt; omega) (by have := numV_lt d; omega) (by have := numV_lt a; omega) (by have := b.num_lt; omega) (by decide) (by have := m.num_lt; omega))
theorem vShr (t : EType) (d a : VReg) (b : SV) (m : VMod) : Statement (.vShr t d a b m) :=
  coded rfl rfl (by show Option.map _ _ = _; simp) rfl
    (fitsA rfl (by decide) (by have := t.code_lt; omega) (by have := numV_lt d; omega) (by have := numV_lt a; omega) (by have := b.num_lt; omega) (by decide) (by have := m.num_lt; omega))
theorem vSar (t : EType) (d a : VReg) (b : SV) (m : VMod) : Statement (.vSar t d a b m) :=
  coded rfl rfl (by show Option.map _ _ = _; simp) rfl
    (fitsA rfl (by decide) (by have := t.code_lt; omega) (by have := numV_lt d; omega) (by have := numV_lt a; omega) (by have := b.num_lt; omega) (by decide) (by have := m.num_lt; omega))
theorem vFshl (t : EType) (d a : VReg) (b c : SV) (m : VMod) : Statement (.vFshl t d a b c m) :=
  coded rfl rfl (by show Option.map _ _ = _; simp) rfl
    (fitsA rfl (by decide) (by have := t.code_lt; omega) (by have := numV_lt d; omega) (by have := numV_lt a; omega) (by have := b.num_lt; omega) (by have := c.num_lt; omega) (by have := m.num_lt; omega))
theorem vFshr (t : EType) (d a : VReg) (b c : SV) (m : VMod) : Statement (.vFshr t d a b c m) :=
  coded rfl rfl (by show Option.map _ _ = _; simp) rfl
    (fitsA rfl (by decide) (by have := t.code_lt; omega) (by have := numV_lt d; omega) (by have := numV_lt a; omega) (by have := b.num_lt; omega) (by have := c.num_lt; omega) (by have := m.num_lt; omega))
theorem vCmp (t : EType) (d : MReg) (a : VReg) (b : SV) (cond : Cond) : Statement (.vCmp t d a b cond) :=
  coded rfl rfl (by show Option.map _ _ = _; simp) rfl
    (fitsA rfl (by decide) (by have := t.code_lt; omega) (by have := numM_lt d; omega) (by have := numV_lt a; omega) (by have := b.num_lt; omega) (by decide) (by have := cond.code_lt; omega))
theorem vSel (t : EType) (d a : VReg) (b : SV) (mask : MReg) : Statement (.vSel t d a b mask) :=
  coded rfl rfl (by show Option.map _ _ = _; simp) rfl
    (fitsA rfl (by decide) (by have := t.code_lt; omega) (by have := numV_lt d; omega) (by have := numV_lt a; omega) (by have := b.num_lt; omega) (by decide) (by have := mask.isLt; omega))
theorem vMov (t : EType) (d a : VReg) (m : VMod) : Statement (.vMov t d a m) :=
  coded rfl rfl (by show Option.map _ _ = _; simp) rfl
    (fitsA rfl (by decide) (by have := t.code_lt; omega) (by have := numV_lt d; omega) (by have := numV_lt a; omega) (by decide) (by decide) (by have := m.num_lt; omega))
theorem vBcast (t : EType) (d : VReg) (b : SReg) (m : VMod) : Statement (.vBcast t d b m) :=
  coded rfl rfl (by show Option.map _ _ = _; simp) rfl
    (fitsA rfl (by decide) (by have := t.code_lt; omega) (by have := numV_lt d; omega) (by decide) (by have := b.isLt; omega) (by decide) (by have := m.num_lt; omega))
theorem vIota (t : EType) (d : VReg) (b : SReg) (m : VMod) (step : BitVec 9) : Statement (.vIota t d b m step) :=
  coded rfl rfl (by show Option.map _ _ = _; simp only [etyOf_code, Option.map_some, rv_num, rs_val, vm_add, vm_above, bv_toNat]) rfl
    (fitsA rfl (by decide) (by have := t.code_lt; omega) (by have := numV_lt d; omega) (by decide) (by have := b.isLt; omega) (by decide) (by have := m.num_lt; have := step.isLt; omega))
theorem vExtr (t : EType) (d : SReg) (a : VReg) (b : SReg) (idx : BitVec 9) : Statement (.vExtr t d a b idx) :=
  coded rfl rfl (by show Option.map _ _ = _; simp) rfl
    (fitsA rfl (by decide) (by have := t.code_lt; omega) (by have := d.isLt; omega) (by have := numV_lt a; omega) (by have := b.isLt; omega) (by decide) (by have := idx.isLt; omega))
theorem vIns (t : EType) (d a : VReg) (b c : SReg) (idx : BitVec 9) : Statement (.vIns t d a b c idx) :=
  coded rfl rfl (by show Option.map _ _ = _; simp) rfl
    (fitsA rfl (by decide) (by have := t.code_lt; omega) (by have := numV_lt d; omega) (by have := numV_lt a; omega) (by have := b.isLt; omega) (by have := c.isLt; omega) (by have := idx.isLt; omega))
theorem vPerm (t : EType) (d a b : VReg) (m : VMod) : Statement (.vPerm t d a b m) :=
  coded rfl rfl (by show Option.map _ _ = _; simp) rfl
    (fitsA rfl (by decide) (by have := t.code_lt; omega) (by have := numV_lt d; omega) (by have := numV_lt a; omega) (by have := numV_lt b; omega) (by decide) (by have := m.num_lt; omega))
theorem vSlide (t : EType) (d a : VReg) (b : SReg) (m : VMod) : Statement (.vSlide t d a b m) :=
  coded rfl rfl (by show Option.map _ _ = _; simp) rfl
    (fitsA rfl (by decide) (by have := t.code_lt; omega) (by have := numV_lt d; omega) (by have := numV_lt a; omega) (by have := b.isLt; omega) (by decide) (by have := m.num_lt; omega))
theorem vZip (t : EType) (d a b : VReg) (m : VMod) (h : Bool) : Statement (.vZip t d a b m h) :=
  coded rfl rfl (by show Option.map _ _ = _; simp only [etyOf_code, Option.map_some, rv_num, vm_add, vm_above, bit0_toNat]) rfl
    (fitsA rfl (by decide) (by have := t.code_lt; omega) (by have := numV_lt d; omega) (by have := numV_lt a; omega) (by have := numV_lt b; omega) (by decide) (by have := m.num_lt; have := toNat_lt2 h; omega))
theorem vCmprs (t : EType) (d a : VReg) (mask : MReg) : Statement (.vCmprs t d a mask) :=
  coded rfl rfl (by show Option.map _ _ = _; simp) rfl
    (fitsA rfl (by decide) (by have := t.code_lt; omega) (by have := numV_lt d; omega) (by have := numV_lt a; omega) (by decide) (by decide) (by have := mask.isLt; omega))
theorem vCvt (src : EType) (d a : VReg) (dst : CvtDst) (part : Fin 8) (m : VMod) : Statement (.vCvt src d a dst part m) :=
  coded rfl rfl (by show Option.map _ _ = _; simp only [etyOf_code, Option.map_some, rv_num, vm_add, vm_above, cvtOf_low, cvt_high, fin_val]) rfl
    (fitsA rfl (by decide) (by have := src.code_lt; omega) (by have := numV_lt d; omega) (by have := numV_lt a; omega) (by decide) (by decide) (by have := dst.code_lt; have := part.isLt; have := m.num_lt; omega))
theorem vMaxexp (a : VReg) (mask : MReg) : Statement (.vMaxexp a mask) :=
  coded rfl rfl (by show some _ = _; simp) rfl
    (fitsA rfl (by decide) (by decide) (by decide) (by have := numV_lt a; omega) (by decide) (by decide) (by have := mask.isLt; omega))
theorem vPxpose (signed : Bool) (d a : VReg) (planes1 : Fin 8) (g : Bool) : Statement (.vPxpose signed d a planes1 g) :=
  coded rfl rfl (by show some _ = _; simp only [bit0_not, Bool.not_not, rv_num, mul_div, fin_low, bit0_planes]) rfl
    (fitsA rfl (by decide) (by have := toNat_lt2 signed; omega) (by have := numV_lt d; omega) (by have := numV_lt a; omega) (by decide) (by decide) (by have := planes1.isLt; have := toNat_lt2 g; omega))
theorem vRsum (t : EType) (d a : VReg) (m : VMod) : Statement (.vRsum t d a m) :=
  coded rfl rfl (by show Option.map _ _ = _; simp) rfl
    (fitsA rfl (by decide) (by have := t.code_lt; omega) (by have := numV_lt d; omega) (by have := numV_lt a; omega) (by decide) (by decide) (by have := m.num_lt; omega))
theorem vRmax (t : EType) (d a : VReg) (m : VMod) : Statement (.vRmax t d a m) :=
  coded rfl rfl (by show Option.map _ _ = _; simp) rfl
    (fitsA rfl (by decide) (by have := t.code_lt; omega) (by have := numV_lt d; omega) (by have := numV_lt a; omega) (by decide) (by decide) (by have := m.num_lt; omega))
theorem vRmin (t : EType) (d a : VReg) (m : VMod) : Statement (.vRmin t d a m) :=
  coded rfl rfl (by show Option.map _ _ = _; simp) rfl
    (fitsA rfl (by decide) (by have := t.code_lt; omega) (by have := numV_lt d; omega) (by have := numV_lt a; omega) (by decide) (by decide) (by have := m.num_lt; omega))
theorem vGmax (t : EType) (d a : VReg) (m : VMod) (g : Fin 8) (abs : Bool) : Statement (.vGmax t d a m g abs) :=
  coded rfl rfl (by show Option.map _ _ = _; simp only [etyOf_code, Option.map_some, rv_num, vm_add, vm_above, fin_low, bit0_above]) rfl
    (fitsA rfl (by decide) (by have := t.code_lt; omega) (by have := numV_lt d; omega) (by have := numV_lt a; omega) (by decide) (by decide) (by have := m.num_lt; have := g.isLt; have := toNat_lt2 abs; omega))
theorem vRowsum (t : EType) (d a : VReg) (m : VMod) : Statement (.vRowsum t d a m) :=
  coded rfl rfl (by show Option.map _ _ = _; simp) rfl
    (fitsA rfl (by decide) (by have := t.code_lt; omega) (by have := numV_lt d; omega) (by have := numV_lt a; omega) (by decide) (by decide) (by have := m.num_lt; omega))
theorem vColsum (t : EType) (d a : VReg) (m : VMod) : Statement (.vColsum t d a m) :=
  coded rfl rfl (by show Option.map _ _ = _; simp) rfl
    (fitsA rfl (by decide) (by have := t.code_lt; omega) (by have := numV_lt d; omega) (by have := numV_lt a; omega) (by decide) (by decide) (by have := m.num_lt; omega))
theorem vAread (d : VReg) (a : AReg) (b : SReg) (q : Fin 64) : Statement (.vAread d a b q) :=
  coded rfl rfl (by show some _ = _; simp) rfl
    (fitsA rfl (by decide) (by decide) (by have := numV_lt d; omega) (by have := numA_lt a; omega) (by have := b.isLt; omega) (by decide) (by have := q.isLt; omega))
theorem vAwrite (d : AReg) (a : VReg) (b : SReg) (q : Fin 64) : Statement (.vAwrite d a b q) :=
  coded rfl rfl (by show some _ = _; simp) rfl
    (fitsA rfl (by decide) (by decide) (by have := numA_lt d; omega) (by have := numV_lt a; omega) (by have := b.isLt; omega) (by decide) (by have := q.isLt; omega))
theorem vMcnt (d : SReg) (a : MReg) : Statement (.vMcnt d a) :=
  coded rfl rfl (by show some _ = _; simp) rfl
    (fitsA rfl (by decide) (by decide) (by have := d.isLt; omega) (by have := numM_lt a; omega) (by decide) (by decide) (by decide))
theorem vPopc (t : EType) (d a : VReg) (m : VMod) : Statement (.vPopc t d a m) :=
  coded rfl rfl (by show Option.map _ _ = _; simp) rfl
    (fitsA rfl (by decide) (by have := t.code_lt; omega) (by have := numV_lt d; omega) (by have := numV_lt a; omega) (by decide) (by decide) (by have := m.num_lt; omega))
theorem vClz (t : EType) (d a : VReg) (m : VMod) : Statement (.vClz t d a m) :=
  coded rfl rfl (by show Option.map _ _ = _; simp) rfl
    (fitsA rfl (by decide) (by have := t.code_lt; omega) (by have := numV_lt d; omega) (by have := numV_lt a; omega) (by decide) (by decide) (by have := m.num_lt; omega))
theorem vRound (t : EType) (d a : VReg) (m : VMod) : Statement (.vRound t d a m) :=
  coded rfl rfl (by show Option.map _ _ = _; simp) rfl
    (fitsA rfl (by decide) (by have := t.code_lt; omega) (by have := numV_lt d; omega) (by have := numV_lt a; omega) (by decide) (by decide) (by have := m.num_lt; omega))
theorem vScale (t : EType) (d a : VReg) (b : SReg) (m : VMod) : Statement (.vScale t d a b m) :=
  coded rfl rfl (by show Option.map _ _ = _; simp) rfl
    (fitsA rfl (by decide) (by have := t.code_lt; omega) (by have := numV_lt d; omega) (by have := numV_lt a; omega) (by have := b.isLt; omega) (by decide) (by have := m.num_lt; omega))
theorem vAvg (t : EType) (d a : VReg) (b : SV) (m : VMod) : Statement (.vAvg t d a b m) :=
  coded rfl rfl (by show Option.map _ _ = _; simp) rfl
    (fitsA rfl (by decide) (by have := t.code_lt; omega) (by have := numV_lt d; omega) (by have := numV_lt a; omega) (by have := b.num_lt; omega) (by decide) (by have := m.num_lt; omega))
theorem vAbd (t : EType) (d a : VReg) (b : SV) (m : VMod) : Statement (.vAbd t d a b m) :=
  coded rfl rfl (by show Option.map _ _ = _; simp) rfl
    (fitsA rfl (by decide) (by have := t.code_lt; omega) (by have := numV_lt d; omega) (by have := numV_lt a; omega) (by have := b.num_lt; omega) (by decide) (by have := m.num_lt; omega))
theorem vMset (d : MReg) (a : VReg) : Statement (.vMset d a) :=
  coded rfl rfl (by show some _ = _; simp) rfl
    (fitsA rfl (by decide) (by decide) (by have := numM_lt d; omega) (by have := numV_lt a; omega) (by decide) (by decide) (by decide))
theorem vMand (op : MaskOp) (d a b : MReg) : Statement (.vMand op d a b) :=
  coded rfl rfl (by show some _ = _; cases op <;> simp [MaskOp.code] <;> rfl) rfl
    (fitsA rfl (by decide) (by decide) (by have := numM_lt d; omega) (by have := numM_lt a; omega) (by have := numM_lt b; omega) (by decide) (by have := op.code_lt; omega))
theorem fTbl (t : EType) (d a : VReg) (b : SReg) (m : VMod) (tbl : Fin 4) : Statement (.fTbl t d a b m tbl) :=
  coded rfl rfl (by show Option.map _ _ = _; simp only [etyOf_code, Option.map_some, rv_num, rs_val, vm_add, vm_above, fin_val]) rfl
    (fitsA rfl (by decide) (by have := t.code_lt; omega) (by have := numV_lt d; omega) (by have := numV_lt a; omega) (by have := b.isLt; omega) (by decide) (by have := m.num_lt; have := tbl.isLt; omega))
theorem fTblwr (a : VReg) (tbl : Fin 4) : Statement (.fTblwr a tbl) :=
  coded rfl rfl (by show some _ = _; simp) rfl
    (fitsA rfl (by decide) (by decide) (by decide) (by have := numV_lt a; omega) (by decide) (by decide) (by have := tbl.isLt; omega))
theorem fTblrd (d : VReg) (tbl : Fin 4) : Statement (.fTblrd d tbl) :=
  coded rfl rfl (by show some _ = _; simp) rfl
    (fitsA rfl (by decide) (by decide) (by have := numV_lt d; omega) (by decide) (by decide) (by decide) (by have := tbl.isLt; omega))
theorem fRcp (t : EType) (d a : VReg) (m : VMod) : Statement (.fRcp t d a m) :=
  coded rfl rfl (by show Option.map _ _ = _; simp) rfl
    (fitsA rfl (by decide) (by have := t.code_lt; omega) (by have := numV_lt d; omega) (by have := numV_lt a; omega) (by decide) (by decide) (by have := m.num_lt; omega))
theorem fRsq (t : EType) (d a : VReg) (m : VMod) : Statement (.fRsq t d a m) :=
  coded rfl rfl (by show Option.map _ _ = _; simp) rfl
    (fitsA rfl (by decide) (by have := t.code_lt; omega) (by have := numV_lt d; omega) (by have := numV_lt a; omega) (by decide) (by decide) (by have := m.num_lt; omega))
theorem fSqrt (t : EType) (d a : VReg) (m : VMod) : Statement (.fSqrt t d a m) :=
  coded rfl rfl (by show Option.map _ _ = _; simp) rfl
    (fitsA rfl (by decide) (by have := t.code_lt; omega) (by have := numV_lt d; omega) (by have := numV_lt a; omega) (by decide) (by decide) (by have := m.num_lt; omega))
theorem fDiv (t : EType) (d a : VReg) (b : SV) (m : VMod) : Statement (.fDiv t d a b m) :=
  coded rfl rfl (by show Option.map _ _ = _; simp) rfl
    (fitsA rfl (by decide) (by have := t.code_lt; omega) (by have := numV_lt d; omega) (by have := numV_lt a; omega) (by have := b.num_lt; omega) (by decide) (by have := m.num_lt; omega))
theorem fExp2 (t : EType) (d a : VReg) (m : VMod) : Statement (.fExp2 t d a m) :=
  coded rfl rfl (by show Option.map _ _ = _; simp) rfl
    (fitsA rfl (by decide) (by have := t.code_lt; omega) (by have := numV_lt d; omega) (by have := numV_lt a; omega) (by decide) (by decide) (by have := m.num_lt; omega))
theorem fLog2 (t : EType) (d a : VReg) (m : VMod) : Statement (.fLog2 t d a m) :=
  coded rfl rfl (by show Option.map _ _ = _; simp) rfl
    (fitsA rfl (by decide) (by have := t.code_lt; omega) (by have := numV_lt d; omega) (by have := numV_lt a; omega) (by decide) (by decide) (by have := m.num_lt; omega))
theorem fExp (t : EType) (d a : VReg) (m : VMod) : Statement (.fExp t d a m) :=
  coded rfl rfl (by show Option.map _ _ = _; simp) rfl
    (fitsA rfl (by decide) (by have := t.code_lt; omega) (by have := numV_lt d; omega) (by have := numV_lt a; omega) (by decide) (by decide) (by have := m.num_lt; omega))
theorem fLog (t : EType) (d a : VReg) (m : VMod) : Statement (.fLog t d a m) :=
  coded rfl rfl (by show Option.map _ _ = _; simp) rfl
    (fitsA rfl (by decide) (by have := t.code_lt; omega) (by have := numV_lt d; omega) (by have := numV_lt a; omega) (by decide) (by decide) (by have := m.num_lt; omega))
theorem fGeo (pred : GeoPred) (opt : GeoOpt) (a : VReg) (mask : MReg) : Statement (.fGeo pred opt a mask) :=
  coded rfl rfl (by show Option.bind _ _ = _; simp only [geoPredOf_add, Option.bind_some, geoOptOf_add, Option.map_some, rv_num, rm_val]) rfl
    (fitsA rfl (by decide) (by have := pred.code_lt; have := opt.code_lt; omega) (by decide) (by have := numV_lt a; omega) (by decide) (by decide) (by have := mask.isLt; omega))
theorem fGeoidx (d a : VReg) (b : SReg) : Statement (.fGeoidx d a b) :=
  coded rfl rfl (by show some _ = _; simp) rfl
    (fitsA rfl (by decide) (by decide) (by have := numV_lt d; omega) (by have := numV_lt a; omega) (by have := b.isLt; omega) (by decide) (by decide))
theorem fLq (d a : VReg) (b : SReg) : Statement (.fLq d a b) :=
  coded rfl rfl (by show some _ = _; simp) rfl
    (fitsA rfl (by decide) (by decide) (by have := numV_lt d; omega) (by have := numV_lt a; omega) (by have := b.isLt; omega) (by decide) (by decide))
theorem fLdq (t : EType) (d a : VReg) (b : SReg) (m : VMod) : Statement (.fLdq t d a b m) :=
  coded rfl rfl (by show Option.map _ _ = _; simp) rfl
    (fitsA rfl (by decide) (by have := t.code_lt; omega) (by have := numV_lt d; omega) (by have := numV_lt a; omega) (by have := b.isLt; omega) (by decide) (by have := m.num_lt; omega))
theorem fLqcnt (d : SReg) : Statement (.fLqcnt d) :=
  coded rfl rfl (by show some _ = _; simp) rfl
    (fitsA rfl (by decide) (by decide) (by have := d.isLt; omega) (by decide) (by decide) (by decide) (by decide))
theorem fLscale (d : SReg) (a : VReg) (adj : BitVec 4) : Statement (.fLscale d a adj) :=
  coded rfl rfl (by show some _ = _; simp) rfl
    (fitsA rfl (by decide) (by decide) (by have := d.isLt; omega) (by have := numV_lt a; omega) (by decide) (by decide) (by have := adj.isLt; omega))
theorem mLd (cls : LClass) (ty : SizeTy) (d a : SReg) (imm : BitVec 16) : Statement (.mLd cls ty d a imm) :=
  coded rfl rfl (by show Option.bind _ _ = _; simp) rfl
    (fitsA rfl (by decide) (by have := cls.code_lt; have := ty.code_lt; omega) (by have := d.isLt; omega) (by have := a.isLt; omega) (by decide) (by decide) (by have := imm.isLt; omega))
theorem mSt (ty : SizeTy) (a b : SReg) (imm : BitVec 16) : Statement (.mSt ty a b imm) :=
  coded rfl rfl (by show Option.map _ _ = _; simp) rfl
    (fitsA rfl (by decide) (by have := ty.code_lt; omega) (by decide) (by have := a.isLt; omega) (by have := b.isLt; omega) (by decide) (by have := imm.isLt; omega))
theorem mLdp (cls : LClass) (d a : SReg) (imm : BitVec 16) : Statement (.mLdp cls d a imm) :=
  coded rfl rfl (by show Option.map _ _ = _; simp) rfl
    (fitsA rfl (by decide) (by have := cls.code_lt; omega) (by have := d.isLt; omega) (by have := a.isLt; omega) (by decide) (by decide) (by have := imm.isLt; omega))
theorem mStp (a b : SReg) (imm : BitVec 16) : Statement (.mStp a b imm) :=
  coded rfl rfl (by show some _ = _; simp) rfl
    (fitsA rfl (by decide) (by decide) (by decide) (by have := a.isLt; omega) (by have := b.isLt; omega) (by decide) (by have := imm.isLt; omega))
theorem mVld (cls : LClass) (d : VReg) (a : SReg) (imm : BitVec 16) : Statement (.mVld cls d a imm) :=
  coded rfl rfl (by show Option.map _ _ = _; simp) rfl
    (fitsA rfl (by decide) (by have := cls.code_lt; omega) (by have := numV_lt d; omega) (by have := a.isLt; omega) (by decide) (by decide) (by have := imm.isLt; omega))
theorem mVst (a : SReg) (b : VReg) (imm : BitVec 16) : Statement (.mVst a b imm) :=
  coded rfl rfl (by show some _ = _; simp) rfl
    (fitsA rfl (by decide) (by decide) (by decide) (by have := a.isLt; omega) (by have := numV_lt b; omega) (by decide) (by have := imm.isLt; omega))
theorem mVstu (a : SReg) (b c : VReg) (imm : BitVec 16) : Statement (.mVstu a b c imm) :=
  coded rfl rfl (by show some _ = _; simp) rfl
    (fitsA rfl (by decide) (by decide) (by decide) (by have := a.isLt; omega) (by have := numV_lt b; omega) (by have := numV_lt c; omega) (by have := imm.isLt; omega))
theorem mVlds (cls : LClass) (d : VReg) (a b : SReg) (imm : BitVec 16) : Statement (.mVlds cls d a b imm) :=
  coded rfl rfl (by show Option.map _ _ = _; simp) rfl
    (fitsA rfl (by decide) (by have := cls.code_lt; omega) (by have := numV_lt d; omega) (by have := a.isLt; omega) (by have := b.isLt; omega) (by decide) (by have := imm.isLt; omega))
theorem mVsts (a : SReg) (b : VReg) (c : SReg) (imm : BitVec 16) : Statement (.mVsts a b c imm) :=
  coded rfl rfl (by show some _ = _; simp) rfl
    (fitsA rfl (by decide) (by decide) (by decide) (by have := a.isLt; omega) (by have := numV_lt b; omega) (by have := c.isLt; omega) (by have := imm.isLt; omega))
theorem mVldb (cls : LClass) (d : VReg) (a : SReg) (t : TId) : Statement (.mVldb cls d a t) :=
  coded rfl rfl (by show Option.map _ _ = _; simp) rfl
    (fitsA rfl (by decide) (by have := cls.code_lt; omega) (by have := numV_lt d; omega) (by have := a.isLt; omega) (by decide) (by decide) (by have := t.isLt; omega))
theorem mVgath (d : VReg) (a : SReg) (b : VReg) (mask : MReg) : Statement (.mVgath d a b mask) :=
  coded rfl rfl (by show some _ = _; simp) rfl
    (fitsA rfl (by decide) (by decide) (by have := numV_lt d; omega) (by have := a.isLt; omega) (by have := numV_lt b; omega) (by decide) (by have := mask.isLt; omega))
theorem mVscat (a : SReg) (b c : VReg) (mask : MReg) : Statement (.mVscat a b c mask) :=
  coded rfl rfl (by show some _ = _; simp) rfl
    (fitsA rfl (by decide) (by decide) (by decide) (by have := a.isLt; omega) (by have := numV_lt b; omega) (by have := numV_lt c; omega) (by have := mask.isLt; omega))
theorem mLdaq (cls : LClass) (ty : SizeTy) (scope : Scope) (d a : SReg) : Statement (.mLdaq cls ty scope d a) :=
  coded rfl rfl (by show Option.bind _ _ = _; simp) rfl
    (fitsA rfl (by decide) (by have := cls.code_lt; have := ty.code_lt; omega) (by have := d.isLt; omega) (by have := a.isLt; omega) (by decide) (by decide) (by have := scope.code_lt; omega))
theorem mStrl (ty : SizeTy) (scope : Scope) (a b : SReg) : Statement (.mStrl ty scope a b) :=
  coded rfl rfl (by show Option.map _ _ = _; simp) rfl
    (fitsA rfl (by decide) (by have := ty.code_lt; omega) (by decide) (by have := a.isLt; omega) (by have := b.isLt; omega) (by decide) (by have := scope.code_lt; omega))
theorem mAadd (o : AMod) (d a b : SReg) : Statement (.mAadd o d a b) :=
  coded rfl rfl (by show Option.map _ _ = _; simp) rfl
    (fitsA rfl (by decide) (by have := o.code_lt; omega) (by have := d.isLt; omega) (by have := a.isLt; omega) (by have := b.isLt; omega) (by decide) (by have := o.scope.code_lt; omega))
theorem mAmin (o : AMod) (d a b : SReg) : Statement (.mAmin o d a b) :=
  coded rfl rfl (by show Option.map _ _ = _; simp) rfl
    (fitsA rfl (by decide) (by have := o.code_lt; omega) (by have := d.isLt; omega) (by have := a.isLt; omega) (by have := b.isLt; omega) (by decide) (by have := o.scope.code_lt; omega))
theorem mAmax (o : AMod) (d a b : SReg) : Statement (.mAmax o d a b) :=
  coded rfl rfl (by show Option.map _ _ = _; simp) rfl
    (fitsA rfl (by decide) (by have := o.code_lt; omega) (by have := d.isLt; omega) (by have := a.isLt; omega) (by have := b.isLt; omega) (by decide) (by have := o.scope.code_lt; omega))
theorem mAand (o : AMod) (d a b : SReg) : Statement (.mAand o d a b) :=
  coded rfl rfl (by show Option.map _ _ = _; simp) rfl
    (fitsA rfl (by decide) (by have := o.code_lt; omega) (by have := d.isLt; omega) (by have := a.isLt; omega) (by have := b.isLt; omega) (by decide) (by have := o.scope.code_lt; omega))
theorem mAor (o : AMod) (d a b : SReg) : Statement (.mAor o d a b) :=
  coded rfl rfl (by show Option.map _ _ = _; simp) rfl
    (fitsA rfl (by decide) (by have := o.code_lt; omega) (by have := d.isLt; omega) (by have := a.isLt; omega) (by have := b.isLt; omega) (by decide) (by have := o.scope.code_lt; omega))
theorem mAxor (o : AMod) (d a b : SReg) : Statement (.mAxor o d a b) :=
  coded rfl rfl (by show Option.map _ _ = _; simp) rfl
    (fitsA rfl (by decide) (by have := o.code_lt; omega) (by have := d.isLt; omega) (by have := a.isLt; omega) (by have := b.isLt; omega) (by decide) (by have := o.scope.code_lt; omega))
theorem mSwap (o : AMod) (d a b : SReg) : Statement (.mSwap o d a b) :=
  coded rfl rfl (by show Option.map _ _ = _; simp) rfl
    (fitsA rfl (by decide) (by have := o.code_lt; omega) (by have := d.isLt; omega) (by have := a.isLt; omega) (by have := b.isLt; omega) (by decide) (by have := o.scope.code_lt; omega))
theorem mCas (o : AMod) (ford : MemOrd) (d a b c : SReg) : Statement (.mCas o ford d a b c) :=
  coded rfl rfl (by show Option.map _ _ = _; simp) rfl
    (fitsA rfl (by decide) (by have := o.code_lt; omega) (by have := d.isLt; omega) (by have := a.isLt; omega) (by have := b.isLt; omega) (by have := c.isLt; omega) (by have := ford.code_lt; have := o.scope.code_lt; omega))
theorem mFence (kind : FenceKind) (scope : Scope) : Statement (.mFence kind scope) :=
  coded rfl rfl (by cases kind <;> (show some _ = _; simp)) rfl
    (fitsA rfl (by decide) (by have := kind.code_lt; omega) (by decide) (by decide) (by decide) (by decide) (by have := scope.code_lt; omega))
theorem mFenceStamp : Statement (.mFenceStamp) :=
  coded rfl rfl (by show some _ = _; simp) rfl
    (fitsA rfl (by decide) (by decide) (by decide) (by decide) (by decide) (by decide) (by decide))
theorem mSts (ty : SizeTy) (d a b : SReg) (imm : BitVec 16) : Statement (.mSts ty d a b imm) :=
  coded rfl rfl (by show Option.map _ _ = _; simp) rfl
    (fitsA rfl (by decide) (by have := ty.code_lt; omega) (by have := d.isLt; omega) (by have := a.isLt; omega) (by have := b.isLt; omega) (by decide) (by have := imm.isLt; omega))
theorem mLdas (cls : LClass) (ty : SizeTy) (d a b : SReg) (imm : BitVec 16) : Statement (.mLdas cls ty d a b imm) :=
  coded rfl rfl (by show Option.bind _ _ = _; simp) rfl
    (fitsA rfl (by decide) (by have := cls.code_lt; have := ty.code_lt; omega) (by have := d.isLt; omega) (by have := a.isLt; omega) (by have := b.isLt; omega) (by decide) (by have := imm.isLt; omega))
theorem mPref (a : SReg) (imm : BitVec 16) : Statement (.mPref a imm) :=
  coded rfl rfl (by show some _ = _; simp) rfl
    (fitsA rfl (by decide) (by decide) (by decide) (by have := a.isLt; omega) (by decide) (by decide) (by have := imm.isLt; omega))
theorem mGld (cls : LClass) (ty : SizeTy) (d a : SReg) (c : PReg) (imm : BitVec 16) : Statement (.mGld cls ty d a c imm) :=
  coded rfl rfl (by show Option.bind _ _ = _; simp) rfl
    (fitsA rfl (by decide) (by have := cls.code_lt; have := ty.code_lt; omega) (by have := d.isLt; omega) (by have := a.isLt; omega) (by decide) (by have := numP_lt c; omega) (by have := imm.isLt; omega))
theorem mGst (ty : SizeTy) (a b : SReg) (c : PReg) (imm : BitVec 16) : Statement (.mGst ty a b c imm) :=
  coded rfl rfl (by show Option.map _ _ = _; simp) rfl
    (fitsA rfl (by decide) (by have := ty.code_lt; omega) (by decide) (by have := a.isLt; omega) (by have := b.isLt; omega) (by have := numP_lt c; omega) (by have := imm.isLt; omega))
theorem mTinv (a : SReg) : Statement (.mTinv a) :=
  coded rfl rfl (by show some _ = _; simp) rfl
    (fitsA rfl (by decide) (by decide) (by decide) (by have := a.isLt; omega) (by decide) (by decide) (by decide))
theorem mZero (a : SReg) (imm : BitVec 16) : Statement (.mZero a imm) :=
  coded rfl rfl (by show some _ = _; simp) rfl
    (fitsA rfl (by decide) (by decide) (by decide) (by have := a.isLt; omega) (by decide) (by decide) (by have := imm.isLt; omega))
theorem xMma (t : AReg) (ta tb : TId) : Statement (.xMma t ta tb) :=
  coded rfl rfl (by show some _ = _; simp) rfl
    (fitsE rfl (by decide) (by decide) (by have := numA_lt t; omega) (by decide) (by have := ta.isLt; omega) (by have := tb.isLt; omega) (by decide))
theorem xMmac (t : AReg) (ta tb : TId) : Statement (.xMmac t ta tb) :=
  coded rfl rfl (by show some _ = _; simp) rfl
    (fitsE rfl (by decide) (by decide) (by have := numA_lt t; omega) (by decide) (by have := ta.isLt; omega) (by have := tb.isLt; omega) (by decide))
theorem xAclr (f32 : Bool) (t : AReg) : Statement (.xAclr f32 t) :=
  coded rfl rfl (by show some _ = _; simp) rfl
    (fitsE rfl (by decide) (by have := toNat_lt2 f32; omega) (by have := numA_lt t; omega) (by decide) (by decide) (by decide) (by decide))
theorem xAmov (t src : AReg) : Statement (.xAmov t src) :=
  coded rfl rfl (by show some _ = _; simp) (by show (true && (numA src / 128 == 0)) = true; have := numA_lt src; simp; omega)
    (fitsE rfl (by decide) (by decide) (by have := numA_lt t; omega) (by have := numA_lt src; omega) (by decide) (by decide) (by decide))
theorem xAload (t : AReg) (ta : TId) : Statement (.xAload t ta) :=
  coded rfl rfl (by show some _ = _; simp) rfl
    (fitsE rfl (by decide) (by decide) (by have := numA_lt t; omega) (by decide) (by have := ta.isLt; omega) (by decide) (by decide))
theorem xAsave (t : AReg) (ta : TId) (tag : Tag) : Statement (.xAsave t ta tag) :=
  coded rfl rfl (by show some _ = _; simp) rfl
    (fitsE rfl (by decide) (by decide) (by have := numA_lt t; omega) (by decide) (by have := ta.isLt; omega) (by decide) (by have := tag.isLt; omega))
theorem xMode (alt8 : Bool) : Statement (.xMode alt8) :=
  coded rfl rfl (by show some _ = _; simp) rfl
    (fitsA rfl (by decide) (by have := toNat_lt2 alt8; omega) (by decide) (by decide) (by decide) (by decide) (by decide))
theorem xMirr (off : Bool) : Statement (.xMirr off) :=
  coded rfl rfl (by show some _ = _; simp) rfl
    (fitsA rfl (by decide) (by have := toNat_lt2 off; omega) (by decide) (by decide) (by decide) (by decide) (by decide))
theorem xFence : Statement (.xFence) :=
  coded rfl rfl (by show some _ = _; simp) rfl
    (fitsA rfl (by decide) (by decide) (by decide) (by decide) (by decide) (by decide) (by decide))
theorem xStat (d : SReg) : Statement (.xStat d) :=
  coded rfl rfl (by show some _ = _; simp) rfl
    (fitsA rfl (by decide) (by decide) (by have := d.isLt; omega) (by decide) (by decide) (by decide) (by decide))
theorem dPp (t : AReg) (ta tb : TId) (tag : Tag) (fn : PpFn) : Statement (.dPp t ta tb tag fn) :=
  coded rfl rfl (by show some _ = _; simp) rfl
    (fitsE rfl (by decide) (by decide) (by have := numA_lt t; omega) (by have := fn.num_lt; omega) (by have := ta.isLt; omega) (by have := tb.isLt; omega) (by have := tag.isLt; omega))
theorem dPpcmp (t : AReg) (ta tb : TId) (tag : Tag) (fn : PpFn) : Statement (.dPpcmp t ta tb tag fn) :=
  coded rfl rfl (by show some _ = _; simp) rfl
    (fitsE rfl (by decide) (by decide) (by have := numA_lt t; omega) (by have := fn.num_lt; omega) (by have := ta.isLt; omega) (by have := tb.isLt; omega) (by have := tag.isLt; omega))
theorem dPpcfg (a : VReg) : Statement (.dPpcfg a) :=
  coded rfl rfl (by show some _ = _; simp) rfl
    (fitsA rfl (by decide) (by decide) (by decide) (by have := numV_lt a; omega) (by decide) (by decide) (by decide))
theorem dPpact (d : SReg) : Statement (.dPpact d) :=
  coded rfl rfl (by show some _ = _; simp) rfl
    (fitsA rfl (by decide) (by decide) (by have := d.isLt; omega) (by decide) (by decide) (by decide) (by decide))
theorem cCopy (ta tb : TId) (tag : Tag) : Statement (.cCopy ta tb tag) :=
  coded rfl rfl (by show some _ = _; simp) rfl
    (fitsE rfl (by decide) (by decide) (by decide) (by decide) (by have := ta.isLt; omega) (by have := tb.isLt; omega) (by have := tag.isLt; omega))
theorem cCopy2d (ta tb : TId) (tag : Tag) : Statement (.cCopy2d ta tb tag) :=
  coded rfl rfl (by show some _ = _; simp) rfl
    (fitsE rfl (by decide) (by decide) (by decide) (by decide) (by have := ta.isLt; omega) (by have := tb.isLt; omega) (by have := tag.isLt; omega))
theorem cFill (t : SReg) (tb : TId) (tag : Tag) : Statement (.cFill t tb tag) :=
  coded rfl rfl (by show some _ = _; simp) rfl
    (fitsE rfl (by decide) (by decide) (by have := t.isLt; omega) (by decide) (by decide) (by have := tb.isLt; omega) (by have := tag.isLt; omega))
theorem cFill2d (t : SReg) (tb : TId) (tag : Tag) : Statement (.cFill2d t tb tag) :=
  coded rfl rfl (by show some _ = _; simp) rfl
    (fitsE rfl (by decide) (by decide) (by have := t.isLt; omega) (by decide) (by decide) (by have := tb.isLt; omega) (by have := tag.isLt; omega))
theorem cGath (ta tb : TId) (tag : Tag) : Statement (.cGath ta tb tag) :=
  coded rfl rfl (by show some _ = _; simp) rfl
    (fitsE rfl (by decide) (by decide) (by decide) (by decide) (by have := ta.isLt; omega) (by have := tb.isLt; omega) (by have := tag.isLt; omega))
theorem cScat (ta tb : TId) (tag : Tag) : Statement (.cScat ta tb tag) :=
  coded rfl rfl (by show some _ = _; simp) rfl
    (fitsE rfl (by decide) (by decide) (by decide) (by decide) (by have := ta.isLt; omega) (by have := tb.isLt; omega) (by have := tag.isLt; omega))
theorem cXpose (ta tb : TId) (tag : Tag) : Statement (.cXpose ta tb tag) :=
  coded rfl rfl (by show some _ = _; simp) rfl
    (fitsE rfl (by decide) (by decide) (by decide) (by decide) (by have := ta.isLt; omega) (by have := tb.isLt; omega) (by have := tag.isLt; omega))
theorem cPlane (toBytes : Bool) (ta tb : TId) (tag : Tag) : Statement (.cPlane toBytes ta tb tag) :=
  coded rfl rfl (by show some _ = _; simp) rfl
    (fitsE rfl (by decide) (by decide) (by decide) (by have := toNat_lt2 toBytes; omega) (by have := ta.isLt; omega) (by have := tb.isLt; omega) (by have := tag.isLt; omega))
theorem cConv (kind : ConvKind) (ta tb : TId) (tag : Tag) : Statement (.cConv kind ta tb tag) :=
  coded rfl rfl (by show some _ = _; simp) rfl
    (fitsE rfl (by decide) (by decide) (by decide) (by have := kind.code_lt; omega) (by have := ta.isLt; omega) (by have := tb.isLt; omega) (by have := tag.isLt; omega))
theorem cXch (ta tb : TId) (tag : Tag) (slot : BitVec 16) : Statement (.cXch ta tb tag slot) :=
  coded rfl rfl (by show some _ = _; simp) rfl
    (fitsE rfl (by decide) (by decide) (by decide) (by have := slot.isLt; omega) (by have := ta.isLt; omega) (by have := tb.isLt; omega) (by have := tag.isLt; omega))
theorem cTclr (a : SReg) : Statement (.cTclr a) :=
  coded rfl rfl (by show some _ = _; simp) rfl
    (fitsA rfl (by decide) (by decide) (by decide) (by have := a.isLt; omega) (by decide) (by decide) (by decide))
theorem cPref (ta : TId) (tag : Tag) : Statement (.cPref ta tag) :=
  coded rfl rfl (by show some _ = _; simp) rfl
    (fitsE rfl (by decide) (by decide) (by decide) (by decide) (by have := ta.isLt; omega) (by decide) (by have := tag.isLt; omega))
theorem lOpenSend (n : Fin 16) : Statement (.lOpenSend n) :=
  coded rfl rfl (by show some _ = _; simp) rfl
    (fitsA rfl (by decide) (by decide) (by decide) (by decide) (by decide) (by decide) (by have := n.isLt; omega))
theorem lOpenRecv (n : Fin 16) : Statement (.lOpenRecv n) :=
  coded rfl rfl (by show some _ = _; simp) rfl
    (fitsA rfl (by decide) (by decide) (by decide) (by decide) (by decide) (by decide) (by have := n.isLt; omega))
theorem lSend (ta : TId) (n : Fin 16) (tag : Tag) : Statement (.lSend ta n tag) :=
  coded rfl rfl (by show some _ = _; simp) rfl
    (fitsE rfl (by decide) (by decide) (by decide) (by have := n.isLt; omega) (by have := ta.isLt; omega) (by decide) (by have := tag.isLt; omega))
theorem lSendst (t : SReg) (ta : TId) (n : Fin 16) (tag : Tag) : Statement (.lSendst t ta n tag) :=
  coded rfl rfl (by show some _ = _; simp) rfl
    (fitsE rfl (by decide) (by decide) (by have := t.isLt; omega) (by have := n.isLt; omega) (by have := ta.isLt; omega) (by decide) (by have := tag.isLt; omega))
theorem lRecv (tb : TId) (n : Fin 16) (tag : Tag) : Statement (.lRecv tb n tag) :=
  coded rfl rfl (by show some _ = _; simp) rfl
    (fitsE rfl (by decide) (by decide) (by decide) (by have := n.isLt; omega) (by decide) (by have := tb.isLt; omega) (by have := tag.isLt; omega))
theorem lPeek (d : SReg) (n : Fin 16) : Statement (.lPeek d n) :=
  coded rfl rfl (by show some _ = _; simp) rfl
    (fitsA rfl (by decide) (by decide) (by have := d.isLt; omega) (by decide) (by decide) (by decide) (by have := n.isLt; omega))
theorem lClose (n : Fin 16) : Statement (.lClose n) :=
  coded rfl rfl (by show some _ = _; simp) rfl
    (fitsA rfl (by decide) (by decide) (by decide) (by decide) (by decide) (by decide) (by have := n.isLt; omega))
theorem lStat (d : SReg) (n : Fin 16) : Statement (.lStat d n) :=
  coded rfl rfl (by show some _ = _; simp) rfl
    (fitsA rfl (by decide) (by decide) (by have := d.isLt; omega) (by decide) (by decide) (by decide) (by have := n.isLt; omega))
theorem dJpeg (ta : TId) (tag : Tag) : Statement (.dJpeg ta tag) :=
  coded rfl rfl (by show some _ = _; simp) rfl
    (fitsE rfl (by decide) (by decide) (by decide) (by decide) (by have := ta.isLt; omega) (by decide) (by have := tag.isLt; omega))
theorem dG4 (ta : TId) (tag : Tag) : Statement (.dG4 ta tag) :=
  coded rfl rfl (by show some _ = _; simp) rfl
    (fitsE rfl (by decide) (by decide) (by decide) (by decide) (by have := ta.isLt; omega) (by decide) (by have := tag.isLt; omega))
theorem dRaw (b1 : Bool) (ta : TId) (tag : Tag) : Statement (.dRaw b1 ta tag) :=
  coded rfl rfl (by show some _ = _; simp) rfl
    (fitsE rfl (by decide) (by decide) (by decide) (by have := toNat_lt2 b1; omega) (by have := ta.isLt; omega) (by decide) (by have := tag.isLt; omega))
theorem dRingSet (a b : SReg) : Statement (.dRingSet a b) :=
  coded rfl rfl (by show some _ = _; simp) rfl
    (fitsA rfl (by decide) (by decide) (by decide) (by have := a.isLt; omega) (by have := b.isLt; omega) (by decide) (by decide))
theorem dRingFree (a : SReg) : Statement (.dRingFree a) :=
  coded rfl rfl (by show some _ = _; simp) rfl
    (fitsA rfl (by decide) (by decide) (by decide) (by have := a.isLt; omega) (by decide) (by decide) (by decide))
theorem dPortCount (d : SReg) : Statement (.dPortCount d) :=
  coded rfl rfl (by show some _ = _; simp) rfl
    (fitsA rfl (by decide) (by decide) (by have := d.isLt; omega) (by decide) (by decide) (by decide) (by decide))
theorem dPortSkip (d : SReg) : Statement (.dPortSkip d) :=
  coded rfl rfl (by show some _ = _; simp) rfl
    (fitsA rfl (by decide) (by decide) (by have := d.isLt; omega) (by decide) (by decide) (by decide) (by decide))
theorem dDstat (d : SReg) : Statement (.dDstat d) :=
  coded rfl rfl (by show some _ = _; simp) rfl
    (fitsA rfl (by decide) (by decide) (by have := d.isLt; omega) (by decide) (by decide) (by decide) (by decide))
theorem dDabort : Statement (.dDabort) :=
  coded rfl rfl (by show some _ = _; simp) rfl
    (fitsA rfl (by decide) (by decide) (by decide) (by decide) (by decide) (by decide) (by decide))
theorem dDfence : Statement (.dDfence) :=
  coded rfl rfl (by show some _ = _; simp) rfl
    (fitsA rfl (by decide) (by decide) (by decide) (by decide) (by decide) (by decide) (by decide))
theorem zw1Madd (d a b c : SReg) : Statement (.zw1Madd d a b c) :=
  coded rfl rfl (by show some _ = _; simp) rfl
    (fitsA rfl (by decide) (by decide) (by have := d.isLt; omega) (by have := a.isLt; omega) (by have := b.isLt; omega) (by have := c.isLt; omega) (by decide))
theorem zw1Ldpair (d a : SReg) (imm : BitVec 16) : Statement (.zw1Ldpair d a imm) :=
  coded rfl rfl (by show some _ = _; simp) rfl
    (fitsA rfl (by decide) (by decide) (by have := d.isLt; omega) (by have := a.isLt; omega) (by decide) (by decide) (by have := imm.isLt; omega))
theorem zw1Vsum (d : SReg) (a : VReg) : Statement (.zw1Vsum d a) :=
  coded rfl rfl (by show some _ = _; simp) rfl
    (fitsA rfl (by decide) (by decide) (by have := d.isLt; omega) (by have := numV_lt a; omega) (by decide) (by decide) (by decide))
theorem zw1Dbnz (a : SReg) (off : BitVec 30) : Statement (.zw1Dbnz a off) :=
  coded rfl rfl (by show some _ = _; simp) rfl
    (fitsI rfl (by decide) (by decide) (by decide) (by have := a.isLt; omega) (by have := off.isLt; omega))
theorem rvzDeadline (crew slot : Fin 16) : Statement (.rvzDeadline crew slot) := event rfl
theorem cbarDeadline (crew : Fin 16) : Statement (.cbarDeadline crew) := event rfl
theorem waitTimeExpiry : Statement (.waitTimeExpiry) := event rfl
theorem exchangeEnd : Statement (.exchangeEnd) := event rfl
theorem exchangeTimeExpiry : Statement (.exchangeTimeExpiry) := event rfl
theorem geoRecordFill (n : Nat) : Statement (.geoRecordFill n) := event rfl
theorem modeSwitch : Statement (.modeSwitch) := event rfl
theorem matrixCommandStart : Statement (.matrixCommandStart) := event rfl
theorem matrixCommandFinish (mismatch : Bool) : Statement (.matrixCommandFinish mismatch) := event rfl
theorem postprocComplete : Statement (.postprocComplete) := event rfl
theorem copyCommandStart (serial : Nat) : Statement (.copyCommandStart serial) := event rfl
theorem copyComplete (serial : Nat) : Statement (.copyComplete serial) := event rfl
theorem copyFault (serial : Nat) : Statement (.copyFault serial) := event rfl
theorem copyDemandPark (serial : Nat) : Statement (.copyDemandPark serial) := event rfl
theorem ringSetPerformed : Statement (.ringSetPerformed) := event rfl
theorem decodeEngineAssign : Statement (.decodeEngineAssign) := event rfl
theorem decodeRecordEmit : Statement (.decodeRecordEmit) := event rfl
theorem decodePageEnd : Statement (.decodePageEnd) := event rfl
theorem streamSlotPresent (w : SlotWay) : Statement (.streamSlotPresent w) := event rfl
theorem creditReturn (w : CreditWay) : Statement (.creditReturn w) := event rfl
theorem reserve (wavelength port : Nat) (die : CircuitEnd) (n : Fin 16) : Statement (.reserve wavelength port die n) := event rfl
theorem tune (circuit : Nat) : Statement (.tune circuit) := event rfl
theorem tuneLocked (circuit : Nat) : Statement (.tuneLocked circuit) := event rfl
theorem linkFail (circuit : Nat) : Statement (.linkFail circuit) := event rfl
theorem linkError (circuit : Nat) : Statement (.linkError circuit) := event rfl
theorem circuitDrain (circuit : DrainOf) : Statement (.circuitDrain circuit) := event rfl
theorem circuitDrainComplete (circuit : Nat) : Statement (.circuitDrainComplete circuit) := event rfl
theorem circuitRelease (circuit : Nat) : Statement (.circuitRelease circuit) := event rfl
theorem pminWrite (x : BitVec 64) : Statement (.pminWrite x) := event rfl
theorem partminWrite (slot : Fin 16) (x : BitVec 64) : Statement (.partminWrite slot x) := event rfl
theorem flitArrival (cls : Fin 5) (slot : Fin 16) : Statement (.flitArrival cls slot) := event rfl
theorem flitLeavesIngress : Statement (.flitLeavesIngress) := event rfl
theorem debugRelease : Statement (.debugRelease) := event rfl
theorem budget : Statement (.budget) := event rfl
theorem budgetRefill (left : BitVec 32) : Statement (.budgetRefill left) := event rfl
theorem coreFill : Statement (.coreFill) := event rfl
theorem queueOverflowMove (q : Fin 64) : Statement (.queueOverflowMove q) := event rfl
theorem submit (kid : BitVec 32) (container : List (BitVec 8)) : Statement (.submit kid container) := event rfl
theorem verificationEnd (kid : BitVec 32) : Statement (.verificationEnd kid) := event rfl
theorem load (kid : BitVec 32) (vector : BitVec 64) : Statement (.load kid vector) := event rfl
theorem retire (kid : BitVec 32) : Statement (.retire kid) := event rfl
theorem microcodeUpdate (mcrev : BitVec 16) : Statement (.microcodeUpdate mcrev) := event rfl
theorem formPartition (num : BitVec 16) (slot : Fin 16) (first count : Nat) (mask : BitVec 16) : Statement (.formPartition num slot first count mask) := event rfl
theorem partitionRelease : Statement (.partitionRelease) := event rfl
theorem create (sbase : BitVec 16) : Statement (.create sbase) := event rfl
theorem start (x : Launch) : Statement (.start x) := event rfl
theorem preempt (limit : Nat) : Statement (.preempt limit) := event rfl
theorem prelimitExpiry : Statement (.prelimitExpiry) := event rfl
theorem halt : Statement (.halt) := event rfl
theorem resume : Statement (.resume) := event rfl
theorem swap : Statement (.swap) := event rfl
theorem swapComplete : Statement (.swapComplete) := event rfl
theorem restore (first : Nat) : Statement (.restore first) := event rfl
theorem restoreComplete : Statement (.restoreComplete) := event rfl
theorem kill : Statement (.kill) := event rfl
theorem killScrubComplete : Statement (.killScrubComplete) := event rfl
theorem resolve (va : Nat) : Statement (.resolve va) := event rfl
theorem pageTableUpdate (addr : Nat) (entry : BitVec 64) : Statement (.pageTableUpdate addr entry) := event rfl
theorem offline : Statement (.offline) := event rfl
theorem evacuationComplete : Statement (.evacuationComplete) := event rfl
theorem online (pass : Bool) : Statement (.online pass) := event rfl
theorem domainFloor (f : Nat) : Statement (.domainFloor f) := event rfl
theorem clockWide : Statement (.clockWide) := event rfl
theorem resetRelease : Statement (.resetRelease) := event rfl
theorem bistComplete (pass : Bool) : Statement (.bistComplete pass) := event rfl
theorem authComplete (pass : Bool) : Statement (.authComplete pass) := event rfl
theorem authTimeout : Statement (.authTimeout) := event rfl
theorem railFault : Statement (.railFault) := event rfl
theorem steppingTick : Statement (.steppingTick) := event rfl
theorem thermRefresh (tj tin : BitVec 12) (pwr : BitVec 16) : Statement (.thermRefresh tj tin pwr) := event rfl
theorem astepWrite (x : BitVec 64) : Statement (.astepWrite x) := event rfl
theorem mboxWrite (slot : Fin 16) (x : BitVec 64) : Statement (.mboxWrite slot x) := event rfl
theorem mboxstsWrite (slot : Fin 16) (x : BitVec 64) : Statement (.mboxstsWrite slot x) := event rfl
theorem hostopen : Statement (.hostopen) := event rfl
theorem hostclose : Statement (.hostclose) := event rfl
theorem hostCxlRead (addr : HostWin) (len : Nat) : Statement (.hostCxlRead addr len) := event rfl
theorem hostCxlWrite (addr : Nat) (bytes : List (BitVec 8)) : Statement (.hostCxlWrite addr bytes) := event rfl
theorem getVersion : Statement (.getVersion) := event rfl
theorem getCapabilities : Statement (.getCapabilities) := event rfl
theorem negotiateAlgorithms : Statement (.negotiateAlgorithms) := event rfl
theorem getDigests : Statement (.getDigests) := event rfl
theorem getCertificate : Statement (.getCertificate) := event rfl
theorem challenge (nonce : List (BitVec 8)) : Statement (.challenge nonce) := event rfl
theorem getMeasurements : Statement (.getMeasurements) := event rfl
theorem scrubError (level addr : Nat) (corrected : Bool) : Statement (.scrubError level addr corrected) := event rfl
theorem registerWrite (reg : StewReg) (x : BitVec 64) : Statement (.registerWrite reg x) := event rfl

end Coding

end Sys2Proof.Laws
end

