-- ==== Sys2Proof/Laws/Coding.lean ====
section
/-! SUPPORT. The encoder's word read back: its frame (R50), its opcode and MOD, and its fields by format (R53). -/

namespace Sys2Proof.Laws

/-- Fields that fit lie in the low 44 bits. -/
theorem pack_lt {e : Enc} (h : Fits e) : pack (fmtOf e.opc) e.f < 2 ^ 44 := by
  obtain ⟨-, -, hd, ha, hb, hc, hp, hq, hg, hk⟩ := h
  cases hf : fmtOf e.opc <;> simp only [hf] at hk <;> simp only [pack] <;> omega

/-- Fields that fit are read from the low 44 bits as they were written. -/
theorem unpack_pack {e : Enc} (h : Fits e) (x : Nat) :
    unpack (fmtOf e.opc) (x * 2 ^ 44 + pack (fmtOf e.opc) e.f) = e.f := by
  obtain ⟨o, md, d, a, b, c, imm, p, q, g⟩ := e
  obtain ⟨-, -, hd, ha, hb, hc, hp, hq, hg, hk⟩ := h
  cases hf : fmtOf o <;> simp only [hf] at hk hd ha hb hc hp hq hg ⊢ <;>
    simp only [pack, unpack, bits, Fields.mk.injEq] <;> omega

/-- The encoder's word, its frame and opcode apart from its low 44 bits. -/
theorem encode_eq {i : Instr} {e : Enc} (h : i.enc = some e) (fr : Frame) :
    encode fr i = (fr.stop.toNat * 2 ^ 19 + fr.dup.toNat * 2 ^ 18 + fr.ginv.toNat * 2 ^ 17 + fr.gpred.val * 2 ^ 13
      + e.opc * 2 ^ 5 + e.md) * 2 ^ 44 + pack (fmtOf e.opc) e.f := by
  simp only [encode, h]
  omega

/-- The opcode, MOD and fields of the encoder's word. -/
theorem encOf_encode {i : Instr} {e : Enc} (h : i.enc = some e) (hf : Fits e) (fr : Frame) :
    encOf (encode fr i) = e := by
  have hp := pack_lt hf
  have hg := fr.gpred.isLt
  have h1 := toNat_lt2 fr.stop
  have h2 := toNat_lt2 fr.dup
  have h3 := toNat_lt2 fr.ginv
  have ho : bits (encode fr i) 56 49 = e.opc := by
    have := hf.1; have := hf.2.1
    rw [encode_eq h]; simp only [bits]; omega
  have hm : bits (encode fr i) 48 44 = e.md := by
    have := hf.1; have := hf.2.1
    rw [encode_eq h]; simp only [bits]; omega
  have hu : unpack (fmtOf e.opc) (encode fr i) = e.f := by rw [encode_eq h]; exact unpack_pack hf _
  simp only [encOf, ho, hm, hu]

/-- The frame of the encoder's word. -/
theorem frameOf_encode {i : Instr} {e : Enc} (h : i.enc = some e) (hf : Fits e) (fr : Frame) :
    frameOf (encode fr i) = fr := by
  have hp := pack_lt hf
  have := hf.1; have := hf.2.1
  obtain ⟨s, d, n, g⟩ := fr
  have hg := g.isLt
  have h1 := toNat_lt2 s
  have h2 := toNat_lt2 d
  have h3 := toNat_lt2 n
  have hb (b : Bool) : (b.toNat == 1) = b := by cases b <;> rfl
  have e1 : bits (encode ⟨s, d, n, g⟩ i) 63 63 = s.toNat := by rw [encode_eq h]; simp only [bits]; omega
  have e2 : bits (encode ⟨s, d, n, g⟩ i) 62 62 = d.toNat := by rw [encode_eq h]; simp only [bits]; omega
  have e3 : bits (encode ⟨s, d, n, g⟩ i) 61 61 = n.toNat := by rw [encode_eq h]; simp only [bits]; omega
  have e4 : bits (encode ⟨s, d, n, g⟩ i) 60 57 = g.val := by rw [encode_eq h]; simp only [bits]; omega
  simp only [frameOf, e1, e2, e3, e4, hb, fin_val]

/-- The encoder's word has 64 bits. -/
theorem encode_lt {i : Instr} {e : Enc} (h : i.enc = some e) (hf : Fits e) (fr : Frame) : encode fr i < 2 ^ 64 := by
  have hp := pack_lt hf
  have := hf.1; have := hf.2.1
  have hg := fr.gpred.isLt
  have h1 := toNat_lt2 fr.stop
  have h2 := toNat_lt2 fr.dup
  have h3 := toNat_lt2 fr.ginv
  rw [encode_eq h]; omega

end Sys2Proof.Laws
end

