-- ==== Sys2Proof/Laws/Exec.lean ====
section
/-! SUPPORT. The dispatch as equations: each instruction runs its meaning. -/

namespace Sys2Proof.Machine

@[simp] theorem exec_sNop (imm : BitVec 16) (s : State) :
    exec (.sNop imm) s = execSNop imm s := rfl
@[simp] theorem exec_sAdd (d a b : SReg) (s : State) :
    exec (.sAdd d a b) s = execSAdd d a b s := rfl
@[simp] theorem exec_sSub (d a b : SReg) (s : State) :
    exec (.sSub d a b) s = execSSub d a b s := rfl
@[simp] theorem exec_sAddi (d a : SReg) (imm : BitVec 30) (s : State) :
    exec (.sAddi d a imm) s = execSAddi d a imm s := rfl
@[simp] theorem exec_sMovi (d : SReg) (imm : BitVec 30) (s : State) :
    exec (.sMovi d imm) s = execSMovi d imm s := rfl
@[simp] theorem exec_sMovhi (d a : SReg) (imm : BitVec 30) (s : State) :
    exec (.sMovhi d a imm) s = execSMovhi d a imm s := rfl
@[simp] theorem exec_sAnd (d a b : SReg) (s : State) :
    exec (.sAnd d a b) s = execSAnd d a b s := rfl
@[simp] theorem exec_sOr (d a b : SReg) (s : State) :
    exec (.sOr d a b) s = execSOr d a b s := rfl
@[simp] theorem exec_sXor (d a b : SReg) (s : State) :
    exec (.sXor d a b) s = execSXor d a b s := rfl
@[simp] theorem exec_sAndn (d a b : SReg) (s : State) :
    exec (.sAndn d a b) s = execSAndn d a b s := rfl
@[simp] theorem exec_sAndi (d a : SReg) (imm : BitVec 30) (s : State) :
    exec (.sAndi d a imm) s = execSAndi d a imm s := rfl
@[simp] theorem exec_sOri (d a : SReg) (imm : BitVec 30) (s : State) :
    exec (.sOri d a imm) s = execSOri d a imm s := rfl
@[simp] theorem exec_sXori (d a : SReg) (imm : BitVec 30) (s : State) :
    exec (.sXori d a imm) s = execSXori d a imm s := rfl
@[simp] theorem exec_sShl (d a b : SReg) (s : State) :
    exec (.sShl d a b) s = execSShl d a b s := rfl
@[simp] theorem exec_sShr (d a b : SReg) (s : State) :
    exec (.sShr d a b) s = execSShr d a b s := rfl
@[simp] theorem exec_sSar (d a b : SReg) (s : State) :
    exec (.sSar d a b) s = execSSar d a b s := rfl
@[simp] theorem exec_sShli (d a : SReg) (pos : Fin 64) (s : State) :
    exec (.sShli d a pos) s = execSShli d a pos s := rfl
@[simp] theorem exec_sShri (d a : SReg) (pos : Fin 64) (s : State) :
    exec (.sShri d a pos) s = execSShri d a pos s := rfl
@[simp] theorem exec_sSari (d a : SReg) (pos : Fin 64) (s : State) :
    exec (.sSari d a pos) s = execSSari d a pos s := rfl
@[simp] theorem exec_sRor (d a b : SReg) (s : State) :
    exec (.sRor d a b) s = execSRor d a b s := rfl
@[simp] theorem exec_sMin (d a b : SReg) (s : State) :
    exec (.sMin d a b) s = execSMin d a b s := rfl
@[simp] theorem exec_sMax (d a b : SReg) (s : State) :
    exec (.sMax d a b) s = execSMax d a b s := rfl
@[simp] theorem exec_sMinu (d a b : SReg) (s : State) :
    exec (.sMinu d a b) s = execSMinu d a b s := rfl
@[simp] theorem exec_sMaxu (d a b : SReg) (s : State) :
    exec (.sMaxu d a b) s = execSMaxu d a b s := rfl
@[simp] theorem exec_sAbs (d a : SReg) (s : State) :
    exec (.sAbs d a) s = execSAbs d a s := rfl
@[simp] theorem exec_sNeg (d a : SReg) (s : State) :
    exec (.sNeg d a) s = execSNeg d a s := rfl
@[simp] theorem exec_sClz (d a : SReg) (s : State) :
    exec (.sClz d a) s = execSClz d a s := rfl
@[simp] theorem exec_sCtz (d a : SReg) (s : State) :
    exec (.sCtz d a) s = execSCtz d a s := rfl
@[simp] theorem exec_sPopc (d a : SReg) (s : State) :
    exec (.sPopc d a) s = execSPopc d a s := rfl
@[simp] theorem exec_sBswap (d a : SReg) (s : State) :
    exec (.sBswap d a) s = execSBswap d a s := rfl
@[simp] theorem exec_sSext (d a : SReg) (w1 : Fin 64) (s : State) :
    exec (.sSext d a w1) s = execSSext d a w1 s := rfl
@[simp] theorem exec_sZext (d a : SReg) (w1 : Fin 64) (s : State) :
    exec (.sZext d a w1) s = execSZext d a w1 s := rfl
@[simp] theorem exec_sBfx (signed : Bool) (d a : SReg) (pos w1 : Fin 64) (s : State) :
    exec (.sBfx signed d a pos w1) s = execSBfx signed d a pos w1 s := rfl
@[simp] theorem exec_sBfi (d a b : SReg) (pos w1 : Fin 64) (s : State) :
    exec (.sBfi d a b pos w1) s = execSBfi d a b pos w1 s := rfl
@[simp] theorem exec_sSel (d a b : SReg) (c : PReg) (s : State) :
    exec (.sSel d a b c) s = execSSel d a b c s := rfl
@[simp] theorem exec_sMul (d a b : SReg) (s : State) :
    exec (.sMul d a b) s = execSMul d a b s := rfl
@[simp] theorem exec_sMulh (d a b : SReg) (s : State) :
    exec (.sMulh d a b) s = execSMulh d a b s := rfl
@[simp] theorem exec_sMulhu (d a b : SReg) (s : State) :
    exec (.sMulhu d a b) s = execSMulhu d a b s := rfl
@[simp] theorem exec_sMadd (d a b c : SReg) (s : State) :
    exec (.sMadd d a b c) s = execSMadd d a b c s := rfl
@[simp] theorem exec_sCmp (cond : Cond) (d : PReg) (a b : SReg) (s : State) :
    exec (.sCmp cond d a b) s = execSCmp cond d a b s := rfl
@[simp] theorem exec_sCmpi (cond : Cond) (d : PReg) (a : SReg) (imm : BitVec 30) (s : State) :
    exec (.sCmpi cond d a imm) s = execSCmpi cond d a imm s := rfl
@[simp] theorem exec_sPand (d a b : PReg) (s : State) :
    exec (.sPand d a b) s = execSPand d a b s := rfl
@[simp] theorem exec_sPor (d a b : PReg) (s : State) :
    exec (.sPor d a b) s = execSPor d a b s := rfl
@[simp] theorem exec_sPxor (d a b : PReg) (s : State) :
    exec (.sPxor d a b) s = execSPxor d a b s := rfl
@[simp] theorem exec_sPnot (d a : PReg) (s : State) :
    exec (.sPnot d a) s = execSPnot d a s := rfl
@[simp] theorem exec_sPset (d : PReg) (a : SReg) (s : State) :
    exec (.sPset d a) s = execSPset d a s := rfl
@[simp] theorem exec_sLea (k : Fin 4) (d a b : SReg) (imm : BitVec 16) (s : State) :
    exec (.sLea k d a b imm) s = execSLea k d a b imm s := rfl
@[simp] theorem exec_sMov (d a : SReg) (s : State) :
    exec (.sMov d a) s = execSMov d a s := rfl
@[simp] theorem exec_sCrd (d : SReg) (c : CReg) (s : State) :
    exec (.sCrd d c) s = execSCrd d c s := rfl
@[simp] theorem exec_sCwr (c : CReg) (a : SReg) (s : State) :
    exec (.sCwr c a) s = execSCwr c a s := rfl
@[simp] theorem exec_sGrd (d : SReg) (g : GReg) (s : State) :
    exec (.sGrd d g) s = execSGrd d g s := rfl
@[simp] theorem exec_sGwr (g : GReg) (a : SReg) (s : State) :
    exec (.sGwr g a) s = execSGwr g a s := rfl
@[simp] theorem exec_sSpl (d : SReg) (slot : Fin 512) (s : State) :
    exec (.sSpl d slot) s = execSSpl d slot s := rfl
@[simp] theorem exec_sSps (a : SReg) (slot : Fin 512) (s : State) :
    exec (.sSps a slot) s = execSSps a slot s := rfl
@[simp] theorem exec_sClk (strict : Bool) (d : SReg) (s : State) :
    exec (.sClk strict d) s = execSClk strict d s := rfl
@[simp] theorem exec_sChk (x : ChkPair) (s : State) :
    exec (.sChk x) s = execSChk x s := rfl
@[simp] theorem exec_sMskIns (q : Fin 4) (d : MReg) (a : SReg) (b : MReg) (s : State) :
    exec (.sMskIns q d a b) s = execSMskIns q d a b s := rfl
@[simp] theorem exec_sMskExt (q : Fin 4) (d : SReg) (a : MReg) (s : State) :
    exec (.sMskExt q d a) s = execSMskExt q d a s := rfl
@[simp] theorem exec_sMski (d : MReg) (n : Fin 257) (s : State) :
    exec (.sMski d n) s = execSMski d n s := rfl
@[simp] theorem exec_bBr (off : BitVec 44) (s : State) :
    exec (.bBr off) s = execBBr off s := rfl
@[simp] theorem exec_bCall (off : BitVec 44) (s : State) :
    exec (.bCall off) s = execBCall off s := rfl
@[simp] theorem exec_bRet (a : SReg) (s : State) :
    exec (.bRet a) s = execBRet a s := rfl
@[simp] theorem exec_bJmpi (a : SReg) (s : State) :
    exec (.bJmpi a) s = execBJmpi a s := rfl
@[simp] theorem exec_bCalli (a : SReg) (cls : BitVec 16) (s : State) :
    exec (.bCalli a cls) s = execBCalli a cls s := rfl
@[simp] theorem exec_bLoop (lvl : Fin 3) (a : SReg) (off : BitVec 30) (s : State) :
    exec (.bLoop lvl a off) s = execBLoop lvl a off s := rfl
@[simp] theorem exec_bPloop (lvl : Fin 3) (k1 : Fin 4) (a : SReg) (off : BitVec 30) (s : State) :
    exec (.bPloop lvl k1 a off) s = execBPloop lvl k1 a off s := rfl
@[simp] theorem exec_bRep (reg : Option SReg) (count : BitVec 12) (stride : BitVec 3) (fmask : BitVec 4) (s : State) :
    exec (.bRep reg count stride fmask) s = execBRep reg count stride fmask s := rfl
@[simp] theorem exec_bCkpt (s : State) :
    exec .bCkpt s = execBCkpt s := rfl
@[simp] theorem exec_bRvz (a : SReg) (slot : Fin 16) (mask : BitVec 8) (s : State) :
    exec (.bRvz a slot mask) s = execBRvz a slot mask s := rfl
@[simp] theorem exec_bCbar (d : SReg) (s : State) :
    exec (.bCbar d) s = execBCbar d s := rfl
@[simp] theorem exec_bYield (a : SReg) (q : Fin 64) (s : State) :
    exec (.bYield a q) s = execBYield a q s := rfl
@[simp] theorem exec_bWaitTime (a b : SReg) (s : State) :
    exec (.bWaitTime a b) s = execBWaitTime a b s := rfl
@[simp] theorem exec_bWaitMbox (b : SReg) (s : State) :
    exec (.bWaitMbox b) s = execBWaitMbox b s := rfl
@[simp] theorem exec_bWaitCrewq (b : SReg) (q : Fin 4) (s : State) :
    exec (.bWaitCrewq b q) s = execBWaitCrewq b q s := rfl
@[simp] theorem exec_bWaitRecv (b : SReg) (n : Fin 16) (s : State) :
    exec (.bWaitRecv b n) s = execBWaitRecv b n s := rfl
@[simp] theorem exec_bMwait (a b c : SReg) (s : State) :
    exec (.bMwait a b c) s = execBMwait a b c s := rfl
@[simp] theorem exec_bPhase (b : SReg) (s : State) :
    exec (.bPhase b) s = execBPhase b s := rfl
@[simp] theorem exec_bEnd (s : State) :
    exec .bEnd s = execBEnd s := rfl
@[simp] theorem exec_bSpawn (a : SReg) (q : Fin 64) (s : State) :
    exec (.bSpawn a q) s = execBSpawn a q s := rfl
@[simp] theorem exec_bWany (d a : SReg) (s : State) :
    exec (.bWany d a) s = execBWany d a s := rfl
@[simp] theorem exec_bWall (d a : SReg) (s : State) :
    exec (.bWall d a) s = execBWall d a s := rfl
@[simp] theorem exec_bFfr (d a : SReg) (s : State) :
    exec (.bFfr d a) s = execBFfr d a s := rfl
@[simp] theorem exec_bTrap (code : BitVec 16) (s : State) :
    exec (.bTrap code) s = execBTrap code s := rfl
@[simp] theorem exec_bGroupQuery (d a : SReg) (s : State) :
    exec (.bGroupQuery d a) s = execBGroupQuery d a s := rfl
@[simp] theorem exec_bGroupForm (a b : SReg) (s : State) :
    exec (.bGroupForm a b) s = execBGroupForm a b s := rfl
@[simp] theorem exec_bGroupDissolve (a : SReg) (s : State) :
    exec (.bGroupDissolve a) s = execBGroupDissolve a s := rfl
@[simp] theorem exec_vAdd (t : EType) (d a : VReg) (b : SV) (m : VMod) (s : State) :
    exec (.vAdd t d a b m) s = execVAdd t d a b m s := rfl
@[simp] theorem exec_vSub (t : EType) (d a : VReg) (b : SV) (m : VMod) (s : State) :
    exec (.vSub t d a b m) s = execVSub t d a b m s := rfl
@[simp] theorem exec_vMul (t : EType) (d a : VReg) (b : SV) (m : VMod) (s : State) :
    exec (.vMul t d a b m) s = execVMul t d a b m s := rfl
@[simp] theorem exec_vMulh (t : EType) (d a : VReg) (b : SV) (m : VMod) (s : State) :
    exec (.vMulh t d a b m) s = execVMulh t d a b m s := rfl
@[simp] theorem exec_vFma (t : EType) (d a : VReg) (b c : SV) (m : VMod) (s : State) :
    exec (.vFma t d a b c m) s = execVFma t d a b c m s := rfl
@[simp] theorem exec_vFms (t : EType) (d a : VReg) (b c : SV) (m : VMod) (s : State) :
    exec (.vFms t d a b c m) s = execVFms t d a b c m s := rfl
@[simp] theorem exec_vFnma (t : EType) (d a : VReg) (b c : SV) (m : VMod) (s : State) :
    exec (.vFnma t d a b c m) s = execVFnma t d a b c m s := rfl
@[simp] theorem exec_vMin (t : EType) (d a : VReg) (b : SV) (m : VMod) (s : State) :
    exec (.vMin t d a b m) s = execVMin t d a b m s := rfl
@[simp] theorem exec_vMax (t : EType) (d a : VReg) (b : SV) (m : VMod) (s : State) :
    exec (.vMax t d a b m) s = execVMax t d a b m s := rfl
@[simp] theorem exec_vAbs (t : EType) (d a : VReg) (m : VMod) (s : State) :
    exec (.vAbs t d a m) s = execVAbs t d a m s := rfl
@[simp] theorem exec_vNeg (t : EType) (d a : VReg) (m : VMod) (s : State) :
    exec (.vNeg t d a m) s = execVNeg t d a m s := rfl
@[simp] theorem exec_vClamp (t : EType) (d a : VReg) (b c : SV) (m : VMod) (s : State) :
    exec (.vClamp t d a b c m) s = execVClamp t d a b c m s := rfl
@[simp] theorem exec_vAnd (t : EType) (d a : VReg) (b : SV) (m : VMod) (s : State) :
    exec (.vAnd t d a b m) s = execVAnd t d a b m s := rfl
@[simp] theorem exec_vOr (t : EType) (d a : VReg) (b : SV) (m : VMod) (s : State) :
    exec (.vOr t d a b m) s = execVOr t d a b m s := rfl
@[simp] theorem exec_vXor (t : EType) (d a : VReg) (b : SV) (m : VMod) (s : State) :
    exec (.vXor t d a b m) s = execVXor t d a b m s := rfl
@[simp] theorem exec_vNot (t : EType) (d a : VReg) (m : VMod) (s : State) :
    exec (.vNot t d a m) s = execVNot t d a m s := rfl
@[simp] theorem exec_vShl (t : EType) (d a : VReg) (b : SV) (m : VMod) (s : State) :
    exec (.vShl t d a b m) s = execVShl t d a b m s := rfl
@[simp] theorem exec_vShr (t : EType) (d a : VReg) (b : SV) (m : VMod) (s : State) :
    exec (.vShr t d a b m) s = execVShr t d a b m s := rfl
@[simp] theorem exec_vSar (t : EType) (d a : VReg) (b : SV) (m : VMod) (s : State) :
    exec (.vSar t d a b m) s = execVSar t d a b m s := rfl
@[simp] theorem exec_vFshl (t : EType) (d a : VReg) (b c : SV) (m : VMod) (s : State) :
    exec (.vFshl t d a b c m) s = execVFshl t d a b c m s := rfl
@[simp] theorem exec_vFshr (t : EType) (d a : VReg) (b c : SV) (m : VMod) (s : State) :
    exec (.vFshr t d a b c m) s = execVFshr t d a b c m s := rfl
@[simp] theorem exec_vCmp (t : EType) (d : MReg) (a : VReg) (b : SV) (cond : Cond) (s : State) :
    exec (.vCmp t d a b cond) s = execVCmp t d a b cond s := rfl
@[simp] theorem exec_vSel (t : EType) (d a : VReg) (b : SV) (mask : MReg) (s : State) :
    exec (.vSel t d a b mask) s = execVSel t d a b mask s := rfl
@[simp] theorem exec_vMov (t : EType) (d a : VReg) (m : VMod) (s : State) :
    exec (.vMov t d a m) s = execVMov t d a m s := rfl
@[simp] theorem exec_vBcast (t : EType) (d : VReg) (b : SReg) (m : VMod) (s : State) :
    exec (.vBcast t d b m) s = execVBcast t d b m s := rfl
@[simp] theorem exec_vIota (t : EType) (d : VReg) (b : SReg) (m : VMod) (step : BitVec 9) (s : State) :
    exec (.vIota t d b m step) s = execVIota t d b m step s := rfl
@[simp] theorem exec_vExtr (t : EType) (d : SReg) (a : VReg) (b : SReg) (idx : BitVec 9) (s : State) :
    exec (.vExtr t d a b idx) s = execVExtr t d a b idx s := rfl
@[simp] theorem exec_vIns (t : EType) (d a : VReg) (b c : SReg) (idx : BitVec 9) (s : State) :
    exec (.vIns t d a b c idx) s = execVIns t d a b c idx s := rfl
@[simp] theorem exec_vPerm (t : EType) (d a b : VReg) (m : VMod) (s : State) :
    exec (.vPerm t d a b m) s = execVPerm t d a b m s := rfl
@[simp] theorem exec_vSlide (t : EType) (d a : VReg) (b : SReg) (m : VMod) (s : State) :
    exec (.vSlide t d a b m) s = execVSlide t d a b m s := rfl
@[simp] theorem exec_vZip (t : EType) (d a b : VReg) (m : VMod) (h : Bool) (s : State) :
    exec (.vZip t d a b m h) s = execVZip t d a b m h s := rfl
@[simp] theorem exec_vCmprs (t : EType) (d a : VReg) (mask : MReg) (s : State) :
    exec (.vCmprs t d a mask) s = execVCmprs t d a mask s := rfl
@[simp] theorem exec_vCvt (src : EType) (d a : VReg) (dst : CvtDst) (part : Fin 8) (m : VMod) (s : State) :
    exec (.vCvt src d a dst part m) s = execVCvt src d a dst part m s := rfl
@[simp] theorem exec_vMaxexp (a : VReg) (mask : MReg) (s : State) :
    exec (.vMaxexp a mask) s = execVMaxexp a mask s := rfl
@[simp] theorem exec_vPxpose (signed : Bool) (d a : VReg) (planes1 : Fin 8) (g : Bool) (s : State) :
    exec (.vPxpose signed d a planes1 g) s = execVPxpose signed d a planes1 g s := rfl
@[simp] theorem exec_vRsum (t : EType) (d a : VReg) (m : VMod) (s : State) :
    exec (.vRsum t d a m) s = execVRsum t d a m s := rfl
@[simp] theorem exec_vRmax (t : EType) (d a : VReg) (m : VMod) (s : State) :
    exec (.vRmax t d a m) s = execVRmax t d a m s := rfl
@[simp] theorem exec_vRmin (t : EType) (d a : VReg) (m : VMod) (s : State) :
    exec (.vRmin t d a m) s = execVRmin t d a m s := rfl
@[simp] theorem exec_vGmax (t : EType) (d a : VReg) (m : VMod) (g : Fin 8) (abs : Bool) (s : State) :
    exec (.vGmax t d a m g abs) s = execVGmax t d a m g abs s := rfl
@[simp] theorem exec_vRowsum (t : EType) (d a : VReg) (m : VMod) (s : State) :
    exec (.vRowsum t d a m) s = execVRowsum t d a m s := rfl
@[simp] theorem exec_vColsum (t : EType) (d a : VReg) (m : VMod) (s : State) :
    exec (.vColsum t d a m) s = execVColsum t d a m s := rfl
@[simp] theorem exec_vAread (d : VReg) (a : AReg) (b : SReg) (q : Fin 64) (s : State) :
    exec (.vAread d a b q) s = execVAread d a b q s := rfl
@[simp] theorem exec_vAwrite (d : AReg) (a : VReg) (b : SReg) (q : Fin 64) (s : State) :
    exec (.vAwrite d a b q) s = execVAwrite d a b q s := rfl
@[simp] theorem exec_vMcnt (d : SReg) (a : MReg) (s : State) :
    exec (.vMcnt d a) s = execVMcnt d a s := rfl
@[simp] theorem exec_vPopc (t : EType) (d a : VReg) (m : VMod) (s : State) :
    exec (.vPopc t d a m) s = execVPopc t d a m s := rfl
@[simp] theorem exec_vClz (t : EType) (d a : VReg) (m : VMod) (s : State) :
    exec (.vClz t d a m) s = execVClz t d a m s := rfl
@[simp] theorem exec_vRound (t : EType) (d a : VReg) (m : VMod) (s : State) :
    exec (.vRound t d a m) s = execVRound t d a m s := rfl
@[simp] theorem exec_vScale (t : EType) (d a : VReg) (b : SReg) (m : VMod) (s : State) :
    exec (.vScale t d a b m) s = execVScale t d a b m s := rfl
@[simp] theorem exec_vAvg (t : EType) (d a : VReg) (b : SV) (m : VMod) (s : State) :
    exec (.vAvg t d a b m) s = execVAvg t d a b m s := rfl
@[simp] theorem exec_vAbd (t : EType) (d a : VReg) (b : SV) (m : VMod) (s : State) :
    exec (.vAbd t d a b m) s = execVAbd t d a b m s := rfl
@[simp] theorem exec_vMset (d : MReg) (a : VReg) (s : State) :
    exec (.vMset d a) s = execVMset d a s := rfl
@[simp] theorem exec_vMand (op : MaskOp) (d a b : MReg) (s : State) :
    exec (.vMand op d a b) s = execVMand op d a b s := rfl
@[simp] theorem exec_fTbl (t : EType) (d a : VReg) (b : SReg) (m : VMod) (tbl : Fin 4) (s : State) :
    exec (.fTbl t d a b m tbl) s = execFTbl t d a b m tbl s := rfl
@[simp] theorem exec_fTblwr (a : VReg) (tbl : Fin 4) (s : State) :
    exec (.fTblwr a tbl) s = execFTblwr a tbl s := rfl
@[simp] theorem exec_fTblrd (d : VReg) (tbl : Fin 4) (s : State) :
    exec (.fTblrd d tbl) s = execFTblrd d tbl s := rfl
@[simp] theorem exec_fRcp (t : EType) (d a : VReg) (m : VMod) (s : State) :
    exec (.fRcp t d a m) s = execFRcp t d a m s := rfl
@[simp] theorem exec_fRsq (t : EType) (d a : VReg) (m : VMod) (s : State) :
    exec (.fRsq t d a m) s = execFRsq t d a m s := rfl
@[simp] theorem exec_fSqrt (t : EType) (d a : VReg) (m : VMod) (s : State) :
    exec (.fSqrt t d a m) s = execFSqrt t d a m s := rfl
@[simp] theorem exec_fDiv (t : EType) (d a : VReg) (b : SV) (m : VMod) (s : State) :
    exec (.fDiv t d a b m) s = execFDiv t d a b m s := rfl
@[simp] theorem exec_fExp2 (t : EType) (d a : VReg) (m : VMod) (s : State) :
    exec (.fExp2 t d a m) s = execFExp2 t d a m s := rfl
@[simp] theorem exec_fLog2 (t : EType) (d a : VReg) (m : VMod) (s : State) :
    exec (.fLog2 t d a m) s = execFLog2 t d a m s := rfl
@[simp] theorem exec_fExp (t : EType) (d a : VReg) (m : VMod) (s : State) :
    exec (.fExp t d a m) s = execFExp t d a m s := rfl
@[simp] theorem exec_fLog (t : EType) (d a : VReg) (m : VMod) (s : State) :
    exec (.fLog t d a m) s = execFLog t d a m s := rfl
@[simp] theorem exec_fGeo (pred : GeoPred) (opt : GeoOpt) (a : VReg) (mask : MReg) (s : State) :
    exec (.fGeo pred opt a mask) s = execFGeo pred opt a mask s := rfl
@[simp] theorem exec_fGeoidx (d a : VReg) (b : SReg) (s : State) :
    exec (.fGeoidx d a b) s = execFGeoidx d a b s := rfl
@[simp] theorem exec_fLq (d a : VReg) (b : SReg) (s : State) :
    exec (.fLq d a b) s = execFLq d a b s := rfl
@[simp] theorem exec_fLdq (t : EType) (d a : VReg) (b : SReg) (m : VMod) (s : State) :
    exec (.fLdq t d a b m) s = execFLdq t d a b m s := rfl
@[simp] theorem exec_fLqcnt (d : SReg) (s : State) :
    exec (.fLqcnt d) s = execFLqcnt d s := rfl
@[simp] theorem exec_fLscale (d : SReg) (a : VReg) (adj : BitVec 4) (s : State) :
    exec (.fLscale d a adj) s = execFLscale d a adj s := rfl
@[simp] theorem exec_mLd (cls : LClass) (ty : SizeTy) (d a : SReg) (imm : BitVec 16) (s : State) :
    exec (.mLd cls ty d a imm) s = execMLd cls ty d a imm s := rfl
@[simp] theorem exec_mSt (ty : SizeTy) (a b : SReg) (imm : BitVec 16) (s : State) :
    exec (.mSt ty a b imm) s = execMSt ty a b imm s := rfl
@[simp] theorem exec_mLdp (cls : LClass) (d a : SReg) (imm : BitVec 16) (s : State) :
    exec (.mLdp cls d a imm) s = execMLdp cls d a imm s := rfl
@[simp] theorem exec_mStp (a b : SReg) (imm : BitVec 16) (s : State) :
    exec (.mStp a b imm) s = execMStp a b imm s := rfl
@[simp] theorem exec_mVld (cls : LClass) (d : VReg) (a : SReg) (imm : BitVec 16) (s : State) :
    exec (.mVld cls d a imm) s = execMVld cls d a imm s := rfl
@[simp] theorem exec_mVst (a : SReg) (b : VReg) (imm : BitVec 16) (s : State) :
    exec (.mVst a b imm) s = execMVst a b imm s := rfl
@[simp] theorem exec_mVstu (a : SReg) (b c : VReg) (imm : BitVec 16) (s : State) :
    exec (.mVstu a b c imm) s = execMVstu a b c imm s := rfl
@[simp] theorem exec_mVlds (cls : LClass) (d : VReg) (a b : SReg) (imm : BitVec 16) (s : State) :
    exec (.mVlds cls d a b imm) s = execMVlds cls d a b imm s := rfl
@[simp] theorem exec_mVsts (a : SReg) (b : VReg) (c : SReg) (imm : BitVec 16) (s : State) :
    exec (.mVsts a b c imm) s = execMVsts a b c imm s := rfl
@[simp] theorem exec_mVldb (cls : LClass) (d : VReg) (a : SReg) (t : TId) (s : State) :
    exec (.mVldb cls d a t) s = execMVldb cls d a t s := rfl
@[simp] theorem exec_mVgath (d : VReg) (a : SReg) (b : VReg) (mask : MReg) (s : State) :
    exec (.mVgath d a b mask) s = execMVgath d a b mask s := rfl
@[simp] theorem exec_mVscat (a : SReg) (b c : VReg) (mask : MReg) (s : State) :
    exec (.mVscat a b c mask) s = execMVscat a b c mask s := rfl
@[simp] theorem exec_mLdaq (cls : LClass) (ty : SizeTy) (scope : Scope) (d a : SReg) (s : State) :
    exec (.mLdaq cls ty scope d a) s = execMLdaq cls ty scope d a s := rfl
@[simp] theorem exec_mStrl (ty : SizeTy) (scope : Scope) (a b : SReg) (s : State) :
    exec (.mStrl ty scope a b) s = execMStrl ty scope a b s := rfl
@[simp] theorem exec_mAadd (o : AMod) (d a b : SReg) (s : State) :
    exec (.mAadd o d a b) s = execMAadd o d a b s := rfl
@[simp] theorem exec_mAmin (o : AMod) (d a b : SReg) (s : State) :
    exec (.mAmin o d a b) s = execMAmin o d a b s := rfl
@[simp] theorem exec_mAmax (o : AMod) (d a b : SReg) (s : State) :
    exec (.mAmax o d a b) s = execMAmax o d a b s := rfl
@[simp] theorem exec_mAand (o : AMod) (d a b : SReg) (s : State) :
    exec (.mAand o d a b) s = execMAand o d a b s := rfl
@[simp] theorem exec_mAor (o : AMod) (d a b : SReg) (s : State) :
    exec (.mAor o d a b) s = execMAor o d a b s := rfl
@[simp] theorem exec_mAxor (o : AMod) (d a b : SReg) (s : State) :
    exec (.mAxor o d a b) s = execMAxor o d a b s := rfl
@[simp] theorem exec_mSwap (o : AMod) (d a b : SReg) (s : State) :
    exec (.mSwap o d a b) s = execMSwap o d a b s := rfl
@[simp] theorem exec_mCas (o : AMod) (ford : MemOrd) (d a b c : SReg) (s : State) :
    exec (.mCas o ford d a b c) s = execMCas o ford d a b c s := rfl
@[simp] theorem exec_mFence (kind : FenceKind) (scope : Scope) (s : State) :
    exec (.mFence kind scope) s = execMFence kind scope s := rfl
@[simp] theorem exec_mFenceStamp (s : State) :
    exec .mFenceStamp s = execMFenceStamp s := rfl
@[simp] theorem exec_mSts (ty : SizeTy) (d a b : SReg) (imm : BitVec 16) (s : State) :
    exec (.mSts ty d a b imm) s = execMSts ty d a b imm s := rfl
@[simp] theorem exec_mLdas (cls : LClass) (ty : SizeTy) (d a b : SReg) (imm : BitVec 16) (s : State) :
    exec (.mLdas cls ty d a b imm) s = execMLdas cls ty d a b imm s := rfl
@[simp] theorem exec_mPref (a : SReg) (imm : BitVec 16) (s : State) :
    exec (.mPref a imm) s = execMPref a imm s := rfl
@[simp] theorem exec_mGld (cls : LClass) (ty : SizeTy) (d a : SReg) (c : PReg) (imm : BitVec 16) (s : State) :
    exec (.mGld cls ty d a c imm) s = execMGld cls ty d a c imm s := rfl
@[simp] theorem exec_mGst (ty : SizeTy) (a b : SReg) (c : PReg) (imm : BitVec 16) (s : State) :
    exec (.mGst ty a b c imm) s = execMGst ty a b c imm s := rfl
@[simp] theorem exec_mTinv (a : SReg) (s : State) :
    exec (.mTinv a) s = execMTinv a s := rfl
@[simp] theorem exec_mZero (a : SReg) (imm : BitVec 16) (s : State) :
    exec (.mZero a imm) s = execMZero a imm s := rfl
@[simp] theorem exec_xMma (t : AReg) (ta tb : TId) (s : State) :
    exec (.xMma t ta tb) s = execXMma t ta tb s := rfl
@[simp] theorem exec_xMmac (t : AReg) (ta tb : TId) (s : State) :
    exec (.xMmac t ta tb) s = execXMmac t ta tb s := rfl
@[simp] theorem exec_xAclr (f32 : Bool) (t : AReg) (s : State) :
    exec (.xAclr f32 t) s = execXAclr f32 t s := rfl
@[simp] theorem exec_xAmov (t src : AReg) (s : State) :
    exec (.xAmov t src) s = execXAmov t src s := rfl
@[simp] theorem exec_xAload (t : AReg) (ta : TId) (s : State) :
    exec (.xAload t ta) s = execXAload t ta s := rfl
@[simp] theorem exec_xAsave (t : AReg) (ta : TId) (tag : Tag) (s : State) :
    exec (.xAsave t ta tag) s = execXAsave t ta tag s := rfl
@[simp] theorem exec_xMode (alt8 : Bool) (s : State) :
    exec (.xMode alt8) s = execXMode alt8 s := rfl
@[simp] theorem exec_xMirr (off : Bool) (s : State) :
    exec (.xMirr off) s = execXMirr off s := rfl
@[simp] theorem exec_xFence (s : State) :
    exec .xFence s = execXFence s := rfl
@[simp] theorem exec_xStat (d : SReg) (s : State) :
    exec (.xStat d) s = execXStat d s := rfl
@[simp] theorem exec_dPp (t : AReg) (ta tb : TId) (tag : Tag) (fn : PpFn) (s : State) :
    exec (.dPp t ta tb tag fn) s = execDPp t ta tb tag fn s := rfl
@[simp] theorem exec_dPpcmp (t : AReg) (ta tb : TId) (tag : Tag) (fn : PpFn) (s : State) :
    exec (.dPpcmp t ta tb tag fn) s = execDPpcmp t ta tb tag fn s := rfl
@[simp] theorem exec_dPpcfg (a : VReg) (s : State) :
    exec (.dPpcfg a) s = execDPpcfg a s := rfl
@[simp] theorem exec_dPpact (d : SReg) (s : State) :
    exec (.dPpact d) s = execDPpact d s := rfl
@[simp] theorem exec_cCopy (ta tb : TId) (tag : Tag) (s : State) :
    exec (.cCopy ta tb tag) s = execCCopy ta tb tag s := rfl
@[simp] theorem exec_cCopy2d (ta tb : TId) (tag : Tag) (s : State) :
    exec (.cCopy2d ta tb tag) s = execCCopy2d ta tb tag s := rfl
@[simp] theorem exec_cFill (t : SReg) (tb : TId) (tag : Tag) (s : State) :
    exec (.cFill t tb tag) s = execCFill t tb tag s := rfl
@[simp] theorem exec_cFill2d (t : SReg) (tb : TId) (tag : Tag) (s : State) :
    exec (.cFill2d t tb tag) s = execCFill2d t tb tag s := rfl
@[simp] theorem exec_cGath (ta tb : TId) (tag : Tag) (s : State) :
    exec (.cGath ta tb tag) s = execCGath ta tb tag s := rfl
@[simp] theorem exec_cScat (ta tb : TId) (tag : Tag) (s : State) :
    exec (.cScat ta tb tag) s = execCScat ta tb tag s := rfl
@[simp] theorem exec_cXpose (ta tb : TId) (tag : Tag) (s : State) :
    exec (.cXpose ta tb tag) s = execCXpose ta tb tag s := rfl
@[simp] theorem exec_cPlane (toBytes : Bool) (ta tb : TId) (tag : Tag) (s : State) :
    exec (.cPlane toBytes ta tb tag) s = execCPlane toBytes ta tb tag s := rfl
@[simp] theorem exec_cConv (kind : ConvKind) (ta tb : TId) (tag : Tag) (s : State) :
    exec (.cConv kind ta tb tag) s = execCConv kind ta tb tag s := rfl
@[simp] theorem exec_cXch (ta tb : TId) (tag : Tag) (slot : BitVec 16) (s : State) :
    exec (.cXch ta tb tag slot) s = execCXch ta tb tag slot s := rfl
@[simp] theorem exec_cTclr (a : SReg) (s : State) :
    exec (.cTclr a) s = execCTclr a s := rfl
@[simp] theorem exec_cPref (ta : TId) (tag : Tag) (s : State) :
    exec (.cPref ta tag) s = execCPref ta tag s := rfl
@[simp] theorem exec_lOpenSend (n : Fin 16) (s : State) :
    exec (.lOpenSend n) s = execLOpenSend n s := rfl
@[simp] theorem exec_lOpenRecv (n : Fin 16) (s : State) :
    exec (.lOpenRecv n) s = execLOpenRecv n s := rfl
@[simp] theorem exec_lSend (ta : TId) (n : Fin 16) (tag : Tag) (s : State) :
    exec (.lSend ta n tag) s = execLSend ta n tag s := rfl
@[simp] theorem exec_lSendst (t : SReg) (ta : TId) (n : Fin 16) (tag : Tag) (s : State) :
    exec (.lSendst t ta n tag) s = execLSendst t ta n tag s := rfl
@[simp] theorem exec_lRecv (tb : TId) (n : Fin 16) (tag : Tag) (s : State) :
    exec (.lRecv tb n tag) s = execLRecv tb n tag s := rfl
@[simp] theorem exec_lPeek (d : SReg) (n : Fin 16) (s : State) :
    exec (.lPeek d n) s = execLPeek d n s := rfl
@[simp] theorem exec_lClose (n : Fin 16) (s : State) :
    exec (.lClose n) s = execLClose n s := rfl
@[simp] theorem exec_lStat (d : SReg) (n : Fin 16) (s : State) :
    exec (.lStat d n) s = execLStat d n s := rfl
@[simp] theorem exec_dJpeg (ta : TId) (tag : Tag) (s : State) :
    exec (.dJpeg ta tag) s = execDJpeg ta tag s := rfl
@[simp] theorem exec_dG4 (ta : TId) (tag : Tag) (s : State) :
    exec (.dG4 ta tag) s = execDG4 ta tag s := rfl
@[simp] theorem exec_dRaw (b1 : Bool) (ta : TId) (tag : Tag) (s : State) :
    exec (.dRaw b1 ta tag) s = execDRaw b1 ta tag s := rfl
@[simp] theorem exec_dRingSet (a b : SReg) (s : State) :
    exec (.dRingSet a b) s = execDRingSet a b s := rfl
@[simp] theorem exec_dRingFree (a : SReg) (s : State) :
    exec (.dRingFree a) s = execDRingFree a s := rfl
@[simp] theorem exec_dPortCount (d : SReg) (s : State) :
    exec (.dPortCount d) s = execDPortCount d s := rfl
@[simp] theorem exec_dPortSkip (d : SReg) (s : State) :
    exec (.dPortSkip d) s = execDPortSkip d s := rfl
@[simp] theorem exec_dDstat (d : SReg) (s : State) :
    exec (.dDstat d) s = execDDstat d s := rfl
@[simp] theorem exec_dDabort (s : State) :
    exec .dDabort s = execDDabort s := rfl
@[simp] theorem exec_dDfence (s : State) :
    exec .dDfence s = execDDfence s := rfl
@[simp] theorem exec_zw1Madd (d a b c : SReg) (s : State) :
    exec (.zw1Madd d a b c) s = execZw1Madd d a b c s := rfl
@[simp] theorem exec_zw1Ldpair (d a : SReg) (imm : BitVec 16) (s : State) :
    exec (.zw1Ldpair d a imm) s = execZw1Ldpair d a imm s := rfl
@[simp] theorem exec_zw1Vsum (d : SReg) (a : VReg) (s : State) :
    exec (.zw1Vsum d a) s = execZw1Vsum d a s := rfl
@[simp] theorem exec_zw1Dbnz (a : SReg) (off : BitVec 30) (s : State) :
    exec (.zw1Dbnz a off) s = execZw1Dbnz a off s := rfl
@[simp] theorem exec_rvzDeadline (crew slot : Fin 16) (s : State) :
    exec (.rvzDeadline crew slot) s = execRvzDeadline crew slot s := rfl
@[simp] theorem exec_cbarDeadline (crew : Fin 16) (s : State) :
    exec (.cbarDeadline crew) s = execCbarDeadline crew s := rfl
@[simp] theorem exec_waitTimeExpiry (s : State) :
    exec .waitTimeExpiry s = execWaitTimeExpiry s := rfl
@[simp] theorem exec_exchangeEnd (s : State) :
    exec .exchangeEnd s = execExchangeEnd s := rfl
@[simp] theorem exec_exchangeTimeExpiry (s : State) :
    exec .exchangeTimeExpiry s = execExchangeTimeExpiry s := rfl
@[simp] theorem exec_geoRecordFill (n : Nat) (s : State) :
    exec (.geoRecordFill n) s = execGeoRecordFill n s := rfl
@[simp] theorem exec_modeSwitch (s : State) :
    exec .modeSwitch s = execModeSwitch s := rfl
@[simp] theorem exec_matrixCommandStart (s : State) :
    exec .matrixCommandStart s = execMatrixCommandStart s := rfl
@[simp] theorem exec_matrixCommandFinish (mismatch : Bool) (s : State) :
    exec (.matrixCommandFinish mismatch) s = execMatrixCommandFinish mismatch s := rfl
@[simp] theorem exec_postprocComplete (s : State) :
    exec .postprocComplete s = execPostprocComplete s := rfl
@[simp] theorem exec_copyCommandStart (serial : Nat) (s : State) :
    exec (.copyCommandStart serial) s = execCopyCommandStart serial s := rfl
@[simp] theorem exec_copyComplete (serial : Nat) (s : State) :
    exec (.copyComplete serial) s = execCopyComplete serial s := rfl
@[simp] theorem exec_copyFault (serial : Nat) (s : State) :
    exec (.copyFault serial) s = execCopyFault serial s := rfl
@[simp] theorem exec_copyDemandPark (serial : Nat) (s : State) :
    exec (.copyDemandPark serial) s = execCopyDemandPark serial s := rfl
@[simp] theorem exec_ringSetPerformed (s : State) :
    exec .ringSetPerformed s = execRingSetPerformed s := rfl
@[simp] theorem exec_decodeEngineAssign (s : State) :
    exec .decodeEngineAssign s = execDecodeEngineAssign s := rfl
@[simp] theorem exec_decodeRecordEmit (s : State) :
    exec .decodeRecordEmit s = execDecodeRecordEmit s := rfl
@[simp] theorem exec_decodePageEnd (s : State) :
    exec .decodePageEnd s = execDecodePageEnd s := rfl
@[simp] theorem exec_streamSlotPresent (w : SlotWay) (s : State) :
    exec (.streamSlotPresent w) s = execStreamSlotPresent w s := rfl
@[simp] theorem exec_creditReturn (w : CreditWay) (s : State) :
    exec (.creditReturn w) s = execCreditReturn w s := rfl
@[simp] theorem exec_reserve (wavelength port : Nat) (die : CircuitEnd) (n : Fin 16) (s : State) :
    exec (.reserve wavelength port die n) s = execReserve wavelength port die n s := rfl
@[simp] theorem exec_tune (circuit : Nat) (s : State) :
    exec (.tune circuit) s = execTune circuit s := rfl
@[simp] theorem exec_tuneLocked (circuit : Nat) (s : State) :
    exec (.tuneLocked circuit) s = execTuneLocked circuit s := rfl
@[simp] theorem exec_linkFail (circuit : Nat) (s : State) :
    exec (.linkFail circuit) s = execLinkFail circuit s := rfl
@[simp] theorem exec_linkError (circuit : Nat) (s : State) :
    exec (.linkError circuit) s = execLinkError circuit s := rfl
@[simp] theorem exec_circuitDrain (circuit : DrainOf) (s : State) :
    exec (.circuitDrain circuit) s = execCircuitDrain circuit s := rfl
@[simp] theorem exec_circuitDrainComplete (circuit : Nat) (s : State) :
    exec (.circuitDrainComplete circuit) s = execCircuitDrainComplete circuit s := rfl
@[simp] theorem exec_circuitRelease (circuit : Nat) (s : State) :
    exec (.circuitRelease circuit) s = execCircuitRelease circuit s := rfl
@[simp] theorem exec_pminWrite (x : BitVec 64) (s : State) :
    exec (.pminWrite x) s = execPminWrite x s := rfl
@[simp] theorem exec_partminWrite (slot : Fin 16) (x : BitVec 64) (s : State) :
    exec (.partminWrite slot x) s = execPartminWrite slot x s := rfl
@[simp] theorem exec_flitArrival (cls : Fin 5) (slot : Fin 16) (s : State) :
    exec (.flitArrival cls slot) s = execFlitArrival cls slot s := rfl
@[simp] theorem exec_flitLeavesIngress (s : State) :
    exec .flitLeavesIngress s = execFlitLeavesIngress s := rfl
@[simp] theorem exec_debugRelease (s : State) :
    exec .debugRelease s = execDebugRelease s := rfl
@[simp] theorem exec_budget (s : State) :
    exec .budget s = execBudget s := rfl
@[simp] theorem exec_budgetRefill (left : BitVec 32) (s : State) :
    exec (.budgetRefill left) s = execBudgetRefill left s := rfl
@[simp] theorem exec_coreFill (s : State) :
    exec .coreFill s = execCoreFill s := rfl
@[simp] theorem exec_queueOverflowMove (q : Fin 64) (s : State) :
    exec (.queueOverflowMove q) s = execQueueOverflowMove q s := rfl
@[simp] theorem exec_submit (kid : BitVec 32) (container : List (BitVec 8)) (s : State) :
    exec (.submit kid container) s = execSubmit kid container s := rfl
@[simp] theorem exec_verificationEnd (kid : BitVec 32) (s : State) :
    exec (.verificationEnd kid) s = execVerificationEnd kid s := rfl
@[simp] theorem exec_load (kid : BitVec 32) (vector : BitVec 64) (s : State) :
    exec (.load kid vector) s = execLoad kid vector s := rfl
@[simp] theorem exec_retire (kid : BitVec 32) (s : State) :
    exec (.retire kid) s = execRetire kid s := rfl
@[simp] theorem exec_microcodeUpdate (mcrev : BitVec 16) (s : State) :
    exec (.microcodeUpdate mcrev) s = execMicrocodeUpdate mcrev s := rfl
@[simp] theorem exec_formPartition (num : BitVec 16) (slot : Fin 16) (first count : Nat) (mask : BitVec 16) (s : State) :
    exec (.formPartition num slot first count mask) s = execFormPartition num slot first count mask s := rfl
@[simp] theorem exec_partitionRelease (s : State) :
    exec .partitionRelease s = execPartitionRelease s := rfl
@[simp] theorem exec_create (sbase : BitVec 16) (s : State) :
    exec (.create sbase) s = execCreate sbase s := rfl
@[simp] theorem exec_start (x : Launch) (s : State) :
    exec (.start x) s = execStart x s := rfl
@[simp] theorem exec_preempt (limit : Nat) (s : State) :
    exec (.preempt limit) s = execPreempt limit s := rfl
@[simp] theorem exec_prelimitExpiry (s : State) :
    exec .prelimitExpiry s = execPrelimitExpiry s := rfl
@[simp] theorem exec_halt (s : State) :
    exec .halt s = execHalt s := rfl
@[simp] theorem exec_resume (s : State) :
    exec .resume s = execResume s := rfl
@[simp] theorem exec_swap (s : State) :
    exec .swap s = execSwap s := rfl
@[simp] theorem exec_swapComplete (s : State) :
    exec .swapComplete s = execSwapComplete s := rfl
@[simp] theorem exec_restore (first : Nat) (s : State) :
    exec (.restore first) s = execRestore first s := rfl
@[simp] theorem exec_restoreComplete (s : State) :
    exec .restoreComplete s = execRestoreComplete s := rfl
@[simp] theorem exec_kill (s : State) :
    exec .kill s = execKill s := rfl
@[simp] theorem exec_killScrubComplete (s : State) :
    exec .killScrubComplete s = execKillScrubComplete s := rfl
@[simp] theorem exec_resolve (va : Nat) (s : State) :
    exec (.resolve va) s = execResolve va s := rfl
@[simp] theorem exec_pageTableUpdate (addr : Nat) (entry : BitVec 64) (s : State) :
    exec (.pageTableUpdate addr entry) s = execPageTableUpdate addr entry s := rfl
@[simp] theorem exec_offline (s : State) :
    exec .offline s = execOffline s := rfl
@[simp] theorem exec_evacuationComplete (s : State) :
    exec .evacuationComplete s = execEvacuationComplete s := rfl
@[simp] theorem exec_online (pass : Bool) (s : State) :
    exec (.online pass) s = execOnline pass s := rfl
@[simp] theorem exec_domainFloor (f : Nat) (s : State) :
    exec (.domainFloor f) s = execDomainFloor f s := rfl
@[simp] theorem exec_clockWide (s : State) :
    exec .clockWide s = execClockWide s := rfl
@[simp] theorem exec_resetRelease (s : State) :
    exec .resetRelease s = execResetRelease s := rfl
@[simp] theorem exec_bistComplete (pass : Bool) (s : State) :
    exec (.bistComplete pass) s = execBistComplete pass s := rfl
@[simp] theorem exec_authComplete (pass : Bool) (s : State) :
    exec (.authComplete pass) s = execAuthComplete pass s := rfl
@[simp] theorem exec_authTimeout (s : State) :
    exec .authTimeout s = execAuthTimeout s := rfl
@[simp] theorem exec_railFault (s : State) :
    exec .railFault s = execRailFault s := rfl
@[simp] theorem exec_steppingTick (s : State) :
    exec .steppingTick s = execSteppingTick s := rfl
@[simp] theorem exec_thermRefresh (tj tin : BitVec 12) (pwr : BitVec 16) (s : State) :
    exec (.thermRefresh tj tin pwr) s = execThermRefresh tj tin pwr s := rfl
@[simp] theorem exec_astepWrite (x : BitVec 64) (s : State) :
    exec (.astepWrite x) s = execAstepWrite x s := rfl
@[simp] theorem exec_mboxWrite (slot : Fin 16) (x : BitVec 64) (s : State) :
    exec (.mboxWrite slot x) s = execMboxWrite slot x s := rfl
@[simp] theorem exec_mboxstsWrite (slot : Fin 16) (x : BitVec 64) (s : State) :
    exec (.mboxstsWrite slot x) s = execMboxstsWrite slot x s := rfl
@[simp] theorem exec_hostopen (s : State) :
    exec .hostopen s = execHostopen s := rfl
@[simp] theorem exec_hostclose (s : State) :
    exec .hostclose s = execHostclose s := rfl
@[simp] theorem exec_hostCxlRead (addr : HostWin) (len : Nat) (s : State) :
    exec (.hostCxlRead addr len) s = execHostCxlRead addr len s := rfl
@[simp] theorem exec_hostCxlWrite (addr : Nat) (bytes : List (BitVec 8)) (s : State) :
    exec (.hostCxlWrite addr bytes) s = execHostCxlWrite addr bytes s := rfl
@[simp] theorem exec_getVersion (s : State) :
    exec .getVersion s = execGetVersion s := rfl
@[simp] theorem exec_getCapabilities (s : State) :
    exec .getCapabilities s = execGetCapabilities s := rfl
@[simp] theorem exec_negotiateAlgorithms (s : State) :
    exec .negotiateAlgorithms s = execNegotiateAlgorithms s := rfl
@[simp] theorem exec_getDigests (s : State) :
    exec .getDigests s = execGetDigests s := rfl
@[simp] theorem exec_getCertificate (s : State) :
    exec .getCertificate s = execGetCertificate s := rfl
@[simp] theorem exec_challenge (nonce : List (BitVec 8)) (s : State) :
    exec (.challenge nonce) s = execChallenge nonce s := rfl
@[simp] theorem exec_getMeasurements (s : State) :
    exec .getMeasurements s = execGetMeasurements s := rfl
@[simp] theorem exec_scrubError (level addr : Nat) (corrected : Bool) (s : State) :
    exec (.scrubError level addr corrected) s = execScrubError level addr corrected s := rfl
@[simp] theorem exec_registerWrite (reg : StewReg) (x : BitVec 64) (s : State) :
    exec (.registerWrite reg x) s = execRegisterWrite reg x s := rfl

end Sys2Proof.Machine
end

