-- ==== Sys2Proof/Laws/State.lean ====
section
/-! SUPPORT. What each update of the state leaves of each field of State: one equation per field per update. -/

namespace Sys2Proof.Machine

/-! upCore -/

@[simp] theorem State.upCore_core (s : State) (f : Core → Core) :
    (s.upCore f).core = f s.core := rfl
@[simp] theorem State.upCore_die (s : State) (f : Core → Core) :
    (s.upCore f).die = s.die := rfl
@[simp] theorem State.upCore_pkg (s : State) (f : Core → Core) :
    (s.upCore f).pkg = s.pkg := rfl
@[simp] theorem State.upCore_sched (s : State) (f : Core → Core) :
    (s.upCore f).sched = s.sched := rfl
@[simp] theorem State.upCore_free (s : State) (f : Core → Core) :
    (s.upCore f).free = s.free := rfl

/-! upDie -/

@[simp] theorem State.upDie_core (s : State) (f : Die → Die) :
    (s.upDie f).core = s.core := rfl
@[simp] theorem State.upDie_die (s : State) (f : Die → Die) :
    (s.upDie f).die = f s.die := rfl
@[simp] theorem State.upDie_pkg (s : State) (f : Die → Die) :
    (s.upDie f).pkg = s.pkg := rfl
@[simp] theorem State.upDie_sched (s : State) (f : Die → Die) :
    (s.upDie f).sched = s.sched := rfl
@[simp] theorem State.upDie_free (s : State) (f : Die → Die) :
    (s.upDie f).free = s.free := rfl

/-! upPkg -/

@[simp] theorem State.upPkg_core (s : State) (f : Package → Package) :
    (s.upPkg f).core = s.core := rfl
@[simp] theorem State.upPkg_die (s : State) (f : Package → Package) :
    (s.upPkg f).die = s.die := rfl
@[simp] theorem State.upPkg_pkg (s : State) (f : Package → Package) :
    (s.upPkg f).pkg = f s.pkg := rfl
@[simp] theorem State.upPkg_sched (s : State) (f : Package → Package) :
    (s.upPkg f).sched = s.sched := rfl
@[simp] theorem State.upPkg_free (s : State) (f : Package → Package) :
    (s.upPkg f).free = s.free := rfl

/-! upArch -/

@[simp] theorem State.upArch_core (s : State) (f : Arch → Arch) :
    (s.upArch f).core = { s.core with arch := f s.core.arch } := rfl
@[simp] theorem State.upArch_die (s : State) (f : Arch → Arch) :
    (s.upArch f).die = s.die := rfl
@[simp] theorem State.upArch_pkg (s : State) (f : Arch → Arch) :
    (s.upArch f).pkg = s.pkg := rfl
@[simp] theorem State.upArch_sched (s : State) (f : Arch → Arch) :
    (s.upArch f).sched = s.sched := rfl
@[simp] theorem State.upArch_free (s : State) (f : Arch → Arch) :
    (s.upArch f).free = s.free := rfl

/-! upStrand -/

@[simp] theorem State.upStrand_core (s : State) (f : Strand → Strand) :
    (s.upStrand f).core = { s.core with strand := f s.core.strand } := rfl
@[simp] theorem State.upStrand_die (s : State) (f : Strand → Strand) :
    (s.upStrand f).die = s.die := rfl
@[simp] theorem State.upStrand_pkg (s : State) (f : Strand → Strand) :
    (s.upStrand f).pkg = s.pkg := rfl
@[simp] theorem State.upStrand_sched (s : State) (f : Strand → Strand) :
    (s.upStrand f).sched = s.sched := rfl
@[simp] theorem State.upStrand_free (s : State) (f : Strand → Strand) :
    (s.upStrand f).free = s.free := rfl

/-! post -/

@[simp] theorem State.post_core (s : State) (p : Post) :
    (s.post p).core = s.core := rfl
@[simp] theorem State.post_die (s : State) (p : Post) :
    (s.post p).die = s.die := rfl
@[simp] theorem State.post_pkg (s : State) (p : Post) :
    (s.post p).pkg = { s.pkg with posts := s.pkg.posts ++ [p] } := rfl
@[simp] theorem State.post_sched (s : State) (p : Post) :
    (s.post p).sched = s.sched := rfl
@[simp] theorem State.post_free (s : State) (p : Post) :
    (s.post p).free = s.free := rfl

/-! ended -/

@[simp] theorem State.ended_core (s : State) (x : Issued) :
    (s.ended x).core = { s.core with issue := { s.core.issue with status := x } } := rfl
@[simp] theorem State.ended_die (s : State) (x : Issued) :
    (s.ended x).die = s.die := rfl
@[simp] theorem State.ended_pkg (s : State) (x : Issued) :
    (s.ended x).pkg = s.pkg := rfl
@[simp] theorem State.ended_sched (s : State) (x : Issued) :
    (s.ended x).sched = s.sched := rfl
@[simp] theorem State.ended_free (s : State) (x : Issued) :
    (s.ended x).free = s.free := rfl

/-! useId -/

@[simp] theorem State.useId_core (s : State) :
    (s.useId).core = s.core := rfl
@[simp] theorem State.useId_die (s : State) :
    (s.useId).die = s.die := rfl
@[simp] theorem State.useId_pkg (s : State) :
    (s.useId).pkg = { s.pkg with nextId := s.pkg.nextId + 1 } := rfl
@[simp] theorem State.useId_sched (s : State) :
    (s.useId).sched = s.sched := rfl
@[simp] theorem State.useId_free (s : State) :
    (s.useId).free = s.free := rfl

/-! flight -/

@[simp] theorem State.flight_core (s : State) (k : Nat) (l : Land) :
    (s.flight k l).core = { s.core with arch := { s.core.arch with inflight := s.core.arch.inflight ++ [⟨k, l⟩] } } := rfl
@[simp] theorem State.flight_die (s : State) (k : Nat) (l : Land) :
    (s.flight k l).die = s.die := rfl
@[simp] theorem State.flight_pkg (s : State) (k : Nat) (l : Land) :
    (s.flight k l).pkg = s.pkg := rfl
@[simp] theorem State.flight_sched (s : State) (k : Nat) (l : Land) :
    (s.flight k l).sched = s.sched := rfl
@[simp] theorem State.flight_free (s : State) (k : Nat) (l : Land) :
    (s.flight k l).free = s.free := rfl

end Sys2Proof.Machine
end

