-- ==== Sys2Proof/Laws/Issue.lean ====
section
/-! SUPPORT. What the issue of a syllable can do (spec/03 R36): it always answers a next state; when nothing keeps it
from issuing that state is its effect on the state its pops leave, and only then does the syllable stay unfrozen and
untrapped. -/

namespace Sys2Proof.Machine

/-- Taking a trap ends the issue as trapped. -/
@[simp] theorem takeTrap_status (t : Trap) (pc : Nat) (s : State) : (takeTrap t pc s).core.issue.status = .trapped := by
  simp [takeTrap]

/-- The same for the trap of a syllable of the bundle that issues. -/
@[simp] theorem trapHere_status (t : Trap) (s : State) : (trapHere t s).core.issue.status = .trapped := by
  simp [trapHere]

/-- The checks every syllable shares pass together with its own exactly when each passes. -/
theorem sylTrap_none (s : State) (y : Syl) :
    sylTrap s y = none ↔ sylTrap s { srcs := y.srcs, dsts := y.dsts, also := y.also, quiet := y.quiet } = none ∧ y.trap = none
      ∧ y.limit = none := by
  have ho (a b : Option Trap) : (a.orElse fun _ => b) = none ↔ a = none ∧ b = none := by cases a <;> simp
  simp only [sylTrap, Syl.reads, ho]
  tauto

/-- A syllable that nothing keeps from issuing takes its effect on the state its pops leave. -/
theorem issue_runs {s : State} {y : Syl} {f : State → State} (h : Runs s y.srcs y.dsts y.also y.quiet) (hl : y.late = false)
    (ht : y.trap = none) (hm : y.limit = none) (hs : y.stall = none) :
    issue s y f = .next (f (reads y.srcs s)) := by
  have h1 : sylTrap s y = none := (sylTrap_none s y).2 ⟨h.2.1, ht, hm⟩
  have h2 : sylStall s y = none := by simp [sylStall, h.2.2, hs]
  simp [issue, hl, h.1, h1, h2, reads]

/-- A syllable whose own check fails, with nothing else against it, traps (R36 step 2). -/
theorem issue_traps {s : State} {y : Syl} {f : State → State} {t : Trap} (h : Runs s y.srcs y.dsts y.also y.quiet)
    (hl : y.late = false) (ht : y.trap = some t) : issue s y f = .next (trapHere t s) := by
  have ho (a b : Option Trap) : (a.orElse fun _ => b) = none ↔ a = none ∧ b = none := by cases a <;> simp
  have hr := h.2.1
  simp only [sylTrap, Syl.reads, ho] at hr
  have h1 : sylTrap s y = some t := by
    simp only [sylTrap, Syl.reads, hr.1, hr.2.1, hr.2.2.1, hr.2.2.2.1, ht]
    rfl
  simp [issue, hl, h.1, h1]

/-- A limit that a syllable would pass traps when its own checks pass (R226). -/
theorem issue_limit {s : State} {y : Syl} {f : State → State} {t : Trap} (h : Runs s y.srcs y.dsts y.also y.quiet)
    (hl : y.late = false) (ht : y.trap = none) (hm : y.limit = some t) : issue s y f = .next (trapHere t s) := by
  have ho (a b : Option Trap) : (a.orElse fun _ => b) = none ↔ a = none ∧ b = none := by cases a <;> simp
  have hr := h.2.1
  simp only [sylTrap, Syl.reads, ho] at hr
  have h1 : sylTrap s y = some t := by
    simp only [sylTrap, Syl.reads, hr.1, hr.2.1, hr.2.2.1, hr.2.2.2.1, ht, hm]
    rfl
  simp [issue, hl, h.1, h1]

/-- A syllable that only a full queue or the scoreboard holds back freezes (R36 step 3). -/
theorem issue_stalls {s : State} {y : Syl} {f : State → State} {r : Freeze} (h : Runs s y.srcs y.dsts y.also y.quiet)
    (hl : y.late = false) (ht : y.trap = none) (hm : y.limit = none) (hs : y.stall = some r) :
    issue s y f = .next (s.ended (.frozen r)) := by
  have h1 : sylTrap s y = none := (sylTrap_none s y).2 ⟨h.2.1, ht, hm⟩
  have h2 : sylStall s y = some r := by simp [sylStall, h.2.2, hs]
  simp [issue, hl, h.1, h1, h2]

/-- A syllable that waits for data that is not there freezes (R36 step 1). -/
theorem issue_late {s : State} {y : Syl} {f : State → State} (hl : y.late = true) :
    issue s y f = .next (s.ended (.frozen .emptyPort)) := by simp [issue, hl]

/-- An instruction whose meaning is the issue of a syllable with no check of its own against it runs to its effect. -/
theorem runsTo_issue {i : Instr} {s : State} {y : Syl} {f : State → State} (h : exec i s = issue s y f)
    (hl : y.late = false) (ht : y.trap = none) (hm : y.limit = none) (hs : y.stall = none) :
    RunsTo i s y.srcs y.dsts f y.also y.quiet := fun hr => h.trans (issue_runs hr hl ht hm hs)

/-- The issue of a syllable answers a next state: frozen, trapped, or its effect. -/
theorem issue_cases (s : State) (y : Syl) (f : State → State) :
    (∃ r, issue s y f = .next (s.ended (.frozen r))) ∨
    (∃ t, sylTrap s y = some t ∧ issue s y f = .next (trapHere t s)) ∨
    (Runs s y.srcs y.dsts y.also y.quiet ∧ y.late = false ∧ y.trap = none ∧ y.limit = none ∧ y.stall = none ∧
      issue s y f = .next (f (reads y.srcs s))) := by
  unfold issue
  split
  · exact .inl ⟨_, rfl⟩
  · rename_i hne
    simp only [Bool.or_eq_true, not_or, Bool.not_eq_true] at hne
    split
    · rename_i t ht
      exact .inr (.inl ⟨t, ht, rfl⟩)
    · rename_i ht
      split
      · exact .inl ⟨_, rfl⟩
      · rename_i hs
        have h1 := (sylTrap_none s y).1 ht
        have h2 : y.dsts.any (portFull s) = false ∧ y.stall = none := by
          unfold sylStall at hs
          split at hs
          · cases hs
          · exact ⟨Bool.eq_false_iff.2 ‹_›, hs⟩
        exact .inr (.inr ⟨⟨hne.2, h1.1, h2.1⟩, hne.1, h1.2.1, h1.2.2, h2.2, rfl⟩)

/-- A syllable that has taken its effect has met no freeze and no trap. -/
theorem issue_done {s t : State} {y : Syl} {f : State → State} (h : issue s y f = .next t) (hd : Done t) :
    Runs s y.srcs y.dsts y.also y.quiet ∧ y.late = false ∧ y.trap = none ∧ y.limit = none ∧ y.stall = none ∧
      t = f (reads y.srcs s) := by
  obtain ⟨r, hr⟩ | ⟨r, -, hr⟩ | ⟨h1, h2, h3, h4, h5, h6⟩ := issue_cases s y f
  · rw [hr] at h; cases h; simp [Done] at hd
  · rw [hr] at h; cases h; simp [Done] at hd
  · rw [h6] at h; cases h; exact ⟨h1, h2, h3, h4, h5, rfl⟩

/-- The issue of a syllable answers a next state. -/
theorem issue_next (s : State) (y : Syl) (f : State → State) : ∃ t, issue s y f = .next t := by
  obtain ⟨r, hr⟩ | ⟨r, -, hr⟩ | ⟨-, -, -, -, -, hr⟩ := issue_cases s y f
  all_goals exact ⟨_, hr⟩

/-- Popping the ports of a list that names none changes nothing. -/
theorem popAll_plain {l : List Reg} (h : l.all (fun r => !isPort r) = true) (s : State) : popAll l s = s := by
  induction l generalizing s with
  | nil => rfl
  | cons r t ih =>
    simp only [List.all_cons, Bool.and_eq_true, Bool.not_eq_true'] at h
    cases r <;> simp only [popAll] <;> simp_all [isPort]

/-- The distinct members of a list that names no port name none. -/
theorem dedupR_plain {l : List Reg} (h : l.all (fun r => !isPort r) = true) :
    (dedupR l).all (fun r => !isPort r) = true := by
  induction l with
  | nil => rfl
  | cons r t ih =>
    simp only [List.all_cons, Bool.and_eq_true] at h
    simp only [dedupR, List.all_cons, Bool.and_eq_true]
    refine ⟨h.1, ?_⟩
    rw [List.all_eq_true]
    intro x hx
    exact (List.all_eq_true.1 (ih h.2)) x (List.mem_of_mem_filter hx)

/-- Reading registers that are no ports changes nothing. -/
theorem reads_plain {l : List Reg} (h : l.all (fun r => !isPort r) = true) (s : State) : reads l s = s :=
  popAll_plain (dedupR_plain h) s

/-- A result for a scalar register goes in flight. -/
theorem wrS_plain {r : SReg} (h : r.val < 56) (k : Nat) (x : Word) (s : State) : wrS r k x s = s.flight k (.s r x) := by
  simp [wrS, h]

/-- A result for a vector register goes in flight. -/
theorem wrV_plain {r : VReg} (h : r.val < 28) (k : Nat) (x : VWord) (s : State) :
    wrV r k x s = s.flight k (.v r x) := by
  simp [wrV, h]

end Sys2Proof.Machine
end

