-- ==== Sys2Proof/Laws/Frame.lean ====
section
/-! SUPPORT. What the shared operations of a syllable leave unchanged (spec/03 R27, R30; spec/04 R58): reading ports,
placing results in flight, and raising events. -/

namespace Sys2Proof.Machine

/-- A state differs from itself in nothing. -/
theorem OnlyFlight.refl (s : State) : OnlyFlight s s := rfl

/-- Two changes one after another. -/
theorem OnlyFlight.trans {s t u : State} (h1 : OnlyFlight s t) (h2 : OnlyFlight t u) : OnlyFlight s u := by
  unfold OnlyFlight at *
  rw [h2, h1]

/-- A result placed in flight. -/
theorem onlyFlight_flight (s : State) (k : Nat) (l : Land) : OnlyFlight s (s.flight k l) := rfl

/-- A scalar result. -/
theorem onlyFlight_wrS (r : SReg) (k : Nat) (x : Word) (s : State) : OnlyFlight s (wrS r k x s) := by
  unfold wrS
  split
  · rfl
  · split
    · rfl
    · unfold reserveSend
      split <;> rfl

/-- A vector result. -/
theorem onlyFlight_wrV (r : VReg) (k : Nat) (x : VWord) (s : State) : OnlyFlight s (wrV r k x s) := by
  unfold wrV
  split
  · rfl
  · unfold reserveSend
    split <;> rfl

/-- A predicate result. -/
theorem onlyFlight_wrP (r : PReg) (k : Nat) (x : Bool) (s : State) : OnlyFlight s (wrP r k x s) := rfl

/-- A mask result. -/
theorem onlyFlight_wrM (r : MReg) (k : Nat) (x : Mask) (s : State) : OnlyFlight s (wrM r k x s) := rfl

/-- Statistics records in flight. -/
theorem onlyFlight_statFlight (u : StatUnit) (k : Nat) (l : List (Nat × Nat)) (s : State) :
    OnlyFlight s (statFlight u k l s) := rfl

/-- The events of a syllable. -/
theorem onlyFlight_raise (u : StatUnit) (k : Nat) (l : List Ev) (s : State) : OnlyFlight s (raise u k l s) := rfl

/-- A masked element-wise result. -/
theorem onlyFlight_velem (s : State) (u : StatUnit) (w k : Nat) (m : VMod) (d : VReg) (f : Nat → Nat × Ev)
    (t : State) : OnlyFlight t (velem s u w k m d f t) :=
  (onlyFlight_wrV ..).trans (onlyFlight_raise ..)

/-- A popped slot. -/
theorem onlyFlight_popSlot (p : Bool) (n : Fin 16) (s : State) : OnlyFlight s (popSlot p n s) := by
  unfold popSlot
  split <;> rfl

/-- A read of a scalar port. -/
theorem onlyFlight_popS (r : SReg) (s : State) : OnlyFlight s (popS r s) := by
  have hb (x : Bool) (a b : Core) (h1 : OnlyFlight s { s with core := a }) (h2 : OnlyFlight s { s with core := b }) :
      OnlyFlight s { s with core := if x then a else b } := by cases x <;> assumption
  unfold popS
  repeat' split
  all_goals first
    | rfl
    | exact onlyFlight_popSlot ..
    | exact hb _ _ _ rfl rfl

/-- A read of a vector port. -/
theorem onlyFlight_popV (r : VReg) (s : State) : OnlyFlight s (popV r s) := by
  unfold popV
  repeat' split
  all_goals first
    | rfl
    | exact onlyFlight_popSlot ..

/-- The reads of a list of registers. -/
theorem onlyFlight_popAll (l : List Reg) (s : State) : OnlyFlight s (popAll l s) := by
  induction l generalizing s with
  | nil => rfl
  | cons r t ih =>
    cases r <;> simp only [popAll]
    · split
      · exact (onlyFlight_popS ..).trans (ih _)
      · exact ih _
    · split
      · exact (onlyFlight_popV ..).trans (ih _)
      · exact ih _
    all_goals exact ih _

/-- The reads of a syllable. -/
theorem onlyFlight_reads (l : List Reg) (s : State) : OnlyFlight s (reads l s) := onlyFlight_popAll ..

/-- A result that is known only later. -/
theorem onlyFlight_awaited (d : SReg) (k : Nat) (f : Nat → Land) (s : State) : OnlyFlight s (awaited d k f s) := by
  unfold awaited
  split
  · rfl
  · split
    · rfl
    · unfold reserveSend
      split <;> rfl

/-- The trap that a load's data meets, in flight. -/
theorem onlyFlight_landing (l : Loaded) (k : Nat) (s : State) : OnlyFlight s (l.landing k s) := by
  unfold Loaded.landing
  split <;> rfl

/-- A syllable whose effect moves results in flight alone moves nothing else. -/
theorem issue_onlyFlight {s t : State} {y : Syl} {f : State → State} (hf : ∀ u, OnlyFlight u (f u))
    (h : issue s y f = .next t) (hd : Done t) : OnlyFlight s t := by
  obtain ⟨-, -, -, -, -, rfl⟩ := issue_done h hd
  exact (onlyFlight_reads ..).trans (hf _)

end Sys2Proof.Machine
end

