-- ==== Sys2Proof/Laws/Memory.lean ====
section
/-! SUPPORT. Byte memory: what a read finds after a write, and that every write keeps the canonical form. -/

namespace Sys2Proof.Machine

/-- Below the least listed address nothing is listed. -/
theorem memGet_below {m : List Host.Cell} {l a : Nat} (h : memOkFrom (some l) m = true) (ha : a ≤ l) :
    memGet m a = 0 := by
  cases m with
  | nil => rfl
  | cons c t =>
    obtain ⟨k, b⟩ := c
    simp only [memOkFrom, Bool.and_eq_true, decide_eq_true_eq] at h
    simp only [memGet]
    rw [if_neg (by simp; omega), if_pos (by omega)]

/-- The canonical form above a bound holds above every lower one. -/
theorem memOkFrom_weaken {m : List Host.Cell} {l : Nat} {lo : Option Nat} (h : memOkFrom (some l) m = true)
    (hl : ∀ x, lo = some x → x ≤ l) : memOkFrom lo m = true := by
  cases m with
  | nil => rfl
  | cons c t =>
    obtain ⟨k, b⟩ := c
    simp only [memOkFrom, Bool.and_eq_true, decide_eq_true_eq] at h ⊢
    refine ⟨⟨?_, h.1.2⟩, h.2⟩
    cases lo with
    | none => rfl
    | some x => simpa using Nat.lt_of_le_of_lt (hl x rfl) h.1.1

/-- A byte written above the bound keeps the canonical form above it. -/
theorem memOkFrom_memSet {m : List Host.Cell} {lo : Option Nat} (a : Nat) (b : Byte)
    (h : memOkFrom lo m = true) (ha : ∀ x, lo = some x → x < a) : memOkFrom lo (memSet m a b) = true := by
  induction m generalizing lo with
  | nil =>
    simp only [memSet]
    split
    · rfl
    · cases lo <;> simp_all [memOkFrom]
  | cons c t ih =>
    obtain ⟨k, c⟩ := c
    have h' := h
    simp only [memOkFrom, Bool.and_eq_true, bne_iff_ne, ne_eq] at h
    simp only [memSet]
    split
    · split
      · exact h'
      · cases lo <;> simp_all [memOkFrom]
    · split
      · rename_i hk
        have hak : a = k := by simpa using hk
        subst hak
        split
        · exact memOkFrom_weaken h.2 fun x hx => Nat.le_of_lt (ha x hx)
        · cases lo <;> simp_all [memOkFrom]
      · rename_i hlt hne
        have hka : k < a := by
          have : a ≠ k := by simpa using hne
          omega
        simp only [memOkFrom, Bool.and_eq_true, bne_iff_ne, ne_eq]
        exact ⟨h.1, ih h.2 (fun x hx => by cases hx; exact hka)⟩

/-- A byte written keeps the canonical form. -/
theorem memOk_memSet {m : List Host.Cell} (a : Nat) (b : Byte) (h : memOk m = true) : memOk (memSet m a b) = true :=
  memOkFrom_memSet a b h (by simp)

/-- Bytes written keep the canonical form. -/
theorem memOk_memSetN {m : List Host.Cell} (a : Nat) (l : List Byte) (h : memOk m = true) :
    memOk (memSetN m a l) = true := by
  induction l generalizing m a with
  | nil => exact h
  | cons b t ih => exact ih _ (memOk_memSet a b h)

/-- Memory with nothing listed is in canonical form. -/
theorem memOk_nil : memOk [] = true := rfl

/-- Writing one byte, read back at any address. -/
theorem memGet_memSetFrom {m : List Host.Cell} {lo : Option Nat} (a a' : Nat) (b : Byte)
    (h : memOkFrom lo m = true) : memGet (memSet m a b) a' = if a' = a then b else memGet m a' := by
  induction m generalizing lo with
  | nil =>
    simp only [memSet]
    split
    · simp_all [memGet]
    · simp only [memGet, beq_iff_eq]
      split
      · rfl
      · split <;> rfl
  | cons c t ih =>
    obtain ⟨k, c⟩ := c
    simp only [memOkFrom, Bool.and_eq_true] at h
    simp only [memSet]
    split
    · rename_i hlt
      split
      · rename_i hb
        by_cases he : a' = a
        · subst he
          simp only [memGet, beq_iff_eq]
          rw [if_neg (by omega), if_pos hlt]
          exact (eq_of_beq hb).symm
        · rw [if_neg he]
      · by_cases he : a' = a
        · subst he; simp [memGet]
        · rw [if_neg he]
          simp only [memGet, beq_iff_eq, if_neg he]
          split
          · rw [if_neg (by omega), if_pos (by omega)]
          · rfl
    · rename_i hge
      split
      · rename_i hk
        have hak : a = k := by simpa using hk
        subst hak
        split
        · rename_i hb
          by_cases he : a' = a
          · subst he
            rw [if_pos rfl, memGet_below h.2 (Nat.le_refl _)]
            exact (eq_of_beq hb).symm
          · rw [if_neg he]
            simp only [memGet, beq_iff_eq, if_neg he]
            split
            · rw [memGet_below h.2 (by omega)]
            · rfl
        · by_cases he : a' = a
          · subst he; simp [memGet]
          · simp [memGet, he]
      · rename_i hne
        have hak : a ≠ k := by simpa using hne
        simp only [memGet, beq_iff_eq]
        by_cases he : a' = k
        · subst he
          rw [if_pos rfl, if_neg (by omega), if_pos rfl]
        · rw [if_neg he, if_neg he]
          split
          · rw [if_neg (by omega)]
          · exact ih h.2

/-- A read after a write of one byte, in a memory of canonical form. -/
theorem memGet_memSet {m : List Host.Cell} (a a' : Nat) (b : Byte) (h : memOk m = true) :
    memGet (memSet m a b) a' = if a' = a then b else memGet m a' := memGet_memSetFrom a a' b h

/-- A read after a write of several bytes: inside them the byte written, outside them the byte that was there. -/
theorem memGet_memSetN {m : List Host.Cell} (a a' : Nat) (l : List Byte) (h : memOk m = true) :
    memGet (memSetN m a l) a' = if h : a ≤ a' ∧ a' < a + l.length then l[a' - a] else memGet m a' := by
  induction l generalizing m a with
  | nil => simp [memSetN]
  | cons b t ih =>
    simp only [memSetN, ih _ (memOk_memSet a b h), memGet_memSet _ _ _ h, List.length_cons]
    by_cases h1 : a' = a
    · subst h1; simp
    · by_cases h2 : a + 1 ≤ a' ∧ a' < a + 1 + t.length
      · rw [dif_pos h2, dif_pos (by omega)]
        have : a' - a = (a' - (a + 1)) + 1 := by omega
        simp [this]
      · rw [dif_neg h2, dif_neg (by omega), if_neg h1]

/-- Chosen cells of a memory of canonical form are in canonical form. -/
theorem memOkFrom_filter {m : List Host.Cell} {lo : Option Nat} (p : Host.Cell → Bool) (h : memOkFrom lo m = true) :
    memOkFrom lo (m.filter p) = true := by
  induction m generalizing lo with
  | nil => rfl
  | cons c t ih =>
    obtain ⟨k, b⟩ := c
    simp only [memOkFrom, Bool.and_eq_true] at h
    by_cases hp : p (k, b) = true
    · simp only [List.filter_cons, hp, if_true, memOkFrom, Bool.and_eq_true]
      exact ⟨h.1, ih h.2⟩
    · simp only [List.filter_cons, if_neg hp]
      refine memOkFrom_weaken (ih h.2) fun x hx => ?_
      subst hx
      exact Nat.le_of_lt (of_decide_eq_true h.1.1)

/-- A read of a memory of which chosen cells are kept. -/
theorem memGet_filter {m : List Host.Cell} {lo : Option Nat} (p : Nat → Bool) (a : Nat) (h : memOkFrom lo m = true) :
    memGet (m.filter fun x => p x.1) a = if p a then memGet m a else 0 := by
  induction m generalizing lo with
  | nil => simp [memGet]
  | cons c t ih =>
    obtain ⟨k, b⟩ := c
    simp only [memOkFrom, Bool.and_eq_true] at h
    have hk := ih h.2
    have low : a ≤ k → memGet t a = 0 := memGet_below h.2
    by_cases hp : p k = true <;> by_cases ha : a = k
    · subst ha; simp [memGet, hp]
    · simp only [List.filter_cons, hp, if_true, memGet, beq_iff_eq, if_neg ha, hk]
      split <;> split <;> rfl
    · subst ha; simp [hp, hk]
    · simp only [List.filter_cons, hp, memGet, beq_iff_eq, if_neg ha, Bool.false_eq_true, if_false, hk]
      split <;> [skip; rfl]
      split <;> [exact low (by omega); rfl]

/-- The bytes that a memory lists, written one by one into another: those it lists, and elsewhere what was there. -/
theorem memGet_foldl_memSet {l m : List Host.Cell} {lo : Option Nat} (a : Nat) (hl : memOkFrom lo l = true)
    (hm : memOk m = true) :
    memOk (l.foldl (fun m x => memSet m x.1 x.2) m) = true ∧
      memGet (l.foldl (fun m x => memSet m x.1 x.2) m) a =
        if l.any (fun x => x.1 == a) then memGet l a else memGet m a := by
  induction l generalizing m lo with
  | nil => exact ⟨hm, rfl⟩
  | cons c t ih =>
    obtain ⟨k, b⟩ := c
    simp only [memOkFrom, Bool.and_eq_true] at hl
    obtain ⟨h1, h2⟩ := ih hl.2 (memOk_memSet k b hm)
    refine ⟨h1, h2.trans ?_⟩
    rw [memGet_memSet _ _ _ hm]
    have gone : ∀ {q : Nat} {u : List Host.Cell}, memOkFrom (some q) u = true → a ≤ q →
        u.any (fun x => x.1 == a) = false := by
      intro q u
      induction u generalizing q with
      | nil => intros; rfl
      | cons d u iu =>
        obtain ⟨j, e⟩ := d
        intro hu hq
        simp only [memOkFrom, Bool.and_eq_true, decide_eq_true_eq] at hu
        simp only [List.any_cons, Bool.or_eq_false_iff, beq_eq_false_iff_ne]
        exact ⟨by omega, iu hu.2 (by omega)⟩
    by_cases ha : a = k
    · subst ha
      simp [gone hl.2 (Nat.le_refl _), memGet]
    · have hk : ¬k = a := fun h => ha h.symm
      by_cases lt : a < k
      · simp [gone hl.2 (Nat.le_of_lt lt), ha, hk]
      · simp [memGet, ha, hk, lt]

/-- A memory in which chosen bytes are those of another has the canonical form, and reads so. -/
theorem memOk_overlay {new old : List Host.Cell} (pick : Nat → Bool) (a : Nat) (hn : memOk new = true)
    (ho : memOk old = true) :
    memOk (overlay pick new old) = true ∧
      memGet (overlay pick new old) a = if pick a then memGet new a else memGet old a := by
  have hf := memOkFrom_filter (fun x => pick x.1) hn
  have hg : memOk (old.filter fun x => !pick x.1) = true := memOkFrom_filter (fun x => !pick x.1) ho
  obtain ⟨h1, h2⟩ := memGet_foldl_memSet a hf hg
  refine ⟨h1, h2.trans ?_⟩
  rw [memGet_filter pick a hn, memGet_filter (fun k => !pick k) a ho]
  by_cases hp : pick a = true
  · have unlisted : ∀ {u : List Host.Cell}, u.any (fun x => x.1 == a) = false → memGet u a = 0 := by
      intro u
      induction u with
      | nil => intro _; rfl
      | cons d u iu =>
        obtain ⟨j, e⟩ := d
        intro h
        simp only [List.any_cons, Bool.or_eq_false_iff, beq_eq_false_iff_ne] at h
        have hj : ¬a = j := fun q => h.1 q.symm
        simp [memGet, hj, iu h.2]
    simp only [hp, if_true, Bool.not_true, Bool.false_eq_true, if_false]
    split
    · rfl
    · rename_i hu
      have := unlisted (Bool.eq_false_iff.2 hu)
      rw [memGet_filter pick a hn] at this
      simpa [hp] using this.symm
  · have hb : pick a = false := Bool.eq_false_iff.2 hp
    have hu : (new.filter fun x => pick x.1).any (fun x => x.1 == a) = false := by
      simp only [List.any_filter, List.any_eq_false, Bool.and_eq_true, beq_iff_eq, not_and]
      rintro x _ hx rfl
      exact absurd hx (by simp [hb])
    simp [hu, hb]

end Sys2Proof.Machine
end

