-- ==== Sys2Proof/Laws/Step.lean ====
section
/-! SUPPORT. What the issue of a bundle can do around its syllables (spec/03 R36, R43): a core that nothing holds issues
the bundle that stands next, a bundle of one syllable runs it at its rank alone, and pacing changes counts of energy
only. -/

namespace Sys2Proof.Machine

/-- A core that may issue settles what is due and issues its bundle. -/
theorem coreMove_may (s : State) (hm : MayIssue s) : coreMove s = issueBundle (settleDue s) := by
  obtain ⟨h1, h2, h3, h4, h5, h6, h7, h8, h9, h10, h11, h12, h15, h13, h14⟩ := hm
  obtain ⟨r, hr⟩ := Option.isSome_iff_exists.1 h1
  have hb : (settleDue s).core.left ≠ 0#32 := h14
  simp [coreMove, hr, h2, h3, h4, h5, h6, h7, h8, h9, h11, nextBundle, h12, h13, h15, hb]
  intro a b; simp [a, b] at h10

/-- The one syllable of a bundle runs among the ranks that hold its own. -/
theorem byRank_one (lo hi : Nat) (x : Slotted) (h : lo ≤ hi + 1) :
    byRank lo hi [x] = if lo ≤ rank x.instr ∧ rank x.instr ≤ hi then [x] else [] := by
  unfold byRank
  generalize hn : hi + 1 - lo = n
  have key : ∀ n lo, (List.range' lo n).flatMap (fun k => [x].filter fun x => rank x.instr == k) =
      if lo ≤ rank x.instr ∧ rank x.instr < lo + n then [x] else [] := by
    intro n
    induction n with
    | zero => intro lo; simp
    | succ n ih =>
      intro lo
      simp only [List.range'_succ, List.flatMap_cons, ih]
      by_cases h : lo = rank x.instr
      · subst h
        simp
      · have : (rank x.instr == lo) = false := by simp; exact fun e => h e.symm
        simp only [List.filter_cons, this, List.filter_nil, Bool.false_eq_true, if_false, List.nil_append]
        by_cases h2 : lo + 1 ≤ rank x.instr ∧ rank x.instr < lo + 1 + n
        · rw [if_pos h2, if_pos (by omega)]
        · rw [if_neg h2, if_neg (by omega)]
  rw [key]
  by_cases h2 : lo ≤ rank x.instr ∧ rank x.instr ≤ hi
  · rw [if_pos h2, if_pos (by omega)]
  · rw [if_neg h2, if_neg (by omega)]

/-- Ranks go to 7. -/
theorem rank_le (i : Instr) : rank i ≤ 7 := by cases i <;> exact Nat.le_of_ble_eq_true rfl

/-- Pacing changes the history and the counts of PACED. -/
theorem pace_eq (a b c : Nat) (k : Core) : ∃ h p q, pace a b c k = { k with hist := h, pacedN := p, stretchN := q } :=
  ⟨_, _, _, rfl⟩

/-- The guard is judged alike before and after pacing. -/
theorem guardTrap_pace (u : State) (a b c : Nat) (f : Frame) : guardTrap (u.upCore (pace a b c)) f = guardTrap u f := by
  obtain ⟨h, p, q, e⟩ := pace_eq a b c u.core
  simp only [State.upCore, e]
  rfl

/-- Pops leave the issue context as it is. -/
theorem popAll_issue (l : List Reg) (s : State) : (popAll l s).core.issue = s.core.issue := by
  rw [show popAll l s = _ from onlyFlight_popAll l s]

/-- A target is good when it is a bundle address (R106). -/
theorem badTarget_none (x : Word) : badTarget x = none ↔ x.toNat % 8 = 0 ∧ x.toNat < 2 ^ 56 := by
  have := x.isLt
  simp [badTarget, wbits, bits]
  omega

/-- Any other traps BADTARGET with the target. -/
theorem badTarget_some (x : Word) (h : ¬(x.toNat % 8 = 0 ∧ x.toNat < 2 ^ 56)) :
    badTarget x = some { cause := .badtarget, addr := x.toNat } := by
  have h2 := mt (badTarget_none x).1 h
  unfold badTarget at *
  split
  · rfl
  · simp_all

end Sys2Proof.Machine
end

