-- ==== Sys2Proof/Machine/AluMeaning.lean ====
section
/-! DEFINITION. What a block of the Aladu form means (spec/14 R268, R269): its operations run in index order on the state
at block entry, their effects are performed as one group at its end, and control follows. No instruction or event runs a
block (R245): a translation is to have this meaning (log 9). -/

namespace Sys2Proof.Machine

/-- A value on an edge, or carried between blocks (R267, R268). -/
inductive AluVal where
  | s (x : Word)
  | v (x : VWord)
  | p (x : Bool)
  | m (x : Mask)
  deriving DecidableEq, Repr

/-- Values carried between blocks, by their numbers (R268). -/
abbrev Carried := List (Nat × AluVal)

/-- What has been found of a block: the state with the effects up to now, the results by operation and RES, and the
operations whose result an ordering access of the group is to give. -/
structure AluRun where
  s : State
  vals : List ((Nat × Bool) × AluVal)
  pend : List Nat

/-- Why a block leaves no effect: a trap with its TRAPINFO, a freeze, or an operation that is none. -/
inductive AluStop where
  | trap (info : Word)
  | waits
  | bad
  deriving DecidableEq, Repr

/-- Where control goes after a block: a block of the function, the next one, or the caller (R268, R269 step 6). -/
inductive AluWay where
  | block (n : Nat)
  | next
  | caller
  deriving DecidableEq, Repr

/-- What a block leaves: the state, the carried values, the function that its B.CALL calls first, and where control
goes. -/
structure AluDone where
  s : State
  carried : Carried
  call : Option Nat
  way : AluWay

/-! One operation. -/

/-- The number of the register that holds a value for position k while a native operation runs. -/
def AluVal.num (k : Nat) : AluVal → Nat
  | .s _ => 10 + 2 * k
  | .v _ => 74 + k
  | .p _ => 97 + k
  | .m _ => 113 + k

/-- The registers with a value in one of them. -/
def AluVal.put (n : Nat) (x : AluVal) (a : Arch) : Arch := match x with
  | .s w => { a with s := a.s.set (rs n) w }
  | .v w => { a with v := a.v.set (rv n) w }
  | .p b => { a with p := setPred a (rp n) b }
  | .m w => { a with m := a.m.set (rm n) w }

/-- A value of the kind of a register, which nothing constrains: R269 states no result of an operation that is predicated
false, and no value that no block has carried (log 9, DESIGN CHOICE). -/
def aluFree (n k : Nat) : AluVal :=
  if n < 64 then .s (Config.freeWord k n)
  else if n < 96 then .v (Config.freeVec k n)
  else if n < 112 then .p ((Config.freePreds k).getLsbD (n % 16))
  else .m (Config.freeMask k n)

/-- The number at which the result of a trial register lands: S, V, P or M. -/
def aluDests : List Nat := [20, 84, 104, 119]

/-- The native instruction of an operation with its values in registers, and the register of its result: the first kind
of D that its entry takes. -/
def aluInstr (x : AluOp) (ins : List (Nat × AluVal)) : Option (Instr × Nat) :=
  let k := fmtOf x.opc
  let f := unpack k x.body
  let u := usesOf x.opc x.md
  let get (p n : Nat) : Nat := match ins.find? fun q => q.1 == p with
    | none => n
    | some q => q.2.num p
  let word (d c : Nat) : Nat :=
    2 ^ 63 + x.opc * 2 ^ 49 + x.md * 2 ^ 44 + pack k { f with d := d, a := get 0 f.a, b := get 1 f.b, c := c }
  let try' (d : Nat) : Option (Instr × Nat) :=
    let d' := if (u.d == .wr || u.d == .rw) && f.d == 0 then d else f.d
    -- A predicate that C takes has no consumer (R267).
    match decodeWord (word d' (if u.c == .wr then 105 else get 2 f.c)) with
    | .ok i => some (i, d)
    | .error _ => none
  aluDests.findSome? try'

/-- Whether what lands is a result of an operation of the block. -/
def aluLand (l : Land) : Option (Bool × AluVal) := match l with
  | .s r x => if r.val == 20 then some (false, .s x) else if r.val == 21 then some (true, .s x) else none
  | .v r x => if r.val == 20 then some (false, .v x) else none
  | .p r x => if r.val == 8 then some (false, .p x) else none
  | .m r x => if r.val == 7 then some (false, .m x) else none
  | _ => none

/-- Whether what lands is the result of an ordering access or an as-of load that is not there yet. -/
def aluPends (l : Land) : Bool := match l with
  | .ordPend d _ | .asOf d .. => d.val == 20
  | _ => false

/-- Whether what lands is the predicate that C takes, which no consumer receives. -/
def aluDrops (l : Land) : Bool := match l with
  | .p r _ => r.val == 9
  | _ => false

/-- A native instruction run for a block on a state with its values placed; its registers are as before but for what
lands. It does not see the commands of the block, those from a serial on (R269 step 3). -/
def aluExec (since : Nat) (i : Instr) (ins : List (Nat × AluVal)) (s : State) : Except AluStop State :=
  let s1 := s.upArch fun a => ins.foldl (fun a q => q.2.put (q.2.num q.1) a) a
  match exec i (s1.upCore fun c => { c with issue := { Issue.none with since := some since } }) with
  | .next t => match t.core.issue.status with
    | .trapped => .error (.trap t.core.trapinfo)
    | .frozen _ => .error .waits
    | .ok => .ok (t.upArch fun a => { a with s := s.core.arch.s, v := s.core.arch.v, p := s.core.arch.p, m := s.core.arch.m })
  | .fault _ | .refused _ => .error .bad

/-- What an instruction has put in flight. -/
def aluLands (s t : State) : List Inflight := t.core.arch.inflight.drop s.core.arch.inflight.length

/-- Whether an operation has an effect beyond what lands: all but S, V and F operations, loads and queries that name no
port (R269 step 4). F.GEO enters its queue. -/
def AluOp.acts (x : AluOp) : Bool :=
  let f := unpack (fmtOf x.opc) x.body
  let u := usesOf x.opc x.md
  let port (k : Use) (n : Nat) : Bool := k != .no && ((56 ≤ n && n < 64) || (92 ≤ n && n < 96))
  port u.d f.d || x.readsPort || x.opc == 0x99
    || (0xA4 ≤ x.opc
      && !([0xA4, 0xA6, 0xA8, 0xAB, 0xAD, 0xAE, 0xBD, 0xBE, 0xC0, 0xCD, 0xE0, 0xE2, 0xE7, 0xED].contains x.opc))

/-- Whether an acting operation is one that stores, whose effect does not rest on what it reads. -/
def AluOp.stores (x : AluOp) : Bool :=
  0xA4 ≤ x.opc && x.opc < 0xC4 && !([0xA4, 0xA6, 0xA8, 0xAB, 0xAD, 0xAE].contains x.opc)

/-- An acting operation runs on the effects before it. One that does not store reads the scratchpad and the issuer's view
as they stood at block entry, and leaves the stores before it as they are (R269 step 3). -/
def aluAct (s0 : State) (x : AluOp) (i : Instr) (ins : List (Nat × AluVal)) (s : State) : Except AluStop State :=
  if x.stores then aluExec s0.fresh i ins s
  else
    let h := s.upCore fun c => { c with held := s0.core.held, spad := s0.core.spad }
    (aluExec s0.fresh i ins h).map fun t => t.upCore fun c => { c with
      held := s.core.held ++ c.held.drop s0.core.held.length, spad := s.core.spad }

/-- The value that position k of operation i receives. -/
def aluInput (l : List AluOp) (r : AluRun) (i k : Nat) : Option AluVal := match aluProducer l i k with
  | none => none
  | some e => (r.vals.find? fun p => p.1 == e).map Prod.snd

/-- The values that an operation receives at positions 0 to 2. -/
def aluInputs (l : List AluOp) (r : AluRun) (i : Nat) (x : AluOp) : List (Nat × AluVal) :=
  ((List.range x.nin).filter x.receives).filterMap fun k => (aluInput l r i k).map fun v => (k, v)

/-- Whether the guard of an operation holds (R269 step 2). -/
def aluGuard (l : List AluOp) (r : AluRun) (i : Nat) (x : AluOp) : Bool :=
  if !x.guarded then true
  else match aluInput l r i 3 with
    | some (.p b) => b != x.ginv
    | _ => false

/-- A result of operation i. -/
def AluRun.result (i : Nat) (second : Bool) (v : AluVal) (r : AluRun) : AluRun := { r with vals := r.vals ++ [((i, second), v)] }

/-- What an operation has put in flight, taken up: its results, and what lands elsewhere. -/
def aluTake (i : Nat) (lands : List Inflight) (r : AluRun) : AluRun :=
  let r1 := (lands.filterMap fun e => aluLand e.land).foldl (fun r v => r.result i v.1 v.2) r
  { r1 with
    s := r1.s.upArch fun a => { a with
      inflight := a.inflight ++ lands.filter fun e => (aluLand e.land).isNone && !aluDrops e.land }
    pend := if lands.any fun e => aluPends e.land then r1.pend ++ [i] else r1.pend }

/-- The trap that data of the block raise when they land (R229, R342). -/
def aluTrap (l : List Inflight) : Option AluStop := l.findSome? fun e => match e.land with
  | .trap t _ => some (.trap t.info)
  | _ => none

/-- A native operation of a block: its results come from the state at block entry, but for one whose value the commit
produces, and its effects join those before it (R269 steps 3 to 5). -/
def aluNative (s0 : State) (l : List AluOp) (i : Nat) (x : AluOp) (r : AluRun) : Except AluStop AluRun :=
  let ins := aluInputs l r i x
  match aluInstr x ins with
  | none => .error .bad
  | some (instr, d) =>
    if !aluGuard l r i x then .ok ((r.result i false (aluFree d (s0.free + i))).result i true (aluFree 21 (s0.free + i)))
    else match aluExec s0.fresh instr ins s0 with
      | .error e => .error e
      | .ok t0 => match aluTrap (aluLands s0 t0) with
        | some e => .error e
        | none =>
          if !x.acts then .ok (aluTake i (aluLands s0 t0) r)
          else match aluAct s0 x instr ins r.s with
            | .error e => .error e
            | .ok t =>
              let base := { r with s := t.upArch fun a => { a with inflight := r.s.core.arch.inflight } }
              let own := (aluLands r.s t).filter fun e => x.late || (aluLand e.land).isNone
              let found := if x.late then [] else (aluLands s0 t0).filter fun e => (aluLand e.land).isSome
              .ok (aluTake i (found ++ own) base)

/-- One operation of a block, before its commit (R268, R269). -/
def aluOp (s0 : State) (c : Carried) (l : List AluOp) (i : Nat) (x : AluOp) (r : AluRun) : Except AluStop AluRun :=
  match x.opc with
  | 0xF4 => .ok (r.result i false (match c.find? fun p => p.1 == bits x.body 7 0 with
      | some p => p.2
      | none => aluFree ([0, 64, 96, 112].getD (bits x.body 9 8) 0) (s0.free + i)))
  | 0xF6 => match aluInput l r i 0 with
    | none => .error .bad
    | some v => .ok (r.result i false v)
  | 0xF5 | 0xF7 => .ok r
  | _ => if x.isBranch then .ok r else aluNative s0 l i x r

/-! The block. -/

/-- The operations of a block in index order, until one stops it (R269 step 1). -/
def aluOps (s0 : State) (c : Carried) (l : List AluOp) : List (Nat × AluOp) → AluRun → Except AluStop AluRun
  | [], r => .ok r
  | (i, x) :: t, r => match aluOp s0 c l i x r with
    | .error e => .error e
    | .ok r' => aluOps s0 c l t r'

/-- The carried values after the A.OUTs whose value is there, in index order (R268). -/
def aluOuts (l : List AluOp) (r : AluRun) (c : Carried) : Carried :=
  ((List.range l.length).zip l).foldl (fun c p =>
    if p.2.opc != 0xF5 || !aluGuard l r p.1 p.2 then c
    else match aluInput l r p.1 0 with
      | none => c
      | some v => (c.filter fun q => q.1 != bits p.2.body 7 0) ++ [(bits p.2.body 7 0, v)]) c

/-- c2 to c9 stand where s2 to s9 stand natively (R268). -/
def aluPlace (c : Carried) (s : State) : State := s.upArch fun a =>
  (List.range' 2 8).foldl (fun a n => match c.find? fun p => p.1 == n with
    | some p => p.2.put n a
    | none => a) a

/-- The results that have come among those in flight, of the operations that wait for them in this order: the results,
the operations that still wait, and what stays in flight. -/
def aluCome : List Inflight → List Nat → List ((Nat × Bool) × AluVal) × List Nat × List Inflight
  | [], p => ([], p, [])
  | e :: t, [] => let r := aluCome t []; (r.1, r.2.1, e :: r.2.2)
  | e :: t, i :: p => match aluLand e.land with
    | some v => let r := aluCome t p; (((i, v.1), v.2) :: r.1, r.2.1, r.2.2)
    | none =>
      if aluPends e.land then let r := aluCome t p; (r.1, i :: r.2.1, e :: r.2.2)
      else let r := aluCome t (i :: p); (r.1, r.2.1, e :: r.2.2)

/-- The results that have come are taken up. -/
def aluLate (r : AluRun) : AluRun :=
  let x := aluCome r.s.core.arch.inflight r.pend
  ⟨r.s.upArch fun a => { a with inflight := x.2.2 }, r.vals ++ x.1, x.2.1⟩

/-- All that is there lands; the results that the commit is to give stay in flight over it. -/
def aluLandAll (s : State) : State :=
  (landAll s).upArch fun a => { a with inflight := a.inflight.map fun e => if aluPends e.land then { e with due := 1 } else e }

/-- The group of effects is performed at the end of the block (R269 step 4). -/
def aluCommit (r : AluRun) : Except AluStop AluRun :=
  let s1 := settleAsOf r.s
  if s1.core.arch.inflight.any fun e => lateResult e.land then .error .waits
  else match aluTrap s1.core.arch.inflight with
    | some e => .error e
    | none =>
      -- As-of loads have their values before the commit, ordering accesses theirs from it.
      let r1 := aluLate { r with s := s1 }
      let s2 := commitSegment r1.s.core.pc (aluLandAll r1.s)
      match aluTrap s2.core.arch.inflight with
      | some e => .error e
      | none => .ok (aluLate { r1 with s := s2 })

/-- The block's B-class operation, after the commit: the run with its result, and the function that a B.CALL calls. -/
def aluBranchOp (c : Carried) (l : List AluOp) (r : AluRun) : Except AluStop (AluRun × Option Nat) :=
  match ((List.range l.length).zip l).find? fun p => p.2.isBranch with
  | none => .ok (r, none)
  | some (i, x) =>
    if !aluGuard l r i x then .ok (r, none)
    else if x.opc == 0x41 then .ok (r, some x.body)
    else
      let ins := aluInputs l r i x
      match aluInstr x ins with
      | none => .error .bad
      | some (instr, _) =>
        let s := aluPlace c r.s
        match aluExec s.fresh instr ins s with
        | .error e => .error e
        | .ok t => .ok (aluTake i (aluLands s t) { r with s := t.upArch fun a => { a with inflight := s.core.arch.inflight } }, none)

/-- Where control goes: the first A.EXIT whose guard holds, else the next block (R269 step 6). -/
def aluWay (l : List AluOp) (r : AluRun) : AluWay :=
  match ((List.range l.length).zip l).find? fun p => p.2.opc == 0xF7 && aluGuard l r p.1 p.2 with
  | none => .next
  | some p => if p.2.body == 0xFFF then .caller else .block p.2.body

/-- A block from a state and the values carried into it: what it leaves, or why it leaves nothing (R269). -/
def aluBlock (l : List AluOp) (c : Carried) (s : State) : Except AluStop AluDone :=
  let s0 := aluPlace c s
  match aluOps s0 c l ((List.range l.length).zip l) ⟨s0, [], []⟩ with
  | .error e => .error e
  | .ok r => match aluCommit r with
    | .error e => .error e
    | .ok r1 => match aluBranchOp (aluOuts l r1 c) l r1 with
      | .error e => .error e
      | .ok (r2, call) => .ok ⟨r2.s, aluOuts l r2 c, call, aluWay l r2⟩

end Sys2Proof.Machine
end

