-- ==== Sys2Proof/Tests/Slice0.lean ====
section
/-! SUPPORT. Tests: the smoke test of well-formedness, decodings of words written out from the encoding tables of the
spec, and for each statement that has hypotheses a witness that they can be met, and one step of some
instructions on values worked out by hand. -/

namespace Sys2Proof.Tests

open Sys2Proof Sys2Proof.Machine

set_option Elab.async false

/-! The three checks of WellFormed, each with terms that it refuses and no other check does (spec/04 R54, R62, R63). -/

/-- MOD values that their entries do not accept (R62, R119, R124, R162, R189). -/
theorem test_wf_mod : ([.vAdd .e4m3 3 4 (.v 5) ⟨0, false, .rne, false⟩, .vMulh .f32 3 4 (.v 5) ⟨0, false, .rne, false⟩,
    .vRound .i32 3 4 ⟨0, false, .rne, false⟩, .fLdq .f16 3 4 10 ⟨0, false, .rne, false⟩, .mSt .n32 10 11 0,
    .mStrl .n8 .die 10 11, .mSts .n16 10 11 12 0, .mGst .n32 10 11 1 0, .fTbl .i32 3 4 10 ⟨0, false, .rne, false⟩ 0]
      : List Instr).all (fun i => !i.modOk && i.fieldOk && i.kindOk && !i.wf) = true := by decide

/-- Immediates and unused fields that their entries do not allow (R54, R107, R111, R119, R127, R129, R194, R65). -/
theorem test_wf_field : ([.bCalli 9 0, .bRep (some 17) 1 0 0, .vAdd .i32 3 4 (.v 5) ⟨0, false, .rtz, false⟩,
    .vMulh .i32 3 4 (.v 5) ⟨0, false, .rne, true⟩, .vAbd .i32 3 4 (.v 5) ⟨0, false, .rup, false⟩,
    .vRound .f32 3 4 ⟨0, false, .rne, true⟩, .vCmp .i32 3 4 (.v 5) .ltu, .vCvt .i32 3 4 .mx8 0 ⟨0, false, .rne, false⟩,
    .vRsum .i32 3 4 ⟨0, true, .rne, false⟩, .vGmax .i32 3 4 ⟨0, false, .rtz, false⟩ 0 false,
    .mCas ⟨.relaxed, false, .die⟩ .release 10 11 12 13, .zw1Ldpair 11 12 0, .zw1Ldpair 10 12 8]
      : List Instr).all (fun i => i.modOk && !i.fieldOk && i.kindOk && !i.wf) = true := by decide

/-- Register numbers that their fields do not accept (R56, R104, R107, R120, R169, R189, R193). -/
theorem test_wf_kind : ([.sClk false 11, .sClk false 56, .sChk (.s 10 56), .bRet 0, .bRet 56, .bCbar 63,
    .vAdd .i32 28 4 (.v 5) ⟨0, false, .rne, false⟩, .vAdd .i32 3 31 (.v 5) ⟨0, false, .rne, false⟩,
    .vAdd .i32 3 4 (.s 63) ⟨0, false, .rne, false⟩, .vExtr .i32 60 4 10 0, .fGeo .insphere .zero 24 0, .fGeo .orient2 .zero 26 0,
    .mLd .vt .i64 61 10 0, .mLd .vt .i64 10 60 0, .mLdp .vt 13 10 0, .mLdp .vt 8 10 0,
    .mAadd ⟨.relaxed, false, .die⟩ 60 10 11, .xStat 0, .dPpcfg 28, .cFill 56 0 0, .zw1Dbnz 9 0] : List Instr).all
      (fun i => i.modOk && i.fieldOk && !i.kindOk && !i.wf) = true := by decide

/-! Words written out from the encoding tables of spec/04 and the entries of each class decode to the instructions they stand
for: at least one word for every syllable of the opcode table. -/

/-- Class S, first part (R95 to R98). -/
theorem test_decode_scalar : ([
  (0x8000000000000007, .sNop 7),
  (0x800207E2DC000000, .sAdd 63 11 56),
  (0x800407E2DC000000, .sSub 63 11 56),
  (0x800C07E2DC000000, .sAnd 63 11 56),
  (0x800E07E2DC000000, .sOr 63 11 56),
  (0x801007E2DC000000, .sXor 63 11 56),
  (0x801207E2DC000000, .sAndn 63 11 56),
  (0x801A07E2DC000000, .sShl 63 11 56),
  (0x801C07E2DC000000, .sShr 63 11 56),
  (0x801E07E2DC000000, .sSar 63 11 56),
  (0x802607E2DC000000, .sRor 63 11 56),
  (0x802807E2DC000000, .sMin 63 11 56),
  (0x802A07E2DC000000, .sMax 63 11 56),
  (0x806E07E2DC000000, .sMinu 63 11 56),
  (0x807007E2DC000000, .sMaxu 63 11 56),
  (0x804207E2DC000000, .sMul 63 11 56),
  (0x804407E2DC000000, .sMulh 63 11 56),
  (0x804607E2DC000000, .sMulhu 63 11 56),
  (0x802C014F80000000, .sAbs 10 62),
  (0x802E014F80000000, .sNeg 10 62),
  (0x8030014F80000000, .sClz 10 62),
  (0x8032014F80000000, .sCtz 10 62),
  (0x8034014F80000000, .sPopc 10 62),
  (0x8036014F80000000, .sBswap 10 62),
  (0x8058014F80000000, .sMov 10 62),
  (0x80060142FFFFFFFB, .sAddi 10 11 (-5)),
  (0x800A0142FFFFFFFB, .sMovhi 10 11 (-5)),
  (0x80140142FFFFFFFB, .sAndi 10 11 (-5)),
  (0x80160142FFFFFFFB, .sOri 10 11 (-5)),
  (0x80180142FFFFFFFB, .sXori 10 11 (-5)),
  (0x8008014000002000, .sMovi 10 0x2000),
  (0x80200142C000003F, .sShli 10 11 63),
  (0x80220142C000003F, .sShri 10 11 63),
  (0x80240142C000003F, .sSari 10 11 63),
  (0x80380142C00007C0, .sSext 10 11 31),
  (0x803A0142C00007C0, .sZext 10 11 31),
  (0x803C1142C00001C5, .sBfx true 10 11 5 7),
  (0x803C0142C00001C5, .sBfx false 10 11 5 7),
  (0x803E0142C6000FFC, .sBfi 10 11 12 60 63)] : List (Nat × Instr)).all (fun p => decodeTableWord 64 p.1 == some p.2) = true := by decide

/-- Class S, second part (R96, R99 to R105). -/
theorem test_decode_scalar2 : ([
  (0x80400142C6650000, .sSel 10 11 12 5),
  (0x80480142C60D0000, .sMadd 10 11 12 13),
  (0x804A6C62C6000000, .sCmp .ltu 3 11 12),
  (0x804C5DE2FFFFFFFF, .sCmpi .ge 15 11 (-1)),
  (0x804E0C38B1800000, .sPand 1 2 3),
  (0x80500C38B1800000, .sPor 1 2 3),
  (0x80520C38B1800000, .sPxor 1 2 3),
  (0x80540C3880000000, .sPnot 1 2),
  (0x80720C22C0000000, .sPset 1 11),
  (0x80563142C600FFFE, .sLea 3 10 11 12 (-2)),
  (0x805A01E000000031, .sCrd 15 .strandid),
  (0x805C0003C000004A, .sCwr (.lc 2) 15),
  (0x806801E000000033, .sGrd 15 (.lg 3)),
  (0x80660003C000001F, .sGwr (.cg 15) 15),
  (0x806A01E000000FF8, .sSpl 15 511),
  (0x806C0003C0000008, .sSps 15 1),
  (0x805E16C000000000, .sClk true 54),
  (0x8060000285800000, .sChk (.s 10 11)),
  (0x8060001871000000, .sChk (.p 1 2)),
  (0x8060001C79000000, .sChk (.m 1 2)),
  (0x80626E22F9000000, .sMskIns 3 1 11 2),
  (0x8062317C80000000, .sMskExt 1 11 2),
  (0x80640EE000000100, .sMski 7 256)] : List (Nat × Instr)).all (fun p => decodeTableWord 64 p.1 == some p.2) = true := by decide

/-- Class B (R106 to R114, R204, R225, R231, R273, R274, R286, R289, R292, R294). -/
theorem test_decode_branch : ([
  (0x80800FFFFFFFFFFD, .bBr (-3)),
  (0x808207FFFFFFFFFF, .bCall 0x7FFFFFFFFFF),
  (0x8084000040000000, .bRet 1),
  (0x8086000240000000, .bJmpi 9),
  (0x808800024000FFFF, .bCalli 9 0xFFFF),
  (0x808A200480000003, .bLoop 2 18 3),
  (0x808C900480000003, .bPloop 1 2 18 3),
  (0x808E000000000030, .bRep none 48 0 0),
  (0x808E10044007F000, .bRep (some 17) 0 7 15),
  (0x8090000000000000, .bCkpt),
  (0x8092000440000030, .bRvz 17 0 3),
  (0x809402E000000000, .bCbar 23),
  (0x8096000440000005, .bYield 17 5),
  (0x8098000408800000, .bWaitTime 16 17),
  (0x8098100008800000, .bWaitMbox 17),
  (0x8098200008800003, .bWaitCrewq 17 3),
  (0x809830000880000F, .bWaitRecv 17 15),
  (0x809A000508950000, .bMwait 20 17 21),
  (0x809C000008800000, .bPhase 17),
  (0x809E000000000000, .bEnd),
  (0x80A000044000003F, .bSpawn 17 63),
  (0x80A20142C0000000, .bWany 10 11),
  (0x80A40142C0000000, .bWall 10 11),
  (0x80A60142C0000000, .bFfr 10 11),
  (0x80A8000000000007, .bTrap 7),
  (0x80AA0142C0000000, .bGroupQuery 10 11),
  (0x80AA1002C6000000, .bGroupForm 11 12),
  (0x80AA2002C0000000, .bGroupDissolve 11)] : List (Nat × Instr)).all (fun p => decodeTableWord 64 p.1 == some p.2) = true := by decide

/-- Class V, first part (R119 to R128). -/
theorem test_decode_vector : ([
  (0x80B08BF12280005B, .vAdd .f16 31 4 (.v 5) ⟨3, true, .rtz, true⟩),
  (0x80B28BF12280005B, .vSub .f16 31 4 (.v 5) ⟨3, true, .rtz, true⟩),
  (0x80B48BF12280005B, .vMul .f16 31 4 (.v 5) ⟨3, true, .rtz, true⟩),
  (0x80B658710500000A, .vMulh .n32 3 4 (.s 10) ⟨2, true, .rne, false⟩),
  (0x80B89871228C005B, .vFma .bf16 3 4 (.v 5) (.s 12) ⟨3, true, .rtz, true⟩),
  (0x80BA9871228C005B, .vFms .bf16 3 4 (.v 5) (.s 12) ⟨3, true, .rtz, true⟩),
  (0x80BC9871228C005B, .vFnma .bf16 3 4 (.v 5) (.s 12) ⟨3, true, .rtz, true⟩),
  (0x80BE98712F000002, .vMin .bf16 3 4 (.v 30) ⟨2, false, .rne, false⟩),
  (0x80C098712F000002, .vMax .bf16 3 4 (.v 30) ⟨2, false, .rne, false⟩),
  (0x80C2087100000042, .vAbs .i8 3 4 ⟨2, false, .rne, true⟩),
  (0x80C4087100000042, .vNeg .i8 3 4 ⟨2, false, .rne, true⟩),
  (0x80C6287122C60002, .vClamp .i16 3 4 (.v 5) (.v 6) ⟨2, false, .rne, false⟩),
  (0x80C8687122800002, .vAnd .i64 3 4 (.v 5) ⟨2, false, .rne, false⟩),
  (0x80CA687122800002, .vOr .i64 3 4 (.v 5) ⟨2, false, .rne, false⟩),
  (0x80CC687122800002, .vXor .i64 3 4 (.v 5) ⟨2, false, .rne, false⟩),
  (0x80CE187100000002, .vNot .n8 3 4 ⟨2, false, .rne, false⟩),
  (0x80D0487105000042, .vShl .i32 3 4 (.s 10) ⟨2, false, .rne, true⟩),
  (0x80D2487105000002, .vShr .i32 3 4 (.s 10) ⟨2, false, .rne, false⟩),
  (0x80D4487105000002, .vSar .i32 3 4 (.s 10) ⟨2, false, .rne, false⟩),
  (0x80D6387122C60002, .vFshl .n16 3 4 (.v 5) (.v 6) ⟨2, false, .rne, false⟩),
  (0x80D8387122C60002, .vFshr .n16 3 4 (.v 5) (.v 6) ⟨2, false, .rne, false⟩),
  (0x80DA7E7122800200, .vCmp .f32 3 4 (.v 5) .gt),
  (0x80DC487122800006, .vSel .i32 3 4 (.v 5) 6),
  (0x80DE4BF100000000, .vMov .i32 31 4 ⟨0, false, .rne, false⟩),
  (0x80E048600500000A, .vBcast .i32 3 10 ⟨2, true, .rne, false⟩),
  (0x80E248600500FF82, .vIota .i32 3 10 ⟨2, false, .rne, false⟩ (-1)),
  (0x80E4215105800280, .vExtr .i16 10 4 11 5),
  (0x80E62871058C0280, .vIns .i16 3 4 11 12 5),
  (0x80E8087122800002, .vPerm .i8 3 4 5 ⟨2, false, .rne, false⟩),
  (0x80EA087105800002, .vSlide .i8 3 4 11 ⟨2, false, .rne, false⟩),
  (0x8116087122800082, .vZip .i8 3 4 5 ⟨2, false, .rne, false⟩ true)] : List (Nat × Instr)).all (fun p => decodeTableWord 64 p.1 == some p.2) = true := by decide

/-- Class V, second part (R124 to R135). -/
theorem test_decode_vector2 : ([
  (0x80EC787080000600, .vCvt .f32 3 2 .mx8 0 ⟨0, false, .rne, false⟩),
  (0x80EC48708000345B, .vCvt .i32 3 2 (.ty .f16) 3 ⟨3, true, .rtz, true⟩),
  (0x80EE701080000005, .vMaxexp 2 5),
  (0x80F0087080000580, .vPxpose true 3 2 3 true),
  (0x80F0187080000380, .vPxpose false 3 2 7 false),
  (0x80F2487080000005, .vCmprs .i32 3 2 5),
  (0x80F4787100000053, .vRsum .f32 3 4 ⟨3, false, .rtz, true⟩),
  (0x80FC787100000053, .vRowsum .f32 3 4 ⟨3, false, .rtz, true⟩),
  (0x80FE787100000053, .vColsum .f32 3 4 ⟨3, false, .rtz, true⟩),
  (0x80F6487100000002, .vRmax .i32 3 4 ⟨2, false, .rne, false⟩),
  (0x80F8487100000002, .vRmin .i32 3 4 ⟨2, false, .rne, false⟩),
  (0x80FA087100000502, .vGmax .i8 3 4 ⟨2, false, .rne, false⟩ 2 true),
  (0x8100087F45801F80, .vAread 3 5 11 63),
  (0x81020FF105800480, .vAwrite 7 4 11 9),
  (0x8104015CC0000000, .vMcnt 10 3),
  (0x8106587100000002, .vPopc .n32 3 4 ⟨2, false, .rne, false⟩),
  (0x8108587100000002, .vClz .n32 3 4 ⟨2, false, .rne, false⟩),
  (0x810A787100000032, .vRound .f32 3 4 ⟨2, false, .rup, false⟩),
  (0x810C88710580005B, .vScale .f16 3 4 11 ⟨3, true, .rtz, true⟩),
  (0x810E187122800002, .vAvg .n8 3 4 (.v 5) ⟨2, false, .rne, false⟩),
  (0x8110187122800042, .vAbd .n8 3 4 (.v 5) ⟨2, false, .rne, true⟩),
  (0x81120E7100000000, .vMset 3 4),
  (0x81140E7D3A800180, .vMand .andn 3 4 5)] : List (Nat × Instr)).all (fun p => decodeTableWord 64 p.1 == some p.2) = true := by decide

/-- Class F (R164 to R179). -/
theorem test_decode_special : ([
  (0x812078710580015B, .fTbl .f32 3 4 11 ⟨3, true, .rtz, true⟩ 2),
  (0x8122001100000180, .fTblwr 4 3),
  (0x8124088000000080, .fTblrd 4 1),
  (0x812698710000005B, .fRcp .bf16 3 4 ⟨3, true, .rtz, true⟩),
  (0x812898710000005B, .fRsq .bf16 3 4 ⟨3, true, .rtz, true⟩),
  (0x812A98710000005B, .fSqrt .bf16 3 4 ⟨3, true, .rtz, true⟩),
  (0x812E98710000005B, .fExp2 .bf16 3 4 ⟨3, true, .rtz, true⟩),
  (0x813098710000005B, .fLog2 .bf16 3 4 ⟨3, true, .rtz, true⟩),
  (0x813E98710000005B, .fExp .bf16 3 4 ⟨3, true, .rtz, true⟩),
  (0x814098710000005B, .fLog .bf16 3 4 ⟨3, true, .rtz, true⟩),
  (0x812C88710580005B, .fDiv .f16 3 4 (.s 11) ⟨3, true, .rtz, true⟩),
  (0x81333015C0000005, .fGeo .insphere .strict 23 5),
  (0x8134087105800000, .fGeoidx 3 4 11),
  (0x8136787105800000, .fLq 3 4 11),
  (0x813898710580005B, .fLdq .bf16 3 4 11 ⟨3, true, .rtz, true⟩),
  (0x813A014000000000, .fLqcnt 10),
  (0x813C715100000780, .fLscale 10 4 (-1))] : List (Nat × Instr)).all (fun p => decodeTableWord 64 p.1 == some p.2) = true := by decide

/-- Class M (R184 to R194, R217, R343, R344). -/
theorem test_decode_memory : ([
  (0x8149916280000000, .mLd .vt .i64 11 10 0),
  (0x814A80028580FFF8, .mSt .i16 10 11 (-8)),
  (0x814C218280000010, .mLdp .dm 12 10 16),
  (0x814E000286000010, .mStp 10 12 16),
  (0x8150086280000040, .mVld .sp 3 10 64),
  (0x81520002A1800040, .mVst 10 3 64),
  (0x81540002A1C40040, .mVstu 10 3 4 64),
  (0x8156286285800040, .mVlds .dm 3 10 11 64),
  (0x81580002A18B0040, .mVsts 10 3 11 64),
  (0x815A18628000003F, .mVldb .vt 3 10 63),
  (0x815C0862A2000007, .mVgath 3 10 4 7),
  (0x815E0002A2450007, .mVscat 10 4 5 7),
  (0x8161A16280000010, .mLdaq .dm .i64 .die 11 10),
  (0x8163000285800020, .mStrl .i32 .system 10 11),
  (0x8164B2854B000008, .mAadd ⟨.acqRel, true, .crew⟩ 20 21 22),
  (0x8166B2854B000008, .mAmin ⟨.acqRel, true, .crew⟩ 20 21 22),
  (0x8168B2854B000008, .mAmax ⟨.acqRel, true, .crew⟩ 20 21 22),
  (0x816AB2854B000008, .mAand ⟨.acqRel, true, .crew⟩ 20 21 22),
  (0x816CB2854B000008, .mAor ⟨.acqRel, true, .crew⟩ 20 21 22),
  (0x816EB2854B000008, .mAxor ⟨.acqRel, true, .crew⟩ 20 21 22),
  (0x8170B2854B000008, .mSwap ⟨.acqRel, true, .crew⟩ 20 21 22),
  (0x817232854B170011, .mCas ⟨.acqRel, false, .die⟩ .acquire 20 21 22 23),
  (0x8174300000000010, .mFence .acqRel .die),
  (0x8174500000000000, .mFenceStamp),
  (0x8177818285800008, .mSts .i64 12 10 11 8),
  (0x8178518285800008, .mLdas .vt .n8 12 10 11 8),
  (0x817A000280000040, .mPref 10 64),
  (0x817CC18280630002, .mGld .sp .n16 12 10 3 2),
  (0x817F000285E30004, .mGst .i32 10 11 3 4),
  (0x8180000280000000, .mTinv 10),
  (0x8182000280000040, .mZero 10 64)] : List (Nat × Instr)).all (fun p => decodeTableWord 64 p.1 == some p.2) = true := by decide

/-- Classes X, C, L and D and the deprecated opcodes (R65, R154 to R156, R195, R329, R358). -/
theorem test_decode_engine : ([
  (0x81880F0002000000, .xMma 0 0 1),
  (0x818A0FFFFC000000, .xMmac 7 63 62),
  (0x818C1F4000000000, .xAclr true 2),
  (0x818E0F400000007B, .xAmov 2 3),
  (0x81900F4480000000, .xAload 2 9),
  (0x81920F4480280000, .xAsave 2 9 5),
  (0x8194100000000000, .xMode true),
  (0x8196100000000000, .xMirr true),
  (0x8198000000000000, .xFence),
  (0x819A014000000000, .xStat 10),
  (0x81C80F4491F80037, .dPp 2 9 8 63 ⟨.tbl, true, .rdn, true⟩),
  (0x81CA0F4480080001, .dPpcmp 2 9 0 1 ⟨.relu, false, .rne, false⟩),
  (0x81CC001100000000, .dPpcfg 4),
  (0x81CE014000000000, .dPpact 10),
  (0x81A0000102280000, .cCopy 2 1 5),
  (0x81A2000102280000, .cCopy2d 2 1 5),
  (0x81A8000102280000, .cGath 2 1 5),
  (0x81AA000102280000, .cScat 2 1 5),
  (0x81AC000102280000, .cXpose 2 1 5),
  (0x81A4022002280000, .cFill 17 1 5),
  (0x81A6022002280000, .cFill2d 17 1 5),
  (0x81AE000102280001, .cPlane true 2 1 5),
  (0x81B0000102280002, .cConv .bf16blk 2 1 5),
  (0x81B200010228FFFF, .cXch 2 1 5 0xFFFF),
  (0x81B4000280000000, .cTclr 10),
  (0x81B6000100280000, .cPref 2 5),
  (0x81B800000000000F, .lOpenSend 15),
  (0x81B810000000000F, .lOpenRecv 15),
  (0x81BA000180480002, .lSend 3 2 9),
  (0x81BC022180480002, .lSendst 17 3 2 9),
  (0x81BE000006480002, .lRecv 3 2 9),
  (0x81C0014000000003, .lPeek 10 3),
  (0x81C2000000000003, .lClose 3),
  (0x81C4014000000003, .lStat 10 3),
  (0x81D0000180200000, .dJpeg 3 4),
  (0x81D2000180200000, .dG4 3 4),
  (0x81D4000000200001, .dRaw true 0 4),
  (0x81D6000285800000, .dRingSet 10 11),
  (0x81D6100280000000, .dRingFree 10),
  (0x81D8014000000000, .dPortCount 10),
  (0x81D8114000000000, .dPortSkip 10),
  (0x81DA014000000000, .dDstat 10),
  (0x81DC000000000000, .dDabort),
  (0x81DE000000000000, .dDfence),
  (0x81E00142C60D0000, .zw1Madd 10 11 12 13),
  (0x81E20142C0000010, .zw1Ldpair 10 11 16),
  (0x81E4015100000000, .zw1Vsum 10 4),
  (0x81E60002BFFFFFFC, .zw1Dbnz 10 (-4))] : List (Nat × Instr)).all (fun p => decodeTableWord 64 p.1 == some p.2) = true := by decide
/-! Small states: the machine after reset with one word placed where the core fetches, and changes of a few fields. -/

/-- The core is about to issue the word w. -/
def st (w : Nat) : State := State.reset.withFetchWord 64 w
/-- The core is about to issue S.NOP. -/
def b0 : State := st 0x8000000000000000
/-- b0 with the selected core changed. -/
def bc (f : Core → Core) : State := { b0 with core := f b0.core }
/-- b0 with the checkpointed state of the selected core changed. -/
def ba (f : Arch → Arch) : State := bc fun c => { c with arch := f c.arch }
/-- b0 with the selected die changed. -/
def bd (f : Die → Die) : State := { b0 with die := f b0.die }
/-- b0 with the package changed. -/
def bp (f : Package → Package) : State := { b0 with pkg := f b0.pkg }
/-- b0 with its partition changed. -/
def bq (f : Partition → Partition) : State := bp fun k => { k with parts := [f placedPartition] }
/-- b0 with one scalar register set. -/
def br (r : SReg) (x : Word) : State := ba fun a => { a with s := a.s.set r x }

/-- Something of the next state that an outcome is. -/
def after {α : Type} (o : Host.Outcome State Fault Refusal) (d : α) (f : State → α) : α := match o with
  | .next t => f t
  | .fault _ => d
  | .refused _ => d
/-- The results in flight after an outcome. -/
def flights (o : Host.Outcome State Fault Refusal) : List Inflight := after o [] fun t => t.core.arch.inflight
/-- The trap information after an outcome that has trapped. -/
def trapWord (o : Host.Outcome State Fault Refusal) : Option Word :=
  after o none fun t => if t.core.issue.status = .trapped then some t.core.trapinfo else none

/-- A register of the kernel that is no port. -/
def plainReg : Reg → Bool
  | .s r => r.val < 56
  | .v r => r.val < 28
  | .p _ => true
  | .m _ => true
  | .a _ => true

theorem plain_reg (r : Reg) (h : plainReg r = true) : portEmpty b0 r = false ∧ portFull b0 r = false ∧
    portTrap b0 r = none ∧ portLimit b0 r = none ∧ allotted (curKernel b0) r = true := by
  cases r with
  | s r => revert r; decide
  | v r => revert r; decide
  | p r => exact ⟨rfl, rfl, rfl, rfl, rfl⟩
  | m r => exact ⟨rfl, rfl, rfl, rfl, rfl⟩
  | a r => exact ⟨rfl, rfl, rfl, rfl, rfl⟩

/-- A syllable whose registers are no ports runs on b0, whatever they are: the hypothesis of every completion
statement. -/
theorem witness_Runs (l m n : List Reg) (h : (l ++ m).all plainReg = true) (q : List Reg := []) : Runs b0 l m n q := by
  have hp : ∀ r ∈ l ++ m, plainReg r = true := List.all_eq_true.1 h
  have hl : ∀ r ∈ l, plainReg r = true := fun r hr => hp r (List.mem_append_left _ hr)
  have hm : ∀ r ∈ m, plainReg r = true := fun r hr => hp r (List.mem_append_right _ hr)
  have h1 (r : List Reg) : pendTrap b0 r = none := rfl
  have h2 : allotTrap b0 (m ++ l) = none := by
    have : (m ++ l).find? (fun r => !allotted (curKernel b0) r) = none := by
      rw [List.find?_eq_none]
      intro r hr
      have := (plain_reg r ((List.mem_append.1 hr).elim (hm r) (hl r))).2.2.2.2
      simp [this]
    rw [allotTrap, this]; rfl
  have h3 : (l ++ m).findSome? (portTrap b0) = none := by
    rw [List.findSome?_eq_none_iff]; exact fun r hr => (plain_reg r (hp r hr)).2.2.1
  have h4 (r : List Reg) : ueccTrap b0 r = none := by
    have : r.find? (fun r => b0.core.ueccRegs.contains r.num) = none := by
      rw [List.find?_eq_none]; intro r _; exact Bool.false_ne_true
    rw [ueccTrap, this]; rfl
  have h5 : m.findSome? (portLimit b0) = none := by
    rw [List.findSome?_eq_none_iff]; exact fun r hr => (plain_reg r (hm r hr)).2.2.2.1
  refine ⟨?_, ?_, ?_⟩
  · rw [List.any_eq_false]; intro r hr; rw [(plain_reg r (hl r hr)).1]; exact Bool.false_ne_true
  · simp only [sylTrap, h1, h2, h3, h4, h5, Option.orElse]
  · rw [List.any_eq_false]; intro r hr; rw [(plain_reg r (hm r hr)).2.1]; exact Bool.false_ne_true

/-- The words that the spec writes out as examples (spec/04 R65, spec/06 R99, spec/07, spec/08, spec/10, spec/12, spec/20,
spec/22). -/
theorem test_decode_examples : ([(0x01880F0002000000, .xMma 0 0 1), (0x808E000000000030, .bRep none 48 0 0),
    (0x01A8000102280000, .cGath 2 1 5), (0x81BA000180480002, .lSend 3 2 9), (0x80DE4BF100000000, .vMov .i32 31 4 ⟨0, false, .rne, false⟩),
    (0x80EC787080000600, .vCvt .f32 3 2 .mx8 0 ⟨0, false, .rne, false⟩), (0x80EE701080000000, .vMaxexp 2 0),
    (0x805807E580000000, .sMov 63 22), (0x8174300000000010, .mFence .acqRel .die), (0x81D4000000200001, .dRaw true 0 4),
    (0x809C000008800000, .bPhase 17), (0x809402E000000000, .bCbar 23), (0x8096000440000005, .bYield 17 5),
    (0x8092000440000030, .bRvz 17 0 3), (0x809A000508950000, .bMwait 20 17 21), (0x8008014000002000, .sMovi 10 0x2000),
    (0x8149916280000000, .mLd .vt .i64 11 10 0), (0x809E000000000000, .bEnd), (0x80A8000000000007, .bTrap 7),
    (0x8086000240000000, .bJmpi 9), (0x005A010000000011, .sCrd 8 .trapinfo), (0x808A000480000003, .bLoop 0 18 3),
    (0x005A01E000000031, .sCrd 15 .strandid), (0x81B8000000000000, .lOpenSend 0), (0x81B8100000000000, .lOpenRecv 0)]
      : List (Nat × Instr)).all (fun p => decodeWord p.1 == .ok p.2) = true := by decide

/-! One witness for the hypotheses of each statement, clause by clause at boundary values. -/

theorem witness_DecodeInvertsEncode :
    Instr.wf (.sMski 7 256) = true ∧ (Instr.sMski 7 256).enc.isSome = true := by decide

theorem witness_EncodeInvertsDecode : (0xFFE6000000000000 : Nat) < 2 ^ 64 ∧ decodeWord 0xBFE40142C58D0000 = .ok (.zw1Vsum 10 4) ∨
    (decodeWord 0x005A010000000011 = .ok (.sCrd 8 .trapinfo) ∧ assigned (bits (0x3A * 2 ^ 49) 56 49) = false ∧
      assigned (bits (0xFF * 2 ^ 49 + 2 ^ 64 - 1) 56 49) = false) := by decide

/-- The one syllable of the bundle at the pc, with the state in which it issues, satisfies p. -/
def oneSyllable (s : State) (p : State → Slotted → Bool) : Bool :=
  let s1 := settleDue s
  match bundleAt s1 s1.core.pc.toNat with
  | .ok [x] => p (beginIssue s1.core.pc.toNat 1 s1) x
  | .ok _ => false
  | .error _ => false

/-- The state in which the meaning of a syllable runs. -/
def meant (x : Slotted) (s : State) : State :=
  s.upCore fun c => { c with issue := { c.issue with dup := x.frame.dup, twin := twinOf x } }

/-- The state after the pacing of its bundle. -/
def afterPace (x : Slotted) (s : State) : State := s.upCore (pace (bundleAllow s) (windowAllow s) (charge s.core [x]))

/-- How an outcome has ended its issue. -/
def status (o : Host.Outcome State Fault Refusal) : Option Issued := after o none fun t => some t.core.issue.status

/-- The bundle of S.NOP has one word; S.NOP and B.BR run before and after the pacing, B.TRAP traps, S.MOV from the empty mailbox
port freezes, and a syllable under (!p0) is predicated false. -/
theorem witness_StepRunsTheDecodedInstruction :
    (b0.core.arch.rpc.act = false ∧ (fetchWords b0 0 13).toOption = some [0x8000000000000000]) ∧
    (∀ w ∈ [0x8000000000000000, 0x8080000000000001, 0x80A8000000000007, 0x8058014F40000000, 0xA008014000002000],
      (st w).sched = [] ∧ MayIssue (st w)) ∧
    oneSyllable (st 0xA008014000002000) (fun s x => !guardTrue s x.frame) = true ∧
    (∀ w ∈ [0x8000000000000000, 0x8080000000000001], oneSyllable (st w) (fun s x => guardTrue s x.frame &&
      guardTrap s x.frame == none && status (exec x.instr (meant x s)) == some .ok &&
      status (exec x.instr (meant x (afterPace x s))) == some .ok) = true) ∧
    oneSyllable (st 0x80A8000000000007) (fun s x => guardTrue s x.frame && guardTrap s x.frame == none &&
      status (exec x.instr (meant x s)) == some .trapped) = true ∧
    oneSyllable (st 0x8058014F40000000) (fun s x => guardTrue s x.frame && guardTrap s x.frame == none &&
      status (exec x.instr (meant x s)) == some (.frozen .emptyPort)) = true := by
  unfold MayIssue; decide +kernel

theorem witness_StepKeepsMemoryForm : MemInv b0 ∧ after (step b0) false (fun t => t.core.pc == 8) = true := by
  unfold MemInv; decide

theorem witness_HardwiredRegisters : (Land.s 0 5 = .s 0 5 ∨ Land.s 0 5 = .p 0 true ∨ Land.s 0 5 = .m 0 1) ∧
    (Land.p 0 true = .s 0 5 ∨ Land.p 0 true = .p 0 true ∨ Land.p 0 true = .m 0 1) ∧
    (Land.m 0 1 = .s 0 5 ∨ Land.m 0 1 = .p 0 true ∨ Land.m 0 1 = .m 0 1) := by decide

/-- The end of a bundle with results in flight, two for one register, its branch taken or not. -/
def landing (branch : Bool) : State := bc fun c => { c with
  issue := { c.issue with taken := branch }
  arch := { c.arch with inflight := [⟨1, .s 55 5⟩, ⟨1, .s 55 6⟩, ⟨2, .v 3 7⟩, ⟨1, .p 11 true⟩, ⟨1, .m 7 1⟩, ⟨9, .ordPend 10 3⟩] } }

theorem witness_ResultsLandAtTheirDistance : (∀ b ∈ [false, true], (landing b).core.issue.finished = false ∧
      ∀ e ∈ (landing b).core.arch.inflight, e.due ≤ 1 → e.land.ripe = true) ∧
    b0.core.arch.inflight = [] ∧ (55 : SReg).val < 56 ∧ (55 : SReg) ≠ 0 ∧ (1 : SReg).val < 56 ∧ (1 : SReg) ≠ 0 ∧ (7 : MReg) ≠ 0 ∧
    (11 : PReg) ≠ 0 ∧ (11 : PReg).val < 12 := by decide

theorem witness_ScalarTwoSource : Runs b0 [.s 0, .s 55] [.s 1] := witness_Runs _ _ _ (by decide)
theorem witness_ScalarOneAndThreeSource : Runs b0 [] [] ∧ Runs b0 [.s 11] [.s 10] ∧ Runs b0 [.s 11, .s 12] [.s 10] ∧
    Runs b0 [.s 11, .s 12, .s 13] [.s 10] ∧ Runs b0 [.s 11, .s 12, .p 15] [.s 10] :=
  ⟨witness_Runs _ _ _ (by decide), witness_Runs _ _ _ (by decide), witness_Runs _ _ _ (by decide),
    witness_Runs _ _ _ (by decide), witness_Runs _ _ _ (by decide)⟩
theorem witness_ScalarImmediate : Runs b0 [.s 11] [.s 10] ∧ Runs b0 [] [.s 10] :=
  ⟨witness_Runs _ _ _ (by decide), witness_Runs _ _ _ (by decide)⟩
theorem witness_ScalarShiftsAndFields : Runs b0 [.s 11] [.s 10] ∧ Runs b0 [.s 11, .s 12] [.s 10] :=
  ⟨witness_Runs _ _ _ (by decide), witness_Runs _ _ _ (by decide)⟩
theorem witness_ScalarCompares : Runs b0 [.s 11, .s 12] [.p 15] ∧ Runs b0 [.s 11] [.p 0] ∧ 10 ≤ 10 ∧ 10 ≤ 31 :=
  ⟨witness_Runs _ _ _ (by decide), witness_Runs _ _ _ (by decide), by decide, by decide⟩

/-- A pipelined loop at level 1 is active. -/
def bl : State := ba fun a => { a with loops := a.loops.set 1 ⟨0, true, true, 3, false, 0, 8⟩ }

theorem witness_ScalarPredicatesAndMasks : Runs b0 [.p 1, .p 2] [.p 3] ∧ Runs b0 [.p 1] [.p 3] ∧ Runs b0 [.s 1] [.p 3] ∧
    (bl.core.arch.loops[1].act = true ∧ bl.core.arch.loops[1].pipe = true ∧ 12 ≤ (12 : PReg).val ∧ 12 ≤ (15 : PReg).val) ∧
    Runs b0 [.s 11, .m 2] [.m 7] ∧ Runs b0 [.m 2] [.s 11] ∧ Runs b0 [] [.m 7] ∧ (256 < 257 ∧ 257 < 2 ^ 30 ∧ 2 ^ 30 - 1 < 2 ^ 30) :=
  ⟨witness_Runs _ _ _ (by decide), witness_Runs _ _ _ (by decide), witness_Runs _ _ _ (by decide), by decide,
    witness_Runs _ _ _ (by decide), witness_Runs _ _ _ (by decide), witness_Runs _ _ _ (by decide), by decide⟩

theorem witness_ScalarAccess : Runs b0 [] [.s 10] ∧ Runs b0 [.s 11] [] ∧ ueccWord b0.core 2 (8 * 511) 8 = none ∧
    (CReg.feat ≠ .shape ∧ CReg.feat ≠ .qsl ∧ CReg.feat ≠ .ttbase ∧ ∀ k, CReg.feat ≠ .lc k) :=
  ⟨witness_Runs _ _ _ (by decide), witness_Runs _ _ _ (by decide), by decide, by decide⟩

/-- The clock's bounds are w picoseconds apart. -/
def clk (w : Nat) : State := bd fun d => { d with latest := d.earliest + w }

theorem witness_ClockSampleAndCheck :
    (Runs (clk 1000) [] [.s 54, .s 55] ∧ (clk 1000).die.latest - (clk 1000).die.earliest ≤ (clk 1000).die.clkw.toNat) ∧
    (Runs (clk 1001) [] [.s 54, .s 55] ∧ (clk 1001).die.clkw.toNat < (clk 1001).die.latest - (clk 1001).die.earliest) ∧
    (Runs b0 [.s 10, .s 11] [] ∧ regS b0 10 = regS b0 11) ∧ (Runs b0 [.p 0, .p 1] [] ∧ ¬regP b0 0 = regP b0 1) ∧
    (Runs b0 [.m 1, .m 2] [] ∧ regM b0 1 = regM b0 2) ∧
    (Runs (br 10 5) [.s 10, .s 11] [] ∧ ¬regS (br 10 5) 10 = regS (br 10 5) 11) ∧
    (Runs b0 [.m 0, .m 1] [] ∧ ¬regM b0 0 = regM b0 1) ∧ (Instr.sChk (.s 55 0)).wf = true := by
  unfold Runs; decide

theorem witness_MemoryReadsBack : (Store.zero.seed = none → memOk Store.zero.cells = true) ∧ b0.die.mem ≠ [] ∧
    memOk b0.die.mem = true ∧ memOk b0.die.base = true ∧ ¬ringed b0.die 0x8000 ∧ ringed b0.die 63 ∧ (0x8000 ≤ 0x8000 ∧ 0x8000 < 0x8000 + [(1 : Byte), 2].length) ∧
    (0x8000 ≤ 0x8001 ∧ 0x8001 < 0x8000 + [(1 : Byte), 2].length) ∧ ¬(0x8000 ≤ 0x8002 ∧ 0x8002 < 0x8000 + [(1 : Byte), 2].length) := by
  unfold ringed; decide +kernel

theorem witness_ComputingFrame : computes (.sAdd 63 10 11) = true ∧ computes (.sAdd 12 10 11) = true ∧
    status (exec (.sAdd 12 10 11) b0) = some .ok ∧ [Reg.s 55, .v 27, .p 15].all (fun r => !isPort r) = true ∧
    (55 : SReg).val < 56 ∧ (27 : VReg).val < 28 := by decide

/-! Branches, loops and suspension. -/

/-- The word at the target of B.CALLI is S.NOP of class 7. -/
def bn : State := st 0x8000000000000007

theorem witness_Branches : Runs b0 [] [] ∧ Runs b0 [] [.s 1] ∧
    (Runs (br 9 (2 ^ 56 - 8)) [.s 9] [] ∧ (regS (br 9 (2 ^ 56 - 8)) 9).toNat % 8 = 0 ∧ (regS (br 9 (2 ^ 56 - 8)) 9).toNat < 2 ^ 56) ∧
    ((fetchSyl bn (regS bn 9).toNat).toOption = some 0x8000000000000007 ∧ decodeWord 0x8000000000000007 = .ok (.sNop 7) ∧
      (frameOf 0x8000000000000007).ginv = false ∧ (frameOf 0x8000000000000007).gpred = 0 ∧ Runs bn [.s 9] [.s 1]) ∧
    (Runs (br 9 (2 ^ 30)) [.s 9] [.s 1] ∧ (fetchSyl (br 9 (2 ^ 30)) (2 ^ 30)).toOption = none ∧ 2 ^ 30 < 2 ^ 56) ∧
    ¬(decodeWord 0x8000000000000007 = .ok (.sNop 8) ∧ (frameOf 0x8000000000000007).ginv = false) ∧
    (Runs (br 9 4) [.s 9] [] ∧ Runs (br 9 4) [.s 9] [.s 1] ∧ ¬((regS (br 9 4) 9).toNat % 8 = 0 ∧ (regS (br 9 4) 9).toNat < 2 ^ 56)) ∧
    (Runs (br 9 (2 ^ 56)) [.s 9] [] ∧ Runs (br 9 (2 ^ 56)) [.s 9] [.s 1] ∧
      ¬((regS (br 9 (2 ^ 56)) 9).toNat % 8 = 0 ∧ (regS (br 9 (2 ^ 56)) 9).toNat < 2 ^ 56)) := by
  unfold Runs; decide +kernel

/-- The bundle at 8 is issuing, s18 holds n, and loop level 1 is pipelined if p. -/
def loopAt (n : Word) (p : Bool) : State := bc fun c => { c with
  issue := { c.issue with ba := 8, nb := 16 }
  arch := { c.arch with s := c.arch.s.set 18 n, loops := c.arch.loops.set 1 ⟨0, p, p, 3, false, 0, 8⟩ } }

/-- COUNT from 2^32 + 1 on; RANGE from an end below 16 on; PIPE; and a start, with an empty body that is skipped. -/
theorem witness_Loops_start :
    (2 ^ 32 < (regS (loopAt (2 ^ 32 + 1) false) 18).toNat ∧ Runs (loopAt (2 ^ 32 + 1) false) [.s 18] []) ∧
    ((regS (loopAt (2 ^ 32) false) 18).toNat ≤ 2 ^ 32 ∧ Runs (loopAt (2 ^ 32) false) [.s 18] [] ∧
      (((8 : Int) + 8 * (0 : BitVec 30).toInt) % 2 ^ 56).toNat < (loopAt (2 ^ 32) false).core.issue.nb ∧
      (loopAt (2 ^ 32) false).core.issue.nb ≤ (((8 : Int) + 8 * (1 : BitVec 30).toInt) % 2 ^ 56).toNat ∧
      ¬(true = true ∧ ∃ m : Fin 3, m ≠ 0 ∧ (loopAt (2 ^ 32) false).core.arch.loops[m].act = true ∧
        (loopAt (2 ^ 32) false).core.arch.loops[m].pipe = true)) ∧
    (Runs (loopAt 1 true) [.s 18] [] ∧ (true = true ∧ ∃ m : Fin 3, m ≠ 0 ∧ (loopAt 1 true).core.arch.loops[m].act = true ∧
        (loopAt 1 true).core.arch.loops[m].pipe = true)) ∧
    ((regS (loopAt 0 false) 18).toNat = 0 ∧ Runs (loopAt 0 false) [.s 18] [] ∧ (fetchWords bn 0 13).toOption.isSome = true ∧
      (fetchWords (loopAt 0 false) (2 ^ 30) 13).toOption = none) := by
  unfold Runs; decide +kernel

/-- Loop state with level 2 at the bundle 64. -/
def lv (rem : BitVec 32) (act pipe : Bool) (p : Preds) : Arch :=
  { Arch.reset with loops := Arch.reset.loops.set 2 ⟨rem, act, pipe, 1, false, 16, 64⟩, p := p }

theorem witness_Loops_end : ((lv 1 false false 0).loops[(2 : Fin 3)].act = false ∨ (lv 1 false false 0).loops[(2 : Fin 3)].le.toNat ≠ 64) ∧
    ((lv 1 true false 0).loops[(2 : Fin 3)].act = false ∨ (lv 1 true false 0).loops[(2 : Fin 3)].le.toNat ≠ 72) ∧
    ((lv 1 true false 0).loops[(2 : Fin 3)].act = true ∧ (lv 1 true false 0).loops[(2 : Fin 3)].le.toNat = 64 ∧
      (lv 1 true false 0).loops[(2 : Fin 3)].pipe = false ∧ ((lv 1 true false 0).loops[(2 : Fin 3)].rem ≠ 0 ∧ false = false)) ∧
    ((lv 0 true false 0).loops[(2 : Fin 3)].act = true ∧ ¬((lv 0 true false 0).loops[(2 : Fin 3)].rem ≠ 0 ∧ false = false) ∧
      ¬((lv 1 true false 0).loops[(2 : Fin 3)].rem ≠ 0 ∧ true = false)) ∧
    ((lv 0 true true 0x1000).loops[(2 : Fin 3)].act = true ∧ (lv 0 true true 0x1000).loops[(2 : Fin 3)].le.toNat = 64 ∧
      (lv 0 true true 0x1000).loops[(2 : Fin 3)].pipe = true) ∧
    (b0.core.issue.finished = false ∧ b0.core.issue.taken = false ∧ b0.core.arch.rpc.act = false ∧ b0.core.hnd = false) := by
  decide +kernel

/-- A repeat whose target begins at 0, with a count in s17. -/
def repAt (w : Nat) (n : Word) : State :=
  let s := st w
  { s with core := { s.core with arch := { s.core.arch with s := s.core.arch.s.set 17 n } } }

/-- The last syllables: S.NOP; B.BR, which a repeat may not have; an unassigned opcode. -/
theorem witness_RepeatPrefix :
    ((some (17 : SReg)).isSome = true ∧ 65535 < (regS (repAt 0x8000000000000000 65536) 17).toNat ∧
      Runs (repAt 0x8000000000000000 65536) [.s 17] []) ∧
    ((regS (repAt 0x8000000000000000 65535) 17).toNat ≤ 65535 ∧ 0 < (regS (repAt 0x8000000000000000 65535) 17).toNat ∧
      Runs (repAt 0x8000000000000000 65535) [.s 17] [] ∧ Runs b0 [] [] ∧ (0 : BitVec 12).toNat = 0) ∧
    ((fetchWords b0 b0.core.issue.nb 13).toOption = some [0x8000000000000000] ∧
      (∀ l : Fin 3, b0.core.arch.loops[l].act = false) ∧
      (∀ w ∈ [0x8000000000000000], ¬(assigned (bits w 56 49) = true ∧ classOf (bits w 56 49) = .b)) ∧
      (checkWords b0.die.feat [0x8000000000000000]).toOption.isSome = true) ∧
    (assigned (bits 0x8080000000000001 56 49) = true ∧ classOf (bits 0x8080000000000001 56 49) = .b ∧
      (fetchWords (st 0x8080000000000001) 0 13).toOption = some [0x8080000000000001]) ∧
    ((fetchWords (st 0x8074000000000000) 0 13).toOption = some [0x8074000000000000] ∧
      assigned (bits 0x8074000000000000 56 49) = false ∧ (checkWords b0.die.feat [0x8074000000000000]).toOption = none) := by
  unfold Runs; decide +kernel

/-- Iteration k of a repeat of 3 has issued. -/
def repeating (k : BitVec 16) : Prop :=
  let s : State := ba fun a => { a with rpc := ⟨k, 3, true, 0, 0⟩ }
  s.core.arch.rpc.act = true ∧ s.core.issue.taken = false ∧ s.core.issue.finished = false ∧ s.core.arch.inflight = []

/-- The target cannot be fetched; and a repeat of 3 stands at its second and at its last iteration. -/
theorem witness_RepeatPrefix_end :
    ((fetchWords b0 (2 ^ 30) 13).toOption = none ∧ Runs (bc fun c => { c with issue := { c.issue with nb := 2 ^ 30 } }) [] []) ∧
    (repeating 1 ∧ repeating 2) ∧
    (1 : BitVec 16).toNat + 1 < (3 : BitVec 16).toNat ∧ (3 : BitVec 16).toNat ≤ (2 : BitVec 16).toNat + 1 := by
  unfold Runs; exact ⟨by decide, ⟨⟨rfl, rfl, rfl, rfl⟩, ⟨rfl, rfl, rfl, rfl⟩⟩, by decide, by decide⟩

/-- The sustained account of the bundle before has weight n. -/
def occupied (n : Nat) : State := bc fun c => { c with occ := [(3, n)] }

/-- S.ADD of three registers, under a guard. -/
def stepped (d a b : SReg) (g : Bool) : Nat := encode ⟨true, false, g, 0⟩ (.sAdd d a b)

/-- S.ADD weighs 1: beside an account of 239 it is the target of a repeat, and beside 240 it is not. -/
theorem witness_RepeatPrefix_weight :
    ([239, 240].map fun n => (checkWords b0.die.feat [stepped 20 10 11 false]).toOption.map fun l =>
      decide (decodeLimit (occupied n) < weightSum l + sustained (occNext (occupied n).core.occ))) = [some false, some true] ∧
    Runs (occupied 240) [] [] ∧ (fetchWords (st (stepped 20 10 11 false)) 0 13).toOption = some [stepped 20 10 11 false] := by
  unfold Runs; decide +kernel

/-- Iteration 1 of a repeat that raises D by one. -/
def iterating (w : Nat) : State :=
  let s := st w
  { s with core := { s.core with arch := { s.core.arch with rpc := ⟨1, 3, true, 1, 1⟩ } } }

/-- D raised to s55 or past it, and untouched by the mask; the bundle of an iteration with D raised, and with D past the
allotment under a false guard. -/
theorem witness_RepeatPrefix_step :
    (∀ w ∈ [stepped 54 10 11 false, stepped 55 10 11 false], w < 2 ^ 64 ∧ (usesOf (bits w 56 49) (bits w 48 44)).d = .wr ∧
      fmtOf (bits w 56 49) = .a) ∧
    ([stepped 54 10 11 false, stepped 55 10 11 false].map fun w => (w / 2 ^ 37 % 128, decide (55 < w / 2 ^ 37 % 128 + 1))) =
      [(54, false), (55, true)] ∧
    (∀ w ∈ [stepped 20 10 11 false, stepped 55 10 11 true], (iterating w).core.arch.rpc.act = true ∧
      (fetchWords (iterating w) 0 13).toOption = some [w] ∧ (bundleAt (iterating w) 0).toOption.isSome = true) ∧
    (guardTrue (iterating 0) (frameOf (stepped 55 10 11 true)) = false ∧
      (stepWord (curKernel b0) 1 1 (stepped 55 10 11 true)).toOption = none ∧
      (stepWord (curKernel b0) 1 1 (stepped 20 10 11 false)).toOption = some (stepped 21 10 11 false)) := by decide +kernel

theorem witness_SoftwareTrap : oneSyllable (st 0xA0A8000000000007) (fun s x => x.instr == .bTrap 7 && !guardTrue s x.frame) = true := by
  decide +kernel

/-- The strand is strand 2 of crew 3, whose members are strands 0 to 2. -/
def crewed3 (f : Crew → Crew) (s : State) : State :=
  { s with
    core := { s.core with crewid := 3, strandid := 2 }
    die := { s.die with crews := s.die.crews.set 3 (f { Crew.start with memb := 7 }) } }

/-- Queue 5 is usable by partition 0, with n places reserved. -/
def queue5 (n : Nat) : State := bd fun d => { d with queues := d.queues.set 5 ⟨0x10, 0, [], [], 0, n, 0⟩ }

/-- Loop level 0 is active; the bundle runs in a handler if h. -/
def looping (h : Bool) : State :=
  bc fun c => { c with hnd := h, arch := { c.arch with loops := c.arch.loops.set 0 ⟨0, true, false, 0, false, 0, 8⟩ } }

theorem witness_SuspensionPointsAndTraps_run : Runs b0 [] [] ∧ Runs b0 [.s 16] [] ∧ Runs b0 [.s 16, .s 17] [] ∧
    Runs b0 [.s 20, .s 17, .s 21] [] ∧ (¬∃ l : Fin 3, b0.core.arch.loops[l].act = true) ∧
    ((crewed3 id b0).core.crewid ≠ 0xFF ∧
      rvzBad (crewOf (crewed3 id b0) (crewed3 id b0).core.crewid.toNat).rvz[(15 : Fin 16)] (strandNum (crewed3 id b0).core) 4 = false ∧
      Runs (crewed3 id b0) [.s 17] []) ∧
    (queueUsable (queue5 31).die (partNum (queue5 31)) 5 = true ∧ queueRoom (queue5 31).die 5 = true ∧ Runs (queue5 31) [.s 17] []) ∧
    (let s : State := bd fun d => { d with recv := d.recv.set 15 (some ⟨64, 1, [], false, false, 0⟩) }
     s.die.recv[(15 : Fin 16)].isSome = true ∧ Runs s [.s 17] []) ∧
    ((watchAt (br 20 0x80000) ((regS (br 20 0x80000) 20).toNat % 2 ^ 56)).toOption = some 0x80000 ∧
      Runs (br 20 0x80000) [.s 20, .s 17, .s 21] []) ∧
    (Runs (looping false) [.s 17] [] ∧ Runs (looping false) [] [] ∧ (looping false).core.hnd = false ∧
      ∃ l : Fin 3, (looping false).core.arch.loops[l].act = true) ∧
    (looping true).core.hnd = true ∧ Runs (looping true) [] [] := by
  unfold Runs; decide +kernel

theorem witness_SuspensionPointsAndTraps_trap : b0.core.crewid = 0xFF ∧ Runs b0 [.s 17] [] ∧
    (rvzBad (crewOf (crewed3 id b0) 3).rvz[(0 : Fin 16)] (strandNum (crewed3 id b0).core) 3 = true ∧ Runs (crewed3 id b0) [.s 17] []) ∧
    queueUsable b0.die (partNum b0) 5 = false ∧
    (queueUsable (queue5 32).die (partNum (queue5 32)) 5 = true ∧ queueRoom (queue5 32).die 5 = false ∧ Runs (queue5 32) [.s 17] []) ∧
    b0.die.recv[(15 : Fin 16)] = none ∧
    ((regS (br 20 4) 20).toNat % 2 ^ 56 % 8 ≠ 0 ∧ Runs (br 20 4) [.s 20, .s 17, .s 21] []) ∧
    (watchAt (br 20 0x7FFF8) 0x7FFF8).toOption = none ∧ (watchAt (br 20 (2 ^ 30)) (2 ^ 30)).toOption = none := by
  unfold Runs; decide +kernel

theorem witness_SuspensionCommits : trapInFlight (settleAsOf b0).core.arch = none ∧
    errTag (settleAsOf b0).core (2 ^ 64 - 1) = none ∧ matrixPending (settleAsOf b0).core = false ∧
    ((settleAsOf b0).core.arch.inflight.any fun e => lateResult e.land) = false ∧
    b0.core.record = some { Record.zero with kid := 1, crew := 0xFF } ∧ enginesDone b0.core = true ∧ b0.core.stampWait = false ∧
    errTag b0.core (2 ^ 64 - 1) = none ∧ lateSuspTrap b0 (.yield 5) = none ∧ b0.die.earliest < b0.die.earliest + 1 ∧
    natOf ((List.range 8).map fun k => performedByte b0.die (0x80000 + k)) = (0 : Word).toNat ∧ crewed b0.core = false ∧
    crewed (crewed3 id b0).core = true := by decide +kernel

/-- Crew 0xFF, STG 0 and no pin: the bytes of a record that B.SPAWN accepts, at 64 of the scratchpad. -/
def recordAt64 : State :=
  let s := queue5 0
  { s with core := { s.core with
      arch := { s.core.arch with s := s.core.arch.s.set 17 64 }, spad := [(88, 1), (94, 0xFF)] } }

theorem witness_CheckpointsAndSpawns : Runs b0 [] [] ∧ matrixPending b0.core = false ∧
    (Runs (crewed3 id b0) [] [.s 23] ∧ (crewed3 id b0).core.crewid ≠ 0xFF ∧
      (crewOf (crewed3 id b0) 3).memb.toNat.testBit (strandNum (crewed3 id b0).core) = true) ∧
    (b0.core.crewid = 0xFF ∧ Runs b0 [] [.s 23]) ∧
    (Runs (crewed3 (fun w => { w with memb := 3 }) b0) [] [.s 23] ∧
      (crewOf (crewed3 (fun w => { w with memb := 3 }) b0) 3).memb.toNat.testBit
        (strandNum (crewed3 (fun w => { w with memb := 3 }) b0).core) = false) ∧
    (Runs recordAt64 [.s 17] [] ∧ ∃ b, loadAt recordAt64 64 64 [64] = .got [.spad 64 64] b none ∧
      spadStall recordAt64.core false [(64, 64)] = none ∧ spawnTrap recordAt64 5 (recordOf b) = none) ∧
    (∃ b, loadAt recordAt64 64 64 [64] = .got [.spad 64 64] b none ∧
      (spawnTrap recordAt64 6 (recordOf b)).isSome = true) ∧
    (Runs (br 17 4) [.s 17] [] ∧ (loadAt (br 17 4) 64 64 [4]).fault.isSome = true) := by
  unfold Runs
  refine ⟨by decide, by decide, by decide, by decide, by decide, ⟨by decide, _, rfl, by decide, by decide⟩, ⟨_, rfl, by decide⟩,
    by decide⟩

/-- s11 holds 2^k, and tag k is as given. -/
def tagAt (k : Fin 64) (t : TagSt) : State :=
  bc fun c => { c with arch := { c.arch with s := c.arch.s.set 11 (BitVec.ofNat 64 (2 ^ k.val)) }, tags := c.tags.set k t }

/-- A tag whose command is held by the segment: a copy. -/
def heldCopy : CopyCmd :=
  ⟨1, .pref, Tensor.none, Tensor.none, 0, 0, 0, 0, 0, 0, [], 63, 0, ⟨[], [], [], []⟩, [], true, false, none, 0, 0, [], 0, [], [], [], none⟩

theorem witness_TagWaits :
    (∀ k ∈ ([0, 63] : List (Fin 64)),
      let idle := tagAt k TagSt.clear
      let done := tagAt k ⟨0, true, true, false, 0, 0, 0, []⟩
      let failed := tagAt k ⟨0, true, true, true, 20, 1, 0, []⟩
      let out := tagAt k ⟨1, false, true, false, 0, 0, 0, []⟩
      (Runs idle [.s 11] [.s 10] ∧ (regS idle 11).toNat.testBit k = true ∧ idle.core.tags[k].out = 0 ∧ idle.core.tags[k].done = false ∧
        idle.core.tags[k].err = false) ∧
      (Runs done [.s 11] [.s 10] ∧ done.core.tags[k].done = true ∧ done.core.tags[k].err = false ∧ heldTag done.core k = false ∧
        tagBits (·.done) done.core &&& regS done 11 ≠ 0 ∧ tagBits (·.done) done.core &&& regS done 11 = regS done 11) ∧
      (Runs failed [.s 11] [.s 10] ∧ failed.core.tags[k].done = true ∧ failed.core.tags[k].err = true ∧ heldTag failed.core k = false) ∧
      (Runs out [.s 11] [.s 10] ∧ Runs out [.s 11] [] ∧ out.core.tags[k].out ≠ 0 ∧ tagBits (·.done) out.core &&& regS out 11 = 0)) ∧
    heldTag { b0.core with copyq := [heldCopy] } 63 = true ∧ (∀ u : Fin 64, u < 63 → ¬(2 ^ 63 : Nat).testBit u = true) := by
  unfold Runs; decide +kernel

theorem witness_Groups : Runs b0 [.s 11] [.s 10] ∧ Runs b0 [.s 11, .s 12] [] ∧ Runs b0 [.s 11] [] ∧
    (15 < b0.die.ncrew ∧ ¬16 < b0.die.ncrew ∧ b0.core.crewid = 0xFF ∧ (crewed3 id b0).core.crewid ≠ 0xFF) ∧
    (BitVec.ofNat 8 (regS (br 12 0x101) 12).toNat ≠ 0 ∧ BitVec.ofNat 8 (regS (br 12 0x100) 12).toNat = 0) ∧
    Runs (br 12 0x101) [.s 11, .s 12] [] ∧ Runs (br 12 0x100) [.s 11, .s 12] [] ∧ Runs (crewed3 id (br 11 0xFF)) [.s 11, .s 12] [] := by
  unfold Runs; decide +kernel

/-- The kernel has a vector. -/
def vectored : State := bq fun p => { p with kernels := [{ placedKernel with vector := 0x100 }] }

theorem witness_TakingATrap : (rollback b0).core.retried = false ∧ (rollback (bc fun c => { c with retried := true })).core.retried = true ∧
    ((rollback b0).core.hnd = false ∧ vectorOf (rollback b0) = 0) ∧
    ((rollback vectored).core.hnd = false ∧ vectorOf (rollback vectored) ≠ 0) ∧
    (rollback (bc fun c => { c with hnd := true })).core.hnd = true ∧
    (Cause.check ≠ .demand ∧ (Cause.loop ≠ .demand ∧ Cause.loop ≠ .badcont ∧ Cause.loop ≠ .check ∧ Cause.loop ≠ .mirror ∧
      Cause.loop ≠ .uecc ∧ Cause.loop ≠ .queue)) ∧ Cause.loop.addrForm = false ∧ Cause.badtarget.addrForm = true ∧
    memOk b0.die.mem = true ∧ ¬ringed b0.die 64 := by unfold ringed; decide +kernel

/-! Vectors, special functions and memory. -/

/-- SHAPE of r rows, c columns and elements of 2^wb bytes. -/
def shaped (r c wb : Nat) : State := ba fun a => { a with shape := wordN (r + c * 2 ^ 16 + wb * 2 ^ 32) }

/-- Mask 1 has lane l alone. -/
def lane1 (l : Nat) (s : State) : State :=
  { s with core := { s.core with arch := { s.core.arch with m := s.core.arch.m.set 1 (BitVec.ofNat 256 (2 ^ l)) } } }

theorem witness_MaskedElements : (4 ∈ [1, 2, 4, 8] ∧ shCount b0 * 4 ≤ 1024) ∧
    (255 * 4 < 1024 ∧ 255 < shCount b0 ∧ (regM b0 0).toNat.testBit (255 * 4 / 4) = true) ∧
    ((shaped 3 5 2).core.arch.shape.toNat % 512 = 3 ∧ 254 * 4 < 1024 ∧ shCount (shaped 3 5 2) ≤ 15 ∧ 15 * 4 < 1024) ∧
    (0 < shCount b0 ∧ ¬(regM b0 1).toNat.testBit (0 * 4 / 4) = true ∧ (3 : VReg).val ≠ 31) ∧
    (2 ^ wbits b0.core.arch.shape 33 32 ≠ 8 ∧ (shapeTrap b0 8).isSome = true) ∧
    (2 ^ wbits (shaped 16 17 2).core.arch.shape 33 32 = 4 ∧
      ¬(wbits (shaped 16 17 2).core.arch.shape 8 0 * wbits (shaped 16 17 2).core.arch.shape 26 16 * 4 ≤ 1024)) ∧
    (2 ^ wbits (shaped 0 1 2).core.arch.shape 33 32 = 4 ∧ ¬(1 ≤ wbits (shaped 0 1 2).core.arch.shape 8 0)) ∧
    (2 ^ wbits b0.core.arch.shape 33 32 = 4 ∧ 1 ≤ wbits b0.core.arch.shape 8 0 ∧ wbits b0.core.arch.shape 8 0 ≤ 256 ∧
      1 ≤ wbits b0.core.arch.shape 26 16 ∧ wbits b0.core.arch.shape 26 16 ≤ 1024 ∧
      wbits b0.core.arch.shape 8 0 * wbits b0.core.arch.shape 26 16 * 4 ≤ 1024) := by decide +kernel

theorem witness_MaskedElements_trap : (shapeTrap b0 EType.i64.width).isSome = true ∧
    Runs b0 [.v 4, .v 5, .m 1] [.v 3] (mergeRead b0 8 ⟨1, false, .rne, false⟩ 3) :=
  ⟨by decide +kernel, witness_Runs _ _ _ (by decide)⟩

/-- A syllable of each type finds SHAPE fit for it, and runs. -/
theorem witness_VectorArithmetic : shapeTrap b0 EType.f32.width = none ∧ shapeTrap b0 EType.i32.width = none ∧
    shapeTrap (shaped 256 4 0) EType.i8.width = none ∧ shapeTrap (shaped 1 512 1) EType.bf16.width = none ∧
    shapeTrap (shaped 128 1 3) EType.i64.width = none ∧ EType.i32.isInt = true ∧ EType.f32.isInt = false ∧
    (EType.f32.val 0x7FC00000).isNan = true := by decide +kernel
theorem witness_VectorArithmetic_runs (m : VMod) (w : Nat) : Runs b0 ([.v 27, .v 0] ++ [.m m.mask]) [.v 3] (mergeRead b0 w m 3) ∧
    Runs b0 ([.v 4, .s 55, .v 6] ++ [.m m.mask]) [.v 3] (mergeRead b0 w m 3) ∧ Runs b0 ([.v 4] ++ [.m m.mask]) [.v 3] (mergeRead b0 w m 3) :=
  ⟨witness_Runs _ _ _ rfl, witness_Runs _ _ _ rfl, witness_Runs _ _ _ rfl⟩
theorem witness_VectorBitsAndMoves (m : VMod) : shapeTrap b0 4 = none ∧ Runs b0 ([.v 4, .s 55] ++ [.m m.mask]) [.v 3] (mergeRead b0 4 m 3) ∧
    Runs b0 ([.s 55] ++ [.m m.mask]) [.v 3] (mergeRead b0 4 m 3) :=
  ⟨by decide +kernel, witness_Runs _ _ _ rfl, witness_Runs _ _ _ rfl⟩

theorem witness_VectorMasksAndElements : shapeTrap b0 4 = none ∧ Runs b0 [.v 4, .v 5] [.m 3] ∧ Runs b0 [.v 4, .v 5, .m 6] [.v 3] ∧
    (shCount b0 ≤ ((regS (br 11 251) 11).toNat + (5 : BitVec 9).toNat) % 1024 ∧ Runs (br 11 251) [.v 4, .s 10, .s 11] [.v 3]) ∧
    (((regS (br 11 250) 11).toNat + (5 : BitVec 9).toNat) % 1024 < shCount b0 ∧ shCount b0 * 4 ≤ 1024 ∧
      Runs (br 11 250) [.v 4, .s 10, .s 11] [.v 3]) ∧
    (1024 ≤ 4 * (((regS (br 11 251) 11).toNat + (5 : BitVec 9).toNat) % 1024) ∧ Runs (br 11 251) [.v 4, .s 11] [.s 10] [] [.v 4] ∧
      Runs (br 11 250) [.v 4, .s 11] [.s 10] [] []) ∧
    Runs b0 [.m 3] [.s 10] ∧ Runs b0 [.v 4] [.m 3] ∧ Runs b0 [.m 3, .m 4] [.m 5] := by
  unfold Runs; decide +kernel
theorem witness_Reductions : shapeTrap b0 4 = none ∧ Runs b0 [.v 4, .m 3] [.v 3] ∧
    (∀ o ∈ [(none : Option Nat), none], o = none) :=
  ⟨by decide +kernel, witness_Runs _ _ _ rfl, by decide⟩
theorem witness_VectorConversions : shapeTrap b0 EType.f32.width = none ∧ shapeTrap b0 4 = none ∧
    shapeTrap (shaped 256 4 0) 1 = none ∧ Runs b0 [.v 4, .m 0] [.v 3] [] ∧ Runs b0 [.v 4, .m 1] [.v 3] [.v 3] ∧ Runs b0 [.v 4, .m 3] [] ∧
    (0 < 8192 / 32 ∧ 0 < shCount b0 ∧ (regM b0 1).toNat.testBit 0 = false ∧ (regM b0 0).toNat.testBit 255 = true) :=
  ⟨by decide +kernel, by decide +kernel, by decide +kernel, witness_Runs _ _ _ rfl, witness_Runs _ _ _ rfl, witness_Runs _ _ _ rfl,
    by decide +kernel⟩

/-- A word of a private level whose ECC cannot be corrected. -/
def badWord (level off : Nat) : State := bc fun c => { c with ueccMem := [(level, off)] }

theorem witness_SpecialFunctions : Runs b0 [.v 4] [] ∧ Runs b0 [] [.v 3] ∧ ueccWord b0.core 6 3072 1024 = none ∧ shapeTrap b0 4 = none ∧
    ((ueccWord (badWord 6 3072).core 6 (1024 * 3) 1024).isSome = true ∧ Runs (badWord 6 3072) [] [.v 3]) ∧
    ((ueccWord (badWord 6 4088).core 6 (1024 * 3) 1024).isSome = true) ∧ (1 ≠ 0 ∧ 0 < 1 ∧ 2047 < 2048) := by
  unfold Runs; decide +kernel

/-- v4 holds an infinity in word 3 of lane 2. -/
def infinite : State := ba fun a => { a with v := a.v.set 4 (BitVec.ofNat 8192 (0x7F800000 * 2 ^ (32 * 9))) }
/-- Port v29 holds n records. -/
def geoFull (n : Nat) : State := bc fun c => { c with geo := List.replicate n ⟨[], [], 0, 0, false, false, true⟩ }

theorem witness_GeometricPredicates : geoUsed b0.core < 8 ∧ (geoUsed (geoFull 7).core < 8 ∧ 8 ≤ geoUsed (geoFull 8).core) ∧
    Runs (geoFull 8) [.v 4, .v 5, .v 6, .m 1] [] ∧ Runs b0 [.v 4, .v 5, .v 6, .m 1] [] ∧
    ((regM (lane1 2 infinite) 1).toNat.testBit 2 = true ∧
      (f32.val (elem (regV (lane1 2 infinite) 4) 4 (4 * 2 + 1))).isFin = false ∧ (f32.val (elem (regV b0 4) 4 9)).isFin = true ∧
      (∀ k < 2, (regM (lane1 2 infinite) 1).toNat.testBit k = false) ∧ Runs (lane1 2 infinite) [.v 4, .v 5, .v 6, .m 1] []) ∧
    Runs b0 [.v 4, .s 10] [.v 3] ∧ (∀ n ∈ [0, 7], ((geoFull 8).core.geo[n]?).map GeoRec.ready = some false) ∧
    ((geoFull 8).core.geo.takeWhile (·.ready)).all (·.counted) = true ∧ (∃ y ∈ (geoFull 8).core.geo.take 7, y.ready = false) ∧
    ((∀ y ∈ (geoFull 8).core.geo.take 0, y.ready = true) ∧
      ∀ y ∈ (geoFull 8).core.geo.take 1 ++ ((geoFull 8).core.geo.drop 1).takeWhile (·.ready), y.counted = false) := by
  unfold Runs; decide +kernel

theorem witness_LatticeOperations : shapeTrap b0 4 = none ∧ Runs b0 [.v 4] [.s 10] ∧ Runs b0 [.v 4, .s 10] [.v 3] ∧ Runs b0 [] [.s 10] ∧
    (9 < shCount b0 ∧ (f32.val (elem (regV infinite 4) 4 9)).isFin = false ∧ shapeTrap infinite 4 = none) ∧
    (∀ e < 16, (f32.val (elem (regV b0 4) 4 e)).isFin = true ∧ (f32.val (elem (regV b0 4) 4 e)).isZero = true) ∧
    b0.core.issue.dup = false ∧ (bc fun c => { c with issue := { c.issue with dup := true } }).core.issue.dup = true := by
  unfold Runs; decide +kernel

/-- A load has its bytes, meets no error, and waits for no footprint. -/
def free (s : State) : Loaded → Bool
  | .got ps _ none => (spadStall s.core false (spadRanges ps)).isNone
  | .got _ _ (some _) => false
  | .trap _ => false
/-- A load has its bytes and waits for a footprint. -/
def stalls (s : State) : Loaded → Bool
  | .got ps _ none => (spadStall s.core false (spadRanges ps)).isSome
  | .got _ _ (some _) => false
  | .trap _ => false
/-- A store has its pieces; what then stands: neither a limit nor a footprint, a limit, or a footprint alone. -/
def stored (s : State) : Stored → Option (Bool × Bool)
  | .at' ps => some ((storeLimit s.core (spadRanges ps) (sharedBytes ps)).isSome, (spadStall s.core true (spadRanges ps)).isSome)
  | .trap _ => none

/-- A copy is entered that reads and writes the first 1,024 bytes of the scratchpad, held by the segment or not. -/
def copying (held : Bool) : State :=
  bc fun c => { c with copyq := [{ heldCopy with foots := [⟨0, 1024, true⟩], held := held }] }

theorem witness_Loads : free b0 (loadAt b0 8 8 [0x7FFF8]) = true ∧ free b0 (loadAt b0 16 16 [0x7FFF0]) = true ∧
    free b0 (loadAt b0 64 1024 [0x7FC00]) = true ∧ free b0 (loadAt b0 64 64 [0, 64]) = true ∧
    free b0 (loadAt b0 8 8 [0x80000]) = true ∧ stalls (copying false) (loadAt (copying false) 8 8 [1016]) = true ∧
    free (copying false) (loadAt (copying false) 8 8 [1024]) = true ∧
    (loadAt b0 8 8 [0x7FFFC]).fault = some (memTrap 1) ∧ (loadAt b0 64 1024 [0x7FC40]).fault = some (memTrap 2) ∧
    (loadAt (copying true) 8 8 [0]).fault.isSome = true ∧ (loadAt b0 8 8 [2 ^ 30]).fault = some { cause := .absent, addr := 2 ^ 30 } ∧
    Runs b0 [.s 10] [.s 11] ∧ Runs b0 [.s 10] [.s 54, .s 55] ∧ Runs b0 [.s 10] [.v 27] ∧ Runs b0 [.s 10, .s 11] [.v 3] ∧
    Runs b0 [.s 10] [.s 11, .p 15] ∧ Runs (copying false) [.s 10] [.s 11] ∧ Cause.absent ∈ [Cause.memory, .absent, .noread, .badpte, .ptue, .demand] ∧
    (0x7FFF8 < 0x80000 ∧ 0x7FFF8 % 8 = 0 ∧ 0x7FFF8 + 8 ≤ 0x80000 ∧ heldTrap b0.core false [(0x7FFF8, 8)] = none) := by
  unfold Runs; decide +kernel

/-- t0 names a tensor compressed to 64 bytes a block, at 0x2000 of the scratchpad. -/
def compressed : State := bc fun c => { c with spad := [(1, 0x20), (10, 1), (11, 0xFF), (57, 0x10)] }

theorem witness_Loads_block : tensorStall compressed 0 = none ∧ free compressed (expandLoad compressed 0 0) = true ∧
    Runs compressed [.s 10] [.v 3] := by unfold Runs; decide +kernel

/-- s10 holds x, and lane 3 alone is enabled. -/
def gather (x : Word) : State := lane1 3 (br 10 x)

theorem witness_GatherAndScatter : ((regM (gather 0x7FFFC) 1).toNat.testBit 3 = true ∧
      ((regS (gather 0x7FFFC) 10).toNat + elem (regV (gather 0x7FFFC) 5) 4 3) % 2 ^ 56 = 0x7FFFC ∧ 0x7FFFC % 4 = 0 ∧ 0x7FFFC < 0x80000 ∧
      heldTrap (gather 0x7FFFC).core false [(0x7FFFC, 4)] = none ∧ spadStall (gather 0x7FFFC).core true [(0x7FFFC, 4)] = none ∧
      ueccPieces (gather 0x7FFFC) [.spad 0x7FFFC 4] = none ∧ storeLimit (gather 0x7FFFC).core [(0x7FFFC, 4)] 0 = none ∧
      Runs (gather 0x7FFFC) [.s 10, .v 5, .m 1] [.v 3] ∧ Runs (gather 0x7FFFC) [.s 10, .v 5, .v 6, .m 1] []) ∧
    ((∀ k < 3, (regM (gather 0x80000) 1).toNat.testBit k = false) ∧
      ((regS (gather 0x80000) 10).toNat + elem (regV (gather 0x80000) 5) 4 3) % 2 ^ 56 = 0x80000 ∧
      Runs (gather 0x80000) [.s 10, .v 5, .m 1] [.v 3] ∧ Runs (gather 2) [.s 10, .v 5, .v 6, .m 1] [] ∧
      ((regS (gather 2) 10).toNat + elem (regV (gather 2) 5) 4 3) % 2 ^ 56 % 4 ≠ 0) := by unfold Runs; decide +kernel

/-- The segment has stored n bytes of shared memory and written the first m lines of the scratchpad. -/
def stores (n m : Nat) : State := bc fun c => { c with
  seg := { c.seg with bytes := n }, undo := (List.range m).map fun k => (64 * k, []) }

theorem witness_Stores : stored b0 (storeAt b0 8 8 [0x7FFF8]) = some (false, false) ∧ stored b0 (storeAt b0 64 1024 [0x80000]) = some (false, false) ∧
    stored b0 (storeAt b0 1 1024 [0x7FC00]) = some (false, false) ∧ stored b0 (storeAt b0 64 64 [0, 128]) = some (false, false) ∧
    stored (stores 16376 0) (storeAt (stores 16376 0) 8 8 [0x80000]) = some (false, false) ∧
    stored (stores 16384 0) (storeAt (stores 16384 0) 8 8 [0x80000]) = some (true, false) ∧
    stored (copying false) (storeAt (copying false) 8 8 [0]) = some (false, true) ∧
    (storeAt b0 8 8 [4]).fault = some (memTrap 1) ∧ (storeAt b0 8 8 [2 ^ 30]).fault = some { cause := .absent, addr := 2 ^ 30, arg := 1 } ∧
    (storeAt (copying true) 8 8 [0]).fault.isSome = true ∧ Runs b0 [.s 10, .s 11] [] ∧ Runs b0 [.s 10, .s 54, .s 55] [] ∧
    Runs b0 [.s 10, .v 5] [] ∧ Runs b0 [.s 10, .v 5, .v 6] [] ∧ Runs b0 [.s 10, .v 5, .s 11] [] ∧ Runs b0 [.s 10, .s 11] [.p 15] ∧
    Runs b0 [.s 10] [] ∧ Runs (stores 16384 0) [.s 10, .s 11] [] ∧ Runs (copying false) [.s 10, .s 11] [] ∧
    Cause.nowrite ∈ [Cause.memory, .absent, .nowrite, .badpte, .ptue, .demand] := by unfold Runs; decide +kernel

/-- The limit of lines: 511 written allow one more, 512 do not; a line written already is not counted again. -/
theorem witness_Stores_lines : (storeLimit (stores 0 511).core [(0x7FFC0, 8)] 0).isNone = true ∧
    (storeLimit (stores 0 512).core [(0x7FFC0, 8)] 0).isSome = true ∧ (storeLimit (stores 0 512).core [(0, 8)] 0).isNone = true ∧
    (memOk b0.core.spad = true ∧ [(5 : Byte)].length = 1 ∧ b0.core.undo.any (fun u => u.1 == 64 * 8191) = false ∧
      0x7FFFF / 64 ≤ 8191 ∧ 8191 ≤ (0x7FFFF + 1 - 1) / 64) := by decide +kernel

theorem witness_StoreFrame : memOk b0.core.spad = true ∧ status (exec (.mSt .i64 10 11 0) b0) = some .ok ∧
    status (exec (.mVst 10 5 0) b0) = some .ok ∧ status (exec (.mGst .i32 10 11 3 0) b0) = some .ok ∧
    status (exec (.mVscat 10 5 6 1) (gather 0x7FFFC)) = some .ok ∧ status (exec (.mSt .i64 10 11 0) (br 10 0x80000)) = some .ok := by
  decide +kernel

theorem witness_OrderingAccesses : (orderAt b0 .atom 8 0x80000).toOption = some 0x80000 ∧ storeLimit b0.core [] 8 = none ∧
    storeLimit (stores 16376 0).core [] 8 = none ∧ (orderAt b0 .rd 1 0x80001).toOption = some 0x80001 ∧ (orderAt b0 .wr 4 0x3FFFFFFC).toOption = some 0x3FFFFFFC ∧
    (orderAt b0 .atom 8 (2 ^ 30)).toOption = none ∧ (4 % 8 ≠ 0 ∧ 0x7FFF8 % 8 = 0 ∧ 0x7FFF8 < 0x80000) ∧
    Runs (br 10 0x80000) [.s 10, .s 11] [.s 12] ∧ Runs b0 [.s 10, .s 11, .s 13] [.s 12] ∧ Runs b0 [.s 10] [.s 12] ∧ Runs b0 [.s 10, .s 11] [] ∧
    Runs b0 [] [] ∧ memOk b0.die.mem = true ∧ (∀ n ∈ [4, 8], ueccShared b0.die 0x80000 n = none) ∧
    (∀ k < 8, ¬ringed b0.die (0x80000 + k)) ∧ (ueccShared { b0.die with ueccLines := [0x80000] } 0x8003C 4).isSome = true ∧
    (ueccShared { b0.die with ueccLines := [0x80000] } 0x80040 4).isNone = true ∧
    (ba fun a => { a with inflight := [⟨119, .ordPend 12 1⟩] }).core.arch.inflight = [⟨119, .ordPend 12 1⟩] := by
  unfold Runs ringed; decide +kernel

/-- The leaf of page 0 has STAMP set, the page 0x80000 is in the table of stamped pages, and the clock has passed e picoseconds. -/
def stamped (e : Nat) : State := bd fun d => { d with
  mem := memSetN d.mem 0xFFA800 (bytesOf 8 0x19F), stampPages := [0x80000 / 0x4000], earliest := e, latest := e + 1000 }

/-- The bound of age, the horizon of 2,000 microseconds, is met at exactly 2·10^9 and passed one later. -/
theorem witness_StampedAccesses : (stampAt (stamped 0) .wr 8 0x80000).toOption = some 0x80000 ∧ (stampAt (stamped 0) .wr 8 0x80004).toOption = none ∧
    storeLimit (stamped 0).core [] 8 = none ∧ Runs (stamped 0) [.s 10, .s 11] [.s 12] ∧ Runs (clk 1001) [.s 10, .s 11] [.s 12] ∧
    ¬(stamped 0).die.clkw.toNat < (stamped 0).die.latest - (stamped 0).die.earliest ∧
    (clk 1001).die.clkw.toNat < (clk 1001).die.latest - (clk 1001).die.earliest ∧
    ((stampAt (stamped 2000000001) .rd 8 0x80000).toOption = some 0x80000 ∧ Runs (stamped 2000000001) [.s 10, .s 11] [.s 12] ∧
      (regS (stamped 2000000001) 11).toNat + (stamped 2000000001).die.horizon.toNat * 10 ^ 6 < (stamped 2000000001).die.earliest) ∧
    ¬((regS (stamped 2000000000) 11).toNat + (stamped 2000000000).die.horizon.toNat * 10 ^ 6 < (stamped 2000000000).die.earliest) ∧
    (let c := { (stamped 0).core with held := [Held.sts 0x80008 [1] 0] }
     c.held = [Held.sts 0x80008 [1] 0] ∧ 0x80008 / 64 = 0x80000 / 64 ∧ 0 ≤ (regS (stamped 0) 11).toNat) := by
  unfold Runs; decide +kernel

/-! Engines. -/

/-- The bytes of a tensor entry without scales (spec/05 R89). -/
def entry (base fmt planes cmp rows cols stride raw : Nat) : List Byte :=
  bytesOf 8 base ++ bytesOf 1 fmt ++ bytesOf 1 planes ++ bytesOf 1 cmp ++ [0xFF] ++ bytesOf 4 rows ++ bytesOf 4 cols ++ bytesOf 4 0
    ++ bytesOf 8 stride ++ bytesOf 16 0 ++ bytesOf 8 cols ++ bytesOf 8 raw

/-- t0 and t1 have these entries, at 0 and 64 of the scratchpad. -/
def tensors (x y : List Byte) : State := bc fun c => { c with spad := memSetN (memSetN [] 0 x) 64 y }
/-- Planar operands of 2 and 3 rows of 512 elements in the scratchpad. -/
def planar : State := tensors (entry 0x1000 0 8 0 2 512 512 0) (entry 0x2000 0 8 0 3 512 512 0)
/-- Two tensors of 2 rows of 4 words, of the scratchpad and of shared memory. -/
def words : State := tensors (entry 0x1000 4 0 0 2 4 16 0) (entry 0x80000 4 0 0 2 4 16 0)

/-- A request of the matrix engine that the queue and the scoreboard take. -/
def fitting (s : State) : Except Trap MatReq → Bool
  | .ok r => !heldClash s.core r.banks r.foots && (matqFull s.core).isNone && (boardStall s.core r.foots).isNone
  | .error _ => false

/-- The matrix queue has n commands of tile 0, held by the segment or not. -/
def queued (n : Nat) (held : Bool) : State := bc fun c => { c with
  matq := (List.range n).map fun k => ⟨k, .aclr false, 0, 0, 0, ⟨[], [], [], []⟩, [], held, true, false, false, none, 0⟩ }
/-- The pair's engine in a mode. -/
def modeIs (m : Fin 4) : State := bd fun d => { d with engines := d.engines.set 0 { Engine.reset with mode := m } }

theorem witness_MatrixCommandsAndPorts : (entryLate planar 0 = false ∧ entryLate planar 1 = false ∧
      fitting planar (mmaReq planar true 3 0 1) = true ∧ fitting planar (mmaReq planar false 3 0 1) = true) ∧
    ((mmaReq b0 true 0 0 1).toOption.isNone = true ∧ bankOf b0 3 = some 3 ∧ bankOf b0 4 = none ∧ Runs b0 [] []) ∧
    (fitting b0 (.ok ⟨.aclr true, 3, []⟩) = true ∧ fitting b0 (.ok ⟨.amov 2, 3, []⟩) = true ∧
      fitting (queued 7 false) (.ok ⟨.aclr true, 3, []⟩) = true ∧ fitting (queued 8 false) (.ok ⟨.aclr true, 3, []⟩) = false) ∧
    ((engineOf (modeIs 1)).mode.val < 2 ∧ (∀ m ∈ (queued 7 false).core.matq, m.held = false) ∧
      (∀ m ∈ (queued 7 false).core.dq, m.op.isPp = true → m.held = false) ∧ matqFull (queued 7 false).core = none ∧
      2 ≤ (engineOf (modeIs 2)).mode.val ∧ Runs (modeIs 2) [] []) ∧
    (fenceWaits b0.core = false ∧ fenceWaits (queued 1 false).core = true ∧ Runs (queued 1 false) [] []) := by
  unfold Runs; decide +kernel

theorem witness_MatrixCommandsAndPorts_move : entryLate words 0 = false ∧ wbits words.core.arch.mg[1] 63 32 = 0 ∧
    (readTensor words 0).toOption.map (fun x => (x.fmt, x.planes, (tileRows x 0 0).2)) = some (4, 0, 16) ∧
    (readTensor words 1).toOption.map (fun x => ((loadRows words 16 (tileRows x 0 0).1).toOption.isSome, rowsUecc words 16 (tileRows x 0 0).1))
      = some (true, none) ∧
    (readTensor words 0).toOption.map (fun x => fitting words (.ok ⟨.asave x 5 0 0, 0, tileFoots x 0 0 true⟩)) = some true ∧
    words.core.seg.cmds < 64 ∧ Runs words [] [] := by unfold Runs; decide +kernel

theorem witness_MatrixCommandsAndPorts_ports : (bankOf b0 4 = none ∧ Runs b0 [.s 10] [.v 3] ∧ Runs b0 [.v 4, .s 10] []) ∧
    (bankOf b0 3 = some 3 ∧ bankHeld b0.core [3] = false ∧ tileBusy b0 3 = false ∧ tileUecc b0.core 3 = none) ∧
    (bankHeld (queued 1 false).core [0] = false ∧ bankOf (queued 1 false) 0 = some 0 ∧ tileBusy (queued 1 false) 0 = true ∧
      tileUecc (queued 1 false).core 0 = none ∧ Runs (queued 1 false) [.s 10] [.v 3] ∧ Runs (queued 1 false) [.v 4, .s 10] []) := by
  unfold Runs; decide +kernel

/-- One matrix command stands at the head of the queue. -/
def headIs (op : MatOp) (running mirrored : Bool) : State := bc fun c => { c with
  matq := [⟨5, op, 1, 1, 0, ⟨[], [], [], []⟩, [], false, false, running, mirrored, none, 0⟩] }

theorem witness_MatrixResults : ((matHead (headIs (.aclr true) false false).core).map (mayStart (headIs (.aclr true) false false)) = some true ∧
      (matHead (headIs (.aclr true) true false).core).map (mayStart (headIs (.aclr true) true false)) = some false) ∧
    ((matHead (headIs (.mode true) false false).core).map MatCmd.op = some (.mode true) ∧
      (headIs (.mode true) false false).core.matq.all (fun x => 5 ≤ x.serial) = true ∧
      ((partner (headIs (.mode true) false false)).map fun c => c.matq.length) = some 0) ∧
    ((matHead (headIs (.mirr true) true true).core).map (fun m => (m.running, m.parked, m.mirrored)) = some (true, none, true)) ∧
    ((matHead (headIs (.amov 0) true false).core).map (fun m => matUecc (headIs (.amov 0) true false).core m
      (tilesRead (headIs (.amov 0) true false) m)) = some none) ∧
    ((matHead (headIs (.mma true Tensor.none Tensor.none 0 0 0) true false).core).map (fun m => (m.running, m.parked, m.mirrored)) =
      some (true, none, false) ∧ mgScm 0 = 0) := by decide +kernel

/-- A command of the matrix queue that is earlier than the mode switch, and tile 1 with uncorrectable ECC. -/
theorem witness_MatrixResults_waits :
    (let s : State := bc fun c => { c with matq := [⟨5, .mode true, 0, 0, 0, ⟨[], [], [], []⟩, [], false, false, false, false, none, 0⟩,
        ⟨4, .aclr true, 0, 0, 0, ⟨[], [], [], []⟩, [], false, false, false, false, none, 0⟩] }
     (matHead s.core).map MatCmd.serial = some 5 ∧ s.core.matq.any (fun x => x.serial < 5) = true) ∧
    (∀ n ∈ [4, 6], let s : State := { headIs (.mode true) false false with core := { (headIs (.mode true) false false).core with
        dq := [⟨n, .ppcfg 7, none, 0, ⟨[], [], [], []⟩, [], false, false, none, false, none, none, 0, 0, [], []⟩] } }
     (matHead s.core).map MatCmd.serial = some 5 ∧ s.core.dq.any (fun x => x.op.isPp && x.serial < 5) = decide (n < 5)) ∧
    (let s := headIs (.asave Tensor.none 3 0 0) true false
     let t := { headIs (.mma false Tensor.none Tensor.none 0 0 0) true false with core := { (headIs (.mma false Tensor.none Tensor.none 0 0 0) true false).core with
      ueccMem := [(7, 1)] } }
     s.core.matq.length = 1 ∧ (matHead t.core).bind (fun m => matUecc t.core m (tilesRead t m)) = some { cause := .uecc, detail := 7, arg := 1 }) := by
  decide +kernel

/-- t0 names a compressed tensor of one block, t1 two rows of column factors. -/
def outputs : State := tensors (entry 0x2000 0 0 1 1 256 256 0x3000) (entry 0x1000 7 0 0 2 256 1024 0)

/-- A request of the post-processing engine that the queues take. -/
def ppFits (s : State) : Except Trap (DOp × List Foot) → Bool
  | .ok r => (dqFull s.core).isNone && (boardStall s.core r.2).isNone && s.core.seg.cmds < 64
  | .error _ => false

/-- The segment has n engine commands. -/
def commands (n : Nat) (s : State) : State := { s with core := { s.core with seg := { s.core.seg with cmds := n } } }

/-- One command of the D queue, released. -/
def dHeadIs (op : DOp) : State := bc fun c => { c with
  dq := [⟨5, op, none, 0, ⟨[], [], [], []⟩, [], false, false, none, false, none, none, 0, 0, [], []⟩] }

theorem witness_Postprocessing : (entryLate words 0 = false ∧ ppFits words (ppReq words false 3 0 1 ⟨.relu, false, .rtz, true⟩) = true ∧
      ppFits (commands 63 words) (ppReq words false 3 1 1 ⟨.none, false, .rne, false⟩) = true ∧ Runs words [] []) ∧
    (entryLate outputs 0 = false ∧ entryLate outputs 1 = false ∧
      ppFits outputs (ppReq outputs true 3 0 1 ⟨.clip, true, .rne, true⟩) = true ∧ Runs outputs [] []) ∧
    ((ppReq b0 false 4 0 1 ⟨.none, false, .rne, false⟩).toOption.isNone = true ∧ Runs b0 [] []) ∧
    ((ppReq (commands 64 words) false 3 0 1 ⟨.none, false, .rne, false⟩).toOption.isSome = true ∧ 64 ≤ (commands 64 words).core.seg.cmds ∧
      Runs (commands 64 words) [] []) ∧
    (dqFull b0.core = none ∧ boardStall b0.core [] = none ∧ b0.core.seg.cmds < 64 ∧ Runs b0 [.v 27] [] ∧ Runs b0 [] [.s 10]) ∧
    (ppReady b0 b0.core = none ∧ (ppReady (dHeadIs (.ppcfg 7)) (dHeadIs (.ppcfg 7)).core).map DCmd.op = some (.ppcfg 7) ∧ ppTurn (dHeadIs (.ppcfg 7)) = true) ∧
    (let s : State := { dHeadIs (.ppcfg 7) with die := { (dHeadIs (.ppcfg 7)).die with
        engines := b0.die.engines.set 0 { Engine.reset with ppNext := true },
        cores := b0.die.cores.map fun c => if c.num = 1 then { c with dq := (dHeadIs (.ppcfg 8)).core.dq } else c } }
     (ppReady s s.core).isSome = true ∧ ppTurn s = false) := by unfold Runs; decide +kernel

/-- CG2 asks for 2 rows of 4 columns, CG3 and CG4 for an index table of one entry at 0x7000, CG12 states that the command
reads all of the scratchpad, and CG13 that it writes 0x4000 to 0x5FFF. -/
def copies (s : State) : State := { s with core := { s.core with arch := { s.core.arch with
  cg := ((((s.core.arch.cg.set 2 (wordN (2 + 8 * 2 ^ 32))).set 3 0x7000).set 4 1).set 12 (wordN (0x80000 * 2 ^ 20))).set 13
    (wordN (0x4000 + 2 ^ 19 + 0x2000 * 2 ^ 20)) } } }
/-- A source in the scratchpad, and a destination in shared memory. -/
def outward : State := copies (tensors (entry 0x1000 4 0 0 2 8 32 0) (entry 0x80000 4 0 0 8 16 64 0))

/-- The conditions under which a copy of a kind from t0 to t1 enters. -/
def copyFits (s : State) (k : CopyKind) : Bool :=
  match readTensor s 0, readTensor s 1, tableLoad s k with
  | .ok a, .ok b, .got ps l none => !entryLate s 0 && !entryLate s 1 && s.core.copyq.length < 512 && (boardStall s.core (cgFoots s)).isNone
      && s.core.seg.cmds < 64 && (spadStall s.core false (spadRanges ps)).isNone && !tableParam s k
      && (copyCheck s (makeCopy s k a b l 5)).isNone
  | _, _, _ => false

/-- An entry with a scale tensor at `scale` and a block. -/
def scaledEntry (base fmt rows cols stride scale block : Nat) : List Byte :=
  bytesOf 8 base ++ bytesOf 1 fmt ++ bytesOf 2 0 ++ [0xFF] ++ bytesOf 4 rows ++ bytesOf 4 cols ++ bytesOf 4 block
    ++ bytesOf 8 stride ++ bytesOf 8 scale ++ bytesOf 8 0 ++ bytesOf 8 cols ++ bytesOf 8 0

theorem witness_CopyCommandsAndProgress_issue :
    copyFits outward .copy = true ∧ copyFits outward .copy2d = true ∧ copyFits outward .xpose = true ∧
    copyFits outward (.fill 5) = true ∧ copyFits outward (.fill2d 5) = true ∧ copyFits outward (.xch 0) = true ∧
    copyFits (commands 63 outward) .gath = true ∧ copyFits outward .scat = true ∧
    copyFits (copies (tensors (entry 0x1000 0 8 0 2 512 512 0) (entry 0x4000 0 0 0 2 512 512 0))) (.plane true) = true ∧
    copyFits (copies (tensors (scaledEntry 0x1000 9 2 64 128 0 0) (scaledEntry 0x4000 0 2 64 64 0x5000 64))) (.conv .bf16blk) = true ∧
    (let s := copies (tensors (entry 0x1000 4 0 0 2 8 32 0) (entry 0x80000 4 0 0 8 16 64 0))
     let t (k : Fin 16) (x : Word) : State := { s with core := { s.core with arch := { s.core.arch with cg := s.core.arch.cg.set k x } } }
     wbits (t 3 (2 ^ 56)).core.arch.cg[3] 63 56 ≠ 0 ∧ wbits (t 4 (2 ^ 32)).core.arch.cg[4] 63 32 ≠ 0 ∧
       tableParam (t 3 (2 ^ 30)) .gath = false ∧ (tableLoad (t 3 (2 ^ 30)) .gath).fault.isSome = true ∧
       (readTensor (t 3 (2 ^ 30)) 0).toOption.bind (fun a => (readTensor (t 3 (2 ^ 30)) 1).toOption.map fun b =>
         ({ makeCopy (t 3 (2 ^ 30)) .gath a b [] 5 with table := [] } : CopyCmd).outside (wbits (t 3 (2 ^ 30)).core.arch.cg[4] 31 0)) = some false) ∧
    copyFits (commands 64 outward) .copy = false ∧ Runs (commands 64 outward) [] [] ∧ Runs outward [] [] ∧
    Runs outward [.s 55] [] := by unfold Runs; decide +kernel

/-- A copy of 2 rows of 4 words from t0 to t1, running or not, parked or not, to a base. -/
def copyIs (base : Nat) (running : Bool) (parked : Option Nat) : State := bc fun c => { c with
  copyq := [{ heldCopy with
    serial := 9, kind := .copy2d, held := false, running := running, parked := parked, nrows := 2, ncols := 4
    src := ⟨0x1000, 4, 0, 0, 0xFF, 2, 4, 0, 16, 0, 0, 4, 0⟩, dst := ⟨base, 4, 0, 0, 0xFF, 2, 4, 0, 16, 0, 0, 4, 0⟩ }] }

/-- How the pass of the one copy ends. -/
def walkEnds (s : State) : Option WalkEnd :=
  (s.core.copyq.find? fun m => m.serial == 9 && m.running && m.parked.isNone).map fun m => (copyPass m s).how

theorem witness_CopyCommandsAndProgress_walk :
    (((copyIs 0x2000 false none).core.copyq.find? fun m => !m.held && !m.running && !m.isXch).map (fun m => (m.serial, m.foots)) = some (9, []) ∧
      boardClear (copyIs 0x2000 false none).core 9 [] = true ∧ boardClear (copying false).core 9 [⟨0, 8, false⟩] = false) ∧
    (walkEnds (copyIs 0x2000 false none) = none ∧ walkEnds (copyIs 0x2000 true (some 0)) = none) ∧
    walkEnds (copyIs 0x2000 true none) = some .done ∧
    walkEnds (copyIs (2 ^ 30) true none) = some (.failed { cause := .absent, addr := 2 ^ 30, arg := 1 }) := by decide +kernel

/-- A page that is absent and marked for demand paging: the entry after the one leaf. -/
def demanding : State :=
  let s := copyIs (2 ^ 30) true none
  { s with die := { s.die with mem := memSetN s.die.mem 0xFFA808 (bytesOf 8 0x200) } }

theorem witness_CopyCommandsAndProgress_park : walkEnds demanding = some (.parked (2 ^ 30) 1) := by decide +kernel

/-- Stream 15 is declared to send, and to receive a present slot of 8 bytes; LG0 and LG1 give it 8 bytes at t0. -/
def streams : State :=
  let s := words
  { s with
    core := { s.core with arch := { s.core.arch with lg := (s.core.arch.lg.set 0 (wordN (8 * 2 ^ 32))).set 1 (wordN (8 * 2 ^ 32)) } }
    die := { s.die with
      send := s.die.send.set 15 (some ⟨8, 4, 4, false, none, false, false⟩)
      recv := s.die.recv.set 15 (some ⟨8, 4, [⟨3, 8, [1, 2, 3, 4, 5, 6, 7, 8], none, []⟩], false, false, 0⟩) } }

theorem witness_Streams : (b0.die.send[(15 : Fin 16)] = none ∧ b0.die.recv[(15 : Fin 16)] = none ∧ Runs b0 [] [] ∧ Runs b0 [] [.s 10]) ∧
    (streams.die.send[(15 : Fin 16)] = some ⟨8, 4, 4, false, none, false, false⟩ ∧ streams.die.recv[(15 : Fin 16)] ≠ none ∧
      streams.core.seg.sends < 16 ∧ Runs streams [] [] ∧ Runs streams [] [.s 10] ∧ Runs streams [.s 11] []) ∧
    (entryLate streams 0 = false ∧ 0 < wbits streams.core.arch.lg[0] 63 32 ∧ wbits streams.core.arch.lg[0] 63 32 ≤ 8 ∧
      (readTensor streams 0).toOption.map (·.cmp) = some 0 ∧ ¬16 ≤ streams.core.sq.length ∧
      boardStall streams.core (footOf 0x1000 0x1008 false) = none) ∧
    (let s : State := { streams with core := { streams.core with arch := { streams.core.arch with
        lg := streams.core.arch.lg.set 0 (wordN (9 * 2 ^ 32)) } } }
     (readTensor s 0).toOption.isSome = true ∧ entryLate s 0 = false ∧ 8 < wbits s.core.arch.lg[0] 63 32 ∧
       (readTensor s 2).toOption.isNone = true ∧ entryLate s 2 = false ∧ Runs s [] []) ∧
    ((headSlot streams.die 15).map (·.len) = some 8 ∧ recvTrap streams 15 = none ∧ 8 ≤ wbits streams.core.arch.lg[1] 63 32 ∧
      wbits streams.core.arch.lg[1] 31 0 = 0 ∧ boardStall streams.core (footOf 0x1000 0x1008 true) = none) ∧
    (b0.core.issue.rebound = none ∧
      (bc fun c => { c with issue := { c.issue with rebound := some none } }).core.issue.rebound = some none) ∧
    (wbits b0.core.arch.lg[0] 63 32 = 0 ∧ 16 ≤ (bc fun c => { c with seg := { c.seg with sends := 16 } }).core.seg.sends) := by
  unfold Runs; decide +kernel

/-- Port v28 holds an entry of a record and the end of a page. -/
def patches : State := bc fun c => { c with patch := [⟨1, false⟩, ⟨2, true⟩, ⟨3, false⟩] }
/-- t0 names a file of 8 bytes, and the port is the target. -/
def inputs : State :=
  let s := tensors (entry 0x80000 1 0 0 1 8 64 0) []
  { s with core := { s.core with arch := { s.core.arch with dg := s.core.arch.dg.set 4 (wordN (1 + 1 * 2 ^ 8)) } } }
/-- s10 and s11 hold a base and a size. -/
def ring (base size : Word) : State := ba fun a => { a with s := (a.s.set 10 base).set 11 size }

theorem witness_DecodeSyllables_ring :
    (let r := ring 0x80000 4096
     (regS r 10).toNat % 1024 = 0 ∧ 0x80000 ≤ (regS r 10).toNat ∧ (regS r 10).toNat + (regS r 11).toNat ≤ 2 ^ 56 ∧
      inMemory r (regS r 10).toNat = true ∧ (regS r 11).toNat % 1024 = 0 ∧
      4096 ≤ (regS r 11).toNat ∧ (regS r 11).toNat ≤ 2 ^ 30 ∧ dqFull r.core = none ∧ Runs r [.s 10, .s 11] []) ∧
    (inMemory b0 (2 ^ 30) = false ∧ Runs (ring (2 ^ 30) 4096) [.s 10, .s 11] []) ∧
    (¬4096 ≤ (regS (ring 0x80000 3072) 11).toNat ∧ Runs (ring 0x80000 3072) [.s 10, .s 11] []) ∧
    ((regS (ring 512 0) 10).toNat % 1024 ≠ 0 ∧ Runs (ring 512 0) [.s 10] [] ∧ (regS b0 10).toNat % 1024 = 0 ∧ Runs b0 [.s 10] []) ∧
    (Runs b0 [] [.s 10] ∧ throughPage patches.core.patch = some ([⟨1, false⟩, ⟨2, true⟩], [⟨3, false⟩]) ∧ throughPage b0.core.patch = none ∧
      Runs patches [] [.s 10] ∧ Runs b0 [] []) ∧
    (let s := dHeadIs (.raw false Tensor.none 0 0)
     s.core.dq.any (fun m => m.op.isDecode && !m.seg) = true ∧ Runs s [] []) := by
  unfold Runs; decide +kernel

/-! The decode syllables and the events. -/

/-- t0 names a file of 8 bytes, and DG4 asks for one row of 8 pixels at port v28. -/
def files (fmt : Nat) : State :=
  let s := tensors (entry 0x80000 fmt 0 0 1 8 64 0) []
  { s with core := { s.core with arch := { s.core.arch with dg := s.core.arch.dg.set 4 (wordN (2 ^ 6 + 8 * 2 ^ 16 + 2 ^ 32)) } } }

theorem witness_DecodeSyllables : entryLate (files 1) 0 = false ∧ Runs (files 1) [] [] ∧ dqFull (files 1).core = none ∧
    (files 1).core.arch.dg[(4 : Fin 8)].toNat.testBit 6 = true ∧
    (∀ e ∈ ([files 1, files 0] : List State), ((readTensor e 0).toOption.map fun t =>
      let x := (files 1).core.arch.dg[(4 : Fin 8)]
      ([.jpeg t 0 x, .g4 t 0 x, .raw false t 0 x, .raw true t 0 x] : List DOp).map fun op =>
        (decodeCheck (files 1).core true op, boardStall (files 1).core (inputFoot op), decodeCheck (files 1).core false op)) =
      some (if e = files 1 then List.replicate 4 (none, none, some { cause := .decode, detail := 2 })
        else List.replicate 4 (some { cause := .decode, detail := 1 }, none, some { cause := .decode, detail := 1 }))) := by
  unfold Runs; decide +kernel

/-- s10 holds 0x80000, or an address on which LDPAIR's second load alone fails. -/
theorem witness_DeprecatedOpcodes :
    (([.s 10, .s 11, .s 12] : List Reg).any (portEmpty b0) = false ∧ sylTrap b0 { srcs := [.s 10, .s 11] } = none ∧
      sylTrap b0 { srcs := [.s 12], dsts := [.s 13] } = none ∧ ([.s 13] : List Reg).any (portFull b0) = false) ∧
    (sylTrap b0 { srcs := [.s 10], dsts := [.s 10] } = none ∧ sylTrap b0 { dsts := [.s 11] } = none ∧
      sylTrap b0 { srcs := [.v 3] } = none) := by
  decide +kernel

/-- How a load of 8 bytes ends: the trap at issue or when it lands, and whether the scratchpad is free to be read. -/
def loading (s : State) (va : Nat) : Option Trap × Option Trap × Bool := match loadAt s 8 8 [va] with
  | .got ps _ e => (none, e, (spadStall s.core false (spadRanges ps)).isNone)
  | .trap t => (some t, none, true)

/-- The second of two loads lies in the page after the one that is mapped. -/
theorem witness_DeprecatedOpcodes_loads :
    loading (br 10 0x7FFF8) 0x7FFF8 = (none, none, true) ∧ loading (br 10 0x7FFF8) 0x80000 = (none, none, true) ∧
    loading (br 10 (2 ^ 30 - 8)) (2 ^ 30 - 8) = (none, none, true) ∧
    (loading (br 10 (2 ^ 30 - 8)) (2 ^ 30)).1.isSome = true ∧
    sylTrap (br 10 (2 ^ 30 - 8)) { srcs := [.s 10], dsts := [.s 10] } = none ∧
    sylTrap (br 10 (2 ^ 30 - 8)) { dsts := [.s 11] } = none := by decide +kernel

/-- A continuation of a strand without a crew, of a kernel. -/
def contOf (kid : BitVec 32) : Cont := ⟨{ Record.zero with kid := kid, crew := 0xFF }, .fresh 9 64, 5, none⟩
/-- Crew 3's slot 15 with a deadline and one arrival, or its barrier with one. -/
def arrived : State := crewed3 (fun w => { w with
  rvz := w.rvz.set 15 { RvzSlot.empty with mask := 4, arr := 4, deadline := some 7 }, arr := 4, deadline := 7 }) (bd fun d =>
    { d with rvzto := 1, earliest := 8 })
/-- Queue 5 is usable and holds these records, in hardware and in its ring; the core is idle. -/
def waitingIn (hw ring : List Cont) : State :=
  let s := bc fun c => { c with record := none }
  { s with die := { s.die with queues := s.die.queues.set 5 ⟨0x10, 0, hw, ring, 0, 0, 0⟩ } }
/-- The exchange part, with these copies, of a phase of 1,000 bundles and 20 ns. -/
def exchanging (l : List XchCmd) : State :=
  let s := bq fun p => { p with kernels := [{ placedKernel with phases := [(1000, 20)] }] }
  { s with die := { s.die with phase := .exchange, xch := l, elapsed := 17 } }

theorem witness_CoreEvents :
    ((crewOf arrived 3).rvz[(15 : Fin 16)].deadline = some 7 ∧ (crewOf arrived 3).rvz[(15 : Fin 16)].arr ≠ 0 ∧ 7 < arrived.die.earliest ∧
      (crewOf arrived 3).arr ≠ 0 ∧ arrived.die.rvzto ≠ 0 ∧ (crewOf arrived 3).deadline < arrived.die.earliest ∧
      (crewOf arrived 3).rvz[(14 : Fin 16)].deadline = none ∧ (crewOf b0 3).arr = 0) ∧
    (let s := bc fun c => { c with left := 0 }
     s.core.record.isSome = true ∧ s.core.halted = false ∧ s.core.wait = none ∧ s.core.dbgStop = false ∧ s.core.budgetStop = false ∧
       s.core.left = 0 ∧ b0.core.left ≠ 0 ∧ (bc fun c => { c with budgetStop := true }).core.budgetStop = true) ∧
    (b0.die.queues[(5 : Fin 64)].overflow = [] ∧ (waitingIn [] [contOf 1]).die.queues[(5 : Fin 64)].overflow = [contOf 1] ∧
      (waitingIn [] [contOf 1]).die.queues[(5 : Fin 64)].hw.length < 32 ∧
      ¬(waitingIn (List.replicate 32 (contOf 1)) [contOf 1]).die.queues[(5 : Fin 64)].hw.length < 32) ∧
    (memOk b0.die.mem = true ∧ ¬ringed b0.die 64) := by unfold ringed; decide +kernel

theorem witness_CoreEvents_fill :
    (mayFill (bq fun p => { p with pre := true }) = false ∧ mayFill (waitingIn [contOf 1] []) = true ∧
      (∀ p ∈ heads (waitingIn [contOf 1] []), recordBad 16 p.2.record = false) ∧ (waitingIn [contOf 1] []).die.ncrew = 16 ∧
      mayPick (waitingIn [contOf 1] []) = true ∧ pickQueue (waitingIn [contOf 1] []) = some (5, true) ∧
      (waitingIn [contOf 1] []).die.queues[(5 : Fin 64)].all.head? = some (contOf 1) ∧
      kernelOf (waitingIn [contOf 1] []) 1 = some placedKernel) ∧
    (b0.die.phase ≠ .exchange ∧ (exchanging []).die.phase = .exchange ∧ (exchanging []).die.xch = []) ∧
    (let s := exchanging [⟨0, 255, 0, 0, heldCopy⟩]
     s.die.phase = .exchange ∧ s.die.xch ≠ [] ∧ phaseLens s s.die.k = some (1000, 20) ∧ 20 ≤ 20 * s.die.elapsed / 17 ∧
       ¬20 ≤ 20 * (16 : Nat) / 17) := by decide +kernel

/-- A record of no crew that asks for a place breaks the rules of records; with no record a fill finds nothing; and a core
that has found nothing waits. -/
theorem witness_CoreEvents_heads :
    (let bad : Cont := { contOf 1 with record := { (contOf 1).record with place := 0x10 } }
     badHead (waitingIn [bad] []) = some bad ∧ mayFill (waitingIn [bad] []) = true ∧ (waitingIn [bad] []).core.record = none) ∧
    (badHead (waitingIn [contOf 1] []) = none ∧ (waitingIn [contOf 1] []).core.num ∉ (waitingIn [contOf 1] []).die.found) ∧
    (badHead (waitingIn [] []) = none ∧ pickQueue (waitingIn [] []) = none ∧ mayFill (waitingIn [] []) = true) ∧
    (let s : State := { waitingIn [contOf 1] [] with die := { (waitingIn [contOf 1] []).die with found := [0] } }
     s.core.num ∈ s.die.found) ∧
    ((exchanging []).die.latePosted = false ∧
      { exchanging [] with die := { (exchanging []).die with latePosted := true } }.die.latePosted = true) := by decide +kernel

/-- Die 1 sends stream 15 to die 0 over a circuit: its credits, the sends that are released, and the circuit's state. -/
def linked (credits : Nat) (sends : List StreamEnt) (c : CircuitSt) : State := bp fun k => { k with
  conns := [⟨c, 0, 1, 2, 1, 15, 0, false⟩]
  dies := k.dies.map fun d => if d.num = 1 then { d with
    part := some 0, send := d.send.set 15 (some ⟨8, 4, credits, false, none, false, false⟩)
    cores := d.cores.map fun x => if x.num = 0 then { x with sq := sends } else x } else d }
/-- A send of stream 15 of 8 bytes from a port, and one that carries a stamp. -/
def portSend : StreamEnt := ⟨5, 15, .portSend 8 (some 0), none, 0, ⟨[], [], [], []⟩, [], [], false, 1⟩
/-- A receive stream 15 with n credits to return. -/
def receiving (n : Nat) (s : State) : State :=
  { s with die := { s.die with recv := s.die.recv.set 15 (some ⟨8, 4, [], false, false, n⟩) } }

theorem witness_StreamAndDecodeEvents :
    (senderOf b0 15 = none ∧ senderOf (linked 1 [] .open) 15 = some 1) ∧
    (let s := selDie 1 (linked 1 [portSend] .open)
     s.die.send[(15 : Fin 16)] = some ⟨8, 4, 1, false, none, false, false⟩ ∧ (sendsOf s 15).map Prod.snd = [portSend] ∧
       readySends s 15 = 1 ∧ stampPassed b0.die portSend = true) ∧
    (sendsOf (selDie 1 (linked 1 [] .open)) 15 = [] ∧ readySends (selDie 1 (linked 0 [portSend] .open)) 15 = 0 ∧
      stampPassed b0.die { portSend with op := .send 0 8 (some (2 ^ 62)) } = false) ∧
    (b0.die.recv[(15 : Fin 16)] = none ∧ (receiving 1 b0).die.recv[(15 : Fin 16)] = some ⟨8, 4, [], false, false, 1⟩ ∧
      senderOf (receiving 1 (linked 1 [] .open)) 15 = some 1 ∧ circuitPasses (linked 1 [] .open) 1 15 1 = 1 ∧
      circuitPasses (linked 1 [] .closed) 1 15 1 = 0) := by decide +kernel

/-- Stream 15 of the die goes to, or comes from, another package over a circuit. -/
def abroad (src : Nat) (c : CircuitSt) (f : State → State) : State :=
  f (bp fun k => { k with conns := [⟨c, 0, 1, 2, src, 15, 0, false⟩] })
/-- The die sends stream 15 with n credits, and these sends of the core are released. -/
def sending (n : Nat) (m : Option Nat) (l : List StreamEnt) (s : State) : State := { s with
  core := { s.core with sq := l }
  die := { s.die with send := s.die.send.set 15 (some ⟨8, 4, n, false, m, false, true⟩) } }

/-- A slot of 8 bytes of another package finds room, a circuit and permits, or no circuit; a slot that is too long. -/
theorem witness_StreamAndDecodeEvents_arrivals :
    (∀ c ∈ [CircuitSt.open, .closed], let s := abroad 256 c (receiving 0)
      senderOf s 15 = none ∧ s.die.recv[(15 : Fin 16)] = some ⟨8, 4, [], false, false, 0⟩ ∧
      buffersUsed s 15 ⟨8, 4, [], false, false, 0⟩ < 4 ∧ flitsPass (entryIngress s 15) (partSlot s) (max 1 (ceilDiv 8 256), 1) = true ∧
      (circuitPasses s (256 + s.die.num) 15 1 ≠ 0 ↔ c = .open)) ∧ ¬(9 ≤ 8) ∧ (List.replicate 8 (0 : Byte)).length = 8 := by
  decide +kernel

/-- A send to another package, with a credit and without; a marker; a credit that comes back from there, and none. -/
theorem witness_StreamAndDecodeEvents_departures :
    (∀ n ∈ [0, 1], let s := abroad 0 .open (sending n none [portSend])
      s.die.send[(15 : Fin 16)] = some ⟨8, 4, n, false, none, false, true⟩ ∧ peerDie s s.die.num ⟨8, 4, n, false, none, false, true⟩ = none ∧
      (sendsOf s 15).map Prod.snd = [portSend] ∧ readySends s 15 = n ∧
      flitsPass s.die.ingress (partSlot s) (max 1 (ceilDiv (sendLen portSend) 256), 1) = true ∧
      (readSlot (s.upCircuit s.die.num 15 fun c => { c with flight := c.flight - 1 }) portSend).toOption.join.isSome = true) ∧
    (let s := abroad 0 .open (sending 4 (some 2) [portSend])
     ∀ p ∈ (sendsOf s 15).head?, ¬(2 < p.2.order)) ∧
    ((3 < 4 ∧ circuitPasses (abroad 0 .open (sending 3 none [])) 0 15 1 ≠ 0 ∧
      (let s := abroad 0 .open (sending 3 none []); flitsPass (portIngress s s.die.num 15) (partSlot s) (0, 1) = true)) ∧ ¬(4 < 4)) ∧
    (let s := selDie 1 (linked 1 [] .open)
     ∀ p ∈ (sendsOf s 15).head?, 0 < p.2.order) := by decide +kernel

/-- An L.RECV that is released, over the first 8 bytes of the scratchpad. -/
def received : State :=
  let s := receiving 1 (linked 1 [] .open)
  { s with core := { s.core with
    sq := [⟨5, 15, .recv ⟨3, 8, [1, 2, 3, 4, 5, 6, 7, 8], none, []⟩ 0, some 4, 0, ⟨[], [], [], []⟩, [], [⟨0, 8, true⟩], false, 1⟩] } }

theorem witness_StreamAndDecodeEvents_receives :
    ((received.core.sq.find? fun e => e.n == 15 && !e.sends).map fun e => (e.serial, e.held, boardClear received.core e.serial e.foots)) =
      some (5, false, true) ∧
    (runWalk 0 (.ofPuts (putBytesAt 0 (slotBytes 8 ⟨3, 8, [1, 2, 3, 4, 5, 6, 7, 8], none, []⟩))) received).2.2.1 = .done ∧
    (∀ e ∈ (receiving 1 b0).core.sq, e.n ≠ 15 ∨ e.sends = true) ∧
    (circuitPasses received (sourceOf received 15) 15 1 ≠ 0 ∧ flitsPass received.die.ingress (partSlot received) (0, 1) = true) ∧
    (let s := abroad 256 .open (receiving 1)
     senderOf s 15 = none ∧ circuitPasses s (sourceOf s 15) 15 1 ≠ 0) := by decide +kernel

/-- A decode that runs, to the port or to the ring. -/
def decoding (dg4 : Word) (recs : List (List VWord)) : State := bc fun c => { c with
  dq := [⟨5, .raw false Tensor.none 0 dg4, none, 0, ⟨[], [], [], []⟩, [], false, false, none, false,
    some ⟨recs, [], 1, 0, 1, 1, 8, 1, 0, 0, 0, none, []⟩, none, 0, 0, [], []⟩] }

/-- The decode that runs: whether it has been ended, its records, and whether it goes to the port. -/
def runs (s : State) : Option (Bool × List (List VWord) × Bool) :=
  (runningDecode s.core).map fun x => (x.1.aborted, x.2.recs, dgPort x.1.op.dgs.2)

theorem witness_StreamAndDecodeEvents_decodes :
    ((dHead (dHeadIs (.ringSet 0x80000 4096)).core).map DCmd.op = some (.ringSet 0x80000 4096)) ∧
    ((longestWaiter b0.cores).isNone = true ∧ decodesRunning (dHeadIs (.raw false Tensor.none 0 0)) = 0 ∧
      (longestWaiter (dHeadIs (.raw false Tensor.none 0 0)).cores).map (fun x => (x.1.num, x.2.serial, x.2.aborted)) = some (0, 5, false)) := by decide +kernel

theorem witness_StreamAndDecodeEvents_records :
    (runs (decoding 0x40 [[1, 2]]) = some (false, [[1, 2]], true) ∧ patchRoom (decoding 0x40 [[1, 2]]).core = true ∧
     runs (decoding 0 [[1, 2]]) = some (false, [[1, 2]], false) ∧ (decoding 0 [[1, 2]]).core.ringFree.toNat < 1024 * 2 + 1024 ∧
     runs (decoding 0x40 []) = some (false, [], true) ∧ patchRoom (decoding 0x40 []).core = true) := by decide +kernel

/-! The package. -/

/-- The connection table has one circuit of die 1's stream 15, on wavelength 1 and port 2. -/
def circuit (c : CircuitSt) (swap : Bool) (flight : Nat) : State :=
  bp fun k => { k with conns := [⟨c, 0, 1, 2, 1, 15, flight, swap⟩] }

theorem witness_CircuitsAndPermits :
    (∀ c ∈ ([.free, .reserved, .tuning, .open, .draining, .closed] : List CircuitSt), ∀ w ∈ [false, true],
      (circuit c w 0).pkg.conns[(0 : Nat)]? = some ⟨c, 0, 1, 2, 1, 15, 0, w⟩) ∧
    ((circuit .draining false 1).pkg.conns[(0 : Nat)]?).map (·.flight) = some 1 ∧
    (b0.die.part = some 0 ∧ (∀ x ∈ (circuit .open false 0).pkg.conns, x.st ≠ .free ∧ x.wavelength ≠ 2 ∧ x.port ≠ 1)) ∧
    ((bd fun d => { d with part := none }).die.part = none ∧ (∃ x ∈ (circuit .open false 0).pkg.conns, x.st ≠ .free ∧ x.wavelength = 1) ∧
      (circuit .free false 0).pkg.conns.findIdx? (fun c => c.st == .free) = some 0) := by decide +kernel

/-- The ingress of the die. -/
def ingress (g : Ingress) : State := bd fun d => { d with ingress := g }
/-- CMIN's class 4 has one permit, and partition slot 15's PARTMIN has one. -/
def minima (cls parts shared : Nat) (flits : List (Nat × Nat × Nat)) : State :=
  ingress ⟨wordN (2 ^ 48), Ingress.reset.partmin.set 15 1, Ingress.reset.clsHeld.set 4 cls, Ingress.reset.partHeld.set 15 parts, shared, flits⟩

/-- The sum of the minima meets 4,096 and passes it; a flit of each class takes a permit of its class, of its
partition, of the rest, and none; and the oldest flit gives each back. -/
theorem witness_CircuitsAndPermits_permits :
    (let total (x : Word) : Nat := wbits x 11 0 + wbits x 23 12 + wbits x 35 24 + wbits x 47 36 + wbits x 59 48
     total (wordN 4095) + (((minima 0 0 0 []).die.ingress.partmin.toList.map fun y => wbits y 11 0).sum) ≤ 4096 ∧
     4096 < total (wordN (4095 + 2 ^ 12)) + (((minima 0 0 0 []).die.ingress.partmin.toList.map fun y => wbits y 11 0).sum)) ∧
    (let g := (minima 0 0 0 []).die.ingress
     g.clsHeld[(4 : Fin 5)] < wbits g.pmin 59 48 ∧ ¬g.clsHeld[(1 : Fin 5)] < wbits g.pmin 23 12 ∧
     g.partHeld[(15 : Fin 16)] < wbits g.partmin[(15 : Fin 16)] 11 0 ∧ ¬g.partHeld[(0 : Fin 16)] < wbits g.partmin[(0 : Fin 16)] 11 0 ∧
     g.shared < 4096 - 1 - 1 ∧ ¬(minima 1 1 4094 []).die.ingress.shared < 4096 - 1 - 1) ∧
    (∀ k ∈ [0, 1, 2], (minima 1 1 1 [(1, 15, k)]).die.ingress.flits = [(1, 15, k)]) ∧ (minima 0 0 0 []).die.ingress.flits = [] ∧
    ((minima 0 0 0 (List.replicate 4095 (0, 0, 2))).die.ingress.flits.length < 4096 ∧
      ¬(minima 0 0 0 (List.replicate 4096 (0, 0, 2))).die.ingress.flits.length < 4096) ∧ b0.pkg.ports[(15 : Fin 16)].flits = [] := by
  decide +kernel

/-- The context is in a state, and kernel 1 as given. -/
def context (st : CtxState) (k : Kernel) : State := bq fun p => { p with state := st, kernels := [k] }

/-- A kernel of an empty container; VECTOR names no entry, or one; a record of kernel 1 lives on the core, or none. -/
theorem witness_KernelStates :
    (∀ st ∈ ([.empty, .loading, .ready, .running, .draining, .halted, .swapped, .restoring, .killed] : List CtxState),
      (partOf (context st placedKernel)).map (fun p => (p.state, p.kernels.map Kernel.kid)) = some (st, [1])) ∧
    (let k := { placedKernel with st := .submitted }
     (partOf (context .loading k)).bind (·.kernel 1 .submitted) = some k ∧ (selectImage [] b0.die.feat b0.die.cfgFeat b0.die.mcrev b0.die.numv 1 []).1 = none) ∧
    (let k := { placedKernel with st := .verified, entries := [8] }
     let p := { placedPartition with state := .ready, kernels := [k] }
     partOf (context .ready k) = some p ∧ p.kernel 1 .verified = some k ∧ loadStatus (context .ready k) p k 16 = some "VECTOR" ∧
       loadStatus (context .ready k) p k 8 = none) ∧
    (placedPartition.kernel 1 .resident = some placedKernel ∧ (∃ r ∈ contextRecords b0 placedPartition, r.kid = 1) ∧
      (∀ r ∈ contextRecords (bc fun c => { c with record := none }) placedPartition, r.kid ≠ 1)) := by decide +kernel

/-- A native file of kernel 1 with one function, an entry at address 0, of one bundle of two syllables (spec/14 R257 to
R264): its sections are STRINGS, CODE, SYMBOLS, KERNEL and FUNCS. -/
def native (x y : Nat) : List Byte :=
  let sect (kind flags off size : Nat) : List Byte :=
    bytesOf 4 0 ++ bytesOf 2 kind ++ bytesOf 2 flags ++ bytesOf 8 off ++ bytesOf 8 size ++ bytesOf 4 3 ++ bytesOf 4 0
  bytesOf 4 0x0A464F5A ++ [1, 0, 2, 1] ++ bytesOf 4 0 ++ bytesOf 4 5 ++ bytesOf 8 32 ++ bytesOf 8 0
    ++ sect 5 0 232 8 ++ sect 1 1 240 16 ++ sect 6 0 256 48 ++ sect 9 0 304 88 ++ sect 10 0 392 16 ++ bytesOf 40 0
    ++ [0, 0x65, 0, 0, 0, 0, 0, 0] ++ bytesOf 8 x ++ bytesOf 8 y
    ++ bytesOf 24 0 ++ bytesOf 4 1 ++ bytesOf 2 3 ++ bytesOf 2 1 ++ bytesOf 16 0
    ++ bytesOf 4 1 ++ [7, 1, 0, 0, 46, 28] ++ bytesOf 2 512 ++ bytesOf 4 1 ++ bytesOf 64 0 ++ bytesOf 8 1000
    ++ bytesOf 4 1 ++ bytesOf 4 0 ++ bytesOf 2 0 ++ [1, 0] ++ bytesOf 4 0
/-- What the loader says of such a file: nothing chosen, or how its verification ends. -/
def verified (b : List Byte) : Option (Option (String × Nat)) :=
  (selectImage [] b0.die.feat b0.die.cfgFeat b0.die.mcrev b0.die.numv 1 b).1.map fun i => verifyImage i b0.die.feat

/-- S.NOP with B.END; and a syllable of no opcode. -/
theorem witness_KernelStates_images :
    verified (native 0 (encode ⟨true, false, false, 0⟩ .bEnd)) = some none ∧
    verified (native 0 0xFF80000000000000) = some (some ("DECODE", 0)) ∧ verified [] = none := by decide +kernel

/-- The context of partition 0 in a state, for a reason. -/
def halted (r : HaltReason) (held : Bool) : State :=
  let s := bq fun p => { p with state := .halted, reason := r, swapHeld := held }
  { s with core := { s.core with halted := true } }
/-- Partition 0 has two dies with a stream from the first to the second, of which the second declares or not. -/
def pair (both : Bool) : Partition :=
  let x : StreamDecl := ⟨[65], 15, true, true, 1024, 4⟩
  { placedPartition with
    ndie := 2, state := .ready
    kernels := [{ placedKernel with streams := [x] }] ++ if both then
      [{ placedKernel with kid := 2, stageLo := 1, stageHi := 1, streams := [{ x with send := false, next := false }] }] else [] }

/-- Every state; a stream with its peer, without, and past the partition; the reasons of a halt; a swap that may end;
a restore at the partition's place and at another. -/
theorem witness_ContextStates :
    (∀ st ∈ ([.empty, .loading, .ready, .running, .draining, .halted, .swapped, .restoring, .killed] : List CtxState),
      (partOf (context st placedKernel)).map Partition.state = some st) ∧
    (startStatus (pair true) = none ∧ startStatus (pair false) = some "STREAMS" ∧ startStatus { pair true with ndie := 1 } = some "NOPEER" ∧
      startStatus { pair false with ndie := 1, pipeNext := some [⟨15, false, false, 1024, 4⟩] } = none ∧
      startStatus { pair false with ndie := 1, pipeNext := some [⟨15, false, false, 1024, 5⟩] } = some "STREAMS") ∧
    placedPartition.prelimit = 0 ∧ (bq fun p => { p with state := .draining, prelimit := 9 }).pkg.parts.map (·.prelimit) = [9] ∧
    (∀ r ∈ ([.none, .operator, .fault, .drain, .demand] : List HaltReason), ∀ h ∈ [false, true],
      (partOf (halted r h)).map (fun p => (p.state, p.reason, p.swapHeld)) = some (.halted, r, h)) ∧
    ((partOf (halted .operator true)).map (swapReady (halted .operator true)) = some true ∧
      (partOf (exchanging [])).map (swapReady (exchanging [])) = some false) ∧
    (let s := context .swapped placedKernel
     (partOf s).map (fun p => (restoreStatus s p 0, restoreStatus s p 1, (placeOf s p 0).map Partition.num)) =
       some (none, some "PLACE", some 0)) ∧
    ((saveDie 0 0 b0).cores.find? (fun c => c.num == b0.core.num)).map (fun c => c.record.isSome) = some true ∧
    (let busy (s : State) : Bool := (partDies 0 s).any fun y => y.1.any fun c => c.record.isSome
     busy (context .killed placedKernel) = true ∧ busy { context .killed placedKernel with core := Core.reset 0 } = false ∧
       busy (eachCtxDie (fun t => (eachCore killCore t).upDie Die.killed) b0) = false ∧
       let s : State := bc fun c => { c with arch := { c.arch with rpc := ⟨1, 3, true, 0, 0⟩ } }
       busy (eachCtxDie (fun t => (eachCore killCore t).upDie Die.killed) s) = true) := by decide +kernel

/-- A partition of number 7 fits one die in service that no partition has, and not one that is taken. -/
theorem witness_ContextStates_forming :
    let s := bd fun d => { d with part := none }
    let t : State := { s with pkg := { s.pkg with parts := [] } }
    let ds (u : State) : List Die := u.dies.filter fun d => 0 ≤ d.num && d.num < 0 + 1
    ((ds t).length = 1 ∧ (∀ q ∈ t.pkg.parts, q.num ≠ 7 ∧ q.slot ≠ 3) ∧
      ∀ d ∈ ds t, d.boot = .online ∧ d.service = .online ∧ d.part = none) ∧ ¬(∀ d ∈ ds b0, d.part = none) := by decide +kernel

/-- The selected die in a boot state, and in a service state. -/
def booting (b : Boot) : State := bd fun d => { d with boot := b }
/-- The selected die in a service state, with its copying. -/
def serving (x : Service) (c : Bool) : State := bd fun d => { d with service := x, copying := c }
/-- The entry at an address. -/
def entryAt (a : Nat) : Nat := natOf (memGetN b0.die.mem a 8)

/-- An address of no entry; a valid entry and one that is not; a plain leaf over a stamped page, and a leaf of its own. -/
theorem witness_ServiceAndBoot : (partOf b0).map Partition.state = some .running ∧ (4 % 8 ≠ 0 ∧ levelOf 16 0x7FFFFFFF8 = .hole) ∧
    (0xFFA808 % 8 = 0 ∧ levelOf b0.die.ncrew 0xFFA808 = .vault ∧ levelOf 16 0x800000000 = .dram) ∧
    (entryAt 0xFFA800 % 2 = 1 ∧ entryAt 0xFFA808 % 2 = 0) ∧
    (let s : State := bd fun d => { d with ptroots := Vector.replicate 16 0, stampPages := [1] }
     let mix (e : Nat) : Bool := stampMix s.die (writeMem 0xFFA808 (bytesOf 8 e) [] s).die e
     (partOf s).map Partition.state = some .running ∧ mix 0x401F = true ∧ mix 0x801F = false ∧ mix 0x411F = false) ∧
    (b0.die.service = .online ∧ b0.die.boot = .online ∧ heldInService b0 = true ∧ heldInService (context .swapped placedKernel) = false ∧
      (booting .cold).die.service = .online ∧ (booting .cold).die.boot ≠ .online) ∧
    ((serving .draining true).die.copying = true ∧ (serving .draining false).die.copying = false ∧ (serving .offline false).die.service = .offline) ∧
    (∀ d ∈ b0.dies, 0 ≤ d.earliest) ∧ (∃ d ∈ b0.dies, d.earliest < 2 ^ 62) ∧
    (¬(0xFFFFFFFF : BitVec 32).toNat < 0 ∧ (bd fun d => { d with clkw := 0, latest := d.earliest }).die.clkw.toNat = 0) ∧
    ((bd fun d => { d with clkw := 0, latest := d.earliest + 1, widePosted := true }).die.clkw.toNat < 1) ∧
    ((∃ d ∈ State.reset.dies, d.boot = .cold) ∧ State.reset.die.boot = .cold ∧ ∀ d ∈ ({ b0 with pkg := { b0.pkg with dies := [] } } : State).dies, d.boot ≠ .cold) ∧
    (∀ b ∈ ([.bist, .auth, .fenced, .online] : List Boot), (booting b).die.boot = b) ∧
    (rootUp (booting .auth) = true ∧ rootUp (bd fun d => { d with num := 1, boot := .auth }) = false) := by decide +kernel

/-- A die's key is the one the configuration record certifies, or it is not (log 74): both are open. -/
theorem witness_ServiceAndBoot_key (s : State) (h : Config.identityKey 0 = Config.certifiedKey s.pkg.cfgRecord 0)
    (hd : s.die.num = 0) : keyCertified s = true := by
  rw [keyCertified, hd, h]; exact beq_self_eq_true _
theorem witness_ServiceAndBoot_key_other (s : State) (h : Config.identityKey 0 ≠ Config.certifiedKey s.pkg.cfgRecord 0)
    (hd : s.die.num = 0) : keyCertified s = false := by
  rw [keyCertified, hd]; exact beq_false_of_ne h

/-- A page of 16 bytes in the store, and one with no page. -/
theorem witness_ServiceAndBoot_pages :
    let e (l : List (Nat × Nat)) : Evacuated := ⟨0, 0, 0, 0, [], [(5, 7)], [], [], [], [], l, [], 0⟩
    memOk (e [(0, 16)]).mem = true ∧ memOk b0.die.mem = true ∧ (e [(0, 16)]).returns b0.die 5 = true ∧
      (e [(0, 16)]).returns b0.die 16 = false ∧ (e []).pages = [] ∧ (e []).tables = [] := by decide +kernel

/-- A die without page tables, beside the dies given. -/
def rootless (l : List Die) : State := { b0 with die := Die.reset 0 [0], pkg := { b0.pkg with dies := l } }

/-- Where a die keeps a reserve for shadows (log 16), it has no place without another die in service, and has one where
such a die is large enough. -/
theorem witness_ServiceAndBoot_evacuation (h : 0 < Config.shadowBytes) : freeMemory (rootless []) < evacBytes (rootless []) ∧
    ∃ d, evacBytes (rootless [d]) ≤ freeMemory (rootless [d]) := by
  have e (l : List Die) : evacBytes (rootless l) = Config.shadowBytes := by
    have g : mappedBytes (rootless l).die = 0 := by
      show mappedBytes (Die.reset 0 [0]) = 0; decide +kernel
    rw [evacBytes, g, Nat.zero_add]
  have f (d : Die) (hb : d.boot = .online) (hs : d.service = .online) (hm : mappedBytes d = 0)
      (hh : hasShadow (rootless [d]) d = false) (hn : d.ncrew = Config.shadowBytes) :
      Config.shadowBytes ≤ freeMemory (rootless [d]) := by
    have p : (rootless [d]).pkg.dies = [d] := rfl
    have q : (rootless [d]).pkg.evac = [] := rfl
    have r : Config.shadowBytes ≤ d.capacity := by rw [Die.capacity, hn]; omega
    simpa [freeMemory, p, q, hb, hs, hm, hh] using r
  refine ⟨by rw [e]; exact h, { Die.reset 1 [] with boot := .online, ncrew := Config.shadowBytes }, ?_⟩
  rw [e]
  have g : mappedBytes { Die.reset 1 [] with boot := .online, ncrew := Config.shadowBytes } = 0 := rfl
  have k : hasShadow (rootless [{ Die.reset 1 [] with boot := .online, ncrew := Config.shadowBytes }])
    { Die.reset 1 [] with boot := .online, ncrew := Config.shadowBytes } = false := rfl
  exact f _ rfl rfl g k rfl

/-- The control of the clock has a level and a count; the die's temperature is t (in eighths), or it trips. -/
def stepping (l : Fin 8) (calm : Nat) (t : BitVec 12) (trip : Bool) : State :=
  let s := bp fun k => { k with tup := 90, tdown := 80, hold := 4, lmin := 2, pup := 100, pdown := 50, lvl := l, calm := calm }
  { s with die := { s.die with tj := t, trip := trip, pwrs := [] } }

theorem witness_SensorsHostAndRegisters_stepping :
    (let bad (x : Word) : Bool := decide (wbits x 7 0 ≤ wbits x 15 8 ∨ wbits x 39 28 ≤ wbits x 51 40 ∨ wbits x 23 16 = 0)
     bad 0 = true ∧ bad (wordN (90 + 80 * 2 ^ 8 + 4 * 2 ^ 16 + 100 * 2 ^ 28 + 50 * 2 ^ 40)) = false ∧
     bad (wordN (90 + 90 * 2 ^ 8 + 4 * 2 ^ 16 + 100 * 2 ^ 28 + 50 * 2 ^ 40)) = true) ∧
    (sensed (stepping 3 0 0 true)).trip = true ∧
    (8 * 90 ≤ (sensed (stepping 3 0 720 false)).t ∧ ¬8 * 90 ≤ (sensed (stepping 3 0 719 false)).t ∧ (sensed (stepping 3 0 719 false)).trip = false ∧
      ¬160 * 100 ≤ (sensed (stepping 3 0 719 false)).p ∧ ¬(sensed (stepping 3 0 640 false)).t < 8 * 80) ∧
    ((stepping 1 0 0 false).pkg.lvl.val < (stepping 1 0 0 false).pkg.lmin.val) ∧
    ((sensed (stepping 3 3 639 false)).t < 8 * 80 ∧ (sensed (stepping 3 3 639 false)).p < 160 * 50 ∧
      (stepping 3 3 639 false).pkg.hold.toNat ≤ (stepping 3 3 639 false).pkg.calm + 1 ∧ (stepping 3 2 639 false).pkg.calm + 1 < 4 ∧
      (stepping 2 3 639 false).pkg.lvl.val = (stepping 2 3 639 false).pkg.lmin.val) := by decide +kernel

/-- Partition 0 with the mailbox of slot 0 holding n entries, open to the host. -/
def opened (n : Nat) : State :=
  let s := bq fun p => { p with hostOpen := true }
  { s with pkg := { s.pkg with mbox := s.pkg.mbox.set 0 (List.replicate n (0, 0)) } }

theorem witness_SensorsHostAndRegisters :
    (64 ≤ (opened 64).pkg.mbox[(0 : Fin 16)].length + mboxPopped (opened 64) 0 ∧ (opened 63).pkg.mbox[(0 : Fin 16)].length + mboxPopped (opened 63) 0 < 64 ∧
      slotPart (opened 63) 1 = none ∧ (slotPart (opened 63) 0).map (·.num) = some 0) ∧
    ((∀ d ∈ b0.dies, d.num ≠ 12 * 2 ^ 36 / 2 ^ 36) ∧ (5 : Nat) / 2 ^ 36 = b0.die.num) ∧
    (hostReaches b0 5 1 = false ∧ hostReaches (opened 0) 5 0 = true ∧ (∀ k < 1, (hostByte (opened 0) (5 + k)).isSome = true) ∧
      (∀ k < 1, isStamped (opened 0).die (5 + k) = false)) ∧
    (mboxHeld (opened 64) 0 ≤ 64 ∧ bootDone b0 = false ∧
      bootDone { b0 with pkg := { b0.pkg with dies := [] } } = true ∧ (∀ e ∈ b0.pkg.dies, e.num ≠ (0 : Fin 12).val) ∧
      (∀ e ∈ ({ b0 with pkg := { b0.pkg with dies := [] } } : State).dies, e.num ≠ (11 : Fin 12).val)) ∧
    (let d : Die := { b0.die with ptroots := Vector.replicate 16 0, stampPages := [0] }
     stampMix d { d with ptroots := d.ptroots.set 15 2 } 0 = false ∧
       stampMix d { d with ptroots := d.ptroots.set 15 b0.die.ptroots[(0 : Fin 16)] } 0 = true) ∧
    (slotRuns b0 0 = true ∧ b0.die.ptroots[(0 : Fin 16)].toNat % 2 = 1 ∧ slotRuns b0 15 = false) ∧
    (({ b0.die.aps[(15 : Fin 16)] with ctl := 0 } : Aperture).ok = true ∧ ({ b0.die.aps[(15 : Fin 16)] with ctl := 0xFFFF0FFF } : Aperture).ok = false) := by
  decide +kernel

/-- A host access reaches a byte unless the die keeps it (log 16). -/
theorem witness_SensorsHostAndRegisters_reach (h : Config.reserved 0 5 = false) : hostReaches (opened 0) 5 1 = true := by
  have e : hostReaches (opened 0) 5 1 = ((true && true && true && true && true) && ((true && !Config.reserved 0 (5 + 0)) && true)) := rfl
  rw [e, h]; rfl

/-! One step each. The values expected are worked out by hand from the entries of the spec that the comments name. -/

/-- s10 and s11 hold x and y. -/
def s2 (x y : Word) : State := ba fun a => { a with s := (a.s.set 10 x).set 11 y }
/-- v3 and v4 hold x and y, in the form that SHAPE gives (spec/07 R117): one byte, two bytes or four an element. -/
def v2 (shape : Word) (x y : VWord) : State := ba fun a => { a with v := (a.v.set 3 x).set 4 y, shape := shape }
/-- The scalar result on its way to s12, with its distance. -/
def sOut (o : Host.Outcome State Fault Refusal) : List (Nat × Word) :=
  (flights o).filterMap fun f => match f.land with
    | .s r x => if r = 12 then some (f.due, x) else none
    | _ => none
/-- The predicate on its way to p5. -/
def pOut (o : Host.Outcome State Fault Refusal) : List Bool :=
  (flights o).filterMap fun f => match f.land with
    | .p r x => if r = 5 then some x else none
    | _ => none
/-- n bits at bit k of the vector on its way to v5. -/
def vOut (k n : Nat) (o : Host.Outcome State Fault Refusal) : List Nat :=
  (flights o).filterMap fun f => match f.land with
    | .v r x => if r = 5 then some (x.toNat / 2 ^ k % 2 ^ n) else none
    | _ => none
/-- No mask, merging, to nearest, wrapping or saturating. -/
def plain (sat : Bool) : VMod := ⟨0, false, .rne, sat⟩

/-- spec/06 R95 and R93: sums and differences wrap, at distance 1; products land at distance 3. -/
theorem test_scalar_sums : sOut (exec (.sAdd 12 10 11) (s2 0xFFFFFFFFFFFFFFFF 2)) = [(1, 1)] ∧
    sOut (exec (.sSub 12 10 11) (s2 0 1)) = [(1, 0xFFFFFFFFFFFFFFFF)] ∧
    sOut (exec (.sMul 12 10 11) (s2 0xFFFFFFFFFFFFFFFF 3)) = [(3, 0xFFFFFFFFFFFFFFFD)] ∧
    sOut (exec (.sMulh 12 10 11) (s2 0xFFFFFFFFFFFFFFFF 3)) = [(3, 0xFFFFFFFFFFFFFFFF)] ∧
    sOut (exec (.sMulhu 12 10 11) (s2 0xFFFFFFFFFFFFFFFF 3)) = [(3, 2)] := by decide +kernel

/-- spec/06 R95: amounts take six bits; S.SAR keeps the sign. -/
theorem test_scalar_shifts : sOut (exec (.sShl 12 10 11) (s2 1 65)) = [(1, 2)] ∧
    sOut (exec (.sShr 12 10 11) (s2 0x8000000000000000 63)) = [(1, 1)] ∧
    sOut (exec (.sSar 12 10 11) (s2 0x8000000000000000 63)) = [(1, 0xFFFFFFFFFFFFFFFF)] ∧
    sOut (exec (.sRor 12 10 11) (s2 0x1 4)) = [(1, 0x1000000000000000)] := by decide +kernel

/-- spec/06 R95, R96: signed and natural minima, and the unary forms. -/
theorem test_scalar_unary : sOut (exec (.sMin 12 10 11) (s2 0xFFFFFFFFFFFFFFFF 1)) = [(1, 0xFFFFFFFFFFFFFFFF)] ∧
    sOut (exec (.sMinu 12 10 11) (s2 0xFFFFFFFFFFFFFFFF 1)) = [(1, 1)] ∧
    sOut (exec (.sAbs 12 10) (s2 0x8000000000000000 0)) = [(1, 0x8000000000000000)] ∧
    sOut (exec (.sClz 12 10) (s2 0 0)) = [(1, 64)] ∧ sOut (exec (.sCtz 12 10) (s2 0x50 0)) = [(1, 4)] ∧
    sOut (exec (.sPopc 12 10) (s2 0xF00F 0)) = [(1, 8)] ∧
    sOut (exec (.sBswap 12 10) (s2 0x0102030405060708 0)) = [(1, 0x0807060504030201)] ∧
    sOut (exec (.sLea 3 12 10 11 0xFFFF) (s2 0x1000 2)) = [(1, 0x100F)] := by decide +kernel

/-- spec/06 R97: immediates are sign-extended, and the worked example of S.MOVHI. -/
theorem test_scalar_immediates : sOut (exec (.sAddi 12 10 0x3FFFFFFF) (s2 5 0)) = [(1, 4)] ∧
    sOut (exec (.sMovi 12 0x20000000) b0) = [(1, 0xFFFFFFFFE0000000)] ∧
    sOut (exec (.sMovhi 12 10 0x2AF37BC) (s2 0x01234567 0)) = [(1, 0x00ABCDEF01234567)] ∧
    sOut (exec (.sAndi 12 10 0x3FFFFFF0) (s2 0xFF 0)) = [(1, 0xF0)] := by decide +kernel

/-- spec/06 R98: fields that pass bit 63. -/
theorem test_scalar_fields : sOut (exec (.sBfx true 12 10 4 3) (s2 0xF7 0)) = [(1, 0xFFFFFFFFFFFFFFFF)] ∧
    sOut (exec (.sBfx true 12 10 60 7) (s2 0xF000000000000000 0)) = [(1, 0xF)] ∧
    sOut (exec (.sBfi 12 10 11 60 7) (s2 0xFF 0)) = [(1, 0xF000000000000000)] ∧
    sOut (exec (.sSext 12 10 7) (s2 0x180 0)) = [(1, 0xFFFFFFFFFFFFFF80)] := by decide +kernel

/-- spec/06 R99, R100: conditions by sign. -/
theorem test_scalar_conditions : pOut (exec (.sCmp .lt 5 10 11) (s2 0xFFFFFFFFFFFFFFFF 1)) = [true] ∧
    pOut (exec (.sCmp .ltu 5 10 11) (s2 0xFFFFFFFFFFFFFFFF 1)) = [false] ∧
    pOut (exec (.sCmpi .geu 5 10 0x3FFFFFFF) (s2 0xFFFFFFFFFFFFFFFF 0)) = [true] ∧
    pOut (exec (.sPset 5 10) (s2 0x100 0)) = [true] ∧ pOut (exec (.sPnot 5 0) b0) = [false] := by decide +kernel

/-- spec/06 R105, R114 and spec/18 R300 to R302: CHECK names register 10, SWTRAP holds its code from bit 20. -/
theorem test_traps : trapWord (exec (.sChk (.s 10 11)) (s2 1 2)) = some 0x0000000000A00005 ∧
    trapWord (exec (.bTrap 0xABCD) b0) = some 0x0000000ABCD0000E ∧
    trapWord (exec (.mLd .sp .i64 12 10 4) (s2 0 0)) = some 0x0000000000000114 := by decide +kernel

/-- spec/07 R120 and R124: integers wrap, or saturate under .sat. -/
theorem test_vector_integers : vOut 8184 8 (exec (.vAdd .i8 5 3 (.v 4) (plain false)) (v2 0x200020 (BitVec.ofNat 8192 (127 * 2 ^ 8184)) (BitVec.ofNat 8192 (2 ^ 8184)))) = [128] ∧
    vOut 8184 8 (exec (.vAdd .i8 5 3 (.v 4) (plain true)) (v2 0x200020 (BitVec.ofNat 8192 (127 * 2 ^ 8184)) (BitVec.ofNat 8192 (2 ^ 8184)))) = [127] := by decide +kernel

/-- spec/05 R70 to R73: 1 + 2 = 3, 1.5 times 1.5 rounds to 2.25, and a third to 0x3EAAAAAB. -/
theorem test_vector_reals : vOut 0 32 (exec (.vAdd .f32 5 3 (.v 4) (plain false)) (v2 0x200100010 0x3F800000 0x40000000)) = [0x40400000] ∧
    vOut 0 16 (exec (.vMul .bf16 5 3 (.v 4) (plain false)) (v2 0x100200010 0x3FC0 0x3FC0)) = [0x4010] ∧
    vOut 0 32 (exec (.fDiv .f32 5 3 (.v 4) (plain false)) (v2 0x200100010 0x3F800000 0x40400000)) = [0x3EAAAAAB] ∧
    vOut 0 32 (exec (.fSqrt .f32 5 3 (plain false)) (v2 0x200100010 0x40800000 0)) = [0x40000000] := by decide +kernel

/-- spec/10 R189: a byte loaded with its sign and without, and little-endian bytes. -/
theorem test_loads :
    let s : State := { s2 0x1000 0 with core := { (s2 0x1000 0).core with spad := [(0x1000, 0x80), (0x1001, 0x01)] } }
    (sOut (exec (.mLd .sp .i8 12 10 0) s)).map Prod.snd = [0xFFFFFFFFFFFFFF80] ∧
    (sOut (exec (.mLd .sp .n8 12 10 0) s)).map Prod.snd = [0x80] ∧
    (sOut (exec (.mLd .sp .n16 12 10 0) s)).map Prod.snd = [0x0180] := by decide +kernel

/-- spec/10 R189: a store to the scratchpad; spec/12 R223: one to shared memory is withheld. -/
theorem test_stores :
    after (exec (.mSt .i16 10 11 2) (s2 0x1000 0xABCD1234)) [] (fun t => t.core.spad) = [(0x1002, 0x34), (0x1003, 0x12)] ∧
    after (exec (.mSt .i16 10 11 0) (s2 0x80000 0xABCD1234)) [] (fun t => t.core.held) = [.store 0x80000 [0x34, 0x12]] := by
  decide +kernel

/-- spec/06 R106: B.CALL sets s1 to the next bundle and goes to the bundle's address plus 8 times the offset. -/
theorem test_call : after (exec (.bCall 2) (bc fun c => { c with issue := { c.issue with ba := 8, nb := 16 } })) none (fun t =>
    some (t.core.pc, (flights (.next t)).map Inflight.land)) = some (24, [.s 1 16]) := by decide +kernel

/-- spec/14 R269: the block that adds c10 and c11 into c12, with the words of its records 0 and 2, and record 1 at POS 1 as
step 1 asks (log 91), keeps steps 1 and 5; a slot that names an earlier operation breaks step 1, and so does one that
names a position of A.OUT past its inputs. -/
theorem test_aladu_block :
    let op (lo hi : Nat) : AluOp := aluOpAt (bytesOf 8 lo ++ bytesOf 8 hi) 0
    let l (hi : Nat) : List AluOp := [op 0xA00F4 0x402, op 0xB00F4 0x482, op 0x4001 hi, op 0xC20F5 0]
    (op 0x4001 0x403).opc = 1 ∧ (op 0x4001 0x403).nin = 2 ∧ (op 0x4001 0x403).slots.head? = some ⟨3, 0, false, true, false⟩ ∧
    aluBlockOk 1 1 (l 0x403) = true ∧ aluBlockOk 1 1 (l 0x401) = false ∧ aluBlockOk 1 1 (l 0x483) = false := by decide +kernel

/-- spec/14 R269: what that block means, with 5 and 7 carried as c10 and c11: c12 is 12, and control falls through. -/
theorem test_aladu_means :
    let op (lo hi : Nat) : AluOp := aluOpAt (bytesOf 8 lo ++ bytesOf 8 hi) 0
    let l : List AluOp := [op 0xA00F4 0x402, op 0xB00F4 0x482, op 0x4001 0x403, op 0xC20F5 0]
    (aluBlock l [(10, .s 5), (11, .s 7)] b0).toOption.map (fun r => (r.carried, r.call, r.way)) =
      some ([(10, .s 5), (11, .s 7), (12, .s 12)], none, .next) := by decide +kernel

/-- spec/03 R28: B.BR beside a dup B.CKPT holds two B syllables and is OVERFULL; spec/08 R153: a dup X.STAT beside its
sibling is legal; spec/09 R163: a dup F.LQCNT fails as one without a sibling. -/
theorem test_dup_slots :
    let bad (i j : Instr) : Option Nat := match checkWords 0xFF [encode ⟨false, false, false, 0⟩ i, encode ⟨true, true, false, 0⟩ j] with
      | .error t => some t.detail
      | .ok _ => none
    bad (.bBr 0) .bCkpt = some 1 ∧ bad (.xStat 10) (.xStat 11) = none ∧ bad (.fLqcnt 10) (.fLqcnt 11) = some 5 := by decide +kernel

end Sys2Proof.Tests
end

section
/-! PROOFS. The steward's events (spec/19 R317, R323; spec/21 R338, R340; spec/23 R367 to R369, R375): what each one makes
of the state it meets, one case at a time, and from those cases the statement O59. -/

namespace Sys2Proof.Machine

section

variable {s : State}

/-! Page table updates (R317). -/

/-- Where an entry of a die's page tables can stand. -/
abbrev entryPlace (d : Die) (addr : Nat) : Prop :=
  addr % 8 = 0 ∧ (levelOf d.ncrew addr = .vault ∨ levelOf d.ncrew addr = .dram)

/-- A context that runs or drains takes a new valid entry in the place of one that is not, and no other. -/
abbrev entryBusy (p : Partition) (old new : Nat) : Prop :=
  (p.state = .running ∨ p.state = .draining) ∧ (old % 2 = 1 ∨ new % 2 = 0)

theorem bitAt_zero (x : Nat) : bitAt x 0 = decide (x % 2 = 1) := by simp [bitAt, beq_eq_decide]

/-- A change of tables that mixes stamped and plain leaves is refused. -/
theorem changeTables_mixed {req : String} {arg old new : Nat} {f : State → State}
    (h : stampMix s.die (f s).die new = true) : changeTables req arg old new f s = s.post (.status req "STAMPMIX" arg) :=
  if_pos h

/-- Any other is made, and the record of stamped pages follows it. -/
theorem changeTables_made {req : String} {arg old new : Nat} {f : State → State}
    (h : stampMix s.die (f s).die new = false) : changeTables req arg old new f s = recordStamps s.die old new (f s) :=
  if_neg (by simp [h])

/-- PAGE_TABLE_UPDATE on a die of a partition: the place is checked first, then whether the context allows it. -/
theorem execPageTableUpdate_of_part {p : Partition} (addr : Nat) (entry : BitVec 64) (hp : partOf s = some p) :
    execPageTableUpdate addr entry s = .next (
      let old := natOf (memGetN s.die.mem addr 8)
      if ¬entryPlace s.die addr then s
      else if entryBusy p old entry.toNat then s.post (.status "PAGE_TABLE_UPDATE" "BUSY" addr)
      else changeTables "PAGE_TABLE_UPDATE" addr old entry.toNat (writeMem addr (bytesOf 8 entry.toNat) []) s) := by
  simp [execPageTableUpdate, hp, entryPlace, entryBusy, bitAt_zero, State.status, imp_iff_not_or]

/-! Out of service (R323). -/

/-- A die in service is asked to leave it. -/
theorem execOffline_online (hs : s.die.service = .online) : execOffline s = .next (
    if s.die.boot ≠ .online then s
    else if heldInService s = true then s.post (.status "OFFLINE" "BUSY" s.die.num)
    else checkEvacuation (s.upDie fun d => { d with service := .draining, copying := false })) := by
  simp [execOffline, hs, State.status]

/-- A draining die whose pages have found no place yet is checked again. -/
theorem execOffline_draining (hs : s.die.service = .draining) :
    execOffline s = .next (if s.die.copying = true then s else checkEvacuation s) := by simp [execOffline, hs]

/-- Only a draining die that copies can have finished. -/
theorem execEvacuationComplete_idle (h : s.die.service ≠ .draining ∨ s.die.copying = false) :
    execEvacuationComplete s = .next s := by
  have h' : (s.die.service == .draining && s.die.copying) = false := by
    rcases h with h | h <;> simp [h]
  simp [execEvacuationComplete, h']

/-- The state after a die's pages have all been copied: it is out of service, and the store holds what it takes of it. -/
def evacuatedState (s : State) : State :=
  (s.upDie fun d => { d with service := .offline, copying := false, away := true }).upPkg fun k =>
    { k with evac := k.evac ++ (evacuated s).toList }

/-- EVACUATION_COMPLETE of a draining die that copies. -/
theorem execEvacuationComplete_copied (hs : s.die.service = .draining) (hc : s.die.copying = true) :
    execEvacuationComplete s = .next (evacuatedState s) := by
  simp [execEvacuationComplete, hs, hc, evacuatedState]

/-- What a context holds on the die goes to the store with the die's memory. -/
theorem evacuatedState_holds {p : Partition} (hp : partOf s = some p) (he : p.state ≠ .empty) (hk : p.state ≠ .killed) :
    ∃ e ∈ (evacuatedState s).pkg.evac,
      e.part = p.num ∧ e.ctx = p.ctx ∧ e.pos = s.die.num - p.first ∧ e.mem = s.die.mem := by
  have h : ∃ e, evacuated s = some e ∧
      e.part = p.num ∧ e.ctx = p.ctx ∧ e.pos = s.die.num - p.first ∧ e.mem = s.die.mem := by
    simp [evacuated, hp, he, hk]
  obtain ⟨e, hev, hfields⟩ := h
  exact ⟨e, by simp [evacuatedState, hev], hfields⟩

/-- A draining die returns as it was. -/
theorem execOnline_draining (pass : Bool) (hs : s.die.service = .draining) : execOnline pass s = .next
    (s.upDie fun d => { d with service := .online, copying := false, found := [] }) := by simp [execOnline, hs]

/-- A die out of service returns with its memory cleared, after a self-test that passes. -/
theorem execOnline_offline (hs : s.die.service = .offline) : execOnline true s = .next
    (s.upDie fun d => { d.clearMemory with service := .online, found := [], away := false }) := by
  simp [execOnline, hs]

/-- It is fenced after one that fails. -/
theorem execOnline_failed (hs : s.die.service = .offline) : execOnline false s = .next
    (fence "ONLINE" (s.upDie fun d => { d with service := .fenced })) := by simp [execOnline, hs]

/-- A memory of which no byte is chosen stays as it is. -/
theorem overlay_none {pick : Nat → Bool} (h : ∀ a, pick a = false) (new old : List Host.Cell) :
    overlay pick new old = old := by simp [overlay, h]

/-- Without pages and tables nothing returns from the store. -/
theorem returns_nothing {e : Evacuated} (hp : e.pages = []) (ht : e.tables = []) (d : Die) (a : Nat) :
    e.returns d a = false := by simp [Evacuated.returns, inPages, hp, ht]

/-- Pages that return replace themselves alone, and the memory keeps its canonical form. -/
theorem takesBack_mem {e : Evacuated} {d : Die} (a : Nat) (he : memOk e.mem = true) (hd : memOk d.mem = true) :
    memOk (Die.takesBack e d).mem = true ∧
      memGet (Die.takesBack e d).mem a = (if e.returns d a then memGet e.mem a else memGet d.mem a) ∧
      (e.pages = [] → e.tables = [] → (Die.takesBack e d).mem = d.mem) := by
  obtain ⟨hok, hget⟩ := memOk_overlay (e.returns d) a he hd
  exact ⟨hok, hget, fun hp ht => overlay_none (returns_nothing hp ht d) _ _⟩

/-! Boot (R367 to R369). -/

@[simp] theorem reportBoot_die (s s' : State) : (reportBoot s s').die = s'.die := by
  unfold reportBoot; split <;> rfl
@[simp] theorem reportBoot_bootCode (s s' : State) : (reportBoot s s').pkg.bootCode = s'.pkg.bootCode := by
  unfold reportBoot; split <;> rfl

/-- The selection of another core leaves the die's own registers. -/
theorem selCore_die (n : Nat) (s : State) : ∃ l, (selCore n s).die = { s.die with cores := l } := by
  unfold selCore
  split
  · exact ⟨_, rfl⟩
  · split <;> exact ⟨_, rfl⟩

/-- The bit of the die in FENCED is set. -/
theorem fence_bootFenced (reason : String) (h : s.die.num < 12) :
    (fence reason s).pkg.bootFenced.toNat.testBit s.die.num = true := by
  change (s.pkg.bootFenced ||| BitVec.twoPow 12 s.die.num).getLsbD s.die.num = true
  simp [h]

/-- The status of the record's reading, by the two checks in their order (R12, R13, R369). -/
theorem recordStatus_eq (k : Package) : recordStatus k =
    if Config.sigOk k.cfgRecord k.signature = false then 1 else if k.recSerial ≠ k.flashSerial then 2 else 0 := by
  simp [recordStatus]

/-- A COLD die whose record is good takes its configuration, and its self-test begins. -/
theorem boots_good {d : Die} (r : List Byte) (h : d.boot = .cold) :
    d.boots 0 r = { d.configured r with boot := .bist, level := 7 } := by simp [Die.boots, h]

/-- A COLD die whose record is not good stops. -/
theorem boots_failed {d : Die} {st : BitVec 4} (r : List Byte) (h : d.boot = .cold) (hst : st ≠ 0) :
    d.boots st r = { d with boot := .cfgfail } := by
  rw [Die.boots, if_neg (by simp [h]), if_neg (by simpa using hst)]

theorem boots_boot {d : Die} (st : BitVec 4) (r : List Byte) (h : d.boot = .cold) :
    (d.boots st r).boot = if st = 0 then .bist else .cfgfail := by
  by_cases hst : st = 0
  · subst hst; rw [boots_good r h, if_pos rfl]
  · rw [boots_failed r h hst, if_neg hst]

/-- The test of RESET_RELEASE, over every die. -/
theorem any_cold_iff : (bootStates s).any (· == .cold) = true ↔ ∃ d ∈ s.dies, d.boot = .cold := by
  simp [bootStates]

/-- Without a COLD die nothing is released. -/
theorem execResetRelease_idle (h : ∀ d ∈ s.dies, d.boot ≠ .cold) : execResetRelease s = .next s := by
  have hc : ¬(bootStates s).any (· == .cold) = true := by rw [any_cold_iff]; simpa using h
  simp [execResetRelease, hc]

/-- Once a die is COLD, the whole package leaves reset with the status of its record; the selected die too. -/
theorem execResetRelease_cold (h : ∃ d ∈ s.dies, d.boot = .cold) : ∃ t, execResetRelease s = .next t ∧
    t.pkg.bootCode = recordStatus s.pkg ∧
    ∃ l, t.die = Die.boots (recordStatus s.pkg) s.pkg.cfgRecord { s.die with cores := l } := by
  refine ⟨_, by rw [execResetRelease, if_pos (any_cold_iff.2 h)], by simp, ?_⟩
  simp only [reportBoot_die, State.upPkg_die, State.upDie_die]
  split
  · obtain ⟨l, hl⟩ := selCore_die 0 s
    exact ⟨l, by rw [hl]⟩
  · exact ⟨s.die.cores, rfl⟩

/-- A die in its self-test goes on to authentication, or is fenced. -/
theorem execBistComplete_bist (pass : Bool) (h : s.die.boot = .bist) : execBistComplete pass s = .next (
    if pass = true then s.upDie fun d => { d with boot := .auth } else reportBoot s (fence "BIST" s)) := by
  simp [execBistComplete, h]

/-- AUTH_COMPLETE of a die in AUTH passes where the responses agree, the key is certified and stage 0 is up. -/
theorem execAuthComplete_auth (pass : Bool) (h : s.die.boot = .auth) : execAuthComplete pass s = .next (
    if pass = false ∨ keyCertified s = false then reportBoot s (fence "AUTH" s)
    else if rootUp s = true then reportBoot s (s.upDie fun d => { d with boot := .online })
    else s) := by simp [execAuthComplete, h]

/-! Clocks (R338, R340). -/

/-- CLOCK_WIDE posts once, when the width first passes CLKW. -/
theorem execClockWide_eq : execClockWide s = .next (
    if ¬s.die.clkw.toNat < s.die.latest - s.die.earliest then s.upDie fun d => { d with widePosted := false }
    else if s.die.widePosted = true then s
    else (s.upDie fun d => { d with widePosted := true }).post (.clockWide s.die.num)) := by
  simp only [execClockWide, Nat.not_lt]

/-- A floor above the earliest bound of a die is not taken. -/
theorem execDomainFloor_eq (f : Nat) : execDomainFloor f s = .next (
    if ∃ d ∈ s.dies, d.earliest < f then s
    else settleWaiters (s.upDie fun d => { d with floor := max d.floor f })) := by
  simp [execDomainFloor]

end

/-- Settles O59: each clause is a branch of the equation of its event. -/
theorem serviceAndBoot : Obligations.ServiceAndBoot := by
  unfold Obligations.ServiceAndBoot
  intro s addr f entry ok die answers old inMem
  refine ⟨fun p hp => ?pageTable, fun hs => ?inService, ?check, fun hs => ?draining,
    fun e d a he hd => takesBack_mem a he hd, fun hs => ?offline, fun h => ?floorRefused, fun h => ?floorTaken, ?wide,
    fun h => execResetRelease_idle h, fun h => ?reset, fun h => ?bist, fun h => ?notBist, fun h => ?auth,
    fun h => ?notAuth, ?rail, fun reason => ⟨rfl, rfl, fence_bootFenced reason⟩⟩
  case pageTable =>
    have hexec := execPageTableUpdate_of_part addr entry hp
    intro busy
    refine ⟨fun hm => ?_, fun hm hb => ?_, fun hm hb hx => ?_, fun hm hb hx => ?_⟩
    · exact hexec.trans (by rw [if_pos hm])
    · exact hexec.trans (by rw [if_neg (not_not.2 hm), if_pos hb])
    · exact hexec.trans (by rw [if_neg (not_not.2 hm), if_neg hb, changeTables_mixed hx])
    · exact hexec.trans (by rw [if_neg (not_not.2 hm), if_neg hb, changeTables_made hx])
  case inService =>
    have hoff := execOffline_online hs
    refine ⟨fun hb => ?_, fun hb hh => ?_, fun hb hh => ?_, ?_, ?_⟩
    · exact hoff.trans (by rw [if_pos hb])
    · exact hoff.trans (by rw [if_neg (not_not.2 hb), if_pos hh])
    · exact hoff.trans (by rw [if_neg (not_not.2 hb), if_neg (by simp [hh])]; rfl)
    · exact execEvacuationComplete_idle (.inl (by simp [hs]))
    · simp [execOnline, hs]
  case check => exact ⟨fun h => if_pos h, fun h => if_neg (Nat.not_le.2 h)⟩
  case draining =>
    have hoff := execOffline_draining hs
    refine ⟨fun hc => ⟨?_, ?_⟩, fun hc => ⟨?_, evacuatedState s, ?_, rfl, fun p hp => evacuatedState_holds hp⟩, ?_⟩
    · exact hoff.trans (by rw [if_neg (by simp [hc])])
    · exact execEvacuationComplete_idle (.inr hc)
    · exact hoff.trans (by rw [if_pos hc])
    · exact execEvacuationComplete_copied hs hc
    · exact execOnline_draining ok hs
  case offline => exact ⟨⟨_, execOnline_offline hs, rfl, rfl⟩, execOnline_failed hs⟩
  case floorRefused => exact (execDomainFloor_eq f).trans (by rw [if_pos h])
  case floorTaken => exact (execDomainFloor_eq f).trans (by rw [if_neg (by simpa using h)]; rfl)
  case wide =>
    intro wide
    refine ⟨fun hw => ?_, fun hw hp => ?_, fun hw hp => ?_⟩
    · exact execClockWide_eq.trans (by rw [if_pos hw]; rfl)
    · exact execClockWide_eq.trans (by rw [if_neg (not_not.2 hw), if_pos hp])
    · exact execClockWide_eq.trans (by rw [if_neg (not_not.2 hw), if_neg (by simp [hp])]; rfl)
  case reset =>
    obtain ⟨t, hexec, hcode, l, hdie⟩ := execResetRelease_cold h
    refine ⟨t, hexec, hcode.trans (recordStatus_eq _), fun hc => ?_, fun hc hgood => ?_⟩
    · rw [hdie, hcode]; exact boots_boot _ _ hc
    · rw [hdie, ← hcode, hgood, boots_good (d := { s.die with cores := l }) _ hc]; exact ⟨rfl, rfl, rfl, rfl⟩
  case bist => exact ⟨execBistComplete_bist true h, execBistComplete_bist false h⟩
  case notBist => simp [execBistComplete, h]
  case auth =>
    have hauth := fun pass => execAuthComplete_auth pass h
    refine ⟨fun hk hr => ?_, fun hk hr => ?_, fun hk => ?_, ?_, ?_⟩
    · exact (hauth true).trans (by rw [if_neg (by simp [hk]), if_pos hr]; rfl)
    · exact (hauth true).trans (by rw [if_neg (by simp [hk]), if_neg (by simp [hr])])
    · exact (hauth true).trans (by rw [if_pos (.inr hk)])
    · exact (hauth false).trans (by rw [if_pos (.inl rfl)])
    · simp [execAuthTimeout, h]
  case notAuth => simp [execAuthComplete, execAuthTimeout, h]
  case rail => exact ⟨fun h => by simp [execRailFault, h], fun h => by simp [execRailFault, h]⟩

end Sys2Proof.Machine
end

section
/-! PROOFS. Run queues and waiting records (spec/15 R271; spec/06 R112): what stands and what stays when a record enters
a queue, when waiters wake, and where a record that enters a ring is written. -/

namespace Sys2Proof.Machine

/-! One queue (R270, R271). -/

@[simp] theorem RunQ.append_cfg (x : RunQ) (c : Cont) : (x.append c).cfg = x.cfg := by
  unfold RunQ.append; split <;> rfl
@[simp] theorem RunQ.append_ring (x : RunQ) (c : Cont) : (x.append c).ring = x.ring := by
  unfold RunQ.append; split <;> rfl

/-- A record enters at the tail, under the rank of the queue: of the hardware part, or of the ring behind it. -/
theorem RunQ.append_all (x : RunQ) (c : Cont) :
    (x.append c).all = x.all ++ [{ c with record := c.record.setRank (wbits x.cfg 3 0) }] := by
  unfold RunQ.append RunQ.all
  split
  · next h =>
    have hover : x.overflow = [] := by simp at h; exact h.1
    simp [hover]
  · simp

/-- The next place of a ring lies within it. -/
theorem RunQ.ringNext_within (x : RunQ) :
    wbits x.ring 49 0 ≤ x.ringNext ∧ x.ringNext + 64 ≤ wbits x.ring 49 0 + 64 * x.places := by
  have hplace : (x.ringHead + x.overflow.length) % x.places < x.places :=
    Nat.mod_lt _ (Nat.lt_of_lt_of_le Nat.one_pos (Nat.le_max_left ..))
  unfold RunQ.ringNext
  omega

@[simp] theorem bytesOf_length (n x : Nat) : (bytesOf n x).length = n := by
  induction n generalizing x with
  | zero => rfl
  | succ n ih => simp [bytesOf, ih]

/-- A record has 64 bytes (R17). -/
theorem Record.bytes_length (r : Record) : r.bytes.length = 64 := by simp [Record.bytes]

/-- What a record that enters the ring writes: 64 bytes at the next place. -/
theorem ringWrites_some {old new : RunQ} {w : Nat × List Byte} (h : ringWrites old new = some w) :
    w.1 = old.ringNext ∧ w.2.length = 64 := by
  unfold ringWrites at h
  split at h
  · cases h
  · obtain ⟨c, -, rfl⟩ := Option.map_eq_some_iff.1 h
    exact ⟨rfl, c.record.bytes_length⟩

/-! The die's queues. -/

section

variable (q : Fin 64) (c : Cont) (d : Die)

/-- Entering a queue may end quiescence; beyond that it moves the queue and the bytes of its ring alone. -/
theorem Die.roused_eq : ∃ p e w, d.roused = { d with phase := p, elapsed := e, wrote := w, found := [] } := by
  unfold Die.roused
  split
  · exact ⟨_, _, _, rfl⟩
  · exact ⟨d.phase, d.elapsed, d.wrote, rfl⟩

/-- What a record that enters a queue does: the queue takes it, and the ring's next place too if it goes to the ring;
then the die is roused. -/
theorem Die.appended_cases : ∃ m b, (m = d.mem ∨ ∃ l, l.length = 64 ∧ m = memSetN d.mem d.queues[q].ringNext l) ∧
    d.appended q c = Die.roused { d with
      queues := d.queues.set q (d.queues[q].append { c with q := q }), mem := m, base := b } := by
  cases h : ringWrites d.queues[q] (d.queues[q].append { c with q := q }) with
  | none => exact ⟨d.mem, d.base, .inl rfl, by simp only [Die.appended, h]⟩
  | some w =>
    obtain ⟨haddr, hlen⟩ := ringWrites_some h
    exact ⟨_, memSetN d.base w.1 w.2, .inr ⟨w.2, hlen, by rw [← haddr]⟩, by simp only [Die.appended, h]⟩

/-- The fields that it leaves. -/
theorem Die.appended_eq : ∃ p e w m b, d.appended q c = { d with
    queues := d.queues.set q (d.queues[q].append { c with q := q })
    mem := m, base := b, phase := p, elapsed := e, wrote := w, found := [] } := by
  obtain ⟨m, b, -, h⟩ := Die.appended_cases q c d
  obtain ⟨p, e, w, hroused⟩ := Die.roused_eq _
  exact ⟨p, e, w, m, b, h.trans hroused⟩

@[simp] theorem Die.appended_queues :
    (d.appended q c).queues = d.queues.set q (d.queues[q].append { c with q := q }) := by
  obtain ⟨_, _, _, _, _, h⟩ := Die.appended_eq q c d
  rw [h]

@[simp] theorem Die.appended_waiters : (d.appended q c).waiters = d.waiters := by
  obtain ⟨_, _, _, _, _, h⟩ := Die.appended_eq q c d
  rw [h]

@[simp] theorem Die.appended_k : (d.appended q c).k = d.k := by
  obtain ⟨_, _, _, _, _, h⟩ := Die.appended_eq q c d
  rw [h]

@[simp] theorem Die.roused_mem : d.roused.mem = d.mem := by
  obtain ⟨_, _, _, h⟩ := Die.roused_eq d
  rw [h]

/-- A die that is not quiescent goes on with its part. -/
theorem Die.roused_running {d : Die} (h : d.phase ≠ .quiescent) :
    d.roused.phase = d.phase ∧ d.roused.elapsed = d.elapsed := by simp [Die.roused, h]

/-- So it does when a record enters a queue. -/
theorem Die.appended_running {d : Die} (h : d.phase ≠ .quiescent) :
    (d.appended q c).phase = d.phase ∧ (d.appended q c).elapsed = d.elapsed := by
  obtain ⟨m, b, -, happ⟩ := Die.appended_cases q c d
  rw [happ]
  exact Die.roused_running h

/-- A record that enters queue q stands at its tail. -/
theorem Die.appended_all : (d.appended q c).queues[q].all =
    d.queues[q].all ++ [{ c with q := q, record := c.record.setRank (wbits d.queues[q].cfg 3 0) }] := by
  simp [RunQ.append_all]

/-- The rings stay where they are. -/
theorem ringed_appended (a : Nat) : ringed (d.appended q c) a ↔ ringed d a := by
  have hring : ∀ x : Fin 64, (d.appended q c).queues[x].ring = d.queues[x].ring ∧
      (d.appended q c).queues[x].places = d.queues[x].places := by
    intro x
    by_cases hx : q = x
    · subst hx; simp [RunQ.places]
    · simp [RunQ.places, Fin.val_ne_of_ne hx]
  simp only [ringed, hring]

/-- A record that enters a queue is written in a ring, or nowhere. -/
theorem Die.appended_mem {d : Die} {a : Nat} (hm : memOk d.mem = true) (ha : ¬ringed d a) :
    memOk (d.appended q c).mem = true ∧ memGet (d.appended q c).mem a = memGet d.mem a := by
  obtain ⟨m, b, hwrite, happ⟩ := Die.appended_cases q c d
  rw [happ, Die.roused_mem]
  obtain rfl | ⟨l, hlen, rfl⟩ := hwrite
  · exact ⟨hm, rfl⟩
  · have hwithin := d.queues[q].ringNext_within
    have houtside : ¬(d.queues[q].ringNext ≤ a ∧ a < d.queues[q].ringNext + l.length) :=
      fun h => ha ⟨q, by omega, by omega⟩
    exact ⟨memOk_memSetN _ _ hm, by rw [memGet_memSetN _ _ _ hm, dif_neg houtside]⟩

end

/-! Waiters (R112). -/

/-- The waiters whose event does not hold wait on. -/
theorem Die.woken_waiters (f : WaitFor → Bool) (d : Die) :
    (d.woken f).waiters = d.waiters.filter fun w => !f w.what :=
  List.foldlRecOn (motive := fun x => x.waiters = d.waiters.filter fun w => !f w.what) _ _ rfl
    fun x hx _ _ => (Die.appended_waiters _ _ x).trans hx

/-- Those that wake are written in the rings alone. -/
theorem Die.woken_mem (f : WaitFor → Bool) {d : Die} {a : Nat} (hm : memOk d.mem = true) (ha : ¬ringed d a) :
    memGet (d.woken f).mem a = memGet d.mem a := by
  have hkept : memOk (d.woken f).mem = true ∧ ¬ringed (d.woken f) a ∧ memGet (d.woken f).mem a = memGet d.mem a := by
    refine List.foldlRecOn
      (motive := fun x : Die => memOk x.mem = true ∧ ¬ringed x a ∧ memGet x.mem a = memGet d.mem a) _ _ ⟨hm, ha, rfl⟩ ?_
    rintro x ⟨hok, hring, hget⟩ w -
    obtain ⟨hok', hget'⟩ := Die.appended_mem _ _ hok hring
    exact ⟨hok', fun h => hring ((ringed_appended _ _ x a).1 h), hget'.trans hget⟩
  exact hkept.2.2

/-- The waiters of the selected die after those whose event holds have left. -/
theorem settleWaiters_waiters (s : State) : (settleWaiters s).die.waiters =
    s.die.waiters.filter fun w => !waitHolds s (partSlot s) w.what := Die.woken_waiters ..

end Sys2Proof.Machine
end

section
/-! PROOFS. Suspension (spec/02 R19 to R21; spec/03 R33): what a suspension point checks at issue, its commit, and the
core and the record that it leaves; from these the statements O26 and O27. -/

namespace Sys2Proof.Machine

/-! The checks of a suspension point (R110, R112, R231, R273, R294). -/

section

variable {s : State}

/-- Some level of loop is active (R110). -/
abbrev inLoop (s : State) : Prop := ∃ l : Fin 3, s.core.arch.loops[l].act = true

/-- A suspension point inside a loop fails R110, and no other does. -/
theorem suspTrap_looping (h : inLoop s) : suspTrap s = some { cause := .loop, detail := 4 } := by
  obtain ⟨l, hl⟩ := h
  have hany : s.core.arch.loops.toList.any (·.act) = true :=
    List.any_eq_true.2 ⟨s.core.arch.loops[l], by simp, hl⟩
  simp [suspTrap, hany]

theorem suspTrap_none (h : ¬inLoop s) : suspTrap s = none := by
  have hany : s.core.arch.loops.toList.any (·.act) = false := by
    rw [List.any_eq_false]
    intro x hx hact
    obtain ⟨i, hi, rfl⟩ := Vector.mem_iff_getElem.1 (Vector.mem_toList_iff.1 hx)
    exact h ⟨⟨i, hi⟩, hact⟩
  simp [suspTrap, hany]

theorem queueTrap_none {q : Fin 64} (h : queueUsable s.die (partNum s) q = true) : queueTrap s q = none := by
  simp [queueTrap, h]
theorem queueTrap_qnum {q : Fin 64} (h : queueUsable s.die (partNum s) q = false) :
    queueTrap s q = some { cause := .queue, detail := 1, arg := q.val } := by simp [queueTrap, h]
theorem quotaTrap_none {q : Fin 64} (h : queueRoom s.die q = true) : quotaTrap s q = none := by simp [quotaTrap, h]
theorem quotaTrap_quota {q : Fin 64} (h : queueRoom s.die q = false) :
    quotaTrap s q = some { cause := .queue, detail := 3, arg := q.val } := by simp [quotaTrap, h]

/-- Whether a strand is crewed is what CREWID says. -/
theorem crewed_iff (c : Core) : crewed c = true ↔ c.crewid ≠ 0xFF := by simp [crewed]

/-! The three ways of a suspension point. -/

variable {i : Instr} {srcs : List Reg} {p : Susp} {run : BitVec 32} {pre : State → State} {t : Trap}

/-- Outside every loop, with no check of its own against it, its suspension begins. -/
theorem suspPoint_runsTo (h : exec i s = suspPoint srcs none p run pre s) (hl : ¬inLoop s) :
    RunsTo i s srcs [] fun u => suspend p run (pre u) :=
  runsTo_issue h rfl (by simp [suspTrap_none hl]) rfl rfl

/-- Inside a loop it traps LOOP, SUSPEND. -/
theorem suspPoint_looping (h : exec i s = suspPoint srcs none p run pre s) (hl : inLoop s) (hr : Runs s srcs []) :
    exec i s = .next (trapHere { cause := .loop, detail := 4 } s) :=
  h.trans (issue_traps hr rfl (by simp [suspTrap_looping hl]))

/-- Its own check comes before that of R110. -/
theorem suspPoint_traps (h : exec i s = suspPoint srcs (some t) p run pre s) (hr : Runs s srcs []) :
    exec i s = .next (trapHere t s) := h.trans (issue_traps hr rfl rfl)

end

/-! The own check of each suspension point. -/

section

variable {s : State} {a b c : SReg} {q : Fin 64} {cq : Fin 4} {n slot : Fin 16} {k : BitVec 8} {pa : Nat} {t : Trap}

theorem execBRvz_uncrewed (h : s.core.crewid = 0xFF) : exec (.bRvz a slot k) s =
    suspPoint [.s a] (some { cause := .rvz, detail := 3 }) (.rvz slot k) (runOf (regS s a)) id s := by
  simp [execBRvz, crewed, h]

theorem execBRvz_bad (h : s.core.crewid ≠ 0xFF)
    (hbad : rvzBad (crewOf s s.core.crewid.toNat).rvz[slot] (strandNum s.core) k = true) : exec (.bRvz a slot k) s =
    suspPoint [.s a] (some { cause := .rvz, detail := 1 }) (.rvz slot k) (runOf (regS s a)) id s := by
  simp only [exec_bRvz, execBRvz, (crewed_iff _).2 h, hbad]; rfl

theorem execBRvz_good (h : s.core.crewid ≠ 0xFF)
    (hgood : rvzBad (crewOf s s.core.crewid.toNat).rvz[slot] (strandNum s.core) k = false) : exec (.bRvz a slot k) s =
    suspPoint [.s a] none (.rvz slot k) (runOf (regS s a)) id s := by
  simp only [exec_bRvz, execBRvz, (crewed_iff _).2 h, hgood]; rfl

theorem execBYield_room (hu : queueUsable s.die (partNum s) q = true) (hr : queueRoom s.die q = true) :
    exec (.bYield a q) s = suspPoint [.s a] none (.yield q) (runOf (regS s a)) (reservePlaces q (· + 1)) s := by
  simp [execBYield, queueTrap_none hu, quotaTrap_none hr]

theorem execBYield_unusable (hu : queueUsable s.die (partNum s) q = false) :
    exec (.bYield a q) s = suspPoint [.s a] (some { cause := .queue, detail := 1, arg := q.val }) (.yield q)
      (runOf (regS s a)) (reservePlaces q (· + 1)) s := by
  simp [execBYield, queueTrap_qnum hu]

theorem execBYield_full (hu : queueUsable s.die (partNum s) q = true) (hr : queueRoom s.die q = false) :
    exec (.bYield a q) s = suspPoint [.s a] (some { cause := .queue, detail := 3, arg := q.val }) (.yield q)
      (runOf (regS s a)) (reservePlaces q (· + 1)) s := by
  simp [execBYield, queueTrap_none hu, quotaTrap_quota hr]

theorem execBWaitCrewq_crewed (h : s.core.crewid ≠ 0xFF) : exec (.bWaitCrewq b cq) s =
    suspPoint [.s b] none (.waitCrewq cq) (runOf (regS s b)) id s := by
  simp [execBWaitCrewq, (crewed_iff _).2 h]

theorem execBWaitCrewq_uncrewed (h : s.core.crewid = 0xFF) : exec (.bWaitCrewq b cq) s =
    suspPoint [.s b] (some { cause := .group, detail := 2 }) (.waitCrewq cq) (runOf (regS s b)) id s := by
  simp [execBWaitCrewq, crewed, h]

theorem execBWaitRecv_open (h : s.die.recv[n].isSome = true) : exec (.bWaitRecv b n) s =
    suspPoint [.s b] none (.waitRecv n) (runOf (regS s b)) id s := by
  simp only [exec_bWaitRecv, execBWaitRecv, h]; rfl

theorem execBWaitRecv_none (h : s.die.recv[n] = none) : exec (.bWaitRecv b n) s =
    suspPoint [.s b] (some { cause := .link, detail := 1, arg := n.val }) (.waitRecv n) (runOf (regS s b)) id s := by
  simp only [exec_bWaitRecv, execBWaitRecv, h]; rfl

theorem execBMwait_ok (h : watchAt s ((regS s a).toNat % 2 ^ 56) = .ok pa) : exec (.bMwait a b c) s =
    suspPoint [.s a, .s b, .s c] none (.mwait ((regS s a).toNat % 2 ^ 56) pa (regS s c)) (runOf (regS s b)) id s := by
  simp only [exec_bMwait, execBMwait, h]

theorem execBMwait_error (h : watchAt s ((regS s a).toNat % 2 ^ 56) = .error t) : exec (.bMwait a b c) s =
    suspPoint [.s a, .s b, .s c] (some t) (.mwait ((regS s a).toNat % 2 ^ 56) 0 (regS s c)) (runOf (regS s b)) id
      s := by
  simp only [exec_bMwait, execBMwait, h]

/-- A watched word is aligned (R294). -/
theorem watchAt_unaligned {w : Nat} (h : w % 8 ≠ 0) : watchAt s w = .error { cause := .memory, detail := 1 } := by
  simp [watchAt, h, memTrap]

end

/-- Settles O26: each point meets its own check or R110 by the equation of its issue. -/
theorem suspensionPointsAndTraps : Obligations.SuspensionPointsAndTraps := by
  unfold Obligations.SuspensionPointsAndTraps
  refine ⟨fun s a b c q cq n slot k pa => ?points, fun s a b c q cq n slot k e => ?traps⟩
  case points =>
    intro run w looping crewedNow placed
    refine ⟨?own, fun h => ?handler, fun hl hh hr => ?loop⟩
    case own =>
      have both {i : Instr} {srcs : List Reg} {p : Susp} {run : BitVec 32} {pre : State → State}
          (h : exec i s = suspPoint srcs none p run pre s) :
          (¬looping → RunsTo i s srcs [] fun u => suspend p run (pre u)) ∧
          (looping → Runs s srcs [] → exec i s = .next (trapHere { cause := .loop, detail := 4 } s)) :=
        ⟨suspPoint_runsTo h, suspPoint_looping h⟩
      simp only [List.forall_mem_cons]
      refine ⟨fun h => both (execBRvz_good h.1 h.2), fun h => both (execBYield_room h.1 h.2), fun _ => both rfl,
        fun _ => both rfl, fun h => both (execBWaitCrewq_crewed h), fun h => both (execBWaitRecv_open h),
        fun h => both (execBMwait_ok h), fun _ => both rfl, by simp⟩
    case handler =>
      refine runsTo_issue (exec_bEnd s) rfl ?_ rfl rfl
      obtain hl | hh := h
      · simp [suspTrap_none hl]
      · simp [hh]
    case loop => exact (exec_bEnd s).trans (issue_traps hr rfl (by simp [hh, suspTrap_looping hl]))
  case traps =>
    intro w traps
    exact ⟨fun h => ⟨suspPoint_traps (execBRvz_uncrewed h), suspPoint_traps (execBWaitCrewq_uncrewed h)⟩,
      fun h hbad => suspPoint_traps (execBRvz_bad h hbad), fun hu => suspPoint_traps (execBYield_unusable hu),
      fun hu hr => suspPoint_traps (execBYield_full hu hr), fun h => suspPoint_traps (execBWaitRecv_none h),
      fun h => suspPoint_traps (execBMwait_error (watchAt_unaligned h)), fun h => suspPoint_traps (execBMwait_error h)⟩

/-! The commit of a suspension (R21, R33). -/

section

variable {s : State}

/-- With nothing against it, every result lands, the segment commits, and what the commit performed lands too. -/
theorem commitSuspension_commits (p : Susp) (run : BitVec 32) (ht : trapInFlight (settleAsOf s).core.arch = none)
    (he : errTag (settleAsOf s).core (2 ^ 64 - 1) = none) (hm : matrixPending (settleAsOf s).core = false)
    (hlate : ((settleAsOf s).core.arch.inflight.any fun e => lateResult e.land) = false) :
    let s1 := landAll (settleAsOf s)
    let s2 := landAll (commitSegment s1.core.pc s1)
    commitSuspension p run s =
      finishSuspension p run (s2.upCore fun c => { c with wait := some (.susp p run) }) := by
  simp only [commitSuspension, ht, he, hm, hlate, Bool.or_self, Bool.false_eq_true, if_false]

/-- After it, once the engines are done and no late check fails, the strand leaves its core. -/
theorem finishSuspension_leaves {p : Susp} {run : BitVec 32} {r : Record} (hr : s.core.record = some r)
    (hd : enginesDone s.core = true) (hs : s.core.stampWait = false) (he : errTag s.core (2 ^ 64 - 1) = none)
    (hl : lateSuspTrap s p = none) :
    finishSuspension p run s = settleContext (leaveCore p run r (s.upCore fun c => { c with geo := [] })) := by
  simp only [finishSuspension, hr, hd, hs, he, hl]; rfl

/-! The core that a strand leaves, and its record (R19, R20). -/

variable (run : BitVec 32) (r : Record)

/-- The continuation that a strand leaves: its record as written back, and what its strand has seen. -/
abbrev leftCont (s : State) : Cont := ⟨writtenBack s r run, s.core.strand, s.core.q, none⟩

/-- The state with the core idle, before the record goes anywhere. -/
abbrev vacated (s : State) : State := idleCore (handOver s)

/-- A die's bytes are performed alike whatever is found and scheduled on it. -/
theorem performedByte_vacated (a : Nat) : performedByte (vacated s).die a = performedByte s.die a := rfl

/-- The last arrival of a rendezvous moves records alone. -/
@[simp] theorem arriveRvz_core (c : Nat) (n : Fin 16) (k : BitVec 8) (j ba : Nat) (x : Cont) (s : State) :
    (arriveRvz c n k j ba x s).core = s.core := by
  unfold arriveRvz
  extract_lets s1 w
  split
  · exact List.foldlRecOn (motive := fun t : State => t.core = s.core) _ _ rfl fun t ht _ _ => ht
  · rfl

/-- Wherever the record goes, the core is idle. -/
theorem leaveCore_core (p : Susp) : (leaveCore p run r s).core = (vacated s).core := by
  cases p with
  | mwait va pa e => simp only [leaveCore]; split <;> rfl
  | rvz n k => exact arriveRvz_core ..
  | done => simp only [leaveCore]; split <;> rfl
  | yield | waitTime | waitMbox | waitCrewq | waitRecv | phase => rfl

/-- B.YIELD gives back the place that it had reserved, and takes one at the tail of its queue (R273). -/
theorem leaveCore_yield_all (q : Fin 64) : (leaveCore (.yield q) run r s).die.queues[q].all = s.die.queues[q].all ++
    [{ leftCont run r s with
      q := q, record := (writtenBack s r run).setRank (wbits s.die.queues[q].cfg 3 0) }] := by
  have hplace (f : Nat → Nat) : (reservePlaces q f (vacated s)).die.queues[q] =
      { s.die.queues[q] with reserved := f s.die.queues[q].reserved } := by simp [reservePlaces, idleCore, handOver]
  have hleft := Die.appended_all q (leftCont run r s) (reservePlaces q (· - 1) (vacated s)).die
  rw [hplace] at hleft
  exact hleft

/-- A record that waits for an event stands among the waiters while the event does not hold (R112). -/
theorem mem_settleWaiters {w : Waiter} (hw : w ∈ s.die.waiters) (h : waitHolds s (partSlot s) w.what = false) :
    w ∈ (settleWaiters s).die.waiters := by
  rw [settleWaiters_waiters]
  exact List.mem_filter.2 ⟨hw, by simp [h]⟩

/-- B.WAIT.time whose time is not past waits (R112). -/
theorem leaveCore_waitTime {n : Nat} (h : s.die.earliest < n) :
    ⟨.time n, leftCont run r s⟩ ∈ (leaveCore (.waitTime n) run r s).die.waiters :=
  mem_settleWaiters (by simp) (decide_eq_false (Nat.not_le.2 h))

/-- B.PHASE waits for the next phase (R289). -/
theorem leaveCore_phase : ⟨.phase, leftCont run r s⟩ ∈ (leaveCore .phase run r s).die.waiters :=
  mem_settleWaiters (by simp) rfl

/-- B.MWAIT arms its watch while the word is as expected (R295). -/
theorem leaveCore_mwait {va pa : Nat} {e : Word}
    (h : natOf ((List.range 8).map fun k => performedByte s.die (pa + k)) = e.toNat) :
    (leaveCore (.mwait va pa e) run r s).die.watches = s.die.watches ++ [⟨va, pa, e, leftCont run r s, false⟩] := by
  simp only [leaveCore, performedByte_vacated, h, BEq.rfl]
  rfl

/-- B.END of an uncrewed strand drops its record (R113). -/
theorem leaveCore_done_uncrewed (h : crewed s.core = false) : leaveCore .done run r s = vacated s := by
  simp [leaveCore, h]

/-- That of a crewed one retires its member (R285). -/
theorem leaveCore_done_crewed (h : crewed s.core = true) : leaveCore .done run r s =
    (vacated s).upCrew s.core.crewid.toNat fun w => w.retire (strandNum s.core) := by simp [leaveCore, h]

end

/-- Settles O27: each clause is one step of the suspension, or one place where its record goes. -/
theorem suspensionCommits : Obligations.SuspensionCommits := by
  unfold Obligations.SuspensionCommits
  refine ⟨fun s p run => commitSuspension_commits p run, fun s p run r => finishSuspension_leaves,
    fun s r run => rfl, fun s => ⟨rfl, rfl, rfl⟩, fun s p run r => ?left⟩
  case left =>
    dsimp only
    have hidle : (leaveCore p run r s).core.record = none ∧ (leaveCore p run r s).core.wait = none := by
      rw [leaveCore_core]; exact ⟨rfl, rfl⟩
    exact ⟨hidle.1, hidle.2, fun q => leaveCore_yield_all run r q, fun n => leaveCore_waitTime run r,
      leaveCore_phase run r, fun va pa e => leaveCore_mwait run r, leaveCore_done_uncrewed run r,
      leaveCore_done_crewed run r⟩

end Sys2Proof.Machine
end

section
/-! PROOFS. A core's own events (spec/02 R18 to R23; spec/12 R231; spec/15 R271, R275, R276; spec/17 R287, R291; spec/18
R305, R308): what each makes of the state it meets, and from these the statement O54. -/

namespace Sys2Proof.Machine

section

variable {s : State}

/-! Deadlines (R231, R291). -/

/-- A slot without a deadline never times out. -/
theorem execRvzDeadline_none {crew slot : Fin 16} (h : (crewOf s crew).rvz[slot].deadline = none) :
    execRvzDeadline crew slot s = .next s := by simp only [execRvzDeadline, h]

/-- One whose deadline is surely past, with an arrival, returns its records. -/
theorem execRvzDeadline_some {crew slot : Fin 16} {t : Nat} (h : (crewOf s crew).rvz[slot].deadline = some t) :
    execRvzDeadline crew slot s = .next (
      if (crewOf s crew).rvz[slot].arr ≠ 0 ∧ t < s.die.earliest then
        returnArrived 2 (crewOf s crew).rvz[slot].conts (s.upRvz crew slot fun _ => .empty)
      else s) := by simp only [execRvzDeadline, h, Bool.and_eq_true, bne_iff_ne, decide_eq_true_eq]

theorem execCbarDeadline_eq (crew : Fin 16) : execCbarDeadline crew s = .next (
    if (crewOf s crew).arr ≠ 0 ∧ s.die.rvzto ≠ 0 ∧ (crewOf s crew).deadline < s.die.earliest then
      s.upCrew crew fun w => { w with arr := 0, hb := [], ends := w.ends ++ [none] }
    else s) := by simp [execCbarDeadline, and_assoc]

/-! Stops (R276, R308). -/

/-- A strand that would issue, with no bundle left in its budget. -/
abbrev outOfBudget (s : State) : Prop :=
  s.core.record.isSome = true ∧ s.core.halted = false ∧ s.core.wait = none ∧ s.core.dbgStop = false ∧
    s.core.budgetStop = false ∧ s.core.left = 0

theorem execBudget_eq : execBudget s = .next (if outOfBudget s then stopBudget s else s) := by
  simp [execBudget, outOfBudget, and_assoc]

theorem execBudgetRefill_eq (left : BitVec 32) : execBudgetRefill left s = .next (
    if s.core.budgetStop = true then s.upCore fun c => { c with left := left, budgetStop := false } else s) := rfl

/-! The ring of a queue (R271). -/

theorem execQueueOverflowMove_nil {q : Fin 64} (h : s.die.queues[q].overflow = []) :
    execQueueOverflowMove q s = .next s := by
  simp only [execQueueOverflowMove, State.upDie, h]

theorem RunQ.dropRing_cons {x : RunQ} {c : Cont} {l : List Cont} (h : x.overflow = c :: l) :
    x.dropRing = { x with overflow := l, ringHead := (x.ringHead + 1) % x.places } := by simp [RunQ.dropRing, h]

/-- The oldest ring record moves up when the hardware part has room. -/
theorem execQueueOverflowMove_cons {q : Fin 64} {c : Cont} {l : List Cont} (h : s.die.queues[q].overflow = c :: l) :
    execQueueOverflowMove q s = .next (
      if s.die.queues[q].hw.length < 32 then s.upDie fun d => { d with
        queues := d.queues.set q { d.queues[q] with
          hw := d.queues[q].hw ++ [c], overflow := l, ringHead := (d.queues[q].ringHead + 1) % d.queues[q].places } }
      else s) := by
  simp only [execQueueOverflowMove, State.upDie, h, RunQ.dropRing_cons h]
  split <;> rfl

/-! Fills (R18, R22, R275). -/

theorem execCoreFill_idle (h : mayFill s = false) : execCoreFill s = .next s := by simp [execCoreFill, h]

theorem execCoreFill_badHead {c : Cont} (h : mayFill s = true) (hc : badHead s = some c) :
    execCoreFill s = .next (badContinuation c s) := by simp [execCoreFill, h, hc]

theorem execCoreFill_fills (h : mayFill s = true) (hc : badHead s = none) :
    execCoreFill s = .next (settlePhase (eachCore fillCore s)) := by simp [execCoreFill, h, hc]

/-- No head is malformed when every head keeps the rules of records. -/
theorem badHead_none (h : ∀ p ∈ heads s, recordBad s.die.ncrew p.2.record = false) : badHead s = none := by
  simp only [badHead, Option.map_eq_none_iff, List.find?_eq_none]
  intro p hp
  simp [h p hp]

/-- A core whose last fill found nothing waits for its next fill event. -/
theorem fillCore_found (h : s.core.num ∈ s.die.found) : fillCore s = s := by simp [fillCore, h]

/-- The core is idle and due for a fill that its context allows. -/
structure FillDue (s : State) : Prop where
  allowed : mayFill s = true
  idle : s.core.record = none
  due : s.core.num ∉ s.die.found

/-- Nothing keeps such a fill from looking at the heads. -/
theorem FillDue.looks (h : FillDue s) :
    (!mayFill s || s.core.record.isSome || s.die.found.contains s.core.num) = false := by
  simp [h.allowed, h.idle, h.due]

theorem fillCore_badHead {c : Cont} (h : FillDue s) (hc : badHead s = some c) : fillCore s = badContinuation c s := by
  simp only [fillCore, h.looks, hc]; rfl

/-- It finds nothing where the core may pick nothing up, or no queue has an eligible record. -/
theorem fillCore_nothing (h : FillDue s) (hc : badHead s = none) (hn : mayPick s = false ∨ pickQueue s = none) :
    fillCore s = foundNothing s := by
  simp only [fillCore, h.looks, hc]
  obtain hn | hn := hn
  · simp only [hn]; rfl
  · simp [hn]

/-- Else it takes the head of the queue it picks. -/
theorem fillCore_picks {q : Fin 64} {f : Bool} {c : Cont} {k : Kernel} (h : FillDue s) (hc : badHead s = none)
    (hm : mayPick s = true) (hp : pickQueue s = some (q, f)) (hq : s.die.queues[q].all.head? = some c)
    (hk : kernelOf s c.record.kid = some k) : fillCore s = pickup c (afterPick q f s) := by
  simp only [fillCore, h.looks, hc, hm, hp, hq, hk]; rfl

/-! Pickup (R20). -/

/-- The scalar registers of a strand at its pickup. -/
theorem pickupArch_s (k : Nat) (r : Record) (n : Fin 64) : (pickupArch k r).s[n] =
    if n.val = 2 then r.arg0 else if n.val = 3 then r.arg1 else if n.val = 4 then r.arg2
    else if n.val = 5 then wordN r.status else if (6 ≤ n.val ∧ n.val ≤ 9) ∨ n.val = 0 then 0
    else Config.freeWord k n := by simp [pickupArch]

/-- s6 to s9 are 0 (R20). -/
theorem pickupArch_s_zero (k : Nat) (r : Record) {n : Fin 64} (h6 : 6 ≤ n.val) (h9 : n.val ≤ 9) :
    (pickupArch k r).s[n] = 0 := by
  rw [pickupArch_s, if_neg (by omega), if_neg (by omega), if_neg (by omega), if_neg (by omega),
    if_pos (.inl ⟨h6, h9⟩)]

/-- No tag has finished a command at a pickup. -/
theorem tagBits_clear {c : Core} (h : c.tags = Vector.replicate 64 .clear) : tagBits (·.done) c = 0 := by
  simp only [tagBits, h, Fin.getElem_fin, Vector.getElem_replicate]
  rfl

/-- A pickup changes the banks of the die's engines alone. -/
theorem pickup_mem (c : Cont) : (pickup c s).die.mem = s.die.mem := rfl

/-! The phase (R22, R287). -/

/-- The compute part of phase k stands at its beginning. -/
structure PhaseBegun (k : Nat) (d : Die) : Prop where
  phase : d.phase = .compute
  number : d.k = k
  elapsed : d.elapsed = 0

/-- Records that become runnable leave it there. -/
theorem PhaseBegun.appended {k : Nat} {d : Die} (h : PhaseBegun k d) (q : Fin 64) (c : Cont) :
    PhaseBegun k (d.appended q c) := by
  obtain ⟨hphase, helapsed⟩ := Die.appended_running q c (d := d) (by simp [h.phase])
  exact ⟨hphase.trans h.phase, (Die.appended_k q c d).trans h.number, helapsed.trans h.elapsed⟩

/-- So do those that return to their B.RVZ when a crew is cleared. -/
theorem PhaseBegun.clearCrew {k : Nat} (h : PhaseBegun k s.die) (c : Nat) : PhaseBegun k (clearCrew c s).die :=
  List.foldlRecOn (motive := fun t : State => PhaseBegun k t.die) _ _ ⟨h.phase, h.number, h.elapsed⟩
    fun _ ht _ _ => ht.appended _ _

/-- The next phase begins with its compute part. -/
theorem nextPhase_begun (s : State) : PhaseBegun (s.die.k + 1) (nextPhase s).die := by
  unfold nextPhase
  extract_lets changed s1 s2 l s3
  have h2 : PhaseBegun (s.die.k + 1) s2.die := by
    refine List.foldlRecOn (motive := fun t : State => PhaseBegun (s.die.k + 1) t.die) _ _ ⟨rfl, rfl, rfl⟩ ?_
    intro t ht c _
    split
    · exact ht.clearCrew c
    · exact ht
  exact List.foldlRecOn (motive := fun t : State => PhaseBegun (s.die.k + 1) t.die) _ _
    ⟨h2.phase, h2.number, h2.elapsed⟩ fun _ ht _ _ => ht.appended _ _

/-- Outside the exchange part, nothing of it ends. -/
theorem execExchangeEnd_idle (h : s.die.phase ≠ .exchange) : execExchangeEnd s = .next s := by
  simp [execExchangeEnd, h]
theorem execExchangeTimeExpiry_idle (h : s.die.phase ≠ .exchange) : execExchangeTimeExpiry s = .next s := by
  simp [execExchangeTimeExpiry, h]

/-- PHASE_LATE leaves the copies as they are. -/
theorem exchangeLate_xch (k : Nat) : (exchangeLate k s).die.xch = s.die.xch := by
  unfold exchangeLate
  split
  · rfl
  · split
    · rfl
    · split <;> rfl

/-- With no copy queued, the end of the exchange part begins the next phase. -/
theorem execExchangeEnd_nil (h : s.die.phase = .exchange) (hx : s.die.xch = []) :
    execExchangeEnd s = .next (nextPhase (exchangeLate 1 s)) := by
  have hnone : (exchangeLate 1 s).upDie (fun d => { d with xch := [] }) = exchangeLate 1 s := by
    have hlate := (exchangeLate_xch 1).trans hx
    simp only [State.upDie, ← hlate]
  simp [execExchangeEnd, h, hx, runXchs, hnone]

/-- PHASE_LATE is posted once, when the part has taken the time that is stated for it. -/
theorem execExchangeTimeExpiry_late {l : Nat × Nat} (h : s.die.phase = .exchange) (hx : s.die.xch ≠ [])
    (hl : phaseLens s s.die.k = some l) : execExchangeTimeExpiry s = .next (
      if s.die.latePosted = false ∧ l.2 ≤ bundleNs s.die.elapsed then
        (postLate (bundleNs s.die.elapsed - l.2) s).upDie fun d => { d with latePosted := true }
      else s) := by
  have hrun : execExchangeTimeExpiry s = .next (exchangeLate 0 s) := by simp [execExchangeTimeExpiry, h, hx]
  rw [hrun, exchangeLate]
  cases hp : s.die.latePosted <;> simp [hl]

/-- One of two states, as a condition has it. -/
theorem due_of_eq {i : Instr} {p : Prop} [Decidable p] {t : State} (h : exec i s = .next (if p then t else s)) :
    (p → exec i s = .next t) ∧ (¬p → exec i s = .next s) :=
  ⟨fun hp => h.trans (by rw [if_pos hp]), fun hp => h.trans (by rw [if_neg hp])⟩

end

/-- Settles O54: each clause is a branch of the equation of its event. -/
theorem coreEvents : Obligations.CoreEvents := by
  unfold Obligations.CoreEvents
  intro s crew slot left q w r core due
  refine ⟨fun t ht => due_of_eq (execRvzDeadline_some ht), execRvzDeadline_none, due_of_eq (execCbarDeadline_eq crew),
    ?expiry, due_of_eq execBudget_eq, due_of_eq (execBudgetRefill_eq left), rfl, execQueueOverflowMove_nil,
    fun c l h => due_of_eq (execQueueOverflowMove_cons h), execCoreFill_idle, fun hm => ?fill, fun hm hr hf => ?fillCore,
    fillCore_found, fun c => ?pickup, fun h => ⟨execExchangeEnd_idle h, execExchangeTimeExpiry_idle h⟩,
    execExchangeEnd_nil, ?phase, fun l h hx hl => due_of_eq (execExchangeTimeExpiry_late h hx hl)⟩
  case expiry =>
    exact ⟨settleWaiters s, rfl, rfl, settleWaiters_waiters s, fun hm a ha => Die.woken_mem _ hm ha⟩
  case fill =>
    exact ⟨fun c => execCoreFill_badHead hm, fun h => execCoreFill_fills hm (badHead_none h)⟩
  case fillCore =>
    have hdue : FillDue s := ⟨hm, hr, hf⟩
    exact ⟨fun c => fillCore_badHead hdue, fillCore_nothing hdue, fun f c k => fillCore_picks hdue⟩
  case pickup =>
    intro t a
    have hs : ∀ n : Fin 64, a.s[n] = (pickupArch s.free c.record).s[n] := fun _ => rfl
    exact ⟨rfl, (hs 2).trans (pickupArch_s _ _ 2), (hs 3).trans (pickupArch_s _ _ 3), (hs 4).trans (pickupArch_s _ _ 4),
      (hs 5).trans (pickupArch_s _ _ 5), fun n h6 h9 => (hs n).trans (pickupArch_s_zero _ _ h6 h9),
      rfl, rfl, rfl, rfl, rfl, BitVec.toNat_ofNat .., rfl, rfl, rfl, rfl, rfl, rfl, tagBits_clear rfl, pickup_mem c⟩
  case phase =>
    have h := nextPhase_begun s
    exact ⟨h.phase, h.number, h.elapsed⟩

end Sys2Proof.Machine
end

section
/-! PROOFS. Every step answers a next state (spec/03 R36, R37; spec/12 R227): so does each instruction, and so the
issue of a bundle around its syllables; from these the statement O5. -/

namespace Sys2Proof.Machine

/-- An outcome that is a next state. -/
abbrev Answers (o : Host.Outcome State Fault Refusal) : Prop := ∃ t, o = .next t

/-- The two steps of a deprecated opcode freeze, trap or take their effect (R65). -/
theorem issueSteps_next (s : State) (y0 y1 : Syl) (f : State → State) : Answers (issueSteps s y0 y1 f) := by
  unfold issueSteps
  split
  · exact ⟨_, rfl⟩
  · split
    · exact ⟨_, rfl⟩
    · split <;> exact ⟨_, rfl⟩

/-! The shapes that syllables share: each is the issue of one syllable. -/

theorem pBin_next (f d a b s) : Answers (pBin f d a b s) := by
  dsimp only [pBin]; exact issue_next ..
theorem loopStart_next (lvl pipe k1 a off s) : Answers (loopStart lvl pipe k1 a off s) := by
  dsimp only [loopStart]; exact issue_next ..
theorem suspPoint_next (srcs trap p run pre s) : Answers (suspPoint srcs trap p run pre s) := by
  dsimp only [suspPoint]; exact issue_next ..
theorem tagWait_next (ready d a s) : Answers (tagWait ready d a s) := by
  dsimp only [tagWait]; exact issue_next ..
theorem vReduce_next (t d a m outs s) : Answers (vReduce t d a m outs s) := by
  dsimp only [vReduce]; exact issue_next ..
theorem matSyl_next (reads k req hold more s) : Answers (matSyl reads k req hold more s) := by
  dsimp only [matSyl]; exact issue_next ..
theorem copySyl_next (srcs k ta tb tag s) : Answers (copySyl srcs k ta tb tag s) := by
  dsimp only [copySyl]; exact issue_next ..
theorem sendSyl_next (srcs stamp ta n tag s) : Answers (sendSyl srcs stamp ta n tag s) := by
  dsimp only [sendSyl]; exact issue_next ..
theorem ppSyl_next (cmp k ta tb tag fn s) : Answers (ppSyl cmp k ta tb tag fn s) := by
  dsimp only [ppSyl]; exact issue_next ..
theorem decodeSyl_next (op ta tag s) : Answers (decodeSyl op ta tag s) := by
  dsimp only [decodeSyl]; exact issue_next ..
theorem loadSyl_next (srcs dsts l k put s) : Answers (loadSyl srcs dsts l k put s) := by
  dsimp only [loadSyl]; exact issue_next ..
theorem orderSyl_next (srcs d k x n mk s) : Answers (orderSyl srcs d k x n mk s) := by
  dsimp only [orderSyl]; exact issue_next ..

/-! Instructions, bundles and moves. -/

/-- Every instruction answers a next state: an event by what it makes of the state, a syllable by its issue. -/
theorem exec_next (i : Instr) (s : State) : Answers (exec i s) := by
  cases i with
  | rvzDeadline | cbarDeadline | waitTimeExpiry | exchangeEnd | exchangeTimeExpiry | geoRecordFill | modeSwitch
  | matrixCommandStart | matrixCommandFinish | postprocComplete | copyCommandStart | copyComplete | copyFault
  | copyDemandPark | ringSetPerformed | decodeEngineAssign | decodeRecordEmit | decodePageEnd | streamSlotPresent
  | creditReturn | reserve | tune | tuneLocked | linkFail | linkError | circuitDrain | circuitDrainComplete
  | circuitRelease | pminWrite | partminWrite | flitArrival | flitLeavesIngress | debugRelease | budget | budgetRefill
  | coreFill | queueOverflowMove | submit | verificationEnd | load | retire | microcodeUpdate | formPartition
  | partitionRelease | create | start | preempt | prelimitExpiry | halt | resume | swap | swapComplete | restore
  | restoreComplete | kill | killScrubComplete | resolve | pageTableUpdate | offline | evacuationComplete | online
  | domainFloor | clockWide | resetRelease | bistComplete | authComplete | authTimeout | railFault | steppingTick
  | thermRefresh | astepWrite | mboxWrite | mboxstsWrite | hostopen | hostclose | hostCxlRead | hostCxlWrite
  | getVersion | getCapabilities | negotiateAlgorithms | getDigests | getCertificate | challenge | getMeasurements
  | scrubError | registerWrite => exact ⟨_, rfl⟩
  | zw1Madd | zw1Ldpair | zw1Vsum | zw1Dbnz =>
    dsimp only [exec, execZw1Madd, execZw1Ldpair, execZw1Vsum, execZw1Dbnz]
    exact issueSteps_next ..
  | sChk x =>
    dsimp only [exec]
    cases x <;> exact issue_next ..
  | bRep reg =>
    dsimp only [exec, execBRep]
    cases reg <;> exact issue_next ..
  | bMwait a b c =>
    simp only [exec_bMwait, execBMwait]
    split <;> exact issue_next ..
  | mGld cls ty d a c imm =>
    simp only [exec_mGld, execMGld]
    split
    · split <;> exact issue_next ..
    · exact issue_next ..
  | mGst ty a b c imm =>
    simp only [exec_mGst, execMGst]
    split
    · split <;> exact issue_next ..
    · exact issue_next ..
  | sPand | sPor | sPxor => dsimp only [exec]; exact pBin_next ..
  | bLoop | bPloop => dsimp only [exec]; exact loopStart_next ..
  | bYield => dsimp only [exec]; exact suspPoint_next ..
  | bWany | bWall => dsimp only [exec]; exact tagWait_next ..
  | vRsum | vRmax | vRmin | vRowsum | vColsum | vGmax => dsimp only [exec]; exact vReduce_next ..
  | xMma | xMmac => dsimp only [exec, execXMma, execXMmac, mmaSyl]; exact matSyl_next ..
  | xAclr | xAmov | xAload | xAsave => dsimp only [exec]; exact matSyl_next ..
  | cCopy | cCopy2d | cFill | cFill2d | cGath | cScat | cXpose | cPlane | cConv | cXch =>
    dsimp only [exec]; exact copySyl_next ..
  | lSend | lSendst => dsimp only [exec]; exact sendSyl_next ..
  | dPp | dPpcmp => dsimp only [exec]; exact ppSyl_next ..
  | dJpeg | dG4 | dRaw => dsimp only [exec]; exact decodeSyl_next ..
  | mLd | mLdp | mVld | mVlds => dsimp only [exec, execMLdp]; exact loadSyl_next ..
  | mLdaq | mAadd | mAmin | mAmax | mAand | mAor | mAxor | mSwap | mCas =>
    dsimp only [exec]; exact orderSyl_next ..
  | sClk | bFfr | vCmp | vCvt | vMaxexp | vPxpose | fLq | fLscale | mVgath | mVldb | mVstu | mStrl | mSts | mLdas
  | cTclr | lRecv | dRingFree =>
    dsimp only [exec, execSClk, execBFfr, execVCmp, execVCvt, execVMaxexp, execVPxpose, execFLq, execFLscale,
      execMVgath, execMVldb, execMVstu, execMStrl, execMSts, execMLdas, execCTclr, execLRecv, execDRingFree]
    exact issue_next ..
  | _ =>
    dsimp only [exec]
    exact issue_next ..

/-- So does a syllable with a true guard, the trap of its guard included. -/
theorem runSyl_next (s : State) (x : Slotted) : Answers (runSyl s x) := by
  unfold runSyl
  extract_lets o
  obtain ⟨t, ht⟩ : Answers o := exec_next ..
  split
  · split
    · exact ⟨t, ht⟩
    · exact ⟨_, rfl⟩
  · exact ⟨t, ht⟩

/-- So do the effects of syllables one after another. -/
theorem runAll_next (l : List Slotted) (s : State) : Answers (runAll l s) := by
  induction l generalizing s with
  | nil => exact ⟨s, rfl⟩
  | cons x l ih =>
    obtain ⟨t, ht⟩ := runSyl_next s x
    simp only [runAll, ht]
    split
    · exact ih t
    · exact ⟨t, rfl⟩

/-- A list of next states holds no stop. -/
theorem firstStop_none {l : List (Host.Outcome State Fault Refusal)} (h : ∀ o ∈ l, Answers o) :
    firstStop l = none := by
  induction l with
  | nil => rfl
  | cons o l ih =>
    obtain ⟨⟨t, rfl⟩, hl⟩ := List.forall_mem_cons.1 h
    exact ih hl

/-- What stops a bundle at its checks is a freeze or a trap, a next state (R36). -/
theorem checkAll_next {s : State} {l : List Slotted} {o : Host.Outcome State Fault Refusal}
    (h : checkAll s l = some o) : Answers o := by
  have hstop : firstStop (l.map (runSyl s)) = none := firstStop_none fun o ho => by
    obtain ⟨x, -, rfl⟩ := List.mem_map.1 ho
    exact runSyl_next s x
  simp only [checkAll, hstop] at h
  split at h
  · exact ⟨_, (Option.some.inj h).symm⟩
  · split at h
    · exact ⟨_, (Option.some.inj h).symm⟩
    · split at h
      · exact ⟨_, (Option.some.inj h).symm⟩
      · cases h

theorem endBundle_next (s0 : State) (l : List Slotted) (s : State) : Answers (endBundle s0 l s) := by
  obtain ⟨t, ht⟩ := runAll_next (byRank 5 7 l) s
  simp only [endBundle, ht]
  split <;> exact ⟨_, rfl⟩

theorem runBundle_next (l act : List Slotted) (s : State) : Answers (runBundle l act s) := by
  unfold runBundle
  extract_lets s1 early
  obtain ⟨t, ht⟩ := runAll_next (early.filter fun x => !isTclr x) s1
  obtain ⟨u, hu⟩ : Answers (if early.any isTclr then runAll early s1 else .next t) := by
    split
    · exact runAll_next early s1
    · exact ⟨t, rfl⟩
  simp only [ht, hu]
  split
  · exact ⟨_, rfl⟩
  · exact ⟨_, rfl⟩
  · exact endBundle_next ..

/-- The bundle at the pc traps, freezes or issues. -/
theorem issueBundle_next (s : State) : Answers (issueBundle s) := by
  unfold issueBundle
  extract_lets ba
  split
  · exact ⟨_, rfl⟩
  · extract_lets s1 act
    split
    · next h => exact checkAll_next h
    · exact runBundle_next ..

theorem nextBundle_next (s : State) : Answers (nextBundle s) := by
  unfold nextBundle
  extract_lets s1
  split
  · exact ⟨_, rfl⟩
  · split
    · exact ⟨_, rfl⟩
    · split
      · exact ⟨_, rfl⟩
      · exact issueBundle_next s1

/-- A core that is held back waits, halts or traps; any other goes on to its next bundle. -/
theorem coreMove_next (s : State) : Answers (coreMove s) := by
  unfold coreMove
  repeat' split
  case h_2 => exact nextBundle_next s
  all_goals exact ⟨_, rfl⟩

theorem moveStep_next (m : Move) (s : State) : Answers (moveStep m s) := by
  cases m with
  | core d c => exact coreMove_next _
  | event i =>
    simp only [moveStep]
    split
    · exact ⟨s, rfl⟩
    · exact exec_next i s
  | select | ingress | clock | elapse | upset => exact ⟨_, rfl⟩

/-- Settles O5: the first move of the schedule, or the selected core's next bundle, answers a next state. -/
theorem stepAnswersNext : Obligations.StepAnswersNext := by
  unfold Obligations.StepAnswersNext
  intro s
  unfold step
  split
  · exact coreMove_next s
  · exact moveStep_next ..

end Sys2Proof.Machine
end

section
/-! PROOFS. The values at reset (spec/20 R337): the permit minima of an ingress, and from them the refutation of O8. -/

namespace Sys2Proof.Machine

/-- The second field of PMIN is 256 at reset and stands in bits [23:12], as R337 lays it out. -/
theorem reset_pmin_ctrl : wbits State.reset.die.ingress.pmin 23 12 = 256 := rfl

/-- Refutes O8: at reset PMIN holds the minima 1,024, 256, 64, 256 and 64 in its fields of 12 bits, from bits 0, 12, 24,
36 and 48 (R337); the statement puts all but the first 4 bits higher, where bits [23:12] would read 0. -/
theorem not_resetState : ¬ Obligations.ResetState := by
  unfold Obligations.ResetState
  intro h
  obtain ⟨-, hdies, -⟩ := h
  obtain ⟨-, -, -, -, -, -, -, -, -, -, -, -, hpmin, -⟩ := hdies State.reset.die (.inl rfl)
  have hctrl := reset_pmin_ctrl
  rw [hpmin] at hctrl
  exact absurd hctrl (by decide)

end Sys2Proof.Machine
end

section
/-! PROOFS. What an instruction that only computes leaves unchanged (spec/03 R27, R30; spec/04 R58): each shape of
syllable moves results in flight alone, and from these the statement O21. -/

namespace Sys2Proof.Machine

/-- Where an outcome is that of a syllable that has taken its effect, it differs from a state in results in flight and
ports alone. -/
def FlightOnly (s : State) (o : Host.Outcome State Fault Refusal) : Prop :=
  ∀ t, o = .next t → Done t → OnlyFlight s t

section

variable {s : State}

theorem flightOnly_issue {y : Syl} {f : State → State} (hf : ∀ u, OnlyFlight u (f u)) :
    FlightOnly s (issue s y f) :=
  fun _ => issue_onlyFlight hf

/-- The effect of an expansion takes place on the state that the pops of both its steps leave (R65). -/
theorem flightOnly_issueSteps {y0 y1 : Syl} {f : State → State} (hf : ∀ u, OnlyFlight u (f u)) :
    FlightOnly s (issueSteps s y0 y1 f) := by
  intro t h hd
  unfold issueSteps at h
  split at h
  · cases h; simp [Done] at hd
  · split at h
    · cases h; simp [Done] at hd
    · split at h
      · cases h; simp [Done] at hd
      · cases h
        exact (onlyFlight_popAll ..).trans (hf _)

/-! Effects beyond one result. -/

/-- What a wait of tags makes known (R204). -/
theorem onlyFlight_observe (m : Word) (u : State) : OnlyFlight u (observe m u) := rfl

/-- The trap that the data of a step's load meets, in flight (R65). -/
theorem onlyFlight_stepLanding (l : Loaded) (b : Bool) (u : State) : OnlyFlight u (stepLanding l b u) := by
  unfold stepLanding
  split <;> rfl

/-! The shapes of computing syllables. -/

theorem flightOnly_sBin {k f d a b} : FlightOnly s (sBin k f d a b s) :=
  flightOnly_issue fun _ => onlyFlight_wrS ..

theorem flightOnly_sUn {f d a} : FlightOnly s (sUn f d a s) :=
  flightOnly_issue fun _ => onlyFlight_wrS ..

theorem flightOnly_pBin {f d a b} : FlightOnly s (pBin f d a b s) :=
  flightOnly_issue fun _ => onlyFlight_wrP ..

theorem flightOnly_tagWait {ready d a} : FlightOnly s (tagWait ready d a s) := by
  dsimp only [tagWait]
  exact flightOnly_issue fun _ => (onlyFlight_observe ..).trans (onlyFlight_wrS ..)

theorem flightOnly_elemwise {u more t k m d srcs f} : FlightOnly s (elemwise u more t k m d srcs f s) :=
  flightOnly_issue fun _ => onlyFlight_velem ..

theorem flightOnly_vReduce {t d a m outs} : FlightOnly s (vReduce t d a m outs s) := by
  dsimp only [vReduce]
  exact flightOnly_issue fun _ => (onlyFlight_wrV ..).trans (onlyFlight_raise ..)

theorem flightOnly_loadSyl {srcs dsts : List Reg} {l : Loaded} {k : Nat} {put : List Byte → State → State}
    (hput : ∀ b u, OnlyFlight u (put b u)) : FlightOnly s (loadSyl srcs dsts l k put s) := by
  dsimp only [loadSyl]
  exact flightOnly_issue fun _ => (onlyFlight_landing ..).trans (hput ..)

end

/-- An instruction that only computes moves its results in flight and the ports that it names. -/
theorem exec_flightOnly {i : Instr} {s : State} (hc : computes i = true) : FlightOnly s (exec i s) := by
  cases i with
  | sNop | mPref | mTinv | xFence | dDfence =>
    dsimp only [exec]
    exact flightOnly_issue fun _ => .refl _
  | sChk x =>
    dsimp only [exec]
    cases x <;> exact flightOnly_issue fun _ => .refl _
  | sAdd | sSub | sAnd | sOr | sXor | sAndn | sShl | sShr | sSar | sRor | sMin | sMax | sMinu | sMaxu | sBfi | sMul
  | sMulh | sMulhu | sLea =>
    dsimp only [exec]
    exact flightOnly_sBin
  | sAddi | sMovhi | sAndi | sOri | sXori | sShli | sShri | sSari | sAbs | sNeg | sClz | sCtz | sPopc | sBswap | sSext
  | sZext | sBfx | sMov =>
    dsimp only [exec]
    exact flightOnly_sUn
  | sPand | sPor | sPxor =>
    dsimp only [exec]
    exact flightOnly_pBin
  | sMovi | sSel | sMadd | sCrd | sGrd | sSpl | sMskExt | bGroupQuery | vExtr | vMcnt | fLqcnt | xStat | dPpact
  | dPortCount | dDstat | lPeek | lStat =>
    dsimp only [exec]
    exact flightOnly_issue fun _ => onlyFlight_wrS ..
  | sCmp | sCmpi | sPnot | sPset =>
    dsimp only [exec]
    exact flightOnly_issue fun _ => onlyFlight_wrP ..
  | sMskIns | sMski | vMset | vMand =>
    dsimp only [exec]
    exact flightOnly_issue fun _ => onlyFlight_wrM ..
  | vSel | vIns | vCmprs | fTblrd | fGeoidx | vAread =>
    dsimp only [exec]
    exact flightOnly_issue fun _ => onlyFlight_wrV ..
  | sCwr | sGwr | sSps | fTblwr | vAwrite =>
    dsimp only [exec]
    exact flightOnly_issue fun _ => onlyFlight_flight ..
  | fGeo =>
    dsimp only [exec]
    exact flightOnly_issue fun _ => rfl
  | vAdd | vSub | vMul | vMulh | vFma | vFms | vFnma | vMin | vMax | vAbs | vNeg | vClamp | vPopc | vClz | vRound
  | vScale | vAvg | vAbd | vAnd | vOr | vXor | vNot | vShl | vShr | vSar | vFshl | vFshr | vMov | vBcast | vIota | vPerm
  | vSlide
  | vZip | fTbl | fRcp | fRsq | fSqrt | fDiv | fExp2 | fLog2 | fExp | fLog | fLdq =>
    dsimp only [exec]
    exact flightOnly_elemwise
  | vRsum | vRmax | vRmin | vRowsum | vColsum | vGmax =>
    dsimp only [exec]
    exact flightOnly_vReduce
  | vCmp =>
    dsimp only [exec, execVCmp]
    exact flightOnly_issue fun _ => (onlyFlight_wrM ..).trans (onlyFlight_raise ..)
  | vCvt | vPxpose =>
    dsimp only [exec, execVCvt, execVPxpose]
    exact flightOnly_issue fun _ => (onlyFlight_wrV ..).trans (onlyFlight_raise ..)
  | vMaxexp =>
    dsimp only [exec, execVMaxexp]
    exact flightOnly_issue fun _ => (onlyFlight_flight ..).trans (onlyFlight_raise ..)
  | sClk =>
    dsimp only [exec, execSClk]
    exact flightOnly_issue fun _ => (onlyFlight_wrS ..).trans (onlyFlight_wrS ..)
  | bWany | bWall =>
    dsimp only [exec]
    exact flightOnly_tagWait
  | bFfr =>
    dsimp only [exec, execBFfr]
    refine flightOnly_issue fun _ => ?_
    split
    · exact onlyFlight_wrS ..
    · exact (onlyFlight_observe ..).trans (onlyFlight_wrS ..)
  | fLscale =>
    dsimp only [exec, execFLscale]
    refine flightOnly_issue fun _ => ?_
    split
    · exact (onlyFlight_wrS ..).trans (onlyFlight_raise ..)
    · exact onlyFlight_wrS ..
  | fLq =>
    dsimp only [exec, execFLq]
    refine flightOnly_issue fun _ => ?_
    split
    · exact onlyFlight_wrV ..
    · exact ((onlyFlight_wrV ..).trans (onlyFlight_flight ..)).trans (onlyFlight_statFlight ..)
  | dPortSkip =>
    dsimp only [exec, execDPortSkip]
    refine flightOnly_issue fun u => ?_
    split
    · exact .refl u
    · refine OnlyFlight.trans ?_ (onlyFlight_wrS ..)
      rfl
  | mLd =>
    dsimp only [exec, execMLd]
    exact flightOnly_loadSyl fun _ _ => onlyFlight_wrS ..
  | mLdp =>
    dsimp only [exec, execMLdp]
    exact flightOnly_loadSyl fun _ _ => (onlyFlight_wrS ..).trans (onlyFlight_wrS ..)
  | mVld | mVlds =>
    dsimp only [exec, execMVld, execMVlds]
    exact flightOnly_loadSyl fun _ _ => onlyFlight_wrV ..
  | mVldb | mVgath =>
    dsimp only [exec, execMVldb, execMVgath]
    exact flightOnly_issue fun _ => (onlyFlight_landing ..).trans (onlyFlight_wrV ..)
  | mGld =>
    simp only [exec_mGld, execMGld]
    split
    · split
      · exact flightOnly_issue fun _ => (onlyFlight_wrS ..).trans (onlyFlight_wrP ..)
      · exact flightOnly_issue fun _ => .refl _
    · exact flightOnly_loadSyl fun _ _ => (onlyFlight_wrS ..).trans (onlyFlight_wrP ..)
  | mLdas =>
    dsimp only [exec, execMLdas]
    refine flightOnly_issue fun u => ?_
    split
    · exact onlyFlight_awaited ..
    · exact .refl u
  | zw1Madd | zw1Vsum =>
    dsimp only [exec, execZw1Madd, execZw1Vsum]
    exact flightOnly_issueSteps fun _ => onlyFlight_wrS ..
  | zw1Ldpair =>
    dsimp only [exec, execZw1Ldpair]
    exact flightOnly_issueSteps fun _ => ((onlyFlight_stepLanding ..).trans (onlyFlight_stepLanding ..)).trans
      ((onlyFlight_wrS ..).trans (onlyFlight_wrS ..))
  | _ => cases hc

/-- Settles O21: an effect that moves results in flight alone, and the plain reads and writes of registers. -/
theorem computingFrame : Obligations.ComputingFrame := by
  unfold Obligations.ComputingFrame
  exact ⟨fun _ _ t hc h hd => exec_flightOnly hc t h hd, fun _ s h => reads_plain h s,
    fun _ k x s h => wrS_plain h k x s, fun _ k x s h => wrV_plain h k x s, fun _ _ _ => rfl⟩

end Sys2Proof.Machine
end

section
/-! PROOFS. Landing (spec/03 R30, R32, R33): what one result makes of the registers, which results land at the end of a
bundle and in which order; from these the statement O10. -/

namespace Sys2Proof.Machine

/-! Bits packed one by one. -/

/-- Bit i of packed bits is the lowest bit of member i, and 0 past the last. -/
theorem packN_one_testBit (l : List Nat) (i : Nat) : (packN 1 l).testBit i = (l[i]?.getD 0).testBit 0 := by
  induction l generalizing i with
  | nil => simp [packN]
  | cons x l ih =>
    cases i with
    | zero => simp [packN]
    | succ i =>
      have htail : (x % 2 ^ 1 + 2 ^ 1 * packN 1 l) / 2 = packN 1 l := by omega
      simp only [packN, Nat.testBit_succ, htail, List.getElem?_cons_succ]
      exact ih i

/-! One result (R30, R56). -/

/-- What a result makes of the checkpointed state; results for ports, views, tiles and statistics leave it. -/
def Arch.land (a : Arch) : Land → Arch
  | .s r x => if r.val == 0 then a else { a with s := a.s.set r x }
  | .v r x => { a with v := a.v.set r x }
  | .p r x => { a with p := setPred a r x }
  | .m r x => if r.val == 0 then a else { a with m := a.m.set r x }
  | .creg c x => a.setCreg c x
  | .greg g x => a.setGreg g x
  | .spill k x => { a with spill := a.spill.setN (8 * k.val) (bytesOf 8 x.toNat) }
  | .lqo x => { a with lqo := x }
  | .table k x => { a with tables := a.tables.setN (1024 * k.val) (toBytes x) }
  | .push .. | .gain _ | .tile .. | .stat .. | .ordPend .. | .asOf .. | .trap .. => a

@[simp] theorem putTile_core (k q : Nat) (x : VWord) (s : State) : (putTile k q x s).core = s.core := by
  unfold putTile
  split <;> rfl

@[simp] theorem Core.stat_arch (c : Core) (k u n ba : Nat) : (c.stat k u n ba).arch = c.arch := by
  unfold Core.stat
  split <;> rfl

theorem landOne_arch (s : State) (l : Land) : (landOne s l).core.arch = s.core.arch.land l := by
  cases l with
  | s r x | m r x =>
    simp only [landOne, Arch.land]
    split <;> rfl
  | tile => simp [landOne, Arch.land]
  | stat => simp [landOne, Arch.land]
  | _ => rfl

theorem foldl_landOne_arch (ls : List Land) (s : State) :
    (ls.foldl landOne s).core.arch = ls.foldl Arch.land s.core.arch := by
  induction ls generalizing s with
  | nil => rfl
  | cons l ls ih => rw [List.foldl_cons, List.foldl_cons, ih, landOne_arch]

/-- The fields that a control register's write can move. -/
theorem Arch.setCreg_eq (a : Arch) (c : CReg) (x : Word) :
    ∃ h q b l, a.setCreg c x = { a with shape := h, qsl := q, ttbase := b, loops := l } := by
  cases c <;> exact ⟨_, _, _, _, rfl⟩

/-- The fields that a staging register's write can move. -/
theorem Arch.setGreg_eq (a : Arch) (g : GReg) (x : Word) :
    ∃ m c d l, a.setGreg g x = { a with mg := m, cg := c, dg := d, lg := l } := by
  cases g <;> exact ⟨_, _, _, _, rfl⟩

/-- What a result writes to a scalar, vector, mask or predicate register. -/
def Land.sFor (r : SReg) : Land → Option Word
  | .s q x => if q = r then some x else none
  | _ => none
def Land.vFor (r : VReg) : Land → Option VWord
  | .v q x => if q = r then some x else none
  | _ => none
def Land.mFor (r : MReg) : Land → Option Mask
  | .m q x => if q = r then some x else none
  | _ => none
def Land.pFor (r : PReg) : Land → Option Bool
  | .p q x => if q = r then some x else none
  | _ => none

/-- Two checkpointed states with the same results in flight, registers and predicates p0 to p11. -/
structure Arch.SameRegs (a b : Arch) : Prop where
  inflight : a.inflight = b.inflight
  s : a.s = b.s
  v : a.v = b.v
  m : a.m = b.m
  p : ∀ r : PReg, r.val < 12 → a.p[r] = b.p[r]

theorem Arch.SameRegs.refl (a : Arch) : a.SameRegs a := ⟨rfl, rfl, rfl, rfl, fun _ _ => rfl⟩

theorem Arch.SameRegs.trans {a b c : Arch} (h : a.SameRegs b) (h' : b.SameRegs c) : a.SameRegs c :=
  ⟨h.inflight.trans h'.inflight, h.s.trans h'.s, h.v.trans h'.v, h.m.trans h'.m,
    fun r hr => (h.p r hr).trans (h'.p r hr)⟩

/-- A result that is for no register. -/
def Land.unnamed : Land → Bool
  | .s .. | .v .. | .m .. | .p .. => false
  | _ => true

/-- It leaves the registers. -/
theorem Arch.land_unnamed (a : Arch) {l : Land} (h : l.unnamed = true) : (a.land l).SameRegs a := by
  cases l with
  | s | v | m | p => cases h
  | creg c x =>
    obtain ⟨_, _, _, _, hset⟩ := a.setCreg_eq c x
    rw [Arch.land, hset]
    exact ⟨rfl, rfl, rfl, rfl, fun _ _ => rfl⟩
  | greg g x =>
    obtain ⟨_, _, _, _, hset⟩ := a.setGreg_eq g x
    rw [Arch.land, hset]
    exact ⟨rfl, rfl, rfl, rfl, fun _ _ => rfl⟩
  | _ =>
    rw [Arch.land]
    exact ⟨rfl, rfl, rfl, rfl, fun _ _ => rfl⟩

/-- No result that lands puts another in flight. -/
theorem Arch.land_inflight (a : Arch) (l : Land) : (a.land l).inflight = a.inflight := by
  cases l with
  | s | m =>
    rw [Arch.land]
    split <;> rfl
  | v | p => rw [Arch.land]
  | _ => exact (a.land_unnamed rfl).inflight

theorem Arch.land_s (a : Arch) (l : Land) {r : SReg} (hr : r ≠ 0) : (a.land l).s[r] = (l.sFor r).getD a.s[r] := by
  cases l with
  | s q x =>
    by_cases hq : q = r
    · subst hq
      have hq0 : q.val ≠ 0 := fun h => hr (Fin.ext h)
      simp [Arch.land, Land.sFor, hq0]
    · have hqv : q.val ≠ r.val := fun h => hq (Fin.ext h)
      rw [Arch.land, Land.sFor, if_neg hq]
      split
      · rfl
      · simp [hqv]
  | m =>
    rw [Arch.land]
    split <;> rfl
  | v | p => rfl
  | _ => exact congrArg (·[r]) (a.land_unnamed rfl).s

theorem Arch.land_m (a : Arch) (l : Land) {r : MReg} (hr : r ≠ 0) : (a.land l).m[r] = (l.mFor r).getD a.m[r] := by
  cases l with
  | m q x =>
    by_cases hq : q = r
    · subst hq
      have hq0 : q.val ≠ 0 := fun h => hr (Fin.ext h)
      simp [Arch.land, Land.mFor, hq0]
    · have hqv : q.val ≠ r.val := fun h => hq (Fin.ext h)
      rw [Arch.land, Land.mFor, if_neg hq]
      split
      · rfl
      · simp [hqv]
  | s =>
    rw [Arch.land]
    split <;> rfl
  | v | p => rfl
  | _ => exact congrArg (·[r]) (a.land_unnamed rfl).m

theorem Arch.land_v (a : Arch) (l : Land) (r : VReg) : (a.land l).v[r] = (l.vFor r).getD a.v[r] := by
  cases l with
  | v q x =>
    by_cases hq : q = r
    · subst hq
      simp [Arch.land, Land.vFor]
    · have hqv : q.val ≠ r.val := fun h => hq (Fin.ext h)
      simp [Arch.land, Land.vFor, hq, hqv]
  | s | m =>
    rw [Arch.land]
    split <;> rfl
  | p => rfl
  | _ => exact congrArg (·[r]) (a.land_unnamed rfl).v

/-- A predicate that no pipelined loop shifts takes what is written to it, and no other (R100). -/
theorem setPred_bit (a : Arch) {q r : PReg} (x : Bool) (hr : r ≠ 0) (hlow : r.val < 12) :
    (setPred a q x)[r] = if q = r then x else a.p[r] := by
  have hr0 : r.val ≠ 0 := fun h => hr (Fin.ext h)
  by_cases hq : q = r
  · subst hq
    have hwritten : ¬((q.val == 0 || (12 ≤ q.val && piping a)) = true) := by simp; omega
    rw [setPred, if_neg hwritten, if_pos rfl]
    cases x <;> simp
  · have hqv : q.val ≠ r.val := fun h => hq (Fin.ext h)
    rw [if_neg hq, setPred]
    split
    · rfl
    · cases x <;> simp [BitVec.getElem_twoPow, hqv.symm]

theorem Arch.land_p (a : Arch) (l : Land) {r : PReg} (hr : r ≠ 0) (hlow : r.val < 12) :
    (a.land l).p[r] = (l.pFor r).getD a.p[r] := by
  cases l with
  | p q x =>
    refine (setPred_bit a x hr hlow).trans ?_
    rw [Land.pFor]
    split <;> rfl
  | s | m =>
    rw [Arch.land]
    split <;> rfl
  | v => rfl
  | _ => exact (a.land_unnamed rfl).p r hlow

/-! Results one after another (R32). -/

/-- Where each result either sets a register or leaves it, the last that sets it stands. -/
theorem foldl_land_last {β : Type} (get : Arch → β) (val : Land → Option β)
    (h : ∀ a l, get (a.land l) = (val l).getD (get a)) (ls : List Land) (a : Arch) :
    get (ls.foldl Arch.land a) = ((ls.filterMap val).getLast?).getD (get a) := by
  induction ls generalizing a with
  | nil => rfl
  | cons l ls ih =>
    rw [List.foldl_cons, ih, h]
    cases hl : val l with
    | none => simp [hl]
    | some x => simp [hl, List.getLast?_cons]

/-- Results that are due are settled by themselves all land, in the order of their issue; the others stay. -/
theorem splitDue_ripe {l : List Inflight} (h : ∀ e ∈ l, e.due = 0 → e.land.ripe = true) :
    splitDue [] l = ((l.filter fun e => e.due = 0).map (·.land), l.filter fun e => e.due ≠ 0) := by
  induction l with
  | nil => rfl
  | cons e l ih =>
    have htail := ih fun x hx => h x (List.mem_cons_of_mem _ hx)
    by_cases hd : e.due = 0
    · have hripe := h e List.mem_cons_self hd
      have hfree : e.land.sreg.any ([] : List SReg).contains = false := by cases e.land.sreg <;> rfl
      simp [splitDue, hd, hripe, hfree, htail]
    · simp [splitDue, hd, htail]

/-! The end of a bundle (R30, R109, R111). -/

/-- The stages that a pipelined loop shifts are p12 to p15. -/
theorem shiftStages_low (p : Preds) (k : Nat) (x : Bool) {r : PReg} (hlow : r.val < 12) :
    (shiftStages p k x)[r] = p[r] := by
  have hne : (r.val == 12) = false := by simp; omega
  have hlt : (decide (13 ≤ r.val) && decide (r.val ≤ 12 + k)) = false := by simp; omega
  rw [Fin.getElem_fin, Fin.getElem_fin, ← BitVec.getLsbD_eq_getElem, ← BitVec.getLsbD_eq_getElem]
  simp only [shiftStages, BitVec.getLsbD_ofNat, packN_one_testBit, List.getElem?_map, List.getElem?_range r.isLt,
    Option.map_some, Option.getD_some, hne, hlt]
  simp [BitVec.getLsbD, Nat.testBit_eq_decide_div_mod_eq]

theorem levelTest_sameRegs (a : Arch) (n : Fin 3) (pre : Bool) : (levelTest a n pre).1.SameRegs a := by
  refine ⟨rfl, rfl, rfl, rfl, fun r hr => ?_⟩
  unfold levelTest
  dsimp only
  split
  · exact shiftStages_low _ _ _ hr
  · rfl

/-- The end test moves the loops and the predicates of their stages. -/
theorem endTest_sameRegs (ba : Nat) (pre : Bool) (l : List (Fin 3)) (a : Arch) : (endTest ba pre l a).1.SameRegs a := by
  induction l generalizing a with
  | nil => exact .refl a
  | cons n l ih =>
    have htest := levelTest_sameRegs a n pre
    simp only [endTest]
    split
    · split
      · exact htest
      · exact (ih _).trans htest
    · exact ih a

/-- The end of a bundle moves no register before results land. -/
theorem finishBundle_eq {s : State} (h : s.core.issue.finished = false) :
    ∃ c : Core, c.arch.SameRegs s.core.arch ∧ finishBundle s = landDue (advance { s with core := c }) := by
  simp only [finishBundle, h, Bool.false_eq_true, if_false]
  split
  · split <;> refine ⟨_, ?_, rfl⟩ <;> exact ⟨rfl, rfl, rfl, rfl, fun _ _ => rfl⟩
  · split
    · refine ⟨_, ?_, rfl⟩
      exact .refl _
    · refine ⟨_, ?_, rfl⟩
      dsimp only [State.upCore]
      split
      · exact .refl _
      · exact endTest_sameRegs ..

/-- The results that land at the end of the bundle, and those that stay, one bundle nearer (R30). -/
def landing (a : Arch) : List Land := (a.inflight.filter fun e => e.due ≤ 1).map (·.land)
def staying (a : Arch) : List Inflight :=
  (a.inflight.filter fun e => 2 ≤ e.due).map fun e => { e with due := e.due - 1 }

/-- Results one bundle nearer: those due at this end are at distance 0. -/
theorem splitDue_nearer {l : List Inflight} (h : ∀ e ∈ l, e.due ≤ 1 → e.land.ripe = true) :
    splitDue [] (l.map fun e => { e with due := e.due - 1 }) = ((l.filter fun e => e.due ≤ 1).map (·.land),
      (l.filter fun e => 2 ≤ e.due).map fun e => { e with due := e.due - 1 }) := by
  rw [splitDue_ripe]
  · have hdue (e : Inflight) : (e.due - 1 = 0) = (e.due ≤ 1) := by simp; omega
    have hstay (e : Inflight) : (e.due - 1 ≠ 0) = (2 ≤ e.due) := by simp; omega
    simp only [List.filter_map, List.map_map, Function.comp_def, hdue, hstay]
  · intro e he hd
    obtain ⟨x, hx, rfl⟩ := List.mem_map.1 he
    exact h x hx (by simp at hd; omega)

/-- The end of a bundle: what is due lands in order on the registers as they are (R30, R32). -/
theorem finishBundle_arch {s : State} (hf : s.core.issue.finished = false)
    (hr : ∀ e ∈ s.core.arch.inflight, e.due ≤ 1 → e.land.ripe = true) :
    ∃ a : Arch, a.SameRegs s.core.arch ∧
      (finishBundle s).core.arch =
        (landing s.core.arch).foldl Arch.land { a with inflight := staying s.core.arch } := by
  obtain ⟨c, hc, he⟩ := finishBundle_eq hf
  refine ⟨c.arch, hc, ?_⟩
  have hsplit := splitDue_nearer (l := c.arch.inflight) (by rw [hc.inflight]; exact hr)
  rw [he, landDue]
  simp only [advance, State.upArch, foldl_landOne_arch, hsplit]
  rw [hc.inflight]
  rfl

theorem foldl_land_inflight (ls : List Land) (a : Arch) : (ls.foldl Arch.land a).inflight = a.inflight := by
  induction ls generalizing a with
  | nil => rfl
  | cons l ls ih => rw [List.foldl_cons, ih, Arch.land_inflight]

section

variable {s : State} (hf : s.core.issue.finished = false)
  (hr : ∀ e ∈ s.core.arch.inflight, e.due ≤ 1 → e.land.ripe = true)

include hf hr

theorem finishBundle_inflight : (finishBundle s).core.arch.inflight = staying s.core.arch := by
  obtain ⟨a, -, he⟩ := finishBundle_arch hf hr
  rw [he, foldl_land_inflight]

theorem finishBundle_s {r : SReg} (h : r ≠ 0) : (finishBundle s).core.arch.s[r] =
    (((landing s.core.arch).filterMap (Land.sFor r)).getLast?).getD s.core.arch.s[r] := by
  obtain ⟨a, hsame, he⟩ := finishBundle_arch hf hr
  rw [he, foldl_land_last (fun a : Arch => a.s[r]) _ fun a l => a.land_s l h]
  simp only [hsame.s]

theorem finishBundle_v (r : VReg) : (finishBundle s).core.arch.v[r] =
    (((landing s.core.arch).filterMap (Land.vFor r)).getLast?).getD s.core.arch.v[r] := by
  obtain ⟨a, hsame, he⟩ := finishBundle_arch hf hr
  rw [he, foldl_land_last (fun a : Arch => a.v[r]) _ fun a l => a.land_v l r]
  simp only [hsame.v]

theorem finishBundle_m {r : MReg} (h : r ≠ 0) : (finishBundle s).core.arch.m[r] =
    (((landing s.core.arch).filterMap (Land.mFor r)).getLast?).getD s.core.arch.m[r] := by
  obtain ⟨a, hsame, he⟩ := finishBundle_arch hf hr
  rw [he, foldl_land_last (fun a : Arch => a.m[r]) _ fun a l => a.land_m l h]
  simp only [hsame.m]

theorem finishBundle_p {r : PReg} (h : r ≠ 0) (hlow : r.val < 12) : (finishBundle s).core.arch.p[r] =
    (((landing s.core.arch).filterMap (Land.pFor r)).getLast?).getD s.core.arch.p[r] := by
  obtain ⟨a, hsame, he⟩ := finishBundle_arch hf hr
  rw [he, foldl_land_last (fun a : Arch => a.p[r]) _ fun a l => a.land_p l h hlow]
  simp only [hsame.p r hlow]

end

/-! One result and the bundles after its own (R30). -/

/-- The bundle at the pc, with no effect of its own, issues and ends. -/
def idleBundle (u : State) : State := finishBundle (beginIssue u.core.pc.toNat 1 u)

/-- A result more than one bundle off comes one nearer. -/
theorem idleBundle_waits {u : State} {r : SReg} {x : Word} {k : Nat} (hr : r ≠ 0)
    (h : u.core.arch.inflight = [⟨k + 2, .s r x⟩]) :
    (idleBundle u).core.arch.inflight = [⟨k + 1, .s r x⟩] ∧ (idleBundle u).core.arch.s[r] = u.core.arch.s[r] := by
  have hl : (beginIssue u.core.pc.toNat 1 u).core.arch.inflight = [⟨k + 2, .s r x⟩] := h
  have hripe : ∀ e ∈ (beginIssue u.core.pc.toNat 1 u).core.arch.inflight, e.due ≤ 1 → e.land.ripe = true := by
    simp [hl, Land.ripe]
  refine ⟨(finishBundle_inflight rfl hripe).trans ?_, (finishBundle_s rfl hripe hr).trans ?_⟩
  · simp [staying, hl]
  · simp [landing, hl]
    rfl

/-- One that is one bundle off lands. -/
theorem idleBundle_lands {u : State} {r : SReg} {x : Word} (hr : r ≠ 0)
    (h : u.core.arch.inflight = [⟨1, .s r x⟩]) :
    (idleBundle u).core.arch.inflight = [] ∧ (idleBundle u).core.arch.s[r] = x := by
  have hl : (beginIssue u.core.pc.toNat 1 u).core.arch.inflight = [⟨1, .s r x⟩] := h
  have hripe : ∀ e ∈ (beginIssue u.core.pc.toNat 1 u).core.arch.inflight, e.due ≤ 1 → e.land.ripe = true := by
    simp [hl, Land.ripe]
  refine ⟨(finishBundle_inflight rfl hripe).trans ?_, (finishBundle_s rfl hripe hr).trans ?_⟩
  · simp [staying, hl]
  · simp [landing, hl, Land.sFor]

/-- After j bundles, j no more than k, a result of distance k + 1 is k + 1 - j bundles off. -/
theorem idleBundle_iterate {u : State} {r : SReg} {x : Word} {k : Nat} (hr : r ≠ 0)
    (h : u.core.arch.inflight = [⟨k + 1, .s r x⟩]) (j : Nat) (hj : j ≤ k) :
    (idleBundle^[j] u).core.arch.inflight = [⟨k + 1 - j, .s r x⟩] ∧
      (idleBundle^[j] u).core.arch.s[r] = u.core.arch.s[r] := by
  induction j with
  | zero => exact ⟨h, rfl⟩
  | succ j ih =>
    obtain ⟨hl, hs⟩ := ih (by omega)
    have hnear : k + 1 - j = (k - j - 1) + 2 := by omega
    rw [hnear] at hl
    obtain ⟨hl', hs'⟩ := idleBundle_waits hr hl
    rw [Function.iterate_succ_apply']
    refine ⟨hl'.trans ?_, hs'.trans hs⟩
    rw [show k - j - 1 + 1 = k + 1 - (j + 1) by omega]

/-- Settles O10: what lands at the end of a bundle, and a result followed over the bundles to its own landing. -/
theorem resultsLandAtTheirDistance : Obligations.ResultsLandAtTheirDistance := by
  unfold Obligations.ResultsLandAtTheirDistance
  refine ⟨fun s hf hr => ?ends, fun s x r k hnone hreg hr0 => ?distance, fun u r hr0 hreg => ?read⟩
  case ends =>
    refine ⟨finishBundle_inflight hf hr, fun r h => finishBundle_s hf hr h, fun r => finishBundle_v hf hr r,
      fun r h => finishBundle_m hf hr h, fun r h hlow => ?_⟩
    have hr0 : (r.val == 0) = false := by simpa using fun hv : r.val = 0 => h (Fin.ext hv)
    simp only [regP, hr0, Bool.false_or]
    exact finishBundle_p hf hr h hlow
  case distance =>
    have hl : (wrS r (k + 1) x s).core.arch.inflight = [⟨k + 1, .s r x⟩] := by
      simp [wrS_plain hreg, hnone]
    have hs : (wrS r (k + 1) x s).core.arch.s = s.core.arch.s := by rw [wrS_plain hreg]; rfl
    have hwaits := idleBundle_iterate hr0 hl
    refine ⟨fun j hj => ?_, ?_⟩
    · obtain ⟨h1, h2⟩ := hwaits j hj
      rw [hs] at h2
      exact ⟨h2, h1⟩
    · obtain ⟨hk, -⟩ := hwaits k le_rfl
      rw [show k + 1 - k = 1 by omega] at hk
      obtain ⟨h1, h2⟩ := idleBundle_lands hr0 hk
      rw [Function.iterate_succ_apply']
      exact ⟨h2, h1⟩
  case read =>
    have h0 : (r.val == 0) = false := by simpa using fun hv : r.val = 0 => hr0 (Fin.ext hv)
    simp [regS, h0, hreg]

end Sys2Proof.Machine
end

section
/-! PROOFS. The fields of the control registers (spec/03 R35, R45; spec/06 R103, R110, R111; spec/08 R138; spec/10 R203;
spec/15 R276): a field of a packed word, the words of the registers, and from these the statement O18. -/

namespace Sys2Proof.Machine

/-! Fields of packed words. -/

/-- A field inside 64 bits of a packed word is that of the number packed. -/
theorem wbits_wordN (n : Nat) {hi lo : Nat} (h : hi < 64) : wbits (wordN n) hi lo = n / 2 ^ lo % 2 ^ (hi + 1 - lo) := by
  simp only [wbits, bits, wordN, BitVec.toNat_ofNat]
  refine Nat.eq_of_testBit_eq fun i => ?_
  simp only [Nat.testBit_mod_two_pow, Nat.testBit_div_two_pow]
  by_cases hi' : i < hi + 1 - lo
  · have : i + lo < 64 := by omega
    simp [this]
  · simp [hi']

/-- A register that holds one number of at most 64 bits shows it from bit 0. -/
theorem wbits_wordN_toNat {w hi : Nat} (x : BitVec w) (h : hi < 64) (hw : w = hi + 1) :
    wbits (wordN x.toNat) hi 0 = x.toNat := by
  subst hw
  rw [wbits_wordN _ h, Nat.pow_zero, Nat.div_one]
  exact Nat.mod_eq_of_lt x.isLt

/-- Bit t of the mask over the tags is tag t's. -/
theorem wbits_tagBits (f : TagSt → Bool) (c : Core) (t : Fin 64) :
    wbits (tagBits f c) t t = (f c.tags[t]).toNat := by
  have hbit : (packN 1 ((List.finRange 64).map fun i => (f c.tags[i]).toNat)).testBit t = f c.tags[t] := by
    rw [packN_one_testBit]
    cases h : f c.tags[t] <;> simp_all
  have hwidth : t.val + 1 - t.val = 1 := by omega
  rw [tagBits, wbits_wordN _ t.isLt, hwidth, ← hbit, Nat.toNat_testBit, Nat.pow_one]

/-! The words of the packed registers. -/

section

variable (s : State)

/-- ALLOW (R45). -/
theorem allow_fields :
    wbits (cregValue s .allow) 2 0 = s.die.level.val ∧ wbits (cregValue s .allow) 15 3 = 0 ∧
      wbits (cregValue s .allow) 31 16 = s.die.changes.toNat := by
  have hlevel := s.die.level.isLt
  have hchanges := s.die.changes.isLt
  simp only [cregValue, wbits_wordN _ (show 2 < 64 by omega), wbits_wordN _ (show 15 < 64 by omega),
    wbits_wordN _ (show 31 < 64 by omega)]
  omega

/-- PACED (R45). -/
theorem paced_fields :
    wbits (cregValue s .paced) 31 0 = s.core.pacedN.toNat ∧
      wbits (cregValue s .paced) 63 32 = s.core.stretchN.toNat := by
  have hpaced := s.core.pacedN.isLt
  have hstretch := s.core.stretchN.isLt
  simp only [cregValue, wbits_wordN _ (show 31 < 64 by omega), wbits_wordN _ (show 63 < 64 by omega)]
  omega

/-- BUDGET (R276). -/
theorem budget_fields :
    wbits (cregValue s .budget) 31 0 = s.core.left.toNat ∧
      wbits (cregValue s .budget) 32 32 = s.core.budgetStop.toNat := by
  have hleft := s.core.left.isLt
  have hstop := s.core.budgetStop.toNat_lt
  simp only [cregValue, wbits_wordN _ (show 31 < 64 by omega), wbits_wordN _ (show 32 < 64 by omega)]
  omega

/-- DBGCTL (R35). -/
theorem dbgctl_fields :
    wbits (cregValue s .dbgctl) 0 0 = s.die.dbgPend.toNat ∧ wbits (cregValue s .dbgctl) 1 1 = s.die.dbgStep.toNat ∧
      wbits (cregValue s .dbgctl) 63 2 = 0 := by
  have hpend := s.die.dbgPend.toNat_lt
  have hstep := s.die.dbgStep.toNat_lt
  simp only [cregValue, wbits_wordN _ (show 0 < 64 by omega), wbits_wordN _ (show 1 < 64 by omega),
    wbits_wordN _ (show 63 < 64 by omega)]
  omega

/-- RPC (R111). -/
theorem rpc_fields :
    wbits (cregValue s .rpc) 15 0 = s.core.arch.rpc.iter.toNat ∧
      wbits (cregValue s .rpc) 31 16 = s.core.arch.rpc.count.toNat ∧
      wbits (cregValue s .rpc) 32 32 = s.core.arch.rpc.act.toNat ∧ wbits (cregValue s .rpc) 63 33 = 0 := by
  have hiter := s.core.arch.rpc.iter.isLt
  have hcount := s.core.arch.rpc.count.isLt
  have hact := s.core.arch.rpc.act.toNat_lt
  simp only [cregValue, Rpc.word, wbits_wordN _ (show 15 < 64 by omega), wbits_wordN _ (show 31 < 64 by omega),
    wbits_wordN _ (show 32 < 64 by omega), wbits_wordN _ (show 63 < 64 by omega)]
  omega

/-- MATMODE (R138). -/
theorem matmode_fields :
    wbits (cregValue s .matmode) 2 0 = (engineOf s).mode.val ∧
      wbits (cregValue s .matmode) 3 3 = (sideB s.core).toNat ∧
      wbits (cregValue s .matmode) 4 4 = s.core.arch.mirroff.toNat := by
  have hmode := (engineOf s).mode.isLt
  have hside := (sideB s.core).toNat_lt
  have hmirr := s.core.arch.mirroff.toNat_lt
  simp only [cregValue, matmode, wbits_wordN _ (show 2 < 64 by omega), wbits_wordN _ (show 3 < 64 by omega),
    wbits_wordN _ (show 4 < 64 by omega)]
  omega

/-- STAGE (R103). -/
theorem stage_field : wbits (cregValue s .stage) 15 0 = s.die.stage.toNat := by
  have hstage := s.die.stage.isLt
  simp only [cregValue, wbits_wordN _ (show 15 < 64 by omega)]
  omega

/-- LCn (R110). -/
theorem lc_fields (n : Fin 3) :
    wbits (cregValue s (.lc n)) 31 0 = s.core.arch.loops[n].rem.toNat ∧
      wbits (cregValue s (.lc n)) 32 32 = s.core.arch.loops[n].act.toNat ∧
      wbits (cregValue s (.lc n)) 33 33 = s.core.arch.loops[n].pipe.toNat ∧
      wbits (cregValue s (.lc n)) 35 34 = s.core.arch.loops[n].stg.val ∧
      wbits (cregValue s (.lc n)) 36 36 = s.core.arch.loops[n].drained.toNat := by
  have hrem := s.core.arch.loops[n].rem.isLt
  have hact := s.core.arch.loops[n].act.toNat_lt
  have hpipe := s.core.arch.loops[n].pipe.toNat_lt
  have hstg := s.core.arch.loops[n].stg.isLt
  have hdrained := s.core.arch.loops[n].drained.toNat_lt
  simp only [cregValue, LoopLvl.word, wbits_wordN _ (show 31 < 64 by omega), wbits_wordN _ (show 32 < 64 by omega),
    wbits_wordN _ (show 33 < 64 by omega), wbits_wordN _ (show 35 < 64 by omega), wbits_wordN _ (show 36 < 64 by omega)]
  omega

end

/-- Settles O18: the packed registers field by field; the others hold one number or are shown whole. -/
theorem controlRegisterFields : Obligations.ControlRegisterFields := by
  intro s
  obtain ⟨hlevel, hzero, hchanges⟩ := allow_fields s
  obtain ⟨hpaced, hstretch⟩ := paced_fields s
  obtain ⟨hleft, hstop⟩ := budget_fields s
  obtain ⟨hpend, hstep, hrest⟩ := dbgctl_fields s
  obtain ⟨hiter, hcount, hact, hrpc⟩ := rpc_fields s
  obtain ⟨hmode, hside, hmirr⟩ := matmode_fields s
  refine ⟨hlevel, hzero, hchanges, hpaced, hstretch, hleft, hstop, hpend, hstep, hrest,
    wbits_wordN_toNat _ (by omega) rfl, rfl, wbits_wordN_toNat _ (by omega) rfl, hiter, hcount, hact, hrpc,
    hmode, hside, hmirr, rfl, fun t => ⟨wbits_tagBits .., wbits_tagBits ..⟩,
    wbits_wordN_toNat _ (by omega) rfl, stage_field s, wbits_wordN_toNat _ (by omega) rfl,
    wbits_wordN_toNat _ (by omega) rfl, wbits_wordN_toNat _ (by omega) rfl, fun n => ?_⟩
  obtain ⟨hrem, hact, hpipe, hstg, hdrained⟩ := lc_fields s n
  exact ⟨hrem, hact, hpipe, hstg, hdrained, wbits_wordN_toNat _ (by omega) rfl, wbits_wordN_toNat _ (by omega) rfl⟩

end Sys2Proof.Machine
end

section
/-! PROOFS. The step of a bundle of one syllable (spec/03 R36, R39, R43; spec/04 R51, R63): its fetch and decode, its
check on the state before the bundle, its effect at its rank, and from these the statement O4. -/

namespace Sys2Proof.Machine

/-! Fetch and decode (R63). -/

/-- What decodes under FEAT decodes. -/
theorem decodeWord_of_decodeFeat {feat : Word} {w : Nat} {i : Instr} (h : decodeFeat feat w = .ok i) :
    decodeWord w = .ok i := by
  unfold decodeFeat at h
  split at h
  · cases h
  split at h
  · cases h
  cases hw : decodeWord w with
  | error e =>
    simp only [hw] at h
    split at h <;> cases h
  | ok j =>
    simp only [hw] at h
    split at h
    · cases h
    · exact h

/-- One word that passes the checks of R63 is that word, its frame and its decode. -/
theorem checkWords_one {feat : Word} {w : Nat} {l : List Slotted} (h : checkWords feat [w] = .ok l) :
    ∃ x : Slotted, l = [x] ∧ x.word = w ∧ x.frame = frameOf w ∧ decodeWord w = .ok x.instr := by
  cases hd : decodeFeat feat w with
  | error e => simp [checkWords, decodeAll, hd] at h
  | ok i =>
    simp only [checkWords, decodeAll, hd] at h
    split at h
    · cases h
    · cases h
      exact ⟨_, rfl, rfl, rfl, decodeWord_of_decodeFeat hd⟩

/-- A bundle that answers passed the checks of R63 on its words, those of a repeat stepped. -/
theorem bundleAt_checked {s : State} {ba : Nat} {ws ws' : List Nat} {l : List Slotted}
    (hws : fetchWords s ba 13 = .ok ws)
    (hstep : (if s.core.arch.rpc.act then
        stepWords (curKernel s) (fun w => guardTrue s (frameOf w))
          (s.core.arch.rpc.iter.toNat * s.core.arch.rpc.stride.toNat) s.core.arch.rpc.fmask ws
      else .ok ws) = .ok ws')
    (h : bundleAt s ba = .ok l) : checkWords s.die.feat ws' = .ok l := by
  simp only [bundleAt, hws, hstep] at h
  cases hc : checkWords s.die.feat ws' with
  | error t => simp [hc] at h
  | ok l' =>
    simp only [hc] at h
    split at h
    · cases h
    · exact h

/-! One syllable (R36, R51). -/

/-- The state on which a syllable has its meaning: its own frame bits and double read stand in the issue context. -/
def Slotted.meant (x : Slotted) (u : State) : State :=
  u.upCore fun c => { c with issue := { c.issue with dup := x.frame.dup, twin := twinOf x } }

theorem runSyl_eq {u : State} {x : Slotted} (h : guardTrap u x.frame = none) :
    runSyl u x = exec x.instr (x.meant u) := by
  simp only [runSyl, h]
  rfl

theorem runAll_one {u t : State} {x : Slotted} (h : runSyl u x = .next t) : runAll [x] u = .next t := by
  simp [runAll, h]

theorem frozen_of_done {t : State} (h : Done t) : frozen t = none := by
  have hok : t.core.issue.status = .ok := h
  simp [frozen, hok]

theorem trapped_of_done {t : State} (h : Done t) : trapped t = false := by
  have hok : t.core.issue.status = .ok := h
  simp [trapped, hok]

theorem frozen_of_trapped {t : State} (h : trapped t = true) : frozen t = none := by
  have htrap : t.core.issue.status = .trapped := by simpa [trapped] using h
  simp [frozen, htrap]

theorem trapped_of_frozen {t : State} {f : Freeze} (h : frozen t = some f) : trapped t = false := by
  cases htrap : trapped t with
  | false => rfl
  | true => simp [frozen_of_trapped htrap] at h

/-! The check before the bundle (R36). -/

section

variable {u t : State} {x : Slotted}

theorem checkAll_frozen {f : Freeze} (h : runSyl u x = .next t) (hf : frozen t = some f) :
    checkAll u [x] = some (.next (u.ended (.frozen f))) := by
  simp only [checkAll, List.map_cons, List.map_nil, h, firstStop, nextStates, List.filterMap_cons, List.filterMap_nil,
    List.any_cons, List.any_nil, hf, List.find?_cons, trapped_of_frozen hf, List.find?_nil, List.findSome?_cons]
  cases f <;> rfl

theorem checkAll_trapped (h : runSyl u x = .next t) (ht : trapped t = true) :
    checkAll u [x] = some (.next t) := by
  simp [checkAll, h, firstStop, nextStates, ht, frozen_of_trapped ht]

theorem checkAll_done (h : runSyl u x = .next t) (hd : Done t) : checkAll u [x] = none := by
  simp [checkAll, h, firstStop, nextStates, frozen_of_done hd, trapped_of_done hd]

end

/-! The effects (R36, R43). -/

theorem endBundle_nil {s0 t : State} (h : Done t) : endBundle s0 [] t = .next (debugStop (finishBundle t)) := by
  have hok : t.core.issue.status = .ok := h
  have hnil : byRank 5 7 [] = [] := rfl
  simp only [endBundle, hnil, runAll, hok]

/-- A state once a bundle is paced (R43). -/
def paced (l : List Slotted) (s : State) : State :=
  s.upCore (pace (bundleAllow s) (windowAllow s) (charge s.core l))

theorem guardTrap_paced (l : List Slotted) (s : State) (f : Frame) : guardTrap (paced l s) f = guardTrap s f :=
  guardTrap_pace ..

/-- Once its early effects are taken, those of C.TCLR with them, a bundle goes on to its last part. -/
theorem runBundle_of_early {l act : List Slotted} {s t t' : State}
    (hfirst : runAll ((byRank 0 4 act).filter fun x => !isTclr x) (paced l s) = .next t) (hd : Done t)
    (hearly : (if (byRank 0 4 act).any isTclr then runAll (byRank 0 4 act) (paced l s) else .next t) = .next t') :
    runBundle l act s = endBundle s act t' := by
  have hok : t.core.issue.status = .ok := hd
  unfold paced at hfirst hearly
  simp only [runBundle, hfirst, hok, hearly]

/-- A bundle none of whose syllables executes is paced and ends. -/
theorem runBundle_idle {l : List Slotted} {s : State} (h : Done s) :
    runBundle l [] s = .next (debugStop (finishBundle (paced l s))) :=
  (runBundle_of_early (t := paced l s) rfl h rfl).trans (endBundle_nil h)

/-- A bundle of one syllable is paced, takes that syllable's effect, be it early or late, and ends. -/
theorem runBundle_one {x : Slotted} {s t : State} (hs : Done s) (h : runSyl (paced [x] s) x = .next t) (hd : Done t) :
    runBundle [x] [x] s = .next (debugStop (finishBundle t)) := by
  have hrun := runAll_one h
  have hrank := rank_le x.instr
  have hok : t.core.issue.status = .ok := hd
  by_cases hearly : rank x.instr ≤ 4
  · have hlo : byRank 0 4 [x] = [x] := by rw [byRank_one _ _ _ (by omega), if_pos (by omega)]
    have hhi : byRank 5 7 [x] = [] := by rw [byRank_one _ _ _ (by omega), if_neg (by omega)]
    have hend : endBundle s [x] t = .next (debugStop (finishBundle t)) := by
      simp only [endBundle, hhi, runAll, hok]
    cases htclr : isTclr x with
    | true =>
      exact (runBundle_of_early (t := paced [x] s) (t' := t) (by simp [hlo, htclr, runAll]) hs
        (by simp [hlo, htclr, hrun])).trans hend
    | false =>
      exact (runBundle_of_early (t := t) (t' := t) (by simp [hlo, htclr, hrun]) hd (by simp [hlo, htclr])).trans hend
  · have hlo : byRank 0 4 [x] = [] := by rw [byRank_one _ _ _ (by omega), if_neg (by omega)]
    have hhi : byRank 5 7 [x] = [x] := by rw [byRank_one _ _ _ (by omega), if_pos (by omega)]
    refine (runBundle_of_early (t := paced [x] s) (t' := paced [x] s) (by simp [hlo, runAll]) hs
      (by simp [hlo])).trans ?_
    simp only [endBundle, hhi, hrun, hok]

/-! The bundle (R36). -/

section

variable {s t : State} {x : Slotted} {ba : Nat}

/-- The bundle of one syllable whose guard is false. -/
theorem issueBundle_idle (hba : s.core.pc.toNat = ba) (hb : bundleAt s ba = .ok [x])
    (hg : guardTrue (beginIssue ba 1 s) x.frame = false) :
    issueBundle s = .next (debugStop (finishBundle (paced [x] (beginIssue ba 1 s)))) := by
  subst hba
  have hidle : [x].filter (fun y => guardTrue (beginIssue s.core.pc.toNat 1 s) y.frame) = [] := by simp [hg]
  simp only [issueBundle, hb, List.length_singleton, hidle]
  exact runBundle_idle rfl

/-- The bundle of one syllable whose guard is true is what its check finds, or it runs. -/
theorem issueBundle_one (hba : s.core.pc.toNat = ba) (hb : bundleAt s ba = .ok [x])
    (hg : guardTrue (beginIssue ba 1 s) x.frame = true) :
    issueBundle s = (checkAll (beginIssue ba 1 s) [x]).getD (runBundle [x] [x] (beginIssue ba 1 s)) := by
  subst hba
  have hone : [x].filter (fun y => guardTrue (beginIssue s.core.pc.toNat 1 s) y.frame) = [x] := by simp [hg]
  simp only [issueBundle, hb, List.length_singleton, hone]
  cases checkAll (beginIssue s.core.pc.toNat 1 s) [x] <;> rfl

end

/-- A core that nothing holds back and no move is scheduled for issues its next bundle. -/
theorem step_may {s : State} (hsched : s.sched = []) (hmay : MayIssue s) : step s = issueBundle (settleDue s) := by
  simp only [step, hsched, coreMove_may s hmay]

/-- Settles O4: the word decodes by the checks of R63; the bundle's one syllable is checked on the state before the
bundle, and if it passes it runs, paced, at its rank. -/
theorem stepRunsTheDecodedInstruction : Obligations.StepRunsTheDecodedInstruction := by
  refine ⟨fun s ba w l hact hws h => checkWords_one (bundleAt_checked hws (by simp [hact]) h), ?_⟩
  intro s x hsched hmay s1 hb s2 meant s3
  rw [step_may hsched hmay]
  refine ⟨fun hg => issueBundle_idle rfl hb hg, fun hg hguard => ?_⟩
  have hmeant : runSyl s2 x = exec x.instr (meant s2) := runSyl_eq hguard
  have hmeant3 : runSyl s3 x = exec x.instr (meant s3) := runSyl_eq ((guardTrap_paced [x] s2 x.frame).trans hguard)
  rw [issueBundle_one rfl hb hg]
  refine ⟨fun t f hexec hfrozen => ?_, fun t hexec htrapped => ?_, fun t u hexec hdone hexec3 hdone3 => ?_⟩
  · rw [checkAll_frozen (hmeant.trans hexec) hfrozen]
    rfl
  · rw [checkAll_trapped (hmeant.trans hexec) htrapped]
    rfl
  · rw [checkAll_done (hmeant.trans hexec) hdone]
    exact runBundle_one rfl (hmeant3.trans hexec3) hdone3

end Sys2Proof.Machine
end

section
/-! PROOFS. B.REP (spec/06 R111; spec/03 R28; spec/13 R241): its checks in order and its effect, the end of an
iteration's bundle, the stepping of register fields, and from these the statement O24. -/

namespace Sys2Proof.Machine

/-! The syllable (R111). -/

/-- What B.REP reads, and how often it repeats. -/
def repSrcs : Option SReg → List Reg
  | none => []
  | some r => [.s r]
def repCount (s : State) (cnt : BitVec 12) : Option SReg → Nat
  | none => cnt.toNat
  | some r => (regS s r).toNat

/-- What it does: with nothing to repeat, the target is passed over; else the target is next and the repeat active. -/
def repEffect (s : State) (n : Nat) (str : BitVec 3) (fm : BitVec 4) (t : State) : State :=
  if n == 0 then t.upCore fun c => { c with issue := { c.issue with nb := afterBundle s c.issue.nb } }
  else jump s.core.issue.nb (t.upArch fun a => { a with rpc := ⟨0, BitVec.ofNat 16 n, true, str, fm⟩ })

section

variable {s : State} {reg : Option SReg} {cnt : BitVec 12} {str : BitVec 3} {fm : BitVec 4} {n : Nat}

theorem exec_bRep_eq : exec (.bRep reg cnt str fm) s =
    issue s { srcs := repSrcs reg, trap := repTrap s reg.isSome (repCount s cnt reg) }
      (repEffect s (repCount s cnt reg) str fm) := by
  cases reg <;> rfl

theorem bRep_traps {t : Trap} (h : repTrap s reg.isSome (repCount s cnt reg) = some t)
    (hr : Runs s (repSrcs reg) []) : exec (.bRep reg cnt str fm) s = .next (trapHere t s) :=
  exec_bRep_eq.trans (issue_traps hr rfl h)

theorem bRep_runs (h : repTrap s reg.isSome (repCount s cnt reg) = none) :
    RunsTo (.bRep reg cnt str fm) s (repSrcs reg) [] (repEffect s (repCount s cnt reg) str fm) :=
  runsTo_issue exec_bRep_eq rfl h rfl rfl

/-- With no repetition to issue, the target is passed over (log 88). -/
theorem repEffect_zero {u : State} {ws : List Nat} (hnb : u.core.issue.nb = s.core.issue.nb)
    (hws : fetchWords s s.core.issue.nb 13 = .ok ws) : repEffect s 0 str fm u =
      { u with core := { u.core with issue := { u.core.issue with nb := u.core.issue.nb + 8 * ws.length } } } := by
  have hafter : afterBundle s u.core.issue.nb = u.core.issue.nb + 8 * ws.length := by rw [hnb, afterBundle, hws]
  rw [← hafter]
  rfl

theorem repEffect_pos {u : State} (hn : 0 < n) : repEffect s n str fm u =
    { u with core := { u.core with
      pc := BitVec.ofNat 56 s.core.issue.nb, issue := { u.core.issue with taken := true }
      arch := { u.core.arch with rpc := ⟨0, BitVec.ofNat 16 n, true, str, fm⟩ } } } := by
  have hne : (n == 0) = false := by simp; omega
  rw [repEffect, hne]
  rfl

end

/-! Its checks, in order. -/

theorem endsLevel_iff (a : Arch) (ba : Nat) :
    endsLevel a ba = true ↔ ∃ l : Fin 3, a.loops[l].act = true ∧ a.loops[l].le.toNat = ba := by
  simp only [endsLevel, List.any_eq_true, Vector.mem_toList_iff, Vector.mem_iff_getElem, Bool.and_eq_true,
    beq_iff_eq]
  constructor
  · rintro ⟨_, ⟨i, hi, rfl⟩, h⟩
    exact ⟨⟨i, hi⟩, h⟩
  · rintro ⟨l, h⟩
    exact ⟨_, ⟨l, l.isLt, rfl⟩, h⟩

section

variable {s : State} {ws : List Nat} {byReg : Bool} {n : Nat}

/-- What may not be a target: a B syllable in it, or a loop level that ends at it or at the B.REP (R111). -/
def RepBarred (s : State) (ws : List Nat) : Prop :=
  (∃ w ∈ ws, assigned (bits w 56 49) = true ∧ classOf (bits w 56 49) = .b) ∨
    ∃ l : Fin 3, s.core.arch.loops[l].act = true ∧
      (s.core.arch.loops[l].le.toNat = s.core.issue.nb ∨ s.core.arch.loops[l].le.toNat = s.core.issue.ba)

theorem repBarred_iff : (ws.any (fun w => assigned (bits w 56 49) && classOf (bits w 56 49) == .b)
    || endsLevel s.core.arch s.core.issue.nb || endsLevel s.core.arch s.core.issue.ba) = true ↔ RepBarred s ws := by
  simp only [RepBarred, Bool.or_eq_true, endsLevel_iff, List.any_eq_true, Bool.and_eq_true, beq_iff_eq, or_assoc,
    and_or_left, exists_or]

theorem repTrap_count (h : 65535 < n) : repTrap s true n = some { cause := .rep, detail := 1 } := by
  simp [repTrap, h]

theorem repTrap_fetch {t : Trap} (h : n ≤ 65535) (hws : fetchWords s s.core.issue.nb 13 = .error t) :
    repTrap s byReg n = some t := by
  have hcount : ¬65535 < n := by omega
  simp [repTrap, hcount, hws]

theorem repTrap_barred (h : n ≤ 65535) (hws : fetchWords s s.core.issue.nb 13 = .ok ws) (hb : RepBarred s ws) :
    repTrap s byReg n = some { cause := .rep, detail := 2 } := by
  have hcount : ¬65535 < n := by omega
  simp only [repTrap, hcount, hws, decide_false, Bool.and_false, Bool.false_eq_true, if_false,
    if_pos (repBarred_iff.2 hb)]

/-- With a target that may be one, what is left are the checks of R63 and R28 on it, unless nothing is to issue. -/
theorem repTrap_target (h : n ≤ 65535) (hws : fetchWords s s.core.issue.nb 13 = .ok ws) (hb : ¬RepBarred s ws) :
    repTrap s byReg n = if n = 0 then none else checkTarget s ws := by
  have hcount : ¬65535 < n := by omega
  simp only [repTrap, hcount, hws, decide_false, Bool.and_false, Bool.false_eq_true, if_false,
    if_neg (mt repBarred_iff.1 hb), beq_iff_eq]

theorem checkTarget_bad {t : Trap} (h : checkWords s.die.feat ws = .error t) : checkTarget s ws = some t := by
  simp [checkTarget, h]

theorem checkTarget_ok {l : List Slotted} (h : checkWords s.die.feat ws = .ok l) :
    checkTarget s ws = if decodeLimit s < weightSum l + sustained (occNext s.core.occ) then some (illBundle 8)
      else none := by
  simp [checkTarget, h]

end

/-! The end of an iteration's bundle (R111). -/

/-- With nothing in flight nothing lands. -/
theorem landDue_advance_nil {s : State} (h : s.core.arch.inflight = []) : landDue (advance s) = s := by
  simp only [landDue, advance, State.upArch, h, List.map_nil, splitDue, List.foldl_nil]
  rw [← h]

section

variable {s : State} (hact : s.core.arch.rpc.act = true) (htaken : s.core.issue.taken = false)
  (hfin : s.core.issue.finished = false) (hfl : s.core.arch.inflight = [])

include hact htaken hfin hfl

theorem finishBundle_iterates (h : s.core.arch.rpc.iter.toNat + 1 < s.core.arch.rpc.count.toNat) :
    (finishBundle s).core.pc = BitVec.ofNat 56 s.core.issue.ba ∧
      (finishBundle s).core.arch.rpc = { s.core.arch.rpc with iter := s.core.arch.rpc.iter + 1 } := by
  simp only [finishBundle, hfin, hact, htaken, h, Bool.false_eq_true, if_false, Bool.not_false, Bool.and_true, if_true]
  rw [landDue_advance_nil (by exact hfl)]
  exact ⟨rfl, rfl⟩

theorem finishBundle_lastIteration (h : s.core.arch.rpc.count.toNat ≤ s.core.arch.rpc.iter.toNat + 1) :
    (finishBundle s).core.pc = BitVec.ofNat 56 s.core.issue.nb ∧
      (finishBundle s).core.arch.rpc = { s.core.arch.rpc with act := false } := by
  simp only [finishBundle, hfin, hact, htaken, Nat.not_lt.2 h, Bool.false_eq_true, if_false, Bool.not_false,
    Bool.and_true, if_true]
  rw [landDue_advance_nil (by exact hfl)]
  exact ⟨rfl, rfl⟩

end

/-! The stepping of one syllable's fields (R111, R241). -/

/-- The number in a register field. -/
def fieldNum (w : Nat) (f : Nat × Use × Nat) : Nat := w / 2 ^ f.2.2 % 128

/-- Whether a repeat steps a field: FMASK selects it and it names a register of kind S or V. -/
def fieldMoves (fm : BitVec 4) (w : Nat) (f : Nat × Use × Nat) : Bool :=
  fm.getLsbD f.1 && (f.2.1 == .rd || f.2.1 == .wr || f.2.1 == .rw) && fieldNum w f < 96

/-- Whether a field's number, raised, is past the strand's allotment, s55 or v27. -/
def FieldPast (k : Option Kernel) (delta w : Nat) (f : Nat × Use × Nat) : Prop :=
  let m := fieldNum w f + delta
  if fieldNum w f < 64 then 55 < m ∨ (10 ≤ m ∧ 9 + (k.elim 46 (·.regs)) < m)
  else 91 < m ∨ 64 + (k.elim 28 (·.vregs)) ≤ m

section

variable {k : Option Kernel} {delta w v : Nat} {fm : BitVec 4} {f : Nat × Use × Nat} {l : List (Nat × Use × Nat)}

/-- A field of higher place that steps leaves the lower fields (R66). -/
theorem fieldNum_step {g : Nat × Use × Nat} (h : g.2.2 + 7 ≤ f.2.2) :
    fieldNum (w + delta * 2 ^ f.2.2) g = fieldNum w g := by
  obtain ⟨d, hd⟩ := Nat.exists_eq_add_of_le h
  have hplace : delta * 2 ^ f.2.2 = (delta * 2 ^ d * 128) * 2 ^ g.2.2 := by
    rw [hd, pow_add, pow_add]
    ring
  rw [fieldNum, fieldNum, hplace, Nat.add_mul_div_right _ _ (by positivity), Nat.add_mul_mod_self_right]

theorem bits_fieldNum (w : Nat) (f : Nat × Use × Nat) : bits w (f.2.2 + 6) f.2.2 = fieldNum w f := by
  have hwidth : f.2.2 + 6 + 1 - f.2.2 = 7 := by omega
  rw [bits, hwidth]
  rfl

/-- A field whose number names no scalar and no vector register stays. -/
theorem stepField_other (h : 96 ≤ fieldNum w f) : stepField k delta w f.2.2 = .ok w := by
  simp only [stepField, bits_fieldNum, h, if_true]

/-- One whose number does is raised, or traps. -/
theorem stepField_reg [Decidable (FieldPast k delta w f)] (h : fieldNum w f < 96) :
    stepField k delta w f.2.2 =
      if FieldPast k delta w f then .error { cause := .allot, arg := (fieldNum w f + delta) % 128 }
      else .ok (w + delta * 2 ^ f.2.2) := by
  have hreg : ¬96 ≤ fieldNum w f := by omega
  by_cases hs : fieldNum w f < 64
  · cases k <;> simp [stepField, bits_fieldNum, hreg, FieldPast, hs]
  · cases k <;> simp [stepField, bits_fieldNum, hreg, FieldPast, hs]

/-- A field that does not move is passed over. -/
theorem stepList_keeps (h : fieldMoves fm w f = false) (hv : fieldNum v f = fieldNum w f) :
    stepList k delta fm (f :: l) v = stepList k delta fm l v := by
  obtain ⟨b, u, lo⟩ := f
  by_cases hsel : (fm.toNat.testBit b && (u == .rd || u == .wr || u == .rw)) = true
  · have hnum : 96 ≤ fieldNum v (b, u, lo) := by
      have hsel' : (fm.getLsbD b && (u == .rd || u == .wr || u == .rw)) = true := hsel
      rw [hv]
      simpa [fieldMoves, hsel'] using h
    have hstay : stepField k delta v lo = .ok v := stepField_other hnum
    simp only [stepList, if_pos hsel, hstay]
  · simp only [stepList, if_neg hsel]

/-- One that moves is stepped, and the fields below it on what that gives. -/
theorem stepList_moves (h : fieldMoves fm w f = true) :
    stepList k delta fm (f :: l) v = stepField k delta v f.2.2 >>= stepList k delta fm l := by
  obtain ⟨b, u, lo⟩ := f
  have hsel : (fm.toNat.testBit b && (u == .rd || u == .wr || u == .rw)) = true := by
    simp only [fieldMoves, Bool.and_eq_true] at h
    exact Bool.and_eq_true_iff.2 h.1
  simp only [stepList, if_pos hsel]
  cases stepField k delta v lo <;> rfl

theorem fieldNum_lt_of_moves (h : fieldMoves fm w f = true) : fieldNum w f < 96 := by
  simp only [fieldMoves, Bool.and_eq_true, decide_eq_true_eq] at h
  exact h.2

/-- Fields from the highest place down, none overlapping the next. -/
abbrev Falling (l : List (Nat × Use × Nat)) : Prop := l.Pairwise fun f g => g.2.2 + 7 ≤ f.2.2

/-- The fields below one that steps keep their numbers. -/
theorem fieldNum_below (hl : Falling (f :: l)) (hv : ∀ g ∈ f :: l, fieldNum v g = fieldNum w g) :
    ∀ g ∈ l, fieldNum (v + delta * 2 ^ f.2.2) g = fieldNum w g := fun g hg =>
  (fieldNum_step (List.rel_of_pairwise_cons hl hg)).trans (hv g (List.mem_cons_of_mem _ hg))

theorem fieldPast_congr (h : fieldNum v f = fieldNum w f) : FieldPast k delta v f ↔ FieldPast k delta w f := by
  simp only [FieldPast, h]

/-- A field that moves past the allotment traps ALLOT, whatever the fields before it do. -/
theorem stepList_past (hl : Falling l) (hv : ∀ g ∈ l, fieldNum v g = fieldNum w g)
    (h : ∃ f ∈ l, fieldMoves fm w f = true ∧ FieldPast k delta w f) :
    ∃ t, stepList k delta fm l v = .error t ∧ t.cause = .allot := by
  classical
  induction l generalizing v with
  | nil => simp at h
  | cons f l ih =>
    have hvf := hv f List.mem_cons_self
    have htail : ¬(fieldMoves fm w f = true ∧ FieldPast k delta w f) →
        ∃ g ∈ l, fieldMoves fm w g = true ∧ FieldPast k delta w g := by
      obtain ⟨g, hg, hpast⟩ := h
      obtain rfl | hg := List.mem_cons.1 hg
      · exact fun hn => absurd hpast hn
      · exact fun _ => ⟨g, hg, hpast⟩
    cases hm : fieldMoves fm w f with
    | false =>
      rw [stepList_keeps hm hvf]
      exact ih hl.of_cons (fun g hg => hv g (List.mem_cons_of_mem _ hg)) (htail (by simp [hm]))
    | true =>
      have hnum : fieldNum v f < 96 := hvf ▸ fieldNum_lt_of_moves hm
      rw [stepList_moves hm]
      by_cases hp : FieldPast k delta w f
      · rw [stepField_reg hnum, if_pos ((fieldPast_congr hvf).2 hp)]
        exact ⟨_, rfl, rfl⟩
      · rw [stepField_reg hnum, if_neg (mt (fieldPast_congr hvf).1 hp)]
        exact ih hl.of_cons (fieldNum_below hl hv) (htail fun hn => hp hn.2)

/-- With none past the allotment, each field that moves is raised and no other bit changes. -/
theorem stepList_within (hl : Falling l) (hv : ∀ g ∈ l, fieldNum v g = fieldNum w g)
    (h : ∀ f ∈ l, fieldMoves fm w f = true → ¬FieldPast k delta w f) :
    stepList k delta fm l v = .ok (v + ((l.filter (fieldMoves fm w)).map fun f => delta * 2 ^ f.2.2).sum) := by
  classical
  induction l generalizing v with
  | nil => rfl
  | cons f l ih =>
    have hvf := hv f List.mem_cons_self
    have htail : ∀ g ∈ l, fieldMoves fm w g = true → ¬FieldPast k delta w g :=
      fun g hg => h g (List.mem_cons_of_mem _ hg)
    cases hm : fieldMoves fm w f with
    | false =>
      rw [stepList_keeps hm hvf, List.filter_cons_of_neg (by simp [hm])]
      exact ih hl.of_cons (fun g hg => hv g (List.mem_cons_of_mem _ hg)) htail
    | true =>
      have hnum : fieldNum v f < 96 := hvf ▸ fieldNum_lt_of_moves hm
      have hwithin := mt (fieldPast_congr hvf).1 (h f List.mem_cons_self hm)
      rw [stepList_moves hm, stepField_reg hnum, if_neg hwithin, List.filter_cons_of_pos hm, List.map_cons,
        List.sum_cons, ← Nat.add_assoc]
      exact ih hl.of_cons (fieldNum_below hl hv) htail

/-- The fields that FMASK selects from stand apart. -/
theorem falling_stepFields (u : Uses) (fmt : Fmt) : Falling (stepFields u fmt) := by
  cases fmt <;> simp [Falling, stepFields]

end

/-! The word that an iteration issues. -/

/-- The fields of a word that a repeat can step. -/
def wordFields (w : Nat) : List (Nat × Use × Nat) :=
  stepFields (usesOf (bits w 56 49) (bits w 48 44)) (fmtOf (bits w 56 49))

section

variable {k : Option Kernel} {delta w : Nat} {fm : BitVec 4}

theorem stepWord_past (hd : 0 < delta) (h : ∃ f ∈ wordFields w, fieldMoves fm w f = true ∧ FieldPast k delta w f) :
    ∃ t, stepWord k delta fm w = .error t ∧ t.cause = .allot := by
  have hne : (delta == 0) = false := by simp; omega
  simp only [stepWord, hne, Bool.false_eq_true, if_false]
  exact stepList_past (falling_stepFields ..) (fun _ _ => rfl) h

theorem stepWord_within (h : delta = 0 ∨ ∀ f ∈ wordFields w, fieldMoves fm w f = true → ¬FieldPast k delta w f) :
    stepWord k delta fm w =
      .ok (w + (((wordFields w).filter (fieldMoves fm w)).map fun f => delta * 2 ^ f.2.2).sum) := by
  by_cases hd : delta = 0
  · subst hd
    simp [stepWord]
  · have hne : (delta == 0) = false := by simpa using hd
    simp only [stepWord, hne, Bool.false_eq_true, if_false]
    exact stepList_within (falling_stepFields ..) (fun _ _ => rfl) (h.resolve_left hd)

end

/-- A word as the present iteration issues it. -/
def iterationWord (s : State) (w : Nat) : Except Trap Nat :=
  stepWord (curKernel s) (s.core.arch.rpc.iter.toNat * s.core.arch.rpc.stride.toNat) s.core.arch.rpc.fmask w

/-- The bundle of one word that an iteration issues is the stepped word's, or where stepping traps under a false guard
the word's own (R51, R241). -/
theorem bundleAt_iteration {s : State} {ba w : Nat} {l : List Slotted} (hact : s.core.arch.rpc.act = true)
    (hws : fetchWords s ba 13 = .ok [w]) (h : bundleAt s ba = .ok l) :
    (∃ w', iterationWord s w = .ok w' ∧ checkWords s.die.feat [w'] = .ok l) ∨
      ((∃ t, iterationWord s w = .error t) ∧ guardTrue s (frameOf w) = false ∧
        checkWords s.die.feat [w] = .ok l) := by
  cases hz : iterationWord s w with
  | ok w' =>
    unfold iterationWord at hz
    exact .inl ⟨w', rfl, bundleAt_checked hws (by simp [hact, stepWords, hz]) h⟩
  | error t =>
    unfold iterationWord at hz
    cases hg : guardTrue s (frameOf w) with
    | true => simp [bundleAt, hws, hact, stepWords, hz, hg] at h
    | false => exact .inr ⟨⟨t, rfl⟩, rfl, bundleAt_checked hws (by simp [hact, stepWords, hz, hg]) h⟩

/-- Settles O24: the checks of B.REP in their order, the end of an iteration, and the stepping of its fields. -/
theorem repeatPrefix : Obligations.RepeatPrefix := by
  intro s reg cnt str fm i nb srcs n traps barred
  have hsrcs : srcs = repSrcs reg := by cases reg <;> rfl
  have hn : n = repCount s cnt reg := by cases reg <;> rfl
  clear_value srcs n
  subst hsrcs hn
  refine ⟨fun hreg hcount => bRep_traps ?_, fun hle => ⟨fun t hws => bRep_traps (repTrap_fetch hle hws),
    fun ws hws => ⟨fun hb => bRep_traps (repTrap_barred hle hws hb), fun hb => ?_⟩⟩, ?_, ?_, ?_⟩
  · rw [hreg]
    exact repTrap_count hcount
  · have htarget : repTrap s reg.isSome (repCount s cnt reg) =
        if repCount s cnt reg = 0 then none else checkTarget s ws := repTrap_target hle hws hb
    refine ⟨fun hn hr => ?_, fun t hn hc => bRep_traps ?_, fun l hn hc hlim => bRep_traps ?_, fun l hn hc hlim hr => ?_⟩
    · rw [if_pos hn] at htarget
      have hnb : (reads (repSrcs reg) s).core.issue.nb = s.core.issue.nb := by rw [reads, popAll_issue]
      exact (bRep_runs htarget hr).trans (by rw [hn, repEffect_zero hnb hws])
    · rw [htarget, if_neg (by omega), checkTarget_bad hc]
    · rw [htarget, if_neg (by omega), checkTarget_ok hc, if_pos hlim]
    · rw [if_neg (by omega), checkTarget_ok hc, if_neg (by omega)] at htarget
      exact (bRep_runs htarget hr).trans (congrArg _ (repEffect_pos hn))
  · rintro r rfl hact htaken hfin hfl
    exact ⟨finishBundle_iterates hact htaken hfin hfl, finishBundle_lastIteration hact htaken hfin hfl⟩
  · intro k delta w _ u fields num moves past
    have hfields : fields = wordFields w := by
      unfold wordFields stepFields
      rfl
    clear_value fields
    subst hfields
    exact ⟨stepWord_past, stepWord_within⟩
  · intro ba w l hact hws r z h
    exact bundleAt_iteration hact hws h

end Sys2Proof.Machine
end

section
/-! PROOFS. The sensors and the stepping of L (spec/03 R45; spec/23 R372 to R374), the mailboxes (R371), the host's
accesses (R370, spec/11 R222), and the steward's registers (spec/19 R315, R317); from these the statement O60. -/

namespace Sys2Proof.Machine

/-! Entries of vectors. -/

theorem vget_fin {α : Type} {n : Nat} (v : Vector α n) (i : Fin n) (d : α) : vget v i d = v[i] := by
  simp [vget]

theorem vmod_fin {α : Type} {n : Nat} (v : Vector α n) (i : Fin n) (f : α → α) : vmod v i f = v.set i (f v[i]) := by
  simp [vmod]

/-! The dies of the package. -/

theorem mem_insertDie {d x : Die} {l : List Die} : x ∈ insertDie d l ↔ x = d ∨ x ∈ l := by
  induction l with
  | nil => simp [insertDie]
  | cons y l ih =>
    rw [insertDie]
    split
    · rw [List.mem_cons]
    · rw [List.mem_cons, ih, List.mem_cons]
      tauto

/-- A die is found by its number where no other has it. -/
theorem find_insertDie {d : Die} {l : List Die} (h : ∀ e ∈ l, e.num ≠ d.num) :
    (insertDie d l).find? (fun x => x.num == d.num) = some d := by
  induction l with
  | nil => simp [insertDie]
  | cons y l ih =>
    have hy : (y.num == d.num) = false := by simpa using h y List.mem_cons_self
    rw [insertDie]
    split
    · simp
    · rw [List.find?_cons, hy]
      exact ih fun e he => h e (List.mem_cons_of_mem _ he)

section

variable {s : State}

theorem dies_any_self : (s.dies.any fun d => d.num == s.die.num) = true :=
  List.any_eq_true.2 ⟨s.die, mem_insertDie.2 (.inl rfl), by simp⟩

theorem dies_any_none {n : Nat} (h : ∀ d ∈ s.dies, d.num ≠ n) : (s.dies.any fun d => d.num == n) = false := by
  simpa using h

/-- An operation on the selected die that keeps what is selected is that operation. -/
theorem atDie_self {f : State → State} (hd : (f s).die.num = s.die.num) (hc : (f s).core.num = s.core.num) :
    atDie s.die.num f s = f s := by
  simp [atDie, selAt, selDie, selCore, hd, hc]

end

/-! ASTEP (R373). -/

theorem wbits_lt (x : Word) {hi lo : Nat} : wbits x hi lo < 2 ^ (hi + 1 - lo) := Nat.mod_lt _ (by positivity)

/-- A write that R373 ignores. -/
abbrev badAstep (x : Word) : Prop :=
  wbits x 7 0 ≤ wbits x 15 8 ∨ wbits x 39 28 ≤ wbits x 51 40 ∨ wbits x 23 16 = 0

theorem execAstepWrite_bad {s : State} {x : Word} (h : badAstep x) : exec (.astepWrite x) s = .next s := by
  have hbad : (wbits x 7 0 ≤ wbits x 15 8 || wbits x 39 28 ≤ wbits x 51 40 || wbits x 23 16 == 0) = true := by
    simpa [or_assoc] using h
  exact congrArg Host.Outcome.next (if_pos hbad)

theorem execAstepWrite_good {s : State} {x : Word} (h : ¬badAstep x) :
    ∃ k : Package, exec (.astepWrite x) s = .next { s with pkg := k } ∧ k.tup.toNat = wbits x 7 0 ∧
      k.tdown.toNat = wbits x 15 8 ∧ k.hold.toNat = wbits x 23 16 ∧ k.lmin.val = wbits x 26 24 ∧
      k.pup.toNat = wbits x 39 28 ∧ k.pdown.toNat = wbits x 51 40 := by
  have hgood : ¬(wbits x 7 0 ≤ wbits x 15 8 || wbits x 39 28 ≤ wbits x 51 40 || wbits x 23 16 == 0) = true := by
    simpa [or_assoc] using h
  exact ⟨_, congrArg Host.Outcome.next (if_neg hgood), Nat.mod_eq_of_lt (wbits_lt x), Nat.mod_eq_of_lt (wbits_lt x),
    Nat.mod_eq_of_lt (wbits_lt x), Nat.mod_eq_of_lt (wbits_lt x), Nat.mod_eq_of_lt (wbits_lt x),
    Nat.mod_eq_of_lt (wbits_lt x)⟩

/-! A tick (R374). -/

section

variable {k : Package} {y : Sensed}

/-- Whether what a tick sees is hot or over power, and whether it is cool and under power. -/
abbrev hotFor (k : Package) (y : Sensed) : Prop := 8 * k.tup.toNat ≤ y.t ∨ 160 * k.pup.toNat ≤ y.p
abbrev coolFor (k : Package) (y : Sensed) : Prop := y.t < 8 * k.tdown.toNat ∧ y.p < 160 * k.pdown.toNat

theorem stepLevel_trip (h : y.trip = true) : stepLevel k y = (7, 0) := by simp [stepLevel, h]

/-- Without a trip. -/
theorem stepLevel_eq (h : y.trip = false) : stepLevel k y =
    if hotFor k y then (min (k.lvl.val + 1) 7, 0)
    else if k.lvl.val < k.lmin.val then (k.lvl.val + 1, 0)
    else if coolFor k y then
      if k.hold.toNat ≤ k.calm + 1 ∧ k.lmin.val < k.lvl.val then (k.lvl.val - 1, 0) else (k.lvl.val, k.calm + 1)
    else (k.lvl.val, 0) := by
  simp [stepLevel, h]

section

variable (h : y.trip = false)

include h

theorem stepLevel_hot (hhot : hotFor k y) : stepLevel k y = (min (k.lvl.val + 1) 7, 0) := by
  rw [stepLevel_eq h, if_pos hhot]

variable (hhot : ¬hotFor k y)

include hhot

theorem stepLevel_low (hlow : k.lvl.val < k.lmin.val) : stepLevel k y = (k.lvl.val + 1, 0) := by
  rw [stepLevel_eq h, if_neg hhot, if_pos hlow]

variable (hlow : k.lmin.val ≤ k.lvl.val)

include hlow

theorem stepLevel_falls (hcool : coolFor k y) (hhold : k.hold.toNat ≤ k.calm + 1) (habove : k.lmin.val < k.lvl.val) :
    stepLevel k y = (k.lvl.val - 1, 0) := by
  rw [stepLevel_eq h, if_neg hhot, if_neg (Nat.not_lt.2 hlow), if_pos hcool, if_pos ⟨hhold, habove⟩]

theorem stepLevel_calm (hcool : coolFor k y) (hwait : k.calm + 1 < k.hold.toNat ∨ k.lvl.val = k.lmin.val) :
    stepLevel k y = (k.lvl.val, k.calm + 1) := by
  rw [stepLevel_eq h, if_neg hhot, if_neg (Nat.not_lt.2 hlow), if_pos hcool, if_neg (by omega)]

theorem stepLevel_warm (hcool : ¬coolFor k y) : stepLevel k y = (k.lvl.val, 0) := by
  rw [stepLevel_eq h, if_neg hhot, if_neg (Nat.not_lt.2 hlow), if_neg hcool]

end

/-- L stays a level. -/
theorem stepLevel_le (k : Package) (y : Sensed) : (stepLevel k y).1 ≤ 7 := by
  have hlvl := k.lvl.isLt
  have hlmin := k.lmin.isLt
  cases h : y.trip with
  | true => rw [stepLevel_trip h]
  | false =>
    rw [stepLevel_eq h]
    split
    · exact Nat.min_le_right ..
    split
    · dsimp only
      omega
    split
    · split <;> dsimp only <;> omega
    · dsimp only
      omega

end

section

variable {s : State}

/-- The state after a tick, once the boot has ended. -/
def ticked (s : State) : State :=
  let r := stepLevel s.pkg (sensed s)
  (s.upDie (Die.setLevel r.1)).upPkg fun k => { k with
    dies := k.dies.map (Die.setLevel r.1), lvl := Fin.ofNat 8 r.1, calm := r.2
    posts := k.posts ++ promisePosts k.lvl.val r.1 s }

theorem execSteppingTick_booting (h : bootDone s = false) : exec .steppingTick s = .next s := by
  simp [exec_steppingTick, execSteppingTick, h]

theorem execSteppingTick_done (h : bootDone s = true) : exec .steppingTick s = .next (ticked s) := by
  simp [exec_steppingTick, execSteppingTick, h, ticked]

theorem ticked_level {l c : Nat} (h : stepLevel s.pkg (sensed s) = (l, c)) :
    (ticked s).pkg.lvl.val = l ∧ (ticked s).pkg.calm = c := by
  have hle := stepLevel_le s.pkg (sensed s)
  rw [h] at hle
  refine ⟨?_, congrArg Prod.snd h⟩
  have hval : (ticked s).pkg.lvl.val = (stepLevel s.pkg (sensed s)).1 % 8 := rfl
  rw [hval, h]
  exact Nat.mod_eq_of_lt (by dsimp only at hle ⊢; omega)

/-- A die that is ONLINE takes L, and counts a change if it is one (R45). -/
theorem ticked_die (h : s.die.boot = .online) : (ticked s).die.level = (ticked s).pkg.lvl ∧
    (ticked s).die.changes = if s.die.level = (ticked s).pkg.lvl then s.die.changes else s.die.changes + 1 := by
  have hle := stepLevel_le s.pkg (sensed s)
  have hdie : (ticked s).die = s.die.setLevel (stepLevel s.pkg (sensed s)).1 := rfl
  have hlvl : (ticked s).pkg.lvl = Fin.ofNat 8 (stepLevel s.pkg (sensed s)).1 := rfl
  rw [hdie, hlvl]
  generalize (stepLevel s.pkg (sensed s)).1 = l at hle
  have heq : s.die.level.val = l ↔ s.die.level = Fin.ofNat 8 l := by
    rw [Fin.ext_iff]
    simp only [Fin.ofNat]
    omega
  by_cases hsame : s.die.level.val = l
  · have hsame' := heq.1 hsame
    rw [if_pos hsame']
    simpa [Die.setLevel, h, hsame] using hsame'
  · rw [if_neg (mt heq.2 hsame)]
    simp [Die.setLevel, h, hsame]

end

/-! The mailbox (R371). -/

section

variable {s : State} {slot : Fin 16} {x : Word}

theorem mboxHeld_eq (s : State) (slot : Fin 16) : mboxHeld s slot = s.pkg.mbox[slot].length + mboxPopped s slot := by
  rw [mboxHeld, vget_fin]

theorem execMboxWrite_full (h : 64 ≤ s.pkg.mbox[slot].length + mboxPopped s slot) :
    exec (.mboxWrite slot x) s = .next { s with pkg := { s.pkg with
      drops := s.pkg.drops.set slot (if s.pkg.drops[slot] = 0xFFFF then 0xFFFF else s.pkg.drops[slot] + 1) } } := by
  rw [← mboxHeld_eq] at h
  have hdrop : (if s.pkg.drops[slot] == 0xFFFF then s.pkg.drops[slot] else s.pkg.drops[slot] + 1) =
      if s.pkg.drops[slot] = 0xFFFF then 0xFFFF else s.pkg.drops[slot] + 1 := by
    by_cases hmax : s.pkg.drops[slot] = 0xFFFF
    · rw [if_pos hmax, if_pos (by simpa using hmax), hmax]
    · rw [if_neg hmax, if_neg (by simpa using hmax)]
  rw [exec_mboxWrite, execMboxWrite, if_pos h, State.upPkg, vmod_fin, hdrop]

/-- The state with an entry appended. -/
def mboxed (s : State) (slot : Fin 16) (x : Word) : State := { s with pkg := { s.pkg with
  mbox := s.pkg.mbox.set slot (s.pkg.mbox[slot] ++ [(s.fresh, x)]), nextId := s.pkg.nextId + 1 } }

theorem upMbox_append : (s.upMbox slot fun l => l ++ [(s.fresh, x)]).useId = mboxed s slot x := by
  rw [State.upMbox, State.upPkg, vmod_fin]
  rfl

section

variable (h : s.pkg.mbox[slot].length + mboxPopped s slot < 64)

include h

/-- The entry of a slot that no partition holds, and of one whose dies' waiters it may end (R112). -/
theorem execMboxWrite_unowned (hp : slotPart s slot = none) :
    exec (.mboxWrite slot x) s = .next (mboxed s slot x) := by
  have hroom : ¬64 ≤ mboxHeld s slot := by rw [mboxHeld_eq]; omega
  simp only [exec_mboxWrite, execMboxWrite, if_neg hroom, upMbox_append, hp]

theorem execMboxWrite_owned {p : Partition} (hp : slotPart s slot = some p) :
    exec (.mboxWrite slot x) s = .next (eachDie (diesOf p.num s) settleWaiters (mboxed s slot x)) := by
  have hroom : ¬64 ≤ mboxHeld s slot := by rw [mboxHeld_eq]; omega
  simp only [exec_mboxWrite, execMboxWrite, if_neg hroom, upMbox_append, hp]

end

theorem execMboxstsWrite_eq : exec (.mboxstsWrite slot x) s = .next { s with pkg := { s.pkg with
    drops := s.pkg.drops.set slot (s.pkg.drops[slot] &&& ~~~(BitVec.ofNat 16 (wbits x 31 16))) } } := by
  rw [exec_mboxstsWrite, execMboxstsWrite, State.upPkg, vmod_fin]

end

/-! What a performed write frees (R295, R271). -/

/-- Only records have entered run queues: the selection stands, and outside the rings memory reads as before. -/
structure RingsOnly (s t : State) : Prop where
  core : t.core.num = s.core.num
  die : t.die.num = s.die.num
  mem : ∀ a, memOk s.die.mem = true → ¬ringed s.die a →
    memOk t.die.mem = true ∧ ¬ringed t.die a ∧ memGet t.die.mem a = memGet s.die.mem a

theorem RingsOnly.trans {s t u : State} (h : RingsOnly s t) (h' : RingsOnly t u) : RingsOnly s u := by
  refine ⟨h'.core.trans h.core, h'.die.trans h.die, fun a hm ha => ?_⟩
  obtain ⟨hm1, ha1, hget1⟩ := h.mem a hm ha
  obtain ⟨hm2, ha2, hget2⟩ := h'.mem a hm1 ha1
  exact ⟨hm2, ha2, hget2.trans hget1⟩

/-- What leaves the selection, and the die's memory and queues. -/
theorem ringsOnly_of_same {s t : State} (hcore : t.core.num = s.core.num) (hdie : t.die.num = s.die.num)
    (hmem : t.die.mem = s.die.mem) (hqueues : t.die.queues = s.die.queues) : RingsOnly s t := by
  refine ⟨hcore, hdie, fun a hm ha => ?_⟩
  rw [hmem]
  refine ⟨hm, ?_, rfl⟩
  simpa only [ringed, hqueues] using ha

theorem ringsOnly_makeRunnable (k : Nat) (c : Cont) (s : State) : RingsOnly s (makeRunnable k c s) := by
  refine ⟨rfl, ?_, fun a hm ha => ?_⟩
  · obtain ⟨_, _, _, _, _, happ⟩ := Die.appended_eq c.q { c with record := c.record.setStatus k } s.die
    simp only [makeRunnable, appendRun, State.upDie]
    rw [happ]
  · obtain ⟨hok, hget⟩ := Die.appended_mem c.q { c with record := c.record.setStatus k } hm ha
    exact ⟨hok, mt (ringed_appended ..).1 ha, hget⟩

theorem ringsOnly_wakeWatches (pa n id : Nat) (heads : List Head) (s : State) :
    RingsOnly s (wakeWatches pa n id heads s) := by
  refine List.foldlRecOn (motive := RingsOnly s) _ _ (ringsOnly_of_same rfl rfl rfl rfl) fun t ht w _ => ?_
  dsimp only
  refine ht.trans (.trans ?_ (ringsOnly_makeRunnable ..))
  exact ringsOnly_of_same rfl rfl rfl rfl

/-- A performed write is the write of its bytes, beyond which records enter run queues (R212). -/
theorem ringsOnly_writeMem (pa : Nat) (b : List Byte) (heads : List Head) (s : State) :
    RingsOnly (s.upDie fun d => { d with mem := memSetN d.mem pa b }) (writeMem pa b heads s) := by
  unfold writeMem
  refine .trans ?_ (ringsOnly_wakeWatches ..)
  exact ringsOnly_of_same rfl rfl rfl rfl

theorem writeMem_mem {pa : Nat} {b : List Byte} {heads : List Head} {s : State} {a : Nat}
    (hm : memOk s.die.mem = true) (ha : ¬ringed s.die a) :
    memGet (writeMem pa b heads s).die.mem a = memGet (memSetN s.die.mem pa b) a :=
  ((ringsOnly_writeMem pa b heads s).mem a (memOk_memSetN pa b hm) ha).2.2

/-! The host's memory (R370). -/

section

variable {s : State} {addr pa len : Nat} {b : List Byte}

theorem hostRead_error (h : hostReaches s pa len = false) : hostRead addr pa len s = s.post (.hostError addr) := by
  simp [hostRead, h]

/-- Where the host may read and each byte has a value, it reads them; what it has seen is joined. -/
theorem hostRead_data (h : hostReaches s pa len = true) (hb : ∀ k < len, (hostByte s (pa + k)).isSome = true) :
    hostRead addr pa len s = (hostJoins (hostGains s.die pa len) s).post
      (.hostData addr ((List.range len).filterMap fun k => hostByte s (pa + k))) := by
  have hsome : ((List.range len).map fun k => hostByte s (pa + k)).any (·.isNone) = false := by
    simp only [List.any_map, List.any_eq_false, List.mem_range, Function.comp]
    intro k hk
    have := hb k hk
    cases hbyte : hostByte s (pa + k) <;> simp_all
  simp [hostRead, h, hsome, List.filterMap_map]

theorem hostWrite_error (h : hostReaches s pa b.length = false) :
    hostWrite addr pa b s = s.post (.hostError addr) := by
  simp [hostWrite, h]

/-- A host write is performed, with a .system release of the host's (R222). -/
theorem hostWrite_done (h : hostReaches s pa b.length = true)
    (hb : ∀ k < b.length, isStamped s.die (pa + k) = false) :
    ∃ h : Head, ∃ ids, hostWrite addr pa b s =
      (writeMem pa b [h] s).upDie fun d => { d with hostView := joinIds d.hostView ids } := by
  have hplain : ((List.range b.length).any fun k => isStamped s.die (pa + k)) = false := by
    simpa using hb
  refine ⟨_, _, if_neg ?_⟩
  simp [h, hplain]

/-- CXL.mem of a die that is not there. -/
theorem hostMem_absent (h : ∀ d ∈ s.dies, d.num ≠ addr / 2 ^ 36) :
    exec (.hostCxlRead (.mem addr) len) s = .next (s.post (.hostError addr)) ∧
      exec (.hostCxlWrite addr b) s = .next (s.post (.hostError addr)) := by
  have hnone := dies_any_none h
  have hneg : ¬(s.dies.any fun d => d.num == addr / 2 ^ 36) = true := by rw [hnone]; exact Bool.false_ne_true
  exact ⟨congrArg Host.Outcome.next (if_neg hneg), congrArg Host.Outcome.next (if_neg hneg)⟩

theorem hostJoins_selection (ids : List Nat) (s : State) :
    (hostJoins ids s).die.num = s.die.num ∧ (hostJoins ids s).core.num = s.core.num := ⟨rfl, rfl⟩

theorem hostRead_selection : (hostRead addr pa len s).die.num = s.die.num ∧
    (hostRead addr pa len s).core.num = s.core.num := by
  unfold hostRead
  extract_lets
  split
  · exact ⟨rfl, rfl⟩
  · exact hostJoins_selection ..

theorem hostWrite_selection : (hostWrite addr pa b s).die.num = s.die.num ∧
    (hostWrite addr pa b s).core.num = s.core.num := by
  unfold hostWrite
  extract_lets ids head
  split
  · exact ⟨rfl, rfl⟩
  · have hwrite := ringsOnly_writeMem pa b [head] s
    exact ⟨hwrite.die, hwrite.core⟩

/-- The host's access to the selected die. -/
theorem execHostCxlRead_self (h : addr / 2 ^ 36 = s.die.num) :
    exec (.hostCxlRead (.mem addr) len) s = .next (hostRead addr (addr % 2 ^ 36) len s) := by
  obtain ⟨hd, hc⟩ := hostRead_selection (s := s) (addr := addr) (pa := addr % 2 ^ 36) (len := len)
  rw [← atDie_self hd hc, ← h]
  exact congrArg Host.Outcome.next (if_pos (by rw [h]; exact dies_any_self))

theorem execHostCxlWrite_self (h : addr / 2 ^ 36 = s.die.num) :
    exec (.hostCxlWrite addr b) s = .next (hostWrite addr (addr % 2 ^ 36) b s) := by
  obtain ⟨hd, hc⟩ := hostWrite_selection (s := s) (addr := addr) (pa := addr % 2 ^ 36) (b := b)
  rw [← atDie_self hd hc, ← h]
  exact congrArg Host.Outcome.next (if_pos (by rw [h]; exact dies_any_self))

end

/-! BAR0 (R369 to R373). -/

section

variable {s : State} {d : Fin 12}

theorem bootsts_fields (k : Package) : wbits (bootsts k) 3 0 = k.bootCode.toNat ∧ wbits (bootsts k) 15 4 = 0 ∧
    wbits (bootsts k) 27 16 = k.bootFenced.toNat ∧ wbits (bootsts k) 63 28 = 0 := by
  have hcode := k.bootCode.isLt
  have hfenced := k.bootFenced.isLt
  simp only [bootsts, wbits_wordN _ (show 3 < 64 by omega), wbits_wordN _ (show 15 < 64 by omega),
    wbits_wordN _ (show 27 < 64 by omega), wbits_wordN _ (show 63 < 64 by omega)]
  omega

theorem astep_fields (k : Package) : wbits (astep k) 7 0 = k.tup.toNat ∧ wbits (astep k) 15 8 = k.tdown.toNat ∧
    wbits (astep k) 23 16 = k.hold.toNat ∧ wbits (astep k) 26 24 = k.lmin.val ∧ wbits (astep k) 27 27 = 0 ∧
    wbits (astep k) 39 28 = k.pup.toNat ∧ wbits (astep k) 51 40 = k.pdown.toNat ∧ wbits (astep k) 63 52 = 0 := by
  have htup := k.tup.isLt
  have htdown := k.tdown.isLt
  have hhold := k.hold.isLt
  have hlmin := k.lmin.isLt
  have hpup := k.pup.isLt
  have hpdown := k.pdown.isLt
  simp only [astep, wbits_wordN _ (show 7 < 64 by omega), wbits_wordN _ (show 15 < 64 by omega),
    wbits_wordN _ (show 23 < 64 by omega), wbits_wordN _ (show 26 < 64 by omega), wbits_wordN _ (show 27 < 64 by omega),
    wbits_wordN _ (show 39 < 64 by omega), wbits_wordN _ (show 51 < 64 by omega), wbits_wordN _ (show 63 < 64 by omega)]
  omega

theorem mboxsts_fields {slot : Fin 16} (h : mboxHeld s slot ≤ 64) :
    wbits (mboxsts s slot) 6 0 = s.pkg.mbox[slot].length + mboxPopped s slot ∧ wbits (mboxsts s slot) 15 7 = 0 ∧
      wbits (mboxsts s slot) 31 16 = s.pkg.drops[slot].toNat ∧ wbits (mboxsts s slot) 63 32 = 0 := by
  have hdrops := s.pkg.drops[slot].isLt
  rw [← mboxHeld_eq]
  simp only [mboxsts, wbits_wordN _ (show 6 < 64 by omega), wbits_wordN _ (show 15 < 64 by omega),
    wbits_wordN _ (show 31 < 64 by omega), wbits_wordN _ (show 63 < 64 by omega)]
  omega

theorem therm_fields (x : Die) : wbits x.therm 11 0 = x.tj.toNat ∧ wbits x.therm 23 12 = x.tin.toNat ∧
    wbits x.therm 39 24 = x.pwr.toNat ∧ wbits x.therm 40 40 = x.trip.toNat ∧ wbits x.therm 63 41 = 0 := by
  have htj := x.tj.isLt
  have htin := x.tin.isLt
  have hpwr := x.pwr.isLt
  have htrip := x.trip.toNat_lt
  simp only [Die.therm, wbits_wordN _ (show 11 < 64 by omega), wbits_wordN _ (show 23 < 64 by omega),
    wbits_wordN _ (show 39 < 64 by omega), wbits_wordN _ (show 40 < 64 by omega), wbits_wordN _ (show 63 < 64 by omega)]
  omega

theorem pacedSum_fields (s : State) :
    wbits (pacedSum s s.die) 31 0 = (s.cores.map fun c => c.pacedN.toNat).foldl (· + ·) 0 % 2 ^ 32 ∧
      wbits (pacedSum s s.die) 63 32 = (s.cores.map fun c => c.stretchN.toNat).foldl (· + ·) 0 % 2 ^ 32 := by
  have hself : (s.die.num == s.die.num) = true := by simp
  simp only [pacedSum, if_pos hself, wbits_wordN _ (show 31 < 64 by omega), wbits_wordN _ (show 63 < 64 by omega)]
  omega

/-- A register of a die that the package has once, and of one that it has not. -/
theorem ofDie_self {n : Nat} (f : Die → Word) (hn : s.die.num = n) (h : ∀ e ∈ s.pkg.dies, e.num ≠ n) :
    ofDie s n f = f s.die := by
  subst hn
  simp only [ofDie, State.dies, find_insertDie h]

theorem ofDie_absent {n : Nat} (f : Die → Word) (h : ∀ e ∈ s.dies, e.num ≠ n) : ofDie s n f = 0 := by
  have hnone : s.dies.find? (fun d => d.num == n) = none := by simpa using h
  simp only [ofDie, hnone]

end

/-! The steward's registers (R270, R315, R317). -/

section

variable {s : State} {x : Word} {slot : Fin 16} {q : Fin 64}

theorem Die.roused_queues (d : Die) : d.roused.queues = d.queues := by
  obtain ⟨_, _, _, hroused⟩ := Die.roused_eq d
  rw [hroused]

theorem registerWrite_qcfg : ∃ t, exec (.registerWrite (.qcfg q) x) s = .next t ∧
    t.die.queues[q].cfg = x &&& 0x0000FFFFFFFF001F := by
  refine ⟨_, rfl, ?_⟩
  dsimp only
  split
  · simp [State.upDie]
  · simp [rouse, State.upDie, Die.roused_queues]

/-- PTROOT of a slot whose context may not issue, or without tables (R317). -/
theorem registerWrite_ptroot (h : slotRuns s slot = false ∨ s.die.ptroots[slot].toNat % 2 = 0) :
    exec (.registerWrite (.ptroot slot) x) s = .next (changeTables "REGISTER_WRITE" slot.val 0 0
      (fun t => t.upDie fun d => { d with ptroots := d.ptroots.set slot (x &&& 0x0003FFFFFFFFE001) }) s) := by
  refine congrArg Host.Outcome.next (if_neg ?_)
  simp only [Nat.testBit_zero, Bool.and_eq_true, decide_eq_true_eq, not_and]
  intro hruns
  obtain hidle | heven := h
  · simp [hidle] at hruns
  · omega

theorem registerWrite_ptroot_running (h : slotRuns s slot = true) (hodd : s.die.ptroots[slot].toNat % 2 = 1) :
    exec (.registerWrite (.ptroot slot) x) s = .next s := by
  refine congrArg Host.Outcome.next (if_pos ?_)
  simpa [Nat.testBit_zero, h] using hodd

end

/-- Settles O60: a tick by the cases of R374, a host access as one of the selected die, a word of BAR0 by its
packing. -/
theorem sensorsHostAndRegisters : Obligations.SensorsHostAndRegisters := by
  intro s x tj tin pwr slot q addr len b die box
  refine ⟨rfl, ⟨execAstepWrite_bad, execAstepWrite_good⟩, ?_, execMboxWrite_full, ?_, execMboxstsWrite_eq, ⟨rfl, rfl⟩,
    hostMem_absent, ?_, ?_, ?_, ?_, ?_⟩
  · intro k y l hot cool
    refine ⟨execSteppingTick_booting, fun hboot => ⟨_, execSteppingTick_done hboot, fun htrip => ?_, fun htrip => ?_,
      ticked_die⟩⟩
    · obtain ⟨hlvl, hcalm⟩ := ticked_level (s := s) (stepLevel_trip htrip)
      exact ⟨Fin.ext hlvl, hcalm⟩
    · exact ⟨fun hhot => ticked_level (stepLevel_hot htrip hhot),
        fun hhot hlow => ticked_level (stepLevel_low htrip hhot hlow),
        fun hhot hlow hcool hhold habove => ticked_level (stepLevel_falls htrip hhot hlow hcool hhold habove),
        fun hhot hlow hcool hwait => ticked_level (stepLevel_calm htrip hhot hlow hcool hwait),
        fun hhot hlow hcool => ticked_level (stepLevel_warm htrip hhot hlow hcool)⟩
  · intro hroom t
    exact ⟨execMboxWrite_unowned hroom, fun p => execMboxWrite_owned hroom⟩
  · intro hself pa
    have hread := execHostCxlRead_self (len := len) hself
    have hwrite := execHostCxlWrite_self (b := b) hself
    refine ⟨fun hno => by rw [hread, hostRead_error hno], fun hyes hbytes => ?_,
      fun hno => by rw [hwrite, hostWrite_error hno], fun hyes hplain => ?_⟩
    · exact ⟨_, hread.trans (congrArg _ (hostRead_data hyes hbytes)), rfl⟩
    · obtain ⟨head, ids, hdone⟩ := hostWrite_done (addr := addr) hyes hplain
      exact ⟨_, hwrite.trans (congrArg _ hdone), fun hm a ha => writeMem_mem hm ha⟩
  · intro d word
    refine ⟨⟨_, rfl, bootsts_fields s.pkg⟩, ⟨_, rfl, astep_fields s.pkg⟩,
      fun hheld => ⟨_, rfl, mboxsts_fields hheld⟩, fun hnum hothers => ⟨⟨_, rfl, ?_⟩, _, rfl, ?_⟩,
      fun habsent => ⟨⟨_, rfl, ofDie_absent _ habsent⟩, _, rfl, ofDie_absent _ habsent⟩⟩
    · have hword : bar0Word s (.therm d) = s.die.therm := ofDie_self _ hnum hothers
      rw [hword]
      exact therm_fields s.die
    · have hword : bar0Word s (.paced d) = pacedSum s s.die := ofDie_self _ hnum hothers
      rw [hword]
      exact pacedSum_fields s
  · exact ⟨rfl, rfl, rfl, rfl, rfl, rfl, _, rfl⟩
  · exact ⟨rfl, rfl⟩
  · refine ⟨rfl, rfl, rfl, rfl, registerWrite_qcfg, fun hmay => ?_, registerWrite_ptroot_running, ?_⟩
    · intro t
      have hwrite := registerWrite_ptroot (x := x) hmay
      exact ⟨fun hmix => hwrite.trans (congrArg _ (changeTables_mixed hmix)),
        fun hmix => hwrite.trans (congrArg _ (changeTables_made hmix))⟩
    · intro a
      exact ⟨fun hok => congrArg Host.Outcome.next (if_pos hok),
        fun hbad => congrArg Host.Outcome.next (if_neg (Bool.eq_false_iff.1 hbad))⟩

end Sys2Proof.Machine
end

section
/-! PROOFS. The decoder and the encoder (spec/04 R50, R53, R54, R61 to R63): every instruction's encoding reads back, a
word is the encoding of what it decodes to, and from these the statements O1, O2 and O3. -/

namespace Sys2Proof.Laws

/-! From an instruction to its word and back. -/

namespace Coding

/-- What carries an instruction fits the syllable and passes the checks of R63: one lemma per constructor. -/
theorem statement (i : Instr) : Statement i :=
  Instr.rec (motive := Statement) sNop sAdd sSub sAddi sMovi sMovhi sAnd sOr sXor sAndn sAndi sOri sXori sShl sShr
    sSar sShli sShri sSari sRor sMin sMax sMinu sMaxu sAbs sNeg sClz sCtz sPopc sBswap sSext sZext sBfx sBfi sSel sMul
    sMulh sMulhu sMadd sCmp sCmpi sPand sPor sPxor sPnot sPset sLea sMov sCrd sCwr sGrd sGwr sSpl sSps sClk sChk
    sMskIns sMskExt sMski bBr bCall bRet bJmpi bCalli bLoop bPloop bRep bCkpt bRvz bCbar bYield bWaitTime bWaitMbox
    bWaitCrewq bWaitRecv bMwait bPhase bEnd bSpawn bWany bWall bFfr bTrap bGroupQuery bGroupForm bGroupDissolve vAdd
    vSub vMul vMulh vFma vFms vFnma vMin vMax vAbs vNeg vClamp vAnd vOr vXor vNot vShl vShr vSar vFshl vFshr vCmp vSel
    vMov vBcast vIota vExtr vIns vPerm vSlide vZip vCmprs vCvt vMaxexp vPxpose vRsum vRmax vRmin vGmax vRowsum vColsum
    vAread vAwrite vMcnt vPopc vClz vRound vScale vAvg vAbd vMset vMand fTbl fTblwr fTblrd fRcp fRsq fSqrt fDiv fExp2
    fLog2 fExp fLog fGeo fGeoidx fLq fLdq fLqcnt fLscale mLd mSt mLdp mStp mVld mVst mVstu mVlds mVsts mVldb mVgath
    mVscat mLdaq mStrl mAadd mAmin mAmax mAand mAor mAxor mSwap mCas mFence mFenceStamp mSts mLdas mPref mGld mGst
    mTinv mZero xMma xMmac xAclr xAmov xAload xAsave xMode xMirr xFence xStat dPp dPpcmp dPpcfg dPpact cCopy cCopy2d
    cFill cFill2d cGath cScat cXpose cPlane cConv cXch cTclr cPref lOpenSend lOpenRecv lSend lSendst lRecv lPeek
    lClose lStat dJpeg dG4 dRaw dRingSet dRingFree dPortCount dPortSkip dDstat dDabort dDfence zw1Madd zw1Ldpair
    zw1Vsum zw1Dbnz rvzDeadline cbarDeadline waitTimeExpiry exchangeEnd exchangeTimeExpiry geoRecordFill modeSwitch
    matrixCommandStart matrixCommandFinish postprocComplete copyCommandStart copyComplete copyFault copyDemandPark
    ringSetPerformed decodeEngineAssign decodeRecordEmit decodePageEnd streamSlotPresent creditReturn reserve tune
    tuneLocked linkFail linkError circuitDrain circuitDrainComplete circuitRelease pminWrite partminWrite flitArrival
    flitLeavesIngress debugRelease budget budgetRefill coreFill queueOverflowMove submit verificationEnd load retire
    microcodeUpdate formPartition partitionRelease create start preempt prelimitExpiry halt resume swap swapComplete
    restore restoreComplete kill killScrubComplete resolve pageTableUpdate offline evacuationComplete online
    domainFloor clockWide resetRelease bistComplete authComplete authTimeout railFault steppingTick thermRefresh
    astepWrite mboxWrite mboxstsWrite hostopen hostclose hostCxlRead hostCxlWrite getVersion getCapabilities
    negotiateAlgorithms getDigests getCertificate challenge getMeasurements scrubError registerWrite i

end Coding

/-- The word of a well-formed instruction decodes to it, under every frame. -/
theorem decodeWord_encode {i : Instr} {e : Enc} (h : i.enc = some e) (hw : i.wf = true) (fr : Frame) :
    decodeWord (encode fr i) = .ok i := by
  obtain ⟨hfits, hdecodes⟩ := Coding.statement i e h
  rw [decodeWord, encOf_encode h hfits]
  exact hdecodes hw

/-- Settles O1: the fields fit the syllable, so its frame, opcode, MOD and operands read back. -/
theorem decodeInvertsEncode : Obligations.DecodeInvertsEncode := by
  unfold Obligations.DecodeInvertsEncode
  intro i fr hw henc
  obtain ⟨e, he⟩ := Option.isSome_iff_exists.1 henc
  have hfits := (Coding.statement i e he).1
  exact ⟨encode_lt he hfits fr, decodeWord_encode he hw fr, frameOf_encode he hfits fr⟩

/-! From a word to its instruction and back. -/

/-- The checks of R63 pass only what encodes the instruction they answer, and only a well-formed one. -/
theorem enc_of_decodeEnc {x : Enc} {i : Instr} (h : decodeEnc x = .ok i) : i.enc = some x ∧ i.wf = true := by
  unfold decodeEnc at h
  split at h
  · cases h
  cases hb : build x.opc x.md x.f with
  | none => simp [hb] at h
  | some j =>
    cases he : j.enc with
    | none => simp [hb, he] at h
    | some e =>
      simp only [hb, he] at h
      split at h
      · cases h
      next hmod =>
        split at h
        · cases h
        next hfield =>
          split at h
          · cases h
          next hkind =>
            cases h
            obtain ⟨-, hm⟩ : x.md = e.md ∧ i.modOk = true := by simpa using hmod
            obtain ⟨rfl, hk⟩ : x = e ∧ i.kindOk = true := by simpa using hkind
            simp only [Bool.not_eq_true', Bool.not_eq_false, fieldsOk, Bool.and_eq_true] at hfield
            obtain ⟨-, hf⟩ := hfield
            exact ⟨he, by simp [Instr.wf, hm, hf, hk]⟩

/-- The operand fields of a word, written by its format, are its low 44 bits (R53). -/
theorem pack_unpack (k : Fmt) (w : Nat) : pack k (unpack k w) = w % 2 ^ 44 := by
  cases k <;> simp only [pack, unpack, bits] <;> omega

/-- A flag of the frame, as the bit it was read from. -/
theorem toNat_bit (w n : Nat) : (bits w n n == 1).toNat = bits w n n := by
  have hlt : bits w n n < 2 := by
    rw [bits, Nat.add_sub_cancel_left]
    exact Nat.mod_lt _ (by omega)
  obtain h | h : bits w n n = 0 ∨ bits w n n = 1 := by omega
  all_goals rw [h]; rfl

/-- The encoder gives back the word whose frame and fields it is asked to carry (R50). -/
theorem encode_frameOf {w : Nat} {i : Instr} (hw : w < 2 ^ 64) (h : i.enc = some (encOf w)) :
    encode (frameOf w) i = w := by
  have hg : bits w 60 57 < 16 := Nat.mod_lt _ (by omega)
  simp only [encode, h, frameOf, encOf, pack_unpack, toNat_bit, Fin.ofNat_eq_cast, Fin.val_natCast, Nat.mod_eq_of_lt hg]
  simp only [bits]
  omega

/-- The bits below a place are those of the number cut off there. -/
theorem bits_mod_two_pow (w : Nat) {hi n : Nat} (lo : Nat) (h : hi < n) : bits (w % 2 ^ n) hi lo = bits w hi lo := by
  refine Nat.eq_of_testBit_eq fun i => ?_
  simp only [bits, Nat.testBit_mod_two_pow, Nat.testBit_div_two_pow]
  by_cases hin : i < hi + 1 - lo
  · have hplace : i + lo < n := by omega
    simp [hplace]
  · simp [hin]

/-- The frame bits that lie above OPC are neither it, nor MOD, nor an operand (R50). -/
theorem encOf_mod (w : Nat) : encOf (w % 2 ^ 57) = encOf w := by
  cases h : fmtOf (bits w 56 49) <;> simp (disch := decide) only [encOf, h, unpack, bits_mod_two_pow]

/-- An unassigned opcode is refused before anything else of the word is looked at (R63). -/
theorem decodeWord_unassigned {w : Nat} (h : assigned (bits w 56 49) = false) : decodeWord w = .error .unassigned := by
  simp [decodeWord, decodeEnc, encOf, h]

/-- Settles O2: the checks of R63 compare the word's fields with those of the instruction they answer. -/
theorem encodeInvertsDecode : Obligations.EncodeInvertsDecode := by
  unfold Obligations.EncodeInvertsDecode
  refine ⟨fun w i hw h => ?_, by decide, fun w => decodeWord_unassigned, fun w => ?_⟩
  · obtain ⟨henc, hwf⟩ := enc_of_decodeEnc h
    exact ⟨hwf, by simp [henc], encode_frameOf hw henc⟩
  · rw [decodeWord, decodeWord, encOf_mod]

/-- Settles O3, by running the decoder on each word. -/
theorem wordsOfTheSpecDecode : Obligations.WordsOfTheSpecDecode := by
  unfold Obligations.WordsOfTheSpecDecode
  exact ⟨rfl, rfl, rfl, rfl, rfl, rfl, rfl, rfl, rfl, rfl, rfl, rfl⟩

end Sys2Proof.Laws
end

section
/-! PROOFS. The hardwired registers (spec/04 R56): the statement O9. -/

namespace Sys2Proof.Machine

/-- A result for s0, p0 or m0 is discarded: landing moves at most the ECC marks of the core (R56, R229). -/
theorem landOne_hardwired (s : State) (x : Word) (b : Bool) (m : Mask) :
    landOne s (.s 0 x) = s.upCore (·.mend 0) ∧ landOne s (.p 0 b) = s.upCore (·.mend 96) ∧
      landOne s (.m 0 m) = s.upCore (·.mend 112) := ⟨rfl, rfl, rfl⟩

/-- Settles O9, register by register. -/
theorem hardwiredRegisters : Obligations.HardwiredRegisters := by
  unfold Obligations.HardwiredRegisters
  intro s
  refine ⟨rfl, rfl, rfl, fun l x b m hl => ?_⟩
  obtain ⟨hs, hp, hm⟩ := landOne_hardwired s x b m
  obtain rfl | rfl | rfl := hl
  · rw [hs]
    exact ⟨rfl, rfl, rfl⟩
  · rw [hp]
    exact ⟨rfl, rfl, rfl⟩
  · rw [hm]
    exact ⟨rfl, rfl, rfl⟩

end Sys2Proof.Machine
end

section
/-! PROOFS. Branches, calls and the signature check (spec/06 R106, R107): the traps of an indirect branch, the effect of
each taken branch, and from these the statement O22. -/

namespace Sys2Proof.Machine

section

variable {s : State} {a : SReg} {cls : BitVec 16} {w : Nat} {off : BitVec 44}

/-! The signature check (R107). -/

theorem entersClass_iff : entersClass w cls = true ↔
    decodeWord w = .ok (.sNop cls) ∧ (frameOf w).ginv = false ∧ (frameOf w).gpred = 0 := by
  simp only [entersClass, Bool.and_eq_true, beq_iff_eq, Bool.not_eq_true', and_assoc, Fin.ext_iff, Fin.val_zero]

/-- A target that is no bundle address traps before anything is fetched from it. -/
theorem calliTrap_bad {x : Word} (h : ¬(x.toNat % 8 = 0 ∧ x.toNat < 2 ^ 56)) :
    calliTrap s x cls = some { cause := .badtarget, addr := x.toNat } := by
  rw [calliTrap, badTarget_some x h]
  rfl

section

variable {x : Word} (hgood : x.toNat % 8 = 0 ∧ x.toNat < 2 ^ 56)

include hgood

theorem calliTrap_fetch {e : Trap} (h : fetchSyl s x.toNat = .error e) : calliTrap s x cls = some e := by
  simp [calliTrap, (badTarget_none x).2 hgood, h]

theorem calliTrap_word (h : fetchSyl s x.toNat = .ok w) : calliTrap s x cls =
    if entersClass w cls then none else some { cause := .sigclass, addr := x.toNat } := by
  simp [calliTrap, (badTarget_none x).2 hgood, h]

end

/-! The branches and calls (R106). -/

theorem exec_bBr_eq : exec (.bBr off) s = issue s {} (jump (relTarget s off.toInt)) := rfl

theorem exec_bCall_eq : exec (.bCall off) s =
    issue s { dsts := [.s 1] } (fun t => link (jump (relTarget s off.toInt) t)) := rfl

theorem exec_bRet_eq : exec (.bRet a) s =
    issue s { srcs := [.s a], trap := badTarget (regS s a) } (jump (regS s a).toNat) := rfl

theorem exec_bJmpi_eq : exec (.bJmpi a) s = issue s { srcs := [.s a], trap := badTarget (regS s a) }
    (fun t => (jump (regS s a).toNat t).upCore fun c => { c with hnd := false }) := rfl

theorem exec_bCalli_eq : exec (.bCalli a cls) s =
    issue s { srcs := [.s a], dsts := [.s 1], trap := calliTrap s (regS s a) cls }
      (fun t => link (jump (regS s a).toNat t)) := rfl

/-- The link is the nb of the bundle that issues, which neither pops nor a jump move. -/
theorem link_jump (n : Nat) (l : List Reg) : link (jump n (reads l s)) =
    wrS 1 1 (wordN s.core.issue.nb) (jump n (reads l s)) := by
  have hnb : (reads l s).core.issue.nb = s.core.issue.nb := congrArg Issue.nb (popAll_issue ..)
  rw [← hnb]
  rfl

/-- A call whose target opens its class jumps there and leaves the link. -/
theorem bCalli_runs (h : calliTrap s (regS s a) cls = none) : RunsTo (.bCalli a cls) s [.s a] [.s 1] (fun u =>
    wrS 1 1 (wordN s.core.issue.nb) (jump (regS s a).toNat u)) := fun hruns => by
  rw [exec_bCalli_eq, issue_runs hruns rfl h rfl rfl]
  exact congrArg _ (link_jump ..)

theorem bCalli_traps {t : Trap} (h : calliTrap s (regS s a) cls = some t) (hruns : Runs s [.s a] [.s 1]) :
    exec (.bCalli a cls) s = .next (trapHere t s) := exec_bCalli_eq.trans (issue_traps hruns rfl h)

end

/-- Settles O22: the branches of a target in the syllable, those of a good register, and those of a bad one. -/
theorem branches : Obligations.Branches := by
  intro s off a cls w
  extract_lets x goes rel nb good
  refine ⟨runsTo_issue exec_bBr_eq rfl rfl rfl rfl, fun hruns => ?_, fun hgood => ?_, fun hbad => ?_⟩
  · rw [exec_bCall_eq, issue_runs hruns rfl rfl rfl rfl]
    exact congrArg _ (link_jump ..)
  · have hnone := (badTarget_none x).2 hgood
    refine ⟨runsTo_issue exec_bRet_eq rfl hnone rfl rfl, runsTo_issue exec_bJmpi_eq rfl hnone rfl rfl,
      fun hfetch hdec hginv hgpred => ?_, fun e hfetch => bCalli_traps (calliTrap_fetch hgood hfetch),
      fun hfetch hother => bCalli_traps ?_⟩
    · refine bCalli_runs ((calliTrap_word hgood hfetch).trans (if_pos ?_))
      exact entersClass_iff.2 ⟨hdec, hginv, hgpred⟩
    · exact (calliTrap_word hgood hfetch).trans (if_neg (mt entersClass_iff.1 hother))
  · have htrap := badTarget_some x hbad
    exact ⟨fun hruns => ⟨exec_bRet_eq.trans (issue_traps hruns rfl htrap),
      exec_bJmpi_eq.trans (issue_traps hruns rfl htrap)⟩, bCalli_traps (calliTrap_bad hbad)⟩

end Sys2Proof.Machine
end

section
/-! PROOFS. The deprecated opcodes (spec/04 R64, R65): the issue of two steps that nothing keeps from issuing, the
trap of step 1, the results of each expansion, and from these the statement O53. -/

namespace Sys2Proof.Machine

section

/-! The issue of two steps (R65). -/

variable {s : State} {l m l' m' : List Reg} {q q' : Option Freeze} {f : State → State}

/-- Two steps that read `l` and `l'` and write `m` and `m'` meet none of the conditions of R36 that every syllable
shares. -/
def StepsRun (s : State) (l m l' m' : List Reg) : Prop :=
  (l ++ l').any (portEmpty s) = false ∧ sylTrap s { srcs := l, dsts := m } = none ∧
    sylTrap s { srcs := l', dsts := m' } = none ∧ m.any (portFull s) = false ∧ m'.any (portFull s) = false

theorem sylStall_none {y : Syl} (h : y.dsts.any (portFull s) = false) (hs : y.stall = none) : sylStall s y = none := by
  simp [sylStall, h, hs]

/-- A trap of the entry's own is the syllable's when no check that every syllable shares fails (R36 step 2). -/
theorem sylTrap_own {y : Syl} {t : Trap}
    (h : sylTrap s { srcs := y.srcs, dsts := y.dsts, also := y.also, quiet := y.quiet } = none) (ht : y.trap = some t) :
    sylTrap s y = some t := by
  simp only [sylTrap, Syl.reads, Option.orElse_eq_or, Option.or_eq_none_iff] at h ⊢
  obtain ⟨hpend, hallot, hport, huecc, -⟩ := h
  rw [hpend, hallot, hport, huecc, ht]
  rfl

/-- Two steps with no trap of their own, whose stalls do not hold, take their effect on the state their pops leave. -/
theorem issueSteps_runs (h : StepsRun s l m l' m') (hq : q = none) (hq' : q' = none) :
    issueSteps s { srcs := l, dsts := m, stall := q } { srcs := l', dsts := m', stall := q' } f =
      .next (f (reads (l ++ l') s)) := by
  obtain ⟨hempty, htrap, htrap', hfull, hfull'⟩ := h
  subst hq hq'
  have hstall := sylStall_none (y := { srcs := l, dsts := m }) hfull rfl
  have hstall' := sylStall_none (y := { srcs := l', dsts := m' }) hfull' rfl
  simp [issueSteps, hempty, htrap, htrap', hstall, hstall', reads]

/-- A trap of step 1 alone is the syllable's, with STEP set, whatever would stall either step. -/
theorem issueSteps_step1_traps {t : Trap} (h : StepsRun s l m l' m') :
    issueSteps s { srcs := l, dsts := m, stall := q } { srcs := l', dsts := m', trap := some t, stall := q' } f =
      .next (trapHere { t with step := true } s) := by
  obtain ⟨hempty, htrap, htrap', -⟩ := h
  have hstep0 : sylTrap s { srcs := l, dsts := m, stall := q } = none := htrap
  have hstep1 := sylTrap_own (y := { srcs := l', dsts := m', trap := some t, stall := q' }) htrap' rfl
  simp [issueSteps, hempty, hstep0, hstep1, Trap.atStep1]

end

/-! Values. -/

/-- An address modulo 2^64 and then 2^56 is one modulo 2^56 (R188). -/
theorem addrOf_eq (s : State) (a : SReg) (imm : BitVec 16) :
    addrOf s a imm = (((regS s a).toNat + imm.toInt) % 2 ^ 56).toNat := by
  simp only [addrOf, effAddr, wordI, BitVec.toNat_ofInt]
  omega

/-- A signed word of 32 bits, sign-extended, is that word modulo 2^32 in the range of a signed one. -/
theorem toInt_sextN_32 {n : Nat} (h : n < 2 ^ 32) : (wordI (sextN n 32)).toInt % 2 ^ 32 = n ∧
    -(2 ^ 31) ≤ (wordI (sextN n 32)).toInt ∧ (wordI (sextN n 32)).toInt < 2 ^ 31 := by
  obtain ⟨hmod, hlow, hhigh⟩ : sextN n 32 % 2 ^ 32 = n ∧ -(2 ^ 31) ≤ sextN n 32 ∧ sextN n 32 < 2 ^ 31 := by
    simp only [sextN, bitAt, Bool.and_eq_true, beq_iff_eq, show (32 != 0) = true from rfl, and_true]
    split <;> omega
  have hword : (wordI (sextN n 32)).toInt = sextN n 32 := by
    rw [wordI, BitVec.toInt_ofInt, Int.bmod_eq_of_le] <;> omega
  rw [hword]
  exact ⟨hmod, hlow, hhigh⟩

section

/-! The expansions (R64, R65). -/

variable {s : State} {d a : SReg} {imm : BitVec 16} {l0 l1 : Loaded}

/-- ZW1.LDPAIR by what its two loads find. -/
theorem exec_zw1Ldpair_eq {va : Nat} (hva : addrOf s a imm = va) (h0 : loadAt s 8 8 [va] = l0)
    (h1 : loadAt s 8 8 [(va + 8) % 2 ^ 56] = l1) : exec (.zw1Ldpair d a imm) s =
      issueSteps s { srcs := [.s a], dsts := [.s d], trap := l0.fault, stall := l0.stall s.core }
        { srcs := [], dsts := [.s (d + 1)], trap := l1.fault, stall := l1.stall s.core }
        (fun u => wrS (d + 1) 4 (wordN (natOf l1.bytes)) (wrS d 4 (wordN (natOf l0.bytes))
          (stepLanding l1 true (stepLanding l0 false u)))) := by
  subst hva h0 h1
  rfl

/-- ZW1.DBNZ by the decremented register. -/
theorem exec_zw1Dbnz_eq {off : BitVec 30} {n : Word} (hn : regS s a - 1 = n) : exec (.zw1Dbnz a off) s =
    issueSteps s { srcs := [.s a], dsts := [.s a] } {}
      (fun u => if n = 0 then wrS a 1 n u else jump (relTarget s off.toInt) (wrS a 1 n u)) := by
  subst hn
  simp only [exec_zw1Dbnz, execZw1Dbnz, beq_iff_eq]

theorem sum32_eq (x : VWord) : sum32 x = ((List.range 256).map (elem x 4)).sum % 2 ^ 32 := by
  rw [sum32, List.sum_eq_foldl]

end

/-- Settles O53, expansion by expansion. -/
theorem deprecatedOpcodes : Obligations.DeprecatedOpcodes := by
  intro s d a b c v imm off ps ps' x y
  extract_lets steps va n
  have hva : addrOf s a imm = va := addrOf_eq s a imm
  refine ⟨fun h => issueSteps_runs h rfl rfl, fun h h0 h1 hfree hfree' => ?_, fun t h h0 h1 => ?_,
    fun h => ?_, fun h => ?_⟩
  · exact (exec_zw1Ldpair_eq hva h0 h1).trans (issueSteps_runs h hfree hfree')
  · exact (exec_zw1Ldpair_eq hva h0 h1).trans (issueSteps_step1_traps h)
  · have hsum : sum32 (regV s v) < 2 ^ 32 := Nat.mod_lt _ (by decide)
    obtain ⟨hmod, hlow, hhigh⟩ := toInt_sextN_32 hsum
    refine ⟨wordI (sextN (sum32 (regV s v)) 32), ?_, hlow, hhigh, issueSteps_runs h rfl rfl⟩
    rw [hmod, sum32_eq]
    rfl
  · exact (exec_zw1Dbnz_eq rfl).trans (issueSteps_runs h rfl rfl)

end Sys2Proof.Machine
end

section
/-! PROOFS. The lattice operations (spec/09 R163, R177 to R179; spec/05 R81, R82): the scale that F.LSCALE finds, the
effect of each syllable, and from these the statement O40. -/

namespace Sys2Proof.Machine

section

/-! Magnitudes (R177). -/

variable {x : Nat} {l : List Nat} {sg : Bool} {m : Nat} {e : Int}

/-- The low 31 bits of an encoding hold its magnitude: exponent and fraction stay, the sign goes. -/
theorem f32_val_mod_of_fin (h : f32.val x = .fin sg m e) : f32.val (x % 2 ^ 31) = .fin false m e := by
  have hsign : bitAt (x % 2 ^ 31) 31 = false := by simp only [bitAt, beq_eq_false_iff_ne]; omega
  have hexp : x % 2 ^ 31 / 2 ^ 23 % 2 ^ 8 = x / 2 ^ 23 % 2 ^ 8 := by omega
  have hfrac : x % 2 ^ 31 % 2 ^ 23 = x % 2 ^ 23 := by omega
  simp only [f32, FFmt.val, hsign, hexp, hfrac, Bool.and_true, beq_iff_eq] at h ⊢
  split_ifs at h ⊢ <;> (cases h; rfl)

/-- Only an encoding without magnitude bits is a zero: a normal one has its hidden bit, a subnormal one its fraction. -/
theorem mod_eq_zero_of_fin_zero (h : f32.val x = .fin sg 0 e) : x % 2 ^ 31 = 0 := by
  simp only [f32, FFmt.val, Bool.and_true, beq_iff_eq] at h
  split_ifs at h with htop hfrac hnan hexp
  · simp only [FVal.fin.injEq] at h
    omega
  · simp only [FVal.fin.injEq] at h
    omega

theorem mod_eq_zero_of_isZero (h : (f32.val x).isZero = true) : x % 2 ^ 31 = 0 := by
  cases hval : f32.val x with
  | nan | inf => simp [hval, FVal.isZero] at h
  | fin sg m e =>
    obtain rfl : m = 0 := by simpa [hval, FVal.isZero] using h
    exact mod_eq_zero_of_fin_zero hval

theorem maxMag_le_iff {b : Nat} : maxMag l ≤ b ↔ ∀ x ∈ l, x % 2 ^ 31 ≤ b := by
  suffices h : ∀ k, l.foldl (fun k x => max k (x % 2 ^ 31)) k ≤ b ↔ k ≤ b ∧ ∀ x ∈ l, x % 2 ^ 31 ≤ b by
    simpa [maxMag] using h 0
  induction l with
  | nil => simp
  | cons y t ih => simp only [List.foldl_cons, ih, max_le_iff, List.forall_mem_cons, and_assoc, implies_true]

theorem maxMag_eq_of_greatest (hx : x ∈ l) (h : ∀ y ∈ l, y % 2 ^ 31 ≤ x % 2 ^ 31) : maxMag l = x % 2 ^ 31 :=
  le_antisymm (maxMag_le_iff.2 h) (maxMag_le_iff.1 le_rfl x hx)

/-! The scale (R177). -/

/-- The exponent g of R177 for elements l, at the adjustment k. -/
def scaleExp (l : List Nat) (k : Int) : Int :=
  match f32.val (maxMag l) with
  | .fin _ m e => if m == 0 then 0 else clampI (ilog2 m e + k) (-126) 126
  | _ => 0

theorem clampI_eq {x lo hi : Int} (h : lo ≤ hi) : clampI x lo hi = max lo (min x hi) := by
  unfold clampI
  split_ifs <;> omega

theorem scaleExp_bounds (l : List Nat) (k : Int) : -126 ≤ scaleExp l k ∧ scaleExp l k ≤ 126 := by
  unfold scaleExp
  split
  · split
    · decide
    · rw [clampI_eq (by decide)]
      omega
  · decide

variable {k : Int}

theorem scaleExp_of_zeros (h : ∀ x ∈ l, (f32.val x).isZero = true) : scaleExp l k = 0 := by
  have hmax : maxMag l = 0 := Nat.le_zero.1 (maxMag_le_iff.2 fun x hx => (mod_eq_zero_of_isZero (h x hx)).le)
  rw [scaleExp, hmax]
  rfl

theorem scaleExp_of_greatest (hx : x ∈ l) (hmax : ∀ y ∈ l, y % 2 ^ 31 ≤ x % 2 ^ 31)
    (hval : f32.val x = .fin sg m e) (hm : m ≠ 0) : scaleExp l k = max (-126) (min (e + (m.log2 : Int) + k) 126) := by
  have hmag : f32.val (maxMag l) = .fin false m e :=
    (congrArg f32.val (maxMag_eq_of_greatest hx hmax)).trans (f32_val_mod_of_fin hval)
  simp only [scaleExp, hmag, beq_iff_eq, hm, if_false, ilog2]
  exact clampI_eq (by decide)

end

section

/-! The syllables (R177 to R179). -/

variable {s : State} {d a : VReg} {sd sb : SReg} {adj : BitVec 4}

/-- The FP32 elements of v[a] that SHAPE counts. -/
def shElems (s : State) (a : VReg) : List Nat := (List.range (shCount s)).map fun e => elem (regV s a) 4 e

theorem forall_mem_shElems {p : Nat → Prop} : (∀ x ∈ shElems s a, p x) ↔ ∀ e < shCount s, p (elem (regV s a) 4 e) := by
  simp [shElems]

theorem elem_mem_shElems {e : Nat} (h : e < shCount s) : elem (regV s a) 4 e ∈ shElems s a :=
  List.mem_map_of_mem (List.mem_range.2 h)

theorem exec_fLscale_eq {bad : Bool} {g : Int} (hbad : (shElems s a).any (fun x => !(f32.val x).isFin) = bad)
    (hg : scaleExp (shElems s a) adj.toInt = g) : exec (.fLscale sd a adj) s =
      issue s { srcs := [.v a], dsts := [.s sd], trap := shapeTrap s 4 } (fun u =>
        if bad then raise .special 3 [.invalid] (wrS sd 3 0x7FC000007FC00000 u)
        else wrS sd 3 (wordN (pow2Code (-g) + 2 ^ 32 * pow2Code g)) u) := by
  subst hbad hg
  rfl

theorem fLscale_nonfinite (ht : shapeTrap s 4 = none)
    (h : ∃ e < shCount s, (f32.val (elem (regV s a) 4 e)).isFin = false) : RunsTo (.fLscale sd a adj) s [.v a] [.s sd]
      (fun u => raise .special 3 [.invalid] (wrS sd 3 0x7FC000007FC00000 u)) := by
  obtain ⟨e, he, hinf⟩ := h
  have hbad : (shElems s a).any (fun x => !(f32.val x).isFin) = true :=
    List.any_eq_true.2 ⟨_, elem_mem_shElems he, by rw [hinf]; rfl⟩
  exact runsTo_issue (exec_fLscale_eq hbad rfl) rfl ht rfl rfl

theorem fLscale_finite (ht : shapeTrap s 4 = none)
    (h : ∀ e < shCount s, (f32.val (elem (regV s a) 4 e)).isFin = true) : RunsTo (.fLscale sd a adj) s [.v a] [.s sd]
      (wrS sd 3 (wordN (pow2Code (-scaleExp (shElems s a) adj.toInt) +
        2 ^ 32 * pow2Code (scaleExp (shElems s a) adj.toInt)))) := by
  have hbad : (shElems s a).any (fun x => !(f32.val x).isFin) = false :=
    List.any_eq_false.2 (forall_mem_shElems.2 fun e he => by simp [h e he])
  exact runsTo_issue (exec_fLscale_eq hbad rfl) rfl ht rfl rfl

/-- The points of F.LQ: code, INVALID and shell overflow of each (R178). -/
def lqPoints (s : State) (a : VReg) (sb : SReg) : List (Nat × Bool × Bool) :=
  (List.range ((shCount s + 7) / 8)).map (lqPoint s a (f32.val (wbits (regS s sb) 31 0)))

/-- The codes of F.LQ in flight (R178). -/
def lqCodes (s : State) (d a : VReg) (sb : SReg) : State → State :=
  wrV d 8 (ofElems 2 ((lqPoints s a sb).map Prod.fst))

/-- The counts of F.LQ in flight: its statistics records and LQO (R178). -/
def lqCounts (l : List (Nat × Bool × Bool)) (u : State) : State :=
  statFlight .special 8 ([(1, countIf (fun r => r.2.1) l), (8, countIf (fun r => r.2.2) l)].filter fun p => p.2 != 0)
    (u.flight 8 (.lqo (wordN (countIf (fun r => r.2.2) l))))

theorem exec_fLq_eq {dup : Bool} (hdup : s.core.issue.dup = dup) : exec (.fLq d a sb) s =
    issue s { srcs := [.v a, .s sb], dsts := [.v d], trap := shapeTrap s 4 }
      (fun u => if dup then lqCodes s d a sb u else lqCounts (lqPoints s a sb) (lqCodes s d a sb u)) := by
  subst hdup
  rfl

theorem fLq_counts (ht : shapeTrap s 4 = none) (hdup : s.core.issue.dup = false) :
    RunsTo (.fLq d a sb) s [.v a, .s sb] [.v d] fun u => lqCounts (lqPoints s a sb) (lqCodes s d a sb u) :=
  runsTo_issue (exec_fLq_eq hdup) rfl ht rfl rfl

theorem fLq_dup (ht : shapeTrap s 4 = none) (hdup : s.core.issue.dup = true) :
    RunsTo (.fLq d a sb) s [.v a, .s sb] [.v d] (lqCodes s d a sb) :=
  runsTo_issue (exec_fLq_eq hdup) rfl ht rfl rfl

/-- An element-wise F syllable runs to its masked result when SHAPE is of its type (R162). -/
theorem runsTo_fElem {i : Instr} {t : EType} {k : Nat} {m : VMod} {srcs : List Reg} {f : Nat → Nat × Ev}
    (hi : exec i s = fElem t k m d srcs f s) (ht : shapeTrap s t.width = none) :
    RunsTo i s (srcs ++ [maskReg m]) [.v d] (velem s .special t.width k m d f) (mergeRead s t.width m d) :=
  runsTo_issue hi rfl (by rw [ht]; rfl) rfl rfl

theorem exec_fLdq_eq {t : EType} {m : VMod} : exec (.fLdq t d a sb m) s = fElem t 4 m d [.v a, .s sb] (fun e =>
    if (f32.val (wbits (regS s sb) 31 0)).isNan then quiet t true
    else t.ffmt.enc m.rm m.sat (fMul (.fin (l8Twice (elem (regV s a) 2 (e / 8)) (e % 8) < 0)
      (l8Twice (elem (regV s a) 2 (e / 8)) (e % 8)).natAbs (-1)) (f32.val (wbits (regS s sb) 31 0)))) s := rfl

theorem exec_fLqcnt_eq : exec (.fLqcnt sd) s = issue s { dsts := [.s sd] } (wrS sd 1 s.core.arch.lqo) := rfl

end

/-- Settles O40, syllable by syllable. -/
theorem latticeOperations : Obligations.LatticeOperations := by
  intro s t d a sd sb m adj
  extract_lets n x q point points shell bad code
  refine ⟨fun ht => ⟨fLscale_nonfinite ht, fun hfin => ⟨scaleExp (shElems s a) adj.toInt, ?_, ?_, fun hzero => ?_,
    fun e he hmax sg mm ee hval hm => ?_, fLscale_finite ht hfin⟩, fLq_counts ht, fLq_dup ht⟩,
    runsTo_fElem exec_fLdq_eq, runsTo_issue exec_fLqcnt_eq rfl rfl rfl rfl, fun _ => rfl⟩
  · exact (scaleExp_bounds ..).1
  · exact (scaleExp_bounds ..).2.trans (by decide)
  · exact scaleExp_of_zeros (forall_mem_shElems.2 hzero)
  · exact scaleExp_of_greatest (elem_mem_shElems he) (forall_mem_shElems.2 hmax) hval hm

end Sys2Proof.Machine
end

section
/-! PROOFS. A core's own arrays (spec/06 R102; spec/09 R164; spec/10 R182) and the performed write (spec/11 R210, R212):
what each holds after a write, and from these the statement O20. -/

namespace Sys2Proof.Machine

/-! Listed bytes. -/

/-- A cell put is the one found at its address; the search for any other ends where it did. -/
theorem cellGet_cellPut (m : List Host.Cell) (a a' : Nat) (b : Byte) :
    cellGet (cellPut m a b) a' = if a' = a then some b else cellGet m a' := by
  induction m with
  | nil =>
    simp only [cellPut, cellGet, beq_iff_eq]
    split_ifs <;> rfl
  | cons c t ih =>
    obtain ⟨k, x⟩ := c
    rw [cellPut]
    by_cases hbefore : a < k
    · rw [if_pos hbefore]
      grind [cellGet]
    · by_cases hhere : a = k
      · grind [cellGet]
      · grind [cellGet]

/-- In memory an unlisted byte reads 0. -/
theorem cellGet_getD_zero (m : List Host.Cell) (a : Nat) : (cellGet m a).getD 0 = memGet m a := by
  induction m with
  | nil => rfl
  | cons c t ih =>
    simp only [cellGet, memGet]
    split_ifs
    · rfl
    · rfl
    · exact ih

/-! A core's own arrays. -/

/-- The form in which an array stands: that of memory where unlisted bytes read 0, any where they are free (R20). -/
def Store.Ok (st : Store) : Prop := st.seed = none → memOk st.cells = true

theorem Store.get_eq (st : Store) (a : Nat) : st.get a = (cellGet st.cells a).getD (st.bare a) := by
  unfold Store.get Store.bare
  cases cellGet st.cells a <;> rfl

section

variable {st : Store} (h : st.Ok)

include h

theorem Store.ok_set (a : Nat) (b : Byte) : (st.set a b).Ok := by
  obtain ⟨_ | seed, cells⟩ := st
  · exact fun _ => memOk_memSet a b (h rfl)
  · exact nofun

theorem Store.get_set (a a' : Nat) (b : Byte) : (st.set a b).get a' = if a' = a then b else st.get a' := by
  obtain ⟨_ | seed, cells⟩ := st
  · simp only [Store.get_eq, Store.set, Store.bare, cellGet_getD_zero]
    exact memGet_memSet a a' b (h rfl)
  · simp only [Store.get_eq, Store.set, cellGet_cellPut]
    split <;> rfl

theorem Store.ok_setN (a : Nat) (l : List Byte) : (st.setN a l).Ok := by
  induction l generalizing st a with
  | nil => exact h
  | cons b t ih => exact ih (Store.ok_set h a b) (a + 1)

/-- A byte of an array after a write of several: inside them the byte written, outside them the byte that was there. -/
theorem Store.get_setN (a a' : Nat) (l : List Byte) :
    (st.setN a l).get a' = if h : a ≤ a' ∧ a' < a + l.length then l[a' - a] else st.get a' := by
  induction l generalizing st a with
  | nil => simp [Store.setN]
  | cons b t ih =>
    simp only [Store.setN, ih (Store.ok_set h a b), Store.get_set h, List.length_cons]
    by_cases hfirst : a' = a
    · subst hfirst
      simp
    · by_cases hrest : a + 1 ≤ a' ∧ a' < a + 1 + t.length
      · have hsucc : a' - a = a' - (a + 1) + 1 := by omega
        rw [dif_pos hrest, dif_pos (by omega)]
        simp [hsucc]
      · rw [dif_neg hrest, dif_neg (by omega), if_neg hfirst]

end

theorem Store.getN_eq (st : Store) (a n : Nat) : st.getN a n = (List.range n).map fun k => st.get (a + k) := by
  induction n generalizing a with
  | zero => rfl
  | succ n ih =>
    rw [Store.getN, ih, List.range_succ_eq_map]
    simp [Nat.add_assoc, Nat.add_comm 1]

/-- The bytes written are those read back. -/
theorem Store.getN_setN {st : Store} (h : st.Ok) (a : Nat) (l : List Byte) : (st.setN a l).getN a l.length = l := by
  rw [Store.getN_eq]
  refine List.ext_getElem (by simp) fun k hk hk' => ?_
  simp [Store.get_setN h, hk']

/-- The bytes of a number hold what fits them. -/
theorem natOf_bytesOf (n x : Nat) : natOf (bytesOf n x) = x % 256 ^ n := by
  induction n generalizing x with
  | zero => simp [bytesOf, natOf, Nat.mod_one]
  | succ n ih =>
    rw [Nat.pow_succ', Nat.mod_mul, ← ih]
    exact congrArg (· + _) (BitVec.toNat_ofNat ..)

theorem natOf_bytesOf_word (x : Word) : natOf (bytesOf 8 x.toNat) = x.toNat := by
  rw [natOf_bytesOf]
  exact Nat.mod_eq_of_lt x.isLt

/-! A performed write (R210, R212, R295). -/

/-- Between two dies only records have entered run queues, so far as the memory at the start of the phase shows: outside
the rings it reads as before (R210, R271), and both it and memory keep their form. -/
structure Die.BaseStands (d e : Die) : Prop where
  mem : memOk d.mem = true → memOk e.mem = true
  rings : ∀ a, ringed e a ↔ ringed d a
  form : memOk d.base = true → memOk e.base = true
  base : ∀ a, memOk d.base = true → ¬ringed d a → memGet e.base a = memGet d.base a

theorem Die.BaseStands.trans {d e f : Die} (h : d.BaseStands e) (h' : e.BaseStands f) : d.BaseStands f where
  mem hm := h'.mem (h.mem hm)
  rings a := (h'.rings a).trans (h.rings a)
  form hb := h'.form (h.form hb)
  base a hb ha := (h'.base a (h.form hb) (mt (h.rings a).1 ha)).trans (h.base a hb ha)

/-- What leaves the memory at the start of the phase, the queues, and the form of memory. -/
theorem Die.baseStands_of_same {d e : Die} (hmem : memOk d.mem = true → memOk e.mem = true) (hbase : e.base = d.base)
    (hqueues : e.queues = d.queues) : d.BaseStands e where
  mem := hmem
  rings a := by simp only [ringed, hqueues]
  form hb := by rwa [hbase]
  base a _ _ := by rw [hbase]

/-- A record that enters a queue is written in the ring, in memory and in what views start from alike, or nowhere. -/
theorem Die.appended_memories (q : Fin 64) (c : Cont) (d : Die) :
    ((d.appended q c).mem = d.mem ∧ (d.appended q c).base = d.base) ∨ ∃ l, l.length = 64 ∧
      (d.appended q c).mem = memSetN d.mem d.queues[q].ringNext l ∧
      (d.appended q c).base = memSetN d.base d.queues[q].ringNext l := by
  have hroused (e : Die) : e.roused.base = e.base := by
    obtain ⟨_, _, _, he⟩ := e.roused_eq
    rw [he]
  simp only [Die.appended, Die.roused_mem, hroused]
  cases h : ringWrites d.queues[q] (d.queues[q].append { c with q := q }) with
  | none => exact .inl ⟨rfl, rfl⟩
  | some w =>
    obtain ⟨haddr, hlen⟩ := ringWrites_some h
    exact .inr ⟨w.2, hlen, congrArg (memSetN d.mem · w.2) haddr, congrArg (memSetN d.base · w.2) haddr⟩

theorem Die.baseStands_appended (q : Fin 64) (c : Cont) (d : Die) : d.BaseStands (d.appended q c) := by
  obtain ⟨hmem, hbase⟩ | ⟨l, hlen, hmem, hbase⟩ := d.appended_memories q c
  · refine ⟨fun hm => ?_, ringed_appended q c d, fun hb => ?_, fun a _ _ => ?_⟩
    · rwa [hmem]
    · rwa [hbase]
    · rw [hbase]
  · refine ⟨fun hm => ?_, ringed_appended q c d, fun hb => ?_, fun a hb ha => ?_⟩
    · rw [hmem]
      exact memOk_memSetN _ l hm
    · rw [hbase]
      exact memOk_memSetN _ l hb
    · have hwithin := d.queues[q].ringNext_within
      have houtside : ¬(d.queues[q].ringNext ≤ a ∧ a < d.queues[q].ringNext + l.length) :=
        fun h => ha ⟨q, by omega, by omega⟩
      rw [hbase, memGet_memSetN _ _ _ hb, dif_neg houtside]

/-- The watches that a write frees put their records in queues (R295). -/
theorem baseStands_wakeWatches (pa n id : Nat) (heads : List Head) (s : State) :
    s.die.BaseStands (wakeWatches pa n id heads s).die := by
  refine List.foldlRecOn (motive := fun t : State => s.die.BaseStands t.die) _ _
    (Die.baseStands_of_same (fun hm => hm) rfl rfl) fun t ht w _ => ?_
  dsimp only
  refine ht.trans (.trans ?_ (Die.baseStands_appended ..))
  exact Die.baseStands_of_same (fun hm => hm) rfl rfl

/-- A performed write leaves what views start from (R210). -/
theorem baseStands_writeMem (pa : Nat) (b : List Byte) (heads : List Head) (s : State) :
    s.die.BaseStands (writeMem pa b heads s).die := by
  unfold writeMem
  refine .trans ?_ (baseStands_wakeWatches ..)
  exact Die.baseStands_of_same (memOk_memSetN pa b) rfl rfl

/-- Settles O20: the arrays, byte by byte and word by word, and the performed write. -/
theorem memoryReadsBack : Obligations.MemoryReadsBack := by
  refine ⟨⟨fun _ => memOk_nil, nofun, fun st a l h => ⟨Store.ok_setN h a l, fun k => ?_, fun b hb => ?_⟩,
    fun st a x h => ?_⟩, fun s pa a b heads hm => ?_⟩
  · have hin : a ≤ a + k.val ∧ a + k.val < a + l.length := by omega
    simp [Store.get_setN h, hin]
  · rw [Store.get_setN h, dif_neg hb]
  · have hback := Store.getN_setN h a (bytesOf 8 x.toNat)
    rw [bytesOf_length] at hback
    rw [hback, natOf_bytesOf_word]
  · have hstands := baseStands_writeMem pa b heads s
    refine ⟨fun ha => ⟨fun hin => ?_, fun hout => ?_, fun hb => hstands.base a hb ha⟩, hstands.mem hm⟩
    · rw [writeMem_mem hm ha, memGet_memSetN _ _ _ hm, dif_pos hin]
    · rw [writeMem_mem hm ha, memGet_memSetN _ _ _ hm, dif_neg hout]

end Sys2Proof.Machine
end

section
/-! PROOFS. Loops (spec/06 R108, R109): the checks of a loop start in order and its effect, the end test of one level
and of the levels in order, the end of a bundle that makes it, and from these the statement O23. -/

namespace Sys2Proof.Machine

/-! The loop start (R108). -/

/-- What keeps a pipelined loop from starting at a level: another level that runs one. -/
def PipedBeside (s : State) (l : Fin 3) (pipe : Bool) : Prop :=
  pipe = true ∧ ∃ m : Fin 3, m ≠ l ∧ s.core.arch.loops[m].act = true ∧ s.core.arch.loops[m].pipe = true

/-- What a loop start does for a trip count n and an end e: with nothing to run, the bundle at the end is passed over;
else the level starts. -/
def loopEffect (s : State) (l : Fin 3) (pipe : Bool) (k : Fin 4) (n e : Nat) (t : State) : State :=
  if n == 0 then t.upCore fun c => { c with issue := { c.issue with nb := afterBundle s e } }
  else startLoop l pipe k n e t

section

variable {s : State} {l : Fin 3} {k1 : Fin 4} {a : SReg} {off : BitVec 30} {pipe : Bool} {n e : Nat}

theorem exec_loop_eq (hn : (regS s a).toNat = n) (he : relTarget s off.toInt = e) :
    exec (if pipe then .bPloop l k1 a off else .bLoop l a off) s =
      issue s { srcs := [.s a], trap := loopTrap s l pipe n e }
        (loopEffect s l pipe (if pipe then k1 else 0) n e) := by
  subst hn he
  cases pipe <;> rfl

theorem loopTrap_count (h : 2 ^ 32 < n) : loopTrap s l pipe n e = some { cause := .loop, detail := 1 } := by
  rw [loopTrap, if_pos h]

theorem loopTrap_range (hn : n ≤ 2 ^ 32) (h : e < s.core.issue.nb) :
    loopTrap s l pipe n e = some { cause := .loop, detail := 2 } := by
  rw [loopTrap, if_neg (by omega), if_pos h]

theorem pipedBeside_iff : (pipe && (List.finRange 3).any fun m =>
    m != l && s.core.arch.loops[m].act && s.core.arch.loops[m].pipe) = true ↔ PipedBeside s l pipe := by
  simp [PipedBeside, and_assoc]

theorem loopTrap_piped (hn : n ≤ 2 ^ 32) (he : s.core.issue.nb ≤ e) (h : PipedBeside s l pipe) :
    loopTrap s l pipe n e = some { cause := .loop, detail := 3 } := by
  rw [loopTrap, if_neg (by omega), if_neg (by omega), if_pos (pipedBeside_iff.2 h)]

section

variable (hn : n ≤ 2 ^ 32) (he : s.core.issue.nb ≤ e) (hbeside : ¬PipedBeside s l pipe)

include he hbeside

/-- A skipped body whose last bundle cannot be fetched traps with that fetch. -/
theorem loopTrap_fetch {t : Trap} (hws : fetchWords s e 13 = .error t) : loopTrap s l pipe 0 e = some t := by
  rw [loopTrap, if_neg (by omega), if_neg (by omega), if_neg (mt pipedBeside_iff.1 hbeside),
    if_pos (beq_self_eq_true 0), hws]

theorem loopTrap_skips {ws : List Nat} (hws : fetchWords s e 13 = .ok ws) : loopTrap s l pipe 0 e = none := by
  rw [loopTrap, if_neg (by omega), if_neg (by omega), if_neg (mt pipedBeside_iff.1 hbeside),
    if_pos (beq_self_eq_true 0), hws]

include hn

theorem loopTrap_pos (hpos : 0 < n) : loopTrap s l pipe n e = none := by
  rw [loopTrap, if_neg (by omega), if_neg (by omega), if_neg (mt pipedBeside_iff.1 hbeside), if_neg (by simp; omega)]

end

theorem loopEffect_zero {k : Fin 4} {ws : List Nat} (hws : fetchWords s e 13 = .ok ws) (u : State) :
    loopEffect s l pipe k 0 e u =
      { u with core := { u.core with issue := { u.core.issue with nb := e + 8 * ws.length } } } := by
  have hafter : afterBundle s e = e + 8 * ws.length := by rw [afterBundle, hws]
  rw [← hafter]
  rfl

/-- The level's fields, and the stages of a pipelined loop: p12 is 1 and p13 to p15 are 0 (log 23). -/
theorem loopEffect_pos {k : Fin 4} {u : State} (hnb : u.core.issue.nb = s.core.issue.nb) (hpos : 0 < n) :
    loopEffect s l pipe k n e u = { u with core := { u.core with
      pc := BitVec.ofNat 56 s.core.issue.nb
      issue := { u.core.issue with taken := true }
      arch := { u.core.arch with
        loops := u.core.arch.loops.set l ⟨BitVec.ofNat 32 (n - 1), true, pipe, k, false,
          BitVec.ofNat 56 s.core.issue.nb, BitVec.ofNat 56 e⟩
        p := if pipe then u.core.arch.p &&& 0x0FFF ||| 0x1000 else u.core.arch.p } } } := by
  have hne : (n == 0) = false := by simp; omega
  rw [loopEffect, hne, ← hnb]
  rfl

end

/-! The end test of one level (R109). -/

/-- The stages shifted: p12 takes the value given, p13 to p(12+k) each the one before; the others stay. -/
theorem shiftStages_bit (p : Preds) (k : Nat) (x : Bool) {i : Nat} (hi : i < 16) :
    (shiftStages p k x).getLsbD i = if i = 12 then x
      else if 12 < i ∧ i ≤ 12 + k then p.getLsbD (i - 1) else p.getLsbD i := by
  have hbit (j : Nat) : (p.toNat / 2 ^ j % 2).testBit 0 = p.getLsbD j := by
    simp [BitVec.getLsbD, Nat.testBit_eq_decide_div_mod_eq]
  simp only [shiftStages, BitVec.getLsbD_ofNat, packN_one_testBit, List.getElem?_map, List.getElem?_range hi,
    Option.map_some, Option.getD_some, decide_eq_true hi, Bool.true_and]
  by_cases hfirst : i = 12
  · cases x <;> simp [hfirst]
  · have hne : ¬(i == 12) = true := by simpa using hfirst
    rw [if_neg hfirst, if_neg hne]
    by_cases hin : 12 < i ∧ i ≤ 12 + k
    · have hshifted : (decide (13 ≤ i) && decide (i ≤ 12 + k)) = true := by simp; omega
      rw [if_pos hin, if_pos hshifted, hbit]
    · have hstays : ¬(decide (13 ≤ i) && decide (i ≤ 12 + k)) = true := by simp; omega
      rw [if_neg hin, if_neg hstays, hbit]

theorem anyStage_iff (p : Preds) (k : Nat) :
    anyStage p k = true ↔ ∃ i, 12 ≤ i ∧ i ≤ 12 + k ∧ p.getLsbD i = true := by
  simp only [anyStage, List.any_eq_true, List.mem_range]
  constructor
  · rintro ⟨i, hi, hbit⟩
    exact ⟨12 + i, by omega, by omega, hbit⟩
  · rintro ⟨i, hlow, hhigh, hbit⟩
    exact ⟨i - 12, by omega, by rwa [Nat.add_sub_cancel' hlow]⟩

/-- Whether a level starts another iteration: one is left, and no pre-emption is pending. -/
def LoopLvl.starts (l : LoopLvl) (pre : Bool) : Bool := l.rem != 0 && !pre

theorem LoopLvl.starts_iff {l : LoopLvl} {pre : Bool} : l.starts pre = true ↔ l.rem ≠ 0 ∧ pre = false := by
  simp [LoopLvl.starts]

/-- The level once an iteration that starts is counted. -/
def LoopLvl.counted (l : LoopLvl) (pre : Bool) : LoopLvl :=
  if l.starts pre then { l with rem := l.rem - 1 } else l

/-- A level that does not go back: DRAINED says whether iterations were left. -/
def LoopLvl.ended (l : LoopLvl) : LoopLvl := { l with act := false, drained := l.rem != 0 }

/-- The predicates after the test of a level: a pipelined one shifts its stages. -/
def LoopLvl.stages (l : LoopLvl) (pre : Bool) (p : Preds) : Preds :=
  if l.pipe then shiftStages p l.stg.val (l.starts pre) else p

/-- Whether a level goes back: a plain one when an iteration starts, a pipelined one while a stage is active. -/
def LoopLvl.again (l : LoopLvl) (pre : Bool) (p : Preds) : Bool :=
  if l.pipe then anyStage (l.stages pre p) l.stg.val else l.starts pre

@[simp] theorem LoopLvl.counted_ls (l : LoopLvl) (pre : Bool) : (l.counted pre).ls = l.ls := by
  unfold LoopLvl.counted
  split <;> rfl

section

variable {a : Arch} {n : Fin 3} {pre : Bool} {l : LoopLvl} {ba : Nat} {t : List (Fin 3)} (hl : a.loops[n] = l)

include hl

/-- The test of one level that ends at the bundle. -/
theorem levelTest_eq : levelTest a n pre = ({ a with
    loops := a.loops.set n (if l.again pre a.p then l.counted pre else (l.counted pre).ended)
    p := l.stages pre a.p }, l.again pre a.p) := by
  subst hl
  rfl

/-- A level that is not active or ends elsewhere is passed over. -/
theorem endTest_passes (h : l.act = false ∨ l.le.toNat ≠ ba) : endTest ba pre (n :: t) a = endTest ba pre t a := by
  have hno : ¬(l.act && l.le.toNat == ba) = true := by
    obtain hact | hle := h
    · simp [hact]
    · simp [hle]
  rw [endTest, hl, if_neg hno]

section

variable (hact : l.act = true) (hle : l.le.toNat = ba)

include hact hle

/-- A level that ends at the bundle and goes back gives the next one; else the test goes on with the levels below. -/
theorem endTest_tests : endTest ba pre (n :: t) a =
    if (levelTest a n pre).2 then ((levelTest a n pre).1, some (levelTest a n pre).1.loops[n].ls)
    else endTest ba pre t (levelTest a n pre).1 := by
  have hyes : (l.act && l.le.toNat == ba) = true := by simp [hact, hle]
  rw [endTest, hl, if_pos hyes]

theorem endTest_plain (hpipe : l.pipe = false) : endTest ba pre (n :: t) a =
    if l.starts pre then ({ a with loops := a.loops.set n (l.counted pre) }, some l.ls)
    else endTest ba pre t { a with loops := a.loops.set n l.ended } := by
  rw [endTest_tests hl hact hle, levelTest_eq hl]
  cases hstart : l.starts pre <;> simp [LoopLvl.again, LoopLvl.counted, LoopLvl.stages, hpipe, hstart]

theorem endTest_piped (hpipe : l.pipe = true) : endTest ba pre (n :: t) a =
    if anyStage (l.stages pre a.p) l.stg.val then
      ({ a with loops := a.loops.set n (l.counted pre), p := l.stages pre a.p }, some l.ls)
    else endTest ba pre t { a with loops := a.loops.set n (l.counted pre).ended, p := l.stages pre a.p } := by
  rw [endTest_tests hl hact hle, levelTest_eq hl]
  cases hagain : anyStage (l.stages pre a.p) l.stg.val <;> simp [LoopLvl.again, hpipe, hagain]

end

end

/-! The end of a bundle (R109). -/

/-- The end of a bundle that took no branch, runs no repeat and is no handler's makes the end test. -/
theorem finishBundle_endTest {s : State} (hfin : s.core.issue.finished = false) (htaken : s.core.issue.taken = false)
    (hrpc : s.core.arch.rpc.act = false) (hhnd : s.core.hnd = false) {r : Arch × Option (BitVec 56)}
    (hr : endTest s.core.issue.ba (preOf s) [2, 1, 0] s.core.arch = r) :
    finishBundle s = landDue (advance { s with core := { s.core with
      arch := r.1, pc := r.2.getD (BitVec.ofNat 56 s.core.issue.nb), left := s.core.left - 1, occ := occNext s.core.occ
      issue := { s.core.issue with finished := true } } }) := by
  subst hr
  conv_lhs => simp only [finishBundle, hfin, htaken, hrpc, hhnd, Bool.false_eq_true, if_false, Bool.false_and]
  rfl

/-- Settles O23: the checks of a loop start in order and its effect, the end test level by level, and a bundle's end. -/
theorem loops : Obligations.Loops := by
  refine ⟨fun s l k1 a off pipe => ?start, fun a ba pre n t => ?test, fun s hfin htaken hrpc hhnd =>
    finishBundle_endTest hfin htaken hrpc hhnd rfl⟩
  case start =>
    intro i n e nb other traps
    have hexec : exec i s = issue s { srcs := [.s a], trap := loopTrap s l pipe n e }
        (loopEffect s l pipe (if pipe then k1 else 0) n e) := exec_loop_eq rfl rfl
    have htraps {t : Trap} (ht : loopTrap s l pipe n e = some t) (hruns : Runs s [.s a] []) :
        exec i s = .next (trapHere t s) := hexec.trans (issue_traps hruns rfl ht)
    have hruns (hnone : loopTrap s l pipe n e = none) :
        RunsTo i s [.s a] [] (loopEffect s l pipe (if pipe then k1 else 0) n e) := runsTo_issue hexec rfl hnone rfl rfl
    refine ⟨fun hn => htraps (loopTrap_count hn), fun hn he => htraps (loopTrap_range hn he),
      fun hn he hbeside => htraps (loopTrap_piped hn he hbeside), fun hn he hbeside => ⟨fun hpos hr => ?_,
      fun hzero ws hws hr => ?_, fun hzero t hws => htraps (hzero ▸ loopTrap_fetch he hbeside hws)⟩⟩
    · rw [hruns (loopTrap_pos hn he hbeside hpos) hr]
      exact congrArg _ (loopEffect_pos (congrArg Issue.nb (popAll_issue ..)) hpos)
    · rw [hruns (hzero ▸ loopTrap_skips he hbeside hws) hr, hzero]
      exact congrArg _ (loopEffect_zero hws _)
  case test =>
    intro l start rem
    have hstart : l.starts pre = true ↔ start := LoopLvl.starts_iff
    have hstarts : l.starts pre = decide start := by rw [Bool.eq_iff_iff, hstart, decide_eq_true_iff]
    have hcounted : l.counted pre = { l with rem := rem } := by
      by_cases h : start
      · simp only [LoopLvl.counted, hstart.2 h, if_true, rem, if_pos h]
      · simp only [LoopLvl.counted, mt hstart.1 h, Bool.false_eq_true, if_false, rem, if_neg h]
    refine ⟨endTest_passes rfl, fun hact hle hpipe => ⟨fun h => ?_, fun h => ?_⟩, fun hact hle hpipe =>
      ⟨l.stages pre a.p, fun i hi => ?_, fun h => ?_, fun h => ?_⟩, rfl⟩
    · rw [endTest_plain rfl hact hle hpipe, if_pos (hstart.2 h), ← hcounted]
    · rw [endTest_plain rfl hact hle hpipe, if_neg (mt hstart.1 h)]
      rfl
    · rw [LoopLvl.stages, if_pos hpipe, shiftStages_bit _ _ _ hi, ← hstarts]
    · rw [endTest_piped rfl hact hle hpipe, if_pos ((anyStage_iff ..).2 h), hcounted]
    · rw [endTest_piped rfl hact hle hpipe, if_neg (mt (anyStage_iff ..).1 h), hcounted]
      rfl

end Sys2Proof.Machine
end

section
/-! PROOFS. The scalar syllables of two sources (spec/06 R93 to R95): the shapes that the S class shares, each value as
the number that R95 gives, and from these the statement O11. -/

namespace Sys2Proof.Machine

/-! The shapes of S syllables (R93). -/

section

variable {i : Instr} {s : State} {k : Nat} {z : Word}

theorem runsTo_sBin {f : Word → Word → Word} {d a b : SReg} (hi : exec i s = sBin k f d a b s)
    (hz : f (regS s a) (regS s b) = z) : RunsTo i s [.s a, .s b] [.s d] (wrS d k z) := by
  subst hz
  exact runsTo_issue hi rfl rfl rfl rfl

theorem runsTo_sUn {f : Word → Word} {d a : SReg} (hi : exec i s = sUn f d a s) (hz : f (regS s a) = z) :
    RunsTo i s [.s a] [.s d] (wrS d 1 z) := by
  subst hz
  exact runsTo_issue hi rfl rfl rfl rfl

theorem runsTo_pBin {f : Bool → Bool → Bool} {d a b : PReg} {v : Bool} (hi : exec i s = pBin f d a b s)
    (hv : f (regP s a) (regP s b) = v) : RunsTo i s [.p a, .p b] [.p d] (wrP d 1 v) := by
  subst hv
  exact runsTo_issue hi rfl rfl rfl rfl

end

/-! Values (R95). -/

section

variable (x y : Word) (n : Nat)

theorem add_eq_ofInt : x + y = .ofInt 64 (x.toInt + y.toInt) := by
  rw [BitVec.ofInt_add, BitVec.ofInt_toInt, BitVec.ofInt_toInt]

theorem sub_eq_ofInt : x - y = .ofInt 64 (x.toInt - y.toInt) := by
  rw [Int.sub_eq_add_neg, BitVec.ofInt_add, BitVec.ofInt_neg, BitVec.ofInt_toInt, BitVec.ofInt_toInt,
    BitVec.sub_eq_add_neg]

theorem mul_eq_ofInt : x * y = .ofInt 64 (x.toInt * y.toInt) := by
  rw [BitVec.ofInt_mul, BitVec.ofInt_toInt, BitVec.ofInt_toInt]

theorem shiftLeft_eq_ofNat : x <<< n = .ofNat 64 (x.toNat * 2 ^ n) :=
  congrArg (BitVec.ofNat 64) (Nat.shiftLeft_eq ..)

theorem ushiftRight_eq_ofNat : x >>> n = .ofNat 64 (x.toNat / 2 ^ n) := by
  rw [← Nat.shiftRight_eq_div_pow, ← BitVec.toNat_ushiftRight, BitVec.ofNat_toNat, BitVec.setWidth_eq]

theorem sshiftRight_eq_ofInt : x.sshiftRight n = .ofInt 64 (x.toInt / 2 ^ n) := by
  rw [BitVec.sshiftRight, Int.shiftRight_eq_div_pow]
  norm_cast

/-- The bits that a rotation moves out at the low end enter at the high end. -/
theorem rotateRight_eq_ofNat (hn : n < 64) :
    x.rotateRight n = .ofNat 64 (x.toNat / 2 ^ n + x.toNat % 2 ^ n * 2 ^ (64 - n)) := by
  have hwidth : (2 : Nat) ^ 64 = 2 ^ n * 2 ^ (64 - n) := by rw [← Nat.pow_add, Nat.add_sub_cancel' hn.le]
  have hhigh : x.toNat <<< (64 - n) % 2 ^ 64 = (x.toNat % 2 ^ n) <<< (64 - n) := by
    rw [Nat.shiftLeft_eq, Nat.shiftLeft_eq, hwidth, Nat.mul_mod_mul_right]
  have hlow : x.toNat / 2 ^ n < 2 ^ (64 - n) := by
    rw [Nat.div_lt_iff_lt_mul (Nat.two_pow_pos n), Nat.mul_comm, ← hwidth]
    exact x.isLt
  have hval : (x.rotateRight n).toNat = x.toNat / 2 ^ n + x.toNat % 2 ^ n * 2 ^ (64 - n) := by
    rw [BitVec.toNat_rotateRight, Nat.mod_eq_of_lt hn, hhigh, Nat.shiftRight_eq_div_pow, Nat.lor_comm,
      ← Nat.shiftLeft_add_eq_or_of_lt hlow, Nat.shiftLeft_eq, Nat.add_comm]
  rw [← hval, BitVec.ofNat_toNat, BitVec.setWidth_eq]

theorem min_eq_ofInt : (if x.toInt ≤ y.toInt then x else y) = .ofInt 64 (min x.toInt y.toInt) := by
  rw [min_def]
  split <;> rw [BitVec.ofInt_toInt]

theorem max_eq_ofInt : (if x.toInt ≤ y.toInt then y else x) = .ofInt 64 (max x.toInt y.toInt) := by
  rw [max_def]
  split <;> rw [BitVec.ofInt_toInt]

theorem min_eq_ofNat : (if x.toNat ≤ y.toNat then x else y) = .ofNat 64 (min x.toNat y.toNat) := by
  rw [min_def]
  split <;> rw [BitVec.ofNat_toNat, BitVec.setWidth_eq]

theorem max_eq_ofNat : (if x.toNat ≤ y.toNat then y else x) = .ofNat 64 (max x.toNat y.toNat) := by
  rw [max_def]
  split <;> rw [BitVec.ofNat_toNat, BitVec.setWidth_eq]

end

/-- Settles O11, form by form. -/
theorem scalarTwoSource : Obligations.ScalarTwoSource := by
  intro s d a b x y n
  have hn : n < 64 := Nat.mod_lt _ (by decide)
  simp only [List.forall_mem_cons]
  exact ⟨⟨rfl, runsTo_sBin (exec_sAdd ..) (add_eq_ofInt x y)⟩, ⟨rfl, runsTo_sBin (exec_sSub ..) (sub_eq_ofInt x y)⟩,
    ⟨rfl, runsTo_sBin (exec_sAnd ..) rfl⟩, ⟨rfl, runsTo_sBin (exec_sOr ..) rfl⟩,
    ⟨rfl, runsTo_sBin (exec_sXor ..) rfl⟩, ⟨rfl, runsTo_sBin (exec_sAndn ..) rfl⟩,
    ⟨rfl, runsTo_sBin (exec_sShl ..) (shiftLeft_eq_ofNat x n)⟩,
    ⟨rfl, runsTo_sBin (exec_sShr ..) (ushiftRight_eq_ofNat x n)⟩,
    ⟨rfl, runsTo_sBin (exec_sSar ..) (sshiftRight_eq_ofInt x n)⟩,
    ⟨rfl, runsTo_sBin (exec_sRor ..) (rotateRight_eq_ofNat x n hn)⟩,
    ⟨rfl, runsTo_sBin (exec_sMin ..) (min_eq_ofInt x y)⟩, ⟨rfl, runsTo_sBin (exec_sMax ..) (max_eq_ofInt x y)⟩,
    ⟨rfl, runsTo_sBin (exec_sMinu ..) (min_eq_ofNat x y)⟩, ⟨rfl, runsTo_sBin (exec_sMaxu ..) (max_eq_ofNat x y)⟩,
    ⟨rfl, runsTo_sBin (exec_sMul ..) (mul_eq_ofInt x y)⟩, ⟨rfl, runsTo_sBin (exec_sMulh ..) rfl⟩,
    ⟨rfl, runsTo_sBin (exec_sMulhu ..) rfl⟩, List.forall_mem_nil _⟩

end Sys2Proof.Machine
end

section
/-! PROOFS. The scalar syllables of one source and of three, and S.LEA (spec/06 R96): the counts of bits and the byte
swap by what their values are, and from these the statement O12. -/

namespace Sys2Proof.Machine

/-! Counts of bits (R96). -/

/-- Below its leading zeros a number has its highest bit. -/
theorem clzN_spec {n x : Nat} (hx : x < 2 ^ n) :
    clzN n x ≤ n ∧ x < 2 ^ (n - clzN n x) ∧ (clzN n x < n → 2 ^ (n - 1 - clzN n x) ≤ x) := by
  have hmod : x % 2 ^ n = x := Nat.mod_eq_of_lt hx
  by_cases h0 : x = 0
  · simp [clzN, h0]
  · have hlog : x.log2 < n := (Nat.log2_lt h0).2 hx
    have hclz : clzN n x = n - 1 - x.log2 := by simp [clzN, hmod, h0]
    have htop : n - (n - 1 - x.log2) = x.log2 + 1 := by omega
    have hhigh : n - 1 - (n - 1 - x.log2) = x.log2 := by omega
    rw [hclz, htop, hhigh]
    exact ⟨by omega, Nat.lt_log2_self, fun _ => Nat.log2_self_le h0⟩

/-- Below its lowest bit, if it has one among n, a number is 0. -/
theorem ctzN_spec (n x : Nat) :
    ctzN n x ≤ n ∧ x % 2 ^ ctzN n x = 0 ∧ (ctzN n x < n → x / 2 ^ ctzN n x % 2 = 1) := by
  induction n generalizing x with
  | zero => simp [ctzN, Nat.mod_one]
  | succ n ih =>
    by_cases hodd : x % 2 = 1
    · simp [ctzN, hodd, Nat.mod_one]
    · obtain ⟨hle, hzero, hbit⟩ := ih (x / 2)
      have hctz : ctzN (n + 1) x = ctzN n (x / 2) + 1 := by simp [ctzN, hodd, Nat.add_comm]
      rw [hctz, Nat.pow_succ', Nat.mod_mul, hzero, ← Nat.div_div_eq_div_mul]
      exact ⟨by omega, by omega, fun h => hbit (by omega)⟩

theorem popcount_eq (n x : Nat) : popcount n x = (List.range n).countP x.testBit := by
  induction n generalizing x with
  | zero => rfl
  | succ n ih =>
    have hfirst : x % 2 = if x.testBit 0 then 1 else 0 := by
      simp only [Nat.testBit_zero, decide_eq_true_eq]
      split <;> omega
    have hrest : (fun i => x.testBit (i + 1)) = (x / 2).testBit := funext fun i => Nat.testBit_succ ..
    rw [popcount, ih, List.range_succ_eq_map, List.countP_cons, List.countP_map, Function.comp_def, hrest, hfirst,
      Nat.add_comm]

/-! Bytes (R96). -/

theorem natOf_byte (l : List Byte) (k : Nat) : natOf l / 256 ^ k % 256 = (l[k]?.getD 0).toNat := by
  induction l generalizing k with
  | nil => simp [natOf]
  | cons b t ih =>
    have hb : b.toNat < 256 := b.isLt
    cases k with
    | zero => simp [natOf, Nat.mod_eq_of_lt hb]
    | succ k =>
      have htail : (b.toNat + 256 * natOf t) / 256 = natOf t := by omega
      rw [natOf, Nat.pow_succ', ← Nat.div_div_eq_div_mul, htail, ih, List.getElem?_cons_succ]

theorem natOf_lt (l : List Byte) : natOf l < 256 ^ l.length := by
  induction l with
  | nil => simp [natOf]
  | cons b t ih =>
    have hb : b.toNat < 256 := b.isLt
    rw [natOf, List.length_cons, Nat.pow_succ']
    omega

theorem bytesOf_byte (n x : Nat) {k : Nat} (hk : k < n) : (bytesOf n x)[k]? = some (BitVec.ofNat 8 (x / 256 ^ k)) := by
  induction n generalizing x k with
  | zero => omega
  | succ n ih =>
    cases k with
    | zero => simp [bytesOf]
    | succ k =>
      rw [bytesOf, List.getElem?_cons_succ, ih _ (by omega), Nat.pow_succ', Nat.div_div_eq_div_mul]

/-- Byte 7 − k of the swapped word is byte k of the word. -/
theorem byteSwap_byte (x : Word) {k : Nat} (hk : k < 8) :
    (byteSwap x).toNat / 2 ^ (8 * (7 - k)) % 256 = x.toNat / 2 ^ (8 * k) % 256 := by
  have hpow (j : Nat) : 2 ^ (8 * j) = 256 ^ j := Nat.pow_mul 2 8 j
  have hnum : (byteSwap x).toNat = natOf (bytesOf 8 x.toNat).reverse := by
    refine BitVec.toNat_ofNat _ _ |>.trans (Nat.mod_eq_of_lt ?_)
    simpa using natOf_lt (bytesOf 8 x.toNat).reverse
  have hrev : (bytesOf 8 x.toNat).reverse[7 - k]? = (bytesOf 8 x.toNat)[k]? := by
    rw [List.getElem?_reverse (by rw [bytesOf_length]; omega), bytesOf_length]
    congr 1
    omega
  rw [hnum, hpow, hpow, natOf_byte, hrev, bytesOf_byte 8 _ hk]
  exact BitVec.toNat_ofNat ..

/-! Signs and scaled sums (R96). -/

section

variable (x y : Word)

theorem abs_eq_ofNat : (if x.toInt < 0 then -x else x) = .ofNat 64 x.toInt.natAbs := by
  have hneg : -x = .ofInt 64 (-x.toInt) := by rw [BitVec.ofInt_neg, BitVec.ofInt_toInt]
  rw [← BitVec.ofInt_natCast]
  split
  · rw [hneg, Int.ofNat_natAbs_of_nonpos (by omega)]
  · rw [Int.natAbs_of_nonneg (by omega), BitVec.ofInt_toInt]

theorem neg_eq_ofInt : -x = .ofInt 64 (-x.toInt) := by rw [BitVec.ofInt_neg, BitVec.ofInt_toInt]

theorem madd_eq_ofInt (z : Word) : x * y + z = .ofInt 64 (x.toInt * y.toInt + z.toInt) := by
  rw [BitVec.ofInt_add, ← mul_eq_ofInt, BitVec.ofInt_toInt]

theorem lea_eq_ofInt (k : Nat) (imm : BitVec 16) :
    x + (y <<< k) + imm.signExtend 64 = .ofInt 64 (x.toInt + y.toInt * 2 ^ k + imm.toInt) := by
  have hscaled : y <<< k = .ofInt 64 (y.toInt * 2 ^ k) := by
    have hpow : BitVec.ofInt 64 (2 ^ k) = BitVec.twoPow 64 k := by
      rw [← Nat.cast_two, ← Nat.cast_pow, BitVec.ofInt_natCast]
      exact BitVec.eq_of_toNat_eq (by simp)
    rw [BitVec.shiftLeft_eq_mul_twoPow, BitVec.ofInt_mul, BitVec.ofInt_toInt, hpow]
  rw [BitVec.ofInt_add, BitVec.ofInt_add, BitVec.ofInt_toInt, ← hscaled]
  rfl

end

/-- Settles O12, syllable by syllable. -/
theorem scalarOneAndThreeSource : Obligations.ScalarOneAndThreeSource := by
  intro s d a b c x y u puts
  obtain ⟨hclz, htop, hhigh⟩ := clzN_spec x.isLt
  obtain ⟨hctz, hzero, hbit⟩ := ctzN_spec 64 x.toNat
  refine ⟨fun imm => ⟨rfl, runsTo_issue (exec_sNop ..) rfl rfl rfl rfl⟩,
    ⟨rfl, runsTo_sUn (exec_sAbs ..) (abs_eq_ofNat x)⟩, ⟨rfl, runsTo_sUn (exec_sNeg ..) (neg_eq_ofInt x)⟩,
    ⟨rfl, clzN 64 x.toNat, hclz, htop, hhigh, runsTo_sUn (exec_sClz ..) rfl⟩,
    ⟨rfl, ctzN 64 x.toNat, hctz, hzero, hbit, runsTo_sUn (exec_sCtz ..) rfl⟩,
    ⟨rfl, runsTo_sUn (exec_sPopc ..) (congrArg _ (popcount_eq ..))⟩,
    ⟨rfl, byteSwap x, fun k hk => byteSwap_byte x hk, runsTo_sUn (exec_sBswap ..) rfl⟩,
    ⟨rfl, runsTo_sUn (exec_sMov ..) rfl⟩, ⟨rfl, ?_⟩,
    fun p => ⟨rfl, runsTo_issue (exec_sSel ..) rfl rfl rfl rfl⟩,
    fun k imm => ⟨rfl, runsTo_sBin (exec_sLea ..) (lea_eq_ofInt x y k imm)⟩⟩
  rw [← madd_eq_ofInt]
  exact runsTo_issue (exec_sMadd ..) rfl rfl rfl rfl

end Sys2Proof.Machine
end

section
/-! PROOFS. Immediates, shifts by POS, extensions and bit fields (spec/06 R97, R98): sext as the balanced remainder, and
from it the statements O13 and O14. -/

namespace Sys2Proof.Machine

/-- Sign extension from n bits is the balanced remainder modulo 2^n (R66). -/
theorem sextN_eq_bmod (x : Nat) {n : Nat} (hn : 0 < n) : sextN x n = Int.bmod x (2 ^ n) := by
  obtain ⟨m, rfl⟩ := Nat.exists_eq_add_of_lt hn
  rw [Nat.zero_add]
  have hpow : 2 ^ (m + 1) = 2 * 2 ^ m := Nat.pow_succ'
  have hpos : 0 < 2 ^ m := Nat.two_pow_pos m
  have hmod : x % 2 ^ (m + 1) = x % 2 ^ m + 2 ^ m * (x / 2 ^ m % 2) := by rw [Nat.pow_succ, Nat.mod_mul]
  have hlow : x % 2 ^ m < 2 ^ m := Nat.mod_lt _ hpos
  have hcast : (x : Int) % ((2 ^ (m + 1) : Nat) : Int) = (x % 2 ^ (m + 1) : Nat) := by norm_cast
  have hhalf : (((2 ^ (m + 1) : Nat) : Int) + 1) / 2 = (2 ^ m : Nat) := by omega
  rw [Int.bmod, hcast, hhalf, sextN]
  obtain hbit | hbit : x / 2 ^ m % 2 = 0 ∨ x / 2 ^ m % 2 = 1 := by omega
  · have hsmall : x % 2 ^ (m + 1) < 2 ^ m := by rw [hmod, hbit]; omega
    have hclear : (bitAt x (m + 1 - 1) && m + 1 != 0) = false := by simp [bitAt, hbit]
    rw [hclear, if_neg Bool.false_ne_true, if_pos (by exact_mod_cast hsmall)]
  · have hlarge : ¬x % 2 ^ (m + 1) < 2 ^ m := by rw [hmod, hbit]; omega
    have hset : (bitAt x (m + 1 - 1) && m + 1 != 0) = true := by simp [bitAt, hbit]
    rw [hset, if_pos rfl, if_neg (by exact_mod_cast hlarge)]

section

variable (x y : Word) (pos w : Nat)

theorem bitField_signed (hw : 0 < w) :
    bitField true x pos w = .ofInt 64 (Int.bmod (x.toNat / 2 ^ pos : Nat) (2 ^ w)) := by
  rw [← sextN_eq_bmod _ hw]
  rfl

theorem bitField_unsigned : bitField false x pos w = .ofNat 64 (x.toNat / 2 ^ pos % 2 ^ w) := rfl

theorem bitInsert_eq : bitInsert x y pos w = (y &&& ~~~(.ofNat 64 ((2 ^ w - 1) * 2 ^ pos))) |||
    (.ofNat 64 (x.toNat * 2 ^ pos) &&& .ofNat 64 ((2 ^ w - 1) * 2 ^ pos)) := by
  rw [← shiftLeft_eq_ofNat]
  rfl

end

theorem addi_eq_ofInt (x : Word) (imm : BitVec 30) : x + imm30 imm = .ofInt 64 (x.toInt + imm.toInt) := by
  rw [BitVec.ofInt_add, BitVec.ofInt_toInt]
  rfl

/-- Settles O13, form by form. -/
theorem scalarImmediate : Obligations.ScalarImmediate := by
  intro s d a imm x i64
  simp only [List.forall_mem_cons]
  exact ⟨⟨⟨rfl, runsTo_sUn (exec_sAddi ..) (addi_eq_ofInt x imm)⟩,
    ⟨rfl, runsTo_sUn (exec_sMovhi ..) (congrArg wordI (sextN_eq_bmod _ (by decide)))⟩,
    ⟨rfl, runsTo_sUn (exec_sAndi ..) rfl⟩, ⟨rfl, runsTo_sUn (exec_sOri ..) rfl⟩,
    ⟨rfl, runsTo_sUn (exec_sXori ..) rfl⟩, List.forall_mem_nil _⟩, rfl,
    runsTo_issue (exec_sMovi ..) rfl rfl rfl rfl⟩

/-- Settles O14, form by form. -/
theorem scalarShiftsAndFields : Obligations.ScalarShiftsAndFields := by
  intro s d a b pos w1 x w sext zext m
  have hw : 0 < w := Nat.succ_pos _
  have hwhole (y : Nat) : y / 2 ^ 0 = y := Nat.div_one y
  simp only [List.forall_mem_cons]
  refine ⟨⟨⟨rfl, runsTo_sUn (exec_sShli ..) (shiftLeft_eq_ofNat x _)⟩,
    ⟨rfl, runsTo_sUn (exec_sShri ..) (ushiftRight_eq_ofNat x _)⟩,
    ⟨rfl, runsTo_sUn (exec_sSari ..) (sshiftRight_eq_ofInt x _)⟩,
    ⟨rfl, runsTo_sUn (exec_sSext ..) ((bitField_signed x 0 w hw).trans ?_)⟩,
    ⟨rfl, runsTo_sUn (exec_sZext ..) ((bitField_unsigned x 0 w).trans ?_)⟩,
    ⟨rfl, runsTo_sUn (exec_sBfx ..) (bitField_signed x _ w hw)⟩,
    ⟨rfl, runsTo_sUn (exec_sBfx ..) (bitField_unsigned x _ w)⟩, List.forall_mem_nil _⟩, rfl,
    runsTo_sBin (exec_sBfi ..) (bitInsert_eq x _ _ w)⟩
  · rw [hwhole]
  · rw [hwhole]

end Sys2Proof.Machine
end

section
/-! PROOFS. The compares (spec/06 R99): the conditions by their MOD values, and from them the statement O15. -/

namespace Sys2Proof.Machine

/-! What the decoder refuses (R63). -/

/-- A MOD value for which an entry builds nothing is refused first among what an assigned opcode is refused for. -/
theorem decodeEnc_resmod {x : Enc} (ha : assigned x.opc = true) (hb : build x.opc x.md x.f = none) :
    decodeEnc x = .error .resmod := by
  simp [decodeEnc, ha, hb]

theorem condOf_reserved {md : Nat} (h : 10 ≤ md) : condOf md = none := by
  unfold condOf
  split
  case h_11 => rfl
  all_goals omega

/-! The conditions (R99). -/

/-- The conditions of R99 in the order of their MOD values, and whether each holds. -/
def condTable (x y : Word) : List (Nat × Cond × Bool) :=
  [(0, .eq, x == y), (1, .ne, x != y), (2, .lt, x.toInt < y.toInt), (3, .le, x.toInt ≤ y.toInt),
    (4, .gt, x.toInt > y.toInt), (5, .ge, x.toInt ≥ y.toInt), (6, .ltu, x.toNat < y.toNat),
    (7, .leu, x.toNat ≤ y.toNat), (8, .gtu, x.toNat > y.toNat), (9, .geu, x.toNat ≥ y.toNat)]

theorem condTable_spec {x y : Word} {p : Nat × Cond × Bool} (h : p ∈ condTable x y) :
    p.2.1.code = p.1 ∧ p.2.1.holds x y = p.2.2 := by
  revert p
  simp only [condTable, List.forall_mem_cons]
  exact ⟨⟨rfl, rfl⟩, ⟨rfl, rfl⟩, ⟨rfl, rfl⟩, ⟨rfl, rfl⟩, ⟨rfl, rfl⟩, ⟨rfl, rfl⟩, ⟨rfl, rfl⟩, ⟨rfl, rfl⟩, ⟨rfl, rfl⟩,
    ⟨rfl, rfl⟩, List.forall_mem_nil _⟩

section

variable {s : State} {d : PReg} {a b : SReg} {imm : BitVec 30} {p : Nat × Cond × Bool}

theorem sCmp_spec (h : p ∈ condTable (regS s a) (regS s b)) :
    (Instr.sCmp p.2.1 d a b).enc = some ⟨0x25, p.1, ⟨96 + d.val, a.val, b.val, 0, 0, 0, 0, 0⟩⟩ ∧
      RunsTo (.sCmp p.2.1 d a b) s [.s a, .s b] [.p d] (wrP d 1 p.2.2) := by
  obtain ⟨hcode, hholds⟩ := condTable_spec h
  rw [← hcode, ← hholds]
  exact ⟨rfl, runsTo_issue (exec_sCmp ..) rfl rfl rfl rfl⟩

theorem sCmpi_spec (h : p ∈ condTable (regS s a) (imm30 imm)) :
    (Instr.sCmpi p.2.1 d a imm).enc = some ⟨0x26, p.1, ⟨96 + d.val, a.val, 0, 0, imm.toNat, 0, 0, 0⟩⟩ ∧
      RunsTo (.sCmpi p.2.1 d a imm) s [.s a] [.p d] (wrP d 1 p.2.2) := by
  obtain ⟨hcode, hholds⟩ := condTable_spec h
  rw [← hcode, ← hholds]
  exact ⟨rfl, runsTo_issue (exec_sCmpi ..) rfl rfl rfl rfl⟩

end

/-- Settles O15: the conditions row by row, and the MOD values past them. -/
theorem scalarCompares : Obligations.ScalarCompares := by
  intro s d a b imm holds
  refine ⟨fun p hp => sCmp_spec hp, fun p hp => sCmpi_spec hp, fun md f hmd => ?_⟩
  have hnone := condOf_reserved hmd
  exact ⟨decodeEnc_resmod rfl (congrArg (Option.map _) hnone), decodeEnc_resmod rfl (congrArg (Option.map _) hnone)⟩

end Sys2Proof.Machine
end

section
/-! PROOFS. Predicates and masks (spec/06 R100, R101): the discard of what lands in the stages of a pipelined loop, the
bits of each mask result, and from these the statement O16. -/

namespace Sys2Proof.Machine

/-! Predicates (R100). -/

/-- While a pipelined loop runs, a result for p12 to p15 is discarded when it lands (log 33). -/
theorem landOne_stage {s : State} {d : PReg} {v : Bool} (hpiping : piping s.core.arch = true) (hd : 12 ≤ d.val) :
    (landOne s (.p d v)).core.arch = s.core.arch := by
  rw [landOne_arch, Arch.land, setPred, if_pos (by simp [hpiping, hd])]

theorem piping_of_level {a : Arch} {n : Fin 3} (hact : a.loops[n].act = true) (hpipe : a.loops[n].pipe = true) :
    piping a = true := by
  refine List.any_eq_true.2 ⟨a.loops[n], ?_, by rw [hact, hpipe]; rfl⟩
  exact Vector.mem_toList_iff.2 (Vector.getElem_mem _)

/-! Masks (R101). -/

/-- Quarter q of a mask replaced by a word. -/
def maskInsert (q : Nat) (x : Word) (m : Mask) : Mask :=
  (m &&& ~~~((BitVec.allOnes 64).setWidth 256 <<< (64 * q))) ||| (x.setWidth 256 <<< (64 * q))

theorem maskInsert_bit {q : Nat} (x : Word) (m : Mask) {i : Nat} (hi : i < 256) :
    (maskInsert q x m).getLsbD i = if i / 64 = q then x.getLsbD (i % 64) else m.getLsbD i := by
  simp only [maskInsert, BitVec.getLsbD_or, BitVec.getLsbD_and, BitVec.getLsbD_not, BitVec.getLsbD_shiftLeft,
    BitVec.getLsbD_setWidth, BitVec.getLsbD_allOnes]
  by_cases hq : i / 64 = q
  · have hbit : i - 64 * q = i % 64 := by omega
    have hlow : ¬i < 64 * q := by omega
    have hword : i % 64 < 64 := Nat.mod_lt _ (by decide)
    have hmask : i % 64 < 256 := by omega
    simp [hq, hi, hbit, hlow, hword, hmask]
  · obtain hbelow | habove : i < 64 * q ∨ 64 ≤ i - 64 * q := by omega
    · simp [hq, hi, hbelow]
    · have hnone : x.getLsbD (i - 64 * q) = false := BitVec.getLsbD_of_ge _ _ habove
      simp [hq, hi, hnone, Nat.not_lt.2 habove]

theorem maskQuarter_bit (q : Nat) (m : Mask) {j : Nat} (hj : j < 64) :
    ((m >>> (64 * q)).setWidth 64).getLsbD j = m.getLsbD (64 * q + j) := by
  simp [hj]

theorem lowMask_bit (n : Nat) {i : Nat} (hi : i < 256) :
    (BitVec.ofNat 256 (2 ^ n - 1)).getLsbD i = decide (i < n) := by
  rw [BitVec.getLsbD_ofNat, Nat.testBit_two_pow_sub_one, decide_eq_true hi, Bool.true_and]

/-! An immediate that the entry does not allow (R63). -/

theorem decodeEnc_resfield {x e : Enc} {i : Instr} (ha : assigned x.opc = true) (hb : build x.opc x.md x.f = some i)
    (he : i.enc = some e) (hmd : x.md = e.md) (hmod : i.modOk = true) (hf : fieldsOk x e i = false) :
    decodeEnc x = .error .resfield := by
  have hpass : (x.md != e.md || !i.modOk) = false := by simp [hmd, hmod]
  simp only [decodeEnc, ha, hb, he, hpass, hf, Bool.not_true, Bool.not_false, Bool.false_eq_true, if_false, if_true]

theorem fieldsOk_imm {x e : Enc} (i : Instr) (hopc : (x.opc == 0xC7) = false) (h : x.f.imm ≠ e.f.imm) :
    fieldsOk x e i = false := by
  simp [fieldsOk, hopc, h]

theorem mski_resfield (d : MReg) {k : Nat} (h : 256 < k) :
    decodeEnc ⟨0x32, 0, ⟨112 + d.val, 0, 0, 0, k, 0, 0, 0⟩⟩ = .error .resfield := by
  have hcut : k ≠ k % 257 := by omega
  exact decodeEnc_resfield (i := .sMski (rm (112 + d.val)) (Fin.ofNat 257 k)) rfl rfl rfl rfl rfl
    (fieldsOk_imm _ rfl hcut)

/-- Settles O16, syllable by syllable. -/
theorem scalarPredicatesAndMasks : Obligations.ScalarPredicatesAndMasks := by
  refine ⟨fun s d a b x => ?predicates, fun s q d e a b n => ?masks⟩
  case predicates =>
    intro e
    exact ⟨⟨rfl, runsTo_pBin (exec_sPand ..) rfl⟩, ⟨rfl, runsTo_pBin (exec_sPor ..) rfl⟩,
      ⟨rfl, runsTo_pBin (exec_sPxor ..) rfl⟩, ⟨rfl, runsTo_issue (exec_sPnot ..) rfl rfl rfl rfl⟩,
      ⟨rfl, runsTo_issue (exec_sPset ..) rfl rfl rfl rfl⟩,
      fun n v hact hpipe hd => landOne_stage (piping_of_level hact hpipe) hd, fun u l => rfl⟩
  case masks =>
    refine ⟨⟨rfl, maskInsert q.val (regS s a) (regM s b), fun i hi => maskInsert_bit _ _ hi,
      runsTo_issue (exec_sMskIns ..) rfl rfl rfl rfl⟩, ⟨?_, _, fun j hj => maskQuarter_bit q.val _ hj,
      runsTo_issue (exec_sMskExt ..) rfl rfl rfl rfl⟩, ⟨rfl, _, fun i hi => lowMask_bit n.val hi,
      runsTo_issue (exec_sMski ..) rfl rfl rfl rfl⟩, fun k hk _ => mski_resfield d hk⟩
    rw [Nat.add_comm 1]
    rfl

end Sys2Proof.Machine
end

section
/-! PROOFS. Control registers, staging registers and spill memory (spec/06 R102, R103; spec/12 R229): what each write
lands, and from these the statement O17. -/

namespace Sys2Proof.Machine

section

variable (s : State) (x : Word)

/-- A control register that strands may only read ignores its write (R103). -/
theorem landOne_creg_ignored {c : CReg} (hshape : c ≠ .shape) (hqsl : c ≠ .qsl) (httbase : c ≠ .ttbase)
    (hlc : ∀ k, c ≠ .lc k) : landOne s (.creg c x) = s := by
  cases c with
  | shape => exact absurd rfl hshape
  | qsl => exact absurd rfl hqsl
  | ttbase => exact absurd rfl httbase
  | lc k => exact absurd rfl (hlc k)
  | _ => rfl

/-- A write of LCn sets REM alone (R103, R110). -/
theorem landOne_lc (n : Fin 3) : (landOne s (.creg (.lc n) x)).core.arch.loops[n] =
    { s.core.arch.loops[n] with rem := x.setWidth 32 } := by
  rw [landOne_arch, Arch.land, Arch.setCreg, ← BitVec.ofNat_toNat]
  exact Vector.getElem_set_self _

/-- A staging register holds what its write lands (R102). -/
theorem gregValue_landOne (g : GReg) : gregValue (landOne s (.greg g x)).core.arch g = x := by
  rw [landOne_arch, Arch.land]
  cases g <;> exact Vector.getElem_set_self _

end

/-- Settles O17, access by access. -/
theorem scalarAccess : Obligations.ScalarAccess := by
  intro s d a x slot n
  exact ⟨fun c => ⟨rfl, runsTo_issue (exec_sCrd ..) rfl rfl rfl rfl, rfl, runsTo_issue (exec_sCwr ..) rfl rfl rfl rfl,
      landOne_creg_ignored s x⟩,
    fun g => ⟨rfl, runsTo_issue (exec_sGrd ..) rfl rfl rfl rfl, rfl, runsTo_issue (exec_sGwr ..) rfl rfl rfl rfl,
      gregValue_landOne s x g⟩,
    ⟨rfl, rfl, rfl, landOne_lc s x n⟩,
    ⟨rfl, fun hgood => runsTo_issue (exec_sSpl ..) rfl hgood rfl rfl⟩,
    ⟨rfl, runsTo_issue (exec_sSps ..) rfl rfl rfl rfl, rfl⟩⟩

end Sys2Proof.Machine
end

section
/-! PROOFS. The clock sample and the check of two registers (spec/06 R104, R105): the statement O19. -/

namespace Sys2Proof.Machine

section

variable {s : State}

/-! S.CLK (R104). -/

/-- Whether .strict refuses the width of the clock's bounds. -/
def tooWide (s : State) (strict : Bool) : Bool := strict && s.die.clkw.toNat < s.die.latest - s.die.earliest

theorem exec_sClk_eq {strict : Bool} {d : SReg} : exec (.sClk strict d) s =
    issue s { dsts := [.s d, .s (d + 1)], trap := if tooWide s strict then some { cause := .clkwide } else none }
      (fun t => wrS (d + 1) 1 (wordN s.die.latest) (wrS d 1 (wordN s.die.earliest) t)) := rfl

theorem sClk_wf (strict : Bool) (d : SReg) :
    (Instr.sClk strict d).wf = true ↔ 10 ≤ d.val ∧ d.val ≤ 54 ∧ d.val % 2 = 0 := by
  have hwf : (Instr.sClk strict d).wf = SReg.pair d := rfl
  rw [hwf, SReg.pair]
  simp only [Bool.and_eq_true, decide_eq_true_eq, beq_iff_eq]
  omega

/-! S.CHK (R105). -/

/-- A check of two registers has no effect when they agree; when they differ it traps with the number of the first. -/
theorem chk_spec {i : Instr} {p q : Reg} {same : Bool} {agree : Prop} (hagree : same = true ↔ agree)
    (hi : exec i s = issue s
      { srcs := [p, q], trap := if same then none else some { cause := .check, arg := p.num } } id) :
    (agree → RunsTo i s [p, q] [] id) ∧
      (¬agree → Runs s [p, q] [] → exec i s = .next (trapHere { cause := .check, arg := p.num } s)) := by
  refine ⟨fun h => runsTo_issue hi rfl (if_pos (hagree.2 h)) rfl rfl, fun h hruns => hi.trans ?_⟩
  exact issue_traps hruns rfl (if_neg (mt hagree.1 h))

theorem sChk_wf {a b : SReg} (h : (Instr.sChk (.s a b)).wf = true) : a.val < 56 ∧ b.val < 56 := by
  have hwf : (Instr.sChk (.s a b)).wf = (SReg.plain a && SReg.plain b) := rfl
  simpa [hwf, SReg.plain] using h

end

/-- Settles O19: the sample and its trap, and the check of each kind of register. -/
theorem clockSampleAndCheck : Obligations.ClockSampleAndCheck := by
  refine ⟨fun s strict d => ⟨rfl, sClk_wf strict d, fun h => ?_, fun hstrict hwide hruns => ?_⟩,
    fun s a b p q m n => ⟨chk_spec beq_iff_eq (exec_sChk ..), chk_spec beq_iff_eq (exec_sChk ..),
      chk_spec beq_iff_eq (exec_sChk ..), rfl, rfl, rfl, sChk_wf⟩⟩
  · have hfits : tooWide s strict = false := by
      obtain rfl | hle := h
      · rfl
      · simp [tooWide, hle]
    exact runsTo_issue exec_sClk_eq rfl (by rw [hfits]; rfl) rfl rfl
  · have htoo : tooWide s strict = true := by simp [tooWide, hstrict, hwide]
    exact exec_sClk_eq.trans (issue_traps hruns rfl (by rw [htoo]; rfl))

end Sys2Proof.Machine
end

section
/-! PROOFS. The trap of software (spec/06 R114): the word it leaves in TRAPINFO, its bundle under a false guard, and from
these the statement O25. -/

namespace Sys2Proof.Machine

/-- A syllable that names no register meets none of the conditions that every syllable shares (R36). -/
theorem runs_nil (s : State) : Runs s [] [] := ⟨rfl, by simp [sylTrap, Syl.reads, pendTrap, allotTrap, ueccTrap], rfl⟩

/-- TRAPINFO of B.TRAP. -/
theorem swtrap_info (code : BitVec 16) : Trap.info { cause := .swtrap, arg := code.toNat } =
    wordN (14 + code.toNat * 2 ^ 20) := by
  have hfits : code.toNat % 2 ^ 44 = code.toNat := Nat.mod_eq_of_lt (by omega)
  simp only [Trap.info, Cause.addrForm, Cause.code, hfits, Bool.false_eq_true, if_false]
  rfl

/-- A bundle none of whose syllables executes meets no check. -/
theorem issueBundle_none {s : State} {l : List Slotted} (hb : bundleAt s s.core.pc.toNat = .ok l)
    (hg : ∀ x ∈ l, guardTrue (beginIssue s.core.pc.toNat l.length s) x.frame = false) :
    issueBundle s = runBundle l [] (beginIssue s.core.pc.toNat l.length s) := by
  have hnone : l.filter (fun x => guardTrue (beginIssue s.core.pc.toNat l.length s) x.frame) = [] := by
    simpa using hg
  simp only [issueBundle, hb, hnone]
  rfl

/-- Settles O25: the syllable, its trap, and its bundle under a false guard. -/
theorem softwareTrap : Obligations.SoftwareTrap := by
  intro s code
  have hcode : code.toNat < 2 ^ 16 := code.isLt
  refine ⟨rfl, rfl, (exec_bTrap ..).trans (issue_traps (runs_nil s) rfl rfl), trapHere_status .., ?cause, ?detail,
    ?arg, fun x _ hb => ?idle⟩
  case cause | detail | arg =>
    rw [swtrap_info, wordN, wbits, bits, BitVec.toNat_ofNat]
    omega
  case idle =>
    intro s1 hg
    refine issueBundle_none hb fun y hy => ?_
    rw [List.mem_singleton.1 hy]
    exact hg

end Sys2Proof.Machine
end

section
/-! PROOFS. The elements of a vector register (spec/07 R116, R121) and the law of masked results: what packed fields
read back as, the masked elements one by one, the traps of SHAPE; from these the statement O32. -/

namespace Sys2Proof.Machine

/-! Packed fields. -/

/-- Field i of packed numbers is member i cut to b bits, and 0 past the last. -/
theorem packN_field (b : Nat) (l : List Nat) (i : Nat) :
    packN b l / 2 ^ (b * i) % 2 ^ b = l[i]?.getD 0 % 2 ^ b := by
  induction l generalizing i with
  | nil => simp [packN]
  | cons x l ih =>
    have hx : x % 2 ^ b < 2 ^ b := Nat.mod_lt _ (Nat.two_pow_pos b)
    cases i with
    | zero => simp [packN]
    | succ i =>
      have htail : (x % 2 ^ b + 2 ^ b * packN b l) / 2 ^ b = packN b l := by
        rw [Nat.add_mul_div_left _ _ (Nat.two_pow_pos b), Nat.div_eq_of_lt hx, Nat.zero_add]
      rw [packN, Nat.mul_succ, Nat.add_comm (b * i), Nat.pow_add, ← Nat.div_div_eq_div_mul, htail, ih,
        List.getElem?_cons_succ]

/-- Bit i of field k of packed numbers. -/
theorem packN_testBit (b : Nat) (l : List Nat) (k : Nat) {i : Nat} (hi : i < b) :
    (packN b l).testBit (b * k + i) = (l[k]?.getD 0).testBit i := by
  have hfield := congrArg (·.testBit i) (packN_field b l k)
  simp only [Nat.testBit_mod_two_pow, Nat.testBit_div_two_pow, hi, decide_true, Bool.true_and] at hfield
  rw [Nat.add_comm, hfield]

/-- A field of b bits that lies within n bits does not see what a word of n bits leaves out. -/
theorem field_ofNat (x : Nat) {n b i : Nat} (h : b * i + b ≤ n) :
    (BitVec.ofNat n x).toNat / 2 ^ (b * i) % 2 ^ b = x / 2 ^ (b * i) % 2 ^ b := by
  refine Nat.eq_of_testBit_eq fun j => ?_
  simp only [BitVec.toNat_ofNat, Nat.testBit_mod_two_pow, Nat.testBit_div_two_pow]
  by_cases hj : j < b
  · have hin : j + b * i < n := by omega
    simp [hin]
  · simp [hj]

theorem getD_map_range {α : Type} (f : Nat → α) (n i : Nat) (d : α) :
    ((List.range n).map f)[i]?.getD d = if i < n then f i else d := by
  by_cases hi : i < n <;> simp [hi]

/-! Elements (R116). -/

/-- The widths of elements: 2^WB bytes. -/
theorem width_mem (t : EType) : t.width ∈ [1, 2, 4, 8] := by cases t <;> decide

theorem width_cases {w : Nat} (hw : w ∈ [1, 2, 4, 8]) : w = 1 ∨ w = 2 ∨ w = 4 ∨ w = 8 := by simpa using hw

/-- An element that begins in a register lies in it whole. -/
theorem element_within {w e : Nat} (hw : w ∈ [1, 2, 4, 8]) (he : e * w < 1024) : 8 * w * e + 8 * w ≤ 8192 := by
  obtain rfl | rfl | rfl | rfl := width_cases hw <;> omega

theorem elem_lt (x : VWord) (w e : Nat) : elem x w e < 2 ^ (8 * w) := Nat.mod_lt _ (Nat.two_pow_pos _)

theorem elem_ofElems {w e : Nat} (l : List Nat) (hw : w ∈ [1, 2, 4, 8]) (he : e * w < 1024) :
    elem (ofElems w l) w e = l[e]?.getD 0 % 2 ^ (8 * w) :=
  (field_ofNat _ (element_within hw he)).trans (packN_field ..)

/-! Masked results (R121). -/

theorem zeroing_iff {m : VMod} {d : VReg} : zeroing m d = true ↔ m.zero = true ∨ d.val = 31 := by
  simp [zeroing]

section

variable (s : State) (w : Nat) (m : VMod) (d : VReg) (f : Nat → Nat × Ev)

/-- Element e of a masked result, before it is cut to its width. -/
def maskedElem (e : Nat) : Nat :=
  if enabled (regM s m.mask) w e then (f e).1 else if zeroing m d then 0 else elem (regV s d) w e

variable {s w m d f}

theorem maskedElem_on {e : Nat} (hon : enabled (regM s m.mask) w e = true) : maskedElem s w m d f e = (f e).1 :=
  if_pos hon

theorem maskedElem_zeroed {e : Nat} (hoff : ¬enabled (regM s m.mask) w e = true) (hz : zeroing m d = true) :
    maskedElem s w m d f e = 0 := (if_neg hoff).trans (if_pos hz)

theorem maskedElem_kept {e : Nat} (hoff : ¬enabled (regM s m.mask) w e = true) (hz : ¬zeroing m d = true) :
    maskedElem s w m d f e = elem (regV s d) w e := (if_neg hoff).trans (if_neg hz)

variable (s w m d f)

theorem maskedElems_getD (e : Nat) :
    (maskedElems s w m d f).1[e]?.getD 0 = if e < shCount s then maskedElem s w m d f e else 0 := by
  simp only [maskedElems, List.map_map, getD_map_range, Function.comp_apply, maskedElem]
  congr 1
  split_ifs <;> rfl

theorem mem_maskedElems_events (v : Ev) : v ∈ (maskedElems s w m d f).2 ↔
    ∃ e, e < shCount s ∧ enabled (regM s m.mask) w e = true ∧ v = (f e).2 := by
  simp only [maskedElems, List.mem_filterMap, List.mem_map, List.mem_range, exists_exists_and_eq_and]
  refine exists_congr fun e => and_congr_right fun _ => ?_
  by_cases hon : enabled (regM s m.mask) w e = true
  · simp [hon, eq_comm]
  · split_ifs <;> simp [hon]

end

/-! The traps of SHAPE (R117, R123). -/

section

variable {s : State} {w : Nat}

theorem shValid_iff : shValid s = true ↔ 1 ≤ shRows s ∧ shRows s ≤ 256 ∧ 1 ≤ shCols s ∧ shCols s ≤ 1024 ∧
    shRows s * shCols s * shWidth s ≤ 1024 := by
  simp [shValid, and_assoc]

theorem shapeTrap_width (h : shWidth s ≠ w) : shapeTrap s w = some { cause := .vector, detail := 1 } := by
  simp [shapeTrap, h]

theorem shapeTrap_shape (hw : shWidth s = w) (h : shValid s = false) :
    shapeTrap s w = some { cause := .vector, detail := 2 } := by simp [shapeTrap, hw, h]

theorem shapeTrap_none (hw : shWidth s = w) (h : shValid s = true) : shapeTrap s w = none := by
  simp [shapeTrap, hw, h]

theorem shValid_of_shapeTrap (h : shapeTrap s w = none) : shValid s = true := by
  by_contra hbad
  rw [Bool.not_eq_true] at hbad
  by_cases hw : shWidth s = w
  · rw [shapeTrap_shape hw hbad] at h
    cases h
  · rw [shapeTrap_width hw] at h
    cases h

/-- A masked element-wise syllable that finds SHAPE unfit for its type traps (R123). -/
theorem vElem_traps {i : Instr} {t : EType} {k : Nat} {m : VMod} {d : VReg} {srcs : List Reg} {f : Nat → Nat × Ev}
    {e : Trap} (hi : exec i s = vElem t k m d srcs f s) (he : shapeTrap s t.width = some e)
    (hr : Runs s (srcs ++ [maskReg m]) [.v d] (mergeRead s t.width m d)) : exec i s = .next (trapHere e s) :=
  hi.trans (issue_traps hr rfl (by rw [he]; rfl))

end

/-- Settles O32: the law of a masked result, element by element, and the two traps of SHAPE. -/
theorem maskedElements : Obligations.MaskedElements := by
  refine ⟨fun s t u w k m d f hw hfits => ?law, fun s w => ?shape, fun s t d a b m e he hr =>
    ⟨vElem_traps (exec_vAdd ..) he hr, vElem_traps (exec_vAnd ..) he hr⟩⟩
  case law =>
    intro on
    have hread {e : Nat} (hin : e * w < 1024) : elem (ofElems w (maskedElems s w m d f).1) w e =
        (if e < shCount s then maskedElem s w m d f e else 0) % 2 ^ (8 * w) := by
      rw [elem_ofElems _ hw hin, maskedElems_getD]
    refine ⟨_, _, rfl, fun e hin => ⟨fun he hon => ?_, fun he hoff hz => ?_, fun he hoff hz hd => ?_, fun he => ?_⟩,
      mem_maskedElems_events s w m d f⟩
    · rw [hread hin, if_pos he, maskedElem_on hon]
    · rw [hread hin, if_pos he, maskedElem_zeroed hoff (zeroing_iff.2 hz), Nat.zero_mod]
    · have hkeep : ¬zeroing m d = true := fun h => (zeroing_iff.1 h).elim (by simp [hz]) hd
      rw [hread hin, if_pos he, maskedElem_kept hoff hkeep, Nat.mod_eq_of_lt (elem_lt ..)]
    · rw [hread hin, if_neg (Nat.not_lt.2 he), Nat.zero_mod]
  case shape =>
    intro sh rows cols size valid
    exact ⟨rfl, shapeTrap_width, fun hw hbad => shapeTrap_shape hw (Bool.eq_false_iff.2 (mt shValid_iff.1 hbad)),
      fun hw hvalid => shapeTrap_none hw (shValid_iff.2 hvalid)⟩

end Sys2Proof.Machine
end

section
/-! PROOFS. Compares into masks, selection, the mask operations and the single elements (spec/07 R127, R128): the
lanes of a mask as they are made, the elements that a lane holds, and from these the statement O35. -/

namespace Sys2Proof.Machine

/-! Masks (R56, R127). -/

theorem maskOf_lane (f : Nat → Bool) {j : Nat} (hj : j < 256) : (maskOf f).toNat.testBit j = f j := by
  have hbit : (f j).toNat.testBit 0 = f j := by cases f j <;> rfl
  rw [maskOf, BitVec.testBit_toNat, BitVec.getLsbD_ofNat, packN_one_testBit, getD_map_range, if_pos hj, hbit]
  simp [hj]

/-! Compares (R127). -/

/-- The flat indices that a lane can hold: those of its 4 bytes, or the one element that is wider. -/
theorem mem_lane {w e j : Nat} (hw : w ∈ [1, 2, 4, 8]) (h : e * w / 4 = j) :
    e ∈ List.range' (4 * j / w) (max 1 (4 / w)) := by
  rw [List.mem_range'_1]
  obtain rfl | rfl | rfl | rfl := width_cases hw <;> omega

/-- The elements of the tile that lane j holds. -/
def inLane (s : State) (w j : Nat) : List Nat :=
  (List.range' (4 * j / w) (max 1 (4 / w))).filter fun e => e < shCount s && e * w / 4 == j

theorem mem_inLane {s : State} {w e j : Nat} (hw : w ∈ [1, 2, 4, 8]) :
    e ∈ inLane s w j ↔ e < shCount s ∧ e * w / 4 = j := by
  simp only [inLane, List.mem_filter, Bool.and_eq_true, decide_eq_true_eq, beq_iff_eq]
  exact ⟨And.right, fun h => ⟨mem_lane hw h.2, h⟩⟩

/-- The mask of V.CMP for a test of elements: a lane is 1 when it holds an element and all it holds pass. -/
def cmpMask (s : State) (w : Nat) (ok : Nat → Bool) : Mask :=
  maskOf fun j => !(inLane s w j).isEmpty && (inLane s w j).all ok

theorem cmpMask_lane {s : State} {w j : Nat} {ok : Nat → Bool} (hw : w ∈ [1, 2, 4, 8]) (hj : j < 256) :
    (cmpMask s w ok).toNat.testBit j = true ↔
      (∃ e < shCount s, e * w / 4 = j) ∧ ∀ e < shCount s, e * w / 4 = j → ok e = true := by
  have hsome : (!(inLane s w j).isEmpty) = true ↔ ∃ e < shCount s, e * w / 4 = j := by
    rw [Bool.not_eq_true', List.isEmpty_eq_false_iff_exists_mem]
    exact exists_congr fun e => mem_inLane hw
  rw [cmpMask, maskOf_lane _ hj, Bool.and_eq_true, hsome, List.all_eq_true]
  simp only [mem_inLane hw, and_imp]

section

variable {s : State} {t : EType} {d a : VReg} {q : SV} {m : MReg} {sb sc : SReg} {idx : BitVec 9}

/-- The event of one compare: a signalling NaN counts (R73). -/
def cmpEvent (s : State) (t : EType) (a : VReg) (q : SV) (e : Nat) : Ev :=
  if (t.val (opElem s t.width (.v a) e)).sig || (t.val (opElem s t.width q e)).sig then .invalid else .none

theorem exec_vCmp_eq {cond : Cond} : exec (.vCmp t m a q cond) s =
    issue s { srcs := [.v a, q.reg], dsts := [.m m], trap := shapeTrap s t.width } (fun u =>
      raise .vector (vLat t) ((List.range (shCount s)).map (cmpEvent s t a q))
        (wrM m (vLat t) (cmpMask s t.width fun e =>
          cond.ordered (orderElem t (opElem s t.width (.v a) e) (opElem s t.width q e))) u)) := rfl

theorem cmpEvent_cases (e : Nat) : cmpEvent s t a q e = .none ∨ cmpEvent s t a q e = .invalid := by
  unfold cmpEvent
  split_ifs
  · exact .inr rfl
  · exact .inl rfl

/-! Single elements (R128). -/

/-- The register with element x replaced. -/
def setElem (old : VWord) (w x v : Nat) : VWord :=
  ofElems w ((List.range (1024 / w)).map fun e => if e == x then v else elem old w e)

theorem elem_setElem {w e x v : Nat} {old : VWord} (hw : w ∈ [1, 2, 4, 8]) (he : e * w < 1024) (hv : v < 2 ^ (8 * w)) :
    elem (setElem old w x v) w e = if e = x then v else elem old w e := by
  have hin : e < 1024 / w := by
    obtain rfl | rfl | rfl | rfl := width_cases hw <;> omega
  rw [setElem, elem_ofElems _ hw he, getD_map_range, if_pos hin]
  simp only [beq_iff_eq]
  split_ifs
  · exact Nat.mod_eq_of_lt hv
  · exact Nat.mod_eq_of_lt (elem_lt ..)

theorem vIns_runs {x : Nat} {v : VWord} (ht : shapeTrap s t.width = none)
    (hx : ((regS s sc).toNat + idx.toNat) % 1024 = x)
    (hv : (if shCount s ≤ x then regV s a else setElem (regV s a) t.width x (opElem s t.width (.s sb) 0)) = v) :
    RunsTo (.vIns t d a sb sc idx) s [.v a, .s sb, .s sc] [.v d] (wrV d 2 v) := by
  subst hx hv
  exact runsTo_issue (exec_vIns ..) rfl ht rfl rfl

end

/-- Settles O35, syllable by syllable. -/
theorem vectorMasksAndElements : Obligations.VectorMasksAndElements := by
  intro s t d a q m n p sd sb sc cond op idx w k x y holds sel tile ix
  have hw : w ∈ [1, 2, 4, 8] := width_mem t
  have hholds (e : Nat) : cond.ordered (orderElem t (x e) (y e)) = true ↔ holds e := by
    simp only [holds]
    cases orderElem t (x e) (y e) with
    | none => simp [Cond.ordered]
    | some o => cases cond <;> simp [Cond.ordered]
  have hcount : popcount 256 (regM s m).toNat = (List.range 256).countP (regM s m).getLsbD := popcount_eq ..
  refine ⟨fun ht => ⟨⟨cmpMask s w _, _, fun j hj => (cmpMask_lane hw hj).trans ?_, ?_,
        runsTo_issue exec_vCmp_eq rfl ht rfl rfl⟩,
      runsTo_issue (exec_vSel ..) rfl ht rfl rfl, runsTo_issue (exec_vExtr ..) rfl ht rfl rfl,
      fun hout => vIns_runs ht rfl (if_pos hout),
      fun hin _ => ⟨_, fun e he => elem_setElem hw he (Nat.mod_lt _ (Nat.two_pow_pos _)),
        vIns_runs ht rfl (if_neg (Nat.not_le.2 hin))⟩,
      runsTo_issue (exec_vCmprs ..) rfl ht rfl rfl⟩, ?_,
    ⟨maskOf fun j => elem (regV s a) 4 j != 0, fun j hj => by rw [maskOf_lane _ hj, bne_iff_ne],
      runsTo_issue (exec_vMset ..) rfl rfl rfl rfl⟩, ?_⟩
  · exact and_congr_right fun _ => forall₃_congr fun e _ _ => hholds e
  · simp only [List.forall_mem_map]
    exact fun e _ => cmpEvent_cases e
  · rw [← hcount]
    exact runsTo_issue (exec_vMcnt ..) rfl rfl rfl rfl
  · cases op <;> exact runsTo_issue (exec_vMand ..) rfl rfl rfl rfl

end Sys2Proof.Machine
end

section
/-! PROOFS. The reductions (spec/07 R129, R130): the levels of the fixed pairwise tree, the leaves of a group, and from
these the statement O36. -/

namespace Sys2Proof.Machine

section

/-! The tree (R129). -/

variable {α : Type} (op : α → α → α × Ev)

/-- A level of absent leaves stays absent. -/
theorem pairUp_absent {l : List (Option α)} (h : ∀ o ∈ l, o = none) : ∀ o ∈ (pairUp op l).1, o = none := by
  induction l using pairUp.induct op with
  | case1 x y t ih => exact absurd (h (some x) (by simp)) (by simp)
  | case2 x t ih => exact absurd (h (some x) (by simp)) (by simp)
  | case3 y t ih =>
    simp only [List.forall_mem_cons] at h
    rw [pairUp, List.forall_mem_cons]
    exact ⟨h.2.1, ih h.2.2⟩
  | case4 x => simpa [pairUp] using h
  | case5 => simp [pairUp]

/-- The root over absent leaves is absent. -/
theorem treeRoot_absent (k : Nat) {l : List (Option α)} (h : ∀ o ∈ l, o = none) : (treeRoot op k l).1 = none := by
  induction k generalizing l with
  | zero =>
    cases l with
    | nil => rfl
    | cons o t => exact h o List.mem_cons_self
  | succ k ih => exact ih (pairUp_absent op h)

end

section

variable {s : State} {t : EType} {d a : VReg} {m : VMod}

/-- A leaf of a reduction: an element of the tile that the mask enables. -/
theorem leaves_eq (w : Nat) (mask : MReg) (l : List Nat) : leaves s w a mask l = l.map fun e =>
    if e < shCount s ∧ (regM s mask).toNat.testBit (e * w / 4) = true then some (elem (regV s a) w e) else none := by
  simp only [leaves, enabled, lane, Bool.and_eq_true, decide_eq_true_eq]

theorem vReduce_runs {i : Instr} {outs outs' : List (Nat × Ev)} (ht : shapeTrap s t.width = none)
    (hi : exec i s = vReduce t d a m outs s) (ho : outs = outs') : RunsTo i s [.v a, .m m.mask] [.v d] fun u =>
      raise .vector (vLat t) (outs'.map (·.2)) (wrV d (vLat t) (ofElems t.width (outs'.map (·.1))) u) := by
  subst ho
  exact runsTo_issue hi rfl ht rfl rfl

end

/-- Settles O36: the syllables by their groups, then the tree level by level. -/
theorem reductions : Obligations.Reductions := by
  refine ⟨fun s t d a m g ab ht => ?syllables, fun op x y l =>
    ⟨fun k => treeRoot_absent op k, rfl, rfl, rfl, fun k => rfl⟩⟩
  case syllables =>
    intro w k leaf root run sum r c n
    have hroot (op : Nat → Nat → Nat × Ev) (l : List Nat) : reduce op (leaves s w a m.mask l) = root op l := by
      rw [leaves_eq]
      rfl
    have hroots {ι : Type} (op : Nat → Nat → Nat × Ev) (f : ι → List Nat) (l : List ι) :
        groupSums op s w a m.mask (l.map f) = l.map fun i => root op (f i) := by
      simp only [groupSums, List.map_map, Function.comp_def, hroot]
    exact ⟨vReduce_runs ht (exec_vRsum ..) (congrArg (fun x => [x]) (hroot ..)),
      vReduce_runs ht (exec_vRmax ..) (congrArg (fun x => [x]) (hroot ..)),
      vReduce_runs ht (exec_vRmin ..) (congrArg (fun x => [x]) (hroot ..)),
      vReduce_runs ht (exec_vRowsum ..) (hroots ..), vReduce_runs ht (exec_vColsum ..) (hroots ..),
      vReduce_runs ht (exec_vGmax ..) (by simp only [leaves_eq]; rfl)⟩

end Sys2Proof.Machine
end

section
/-! PROOFS. V.CVT, V.MAXEXP and V.PXPOSE (spec/07 R131 to R134): the fields of a converted register, the block scales,
the planes, and from these the statement O37. -/

namespace Sys2Proof.Machine

/-! Conversions (R131, R133). -/

section

variable (s : State) (src : EType) (d a : VReg) (dst : CvtDst) (part : Fin 8) (m : VMod)

/-- The source element that destination element i converts. -/
def cvtIdx (i : Nat) : Nat := part.val * (8192 / cvtBits dst) + i

/-- How many destination elements have a source element in the tile. -/
def cvtCount : Nat := min (8192 / cvtBits dst) (shCount s - part.val * (8192 / cvtBits dst))

/-- Destination element i, and the event of an enabled one. -/
def cvtOne (i : Nat) : Nat × Option Ev :=
  if enabled (regM s m.mask) src.width (cvtIdx dst part i) then
    let r := cvtElem s src dst m (cvtIdx dst part i) (elem (regV s a) src.width (cvtIdx dst part i))
    (r.1, some r.2)
  else (if zeroing m d then 0 else (regV s d).toNat / 2 ^ (cvtBits dst * i) % 2 ^ cvtBits dst, none)

/-- The destination elements in order. -/
def cvtList : List (Nat × Option Ev) := (List.range (cvtCount s dst part)).map (cvtOne s src d a dst part m)

/-- The register that V.CVT gives. -/
def cvtWord : VWord := BitVec.ofNat 8192 (packN (cvtBits dst) ((cvtList s src d a dst part m).map Prod.fst))

/-- Whether V.CVT keeps an element of D. -/
def cvtMerges : Bool := shValid s && !zeroing m d &&
  (List.range (cvtCount s dst part)).any fun i => !enabled (regM s m.mask) src.width (cvtIdx dst part i)

theorem exec_vCvt_eq : exec (.vCvt src d a dst part m) s =
    issue s { srcs := [.v a, maskReg m], dsts := [.v d], also := if cvtMerges s src d dst part m then [.v d] else []
              trap := shapeTrap s src.width } (fun u =>
      raise .vector 3 ((cvtList s src d a dst part m).filterMap Prod.snd)
        (wrV d 3 (cvtWord s src d a dst part m) u)) := rfl

variable {s src d a dst part m} {i : Nat}

theorem lt_cvtCount : i < cvtCount s dst part ↔ i < 8192 / cvtBits dst ∧ cvtIdx dst part i < shCount s := by
  simp only [cvtCount, cvtIdx]
  omega

theorem cvtMerges_iff (hv : shValid s = true) : cvtMerges s src d dst part m = true ↔
    (∃ i < 8192 / cvtBits dst, cvtIdx dst part i < shCount s ∧
      enabled (regM s m.mask) src.width (cvtIdx dst part i) = false) ∧ m.zero = false ∧ d.val ≠ 31 := by
  have hz : zeroing m d = false ↔ m.zero = false ∧ d.val ≠ 31 := by
    rw [← Bool.not_eq_true, zeroing_iff, not_or, Bool.not_eq_true]
  simp only [cvtMerges, hv, Bool.true_and, Bool.and_eq_true, Bool.not_eq_true', hz, List.any_eq_true, List.mem_range,
    lt_cvtCount, and_assoc]
  exact and_rotate.trans and_rotate

/-- Field i of the converted register. -/
theorem cvtWord_field (hi : i < 8192 / cvtBits dst) :
    (cvtWord s src d a dst part m).toNat / 2 ^ (cvtBits dst * i) % 2 ^ cvtBits dst =
      (if cvtIdx dst part i < shCount s then (cvtOne s src d a dst part m i).1 else 0) % 2 ^ cvtBits dst := by
  have hin : cvtBits dst * i + cvtBits dst ≤ 8192 := by
    have := Nat.mul_le_of_le_div _ _ _ (Nat.succ_le_of_lt hi)
    rwa [Nat.succ_mul, Nat.mul_comm] at this
  rw [cvtWord, field_ofNat _ hin, packN_field, cvtList, List.map_map, getD_map_range]
  simp only [lt_cvtCount, hi, true_and, Function.comp_apply]

theorem cvtWord_on (hi : i < 8192 / cvtBits dst) (hin : cvtIdx dst part i < shCount s)
    (hon : enabled (regM s m.mask) src.width (cvtIdx dst part i) = true) :
    (cvtWord s src d a dst part m).toNat / 2 ^ (cvtBits dst * i) % 2 ^ cvtBits dst =
      (cvtElem s src dst m (cvtIdx dst part i) (elem (regV s a) src.width (cvtIdx dst part i))).1 %
        2 ^ cvtBits dst := by
  rw [cvtWord_field hi, if_pos hin, cvtOne, if_pos hon]

theorem cvtWord_off (hi : i < 8192 / cvtBits dst) (hin : cvtIdx dst part i < shCount s)
    (hoff : enabled (regM s m.mask) src.width (cvtIdx dst part i) = false) :
    (cvtWord s src d a dst part m).toNat / 2 ^ (cvtBits dst * i) % 2 ^ cvtBits dst =
      if m.zero = true ∨ d.val = 31 then 0 else (regV s d).toNat / 2 ^ (cvtBits dst * i) % 2 ^ cvtBits dst := by
  rw [cvtWord_field hi, if_pos hin, cvtOne, hoff, if_neg Bool.false_ne_true]
  simp only [zeroing_iff]
  split_ifs
  · exact Nat.zero_mod _
  · exact Nat.mod_mod ..

theorem cvtWord_past (hi : i < 8192 / cvtBits dst) (hout : shCount s ≤ cvtIdx dst part i) :
    (cvtWord s src d a dst part m).toNat / 2 ^ (cvtBits dst * i) % 2 ^ cvtBits dst = 0 := by
  rw [cvtWord_field hi, if_neg (Nat.not_lt.2 hout), Nat.zero_mod]

/-- V.CVT reads D when it keeps an element of it (R35). -/
theorem vCvt_runs {also : List Reg} (ht : shapeTrap s src.width = none)
    (hsome : cvtMerges s src d dst part m = true → also = [.v d])
    (hnone : ¬cvtMerges s src d dst part m = true → also = []) :
    RunsTo (.vCvt src d a dst part m) s [.v a, .m m.mask] [.v d] (fun u =>
      raise .vector 3 ((cvtList s src d a dst part m).filterMap Prod.snd)
        (wrV d 3 (cvtWord s src d a dst part m) u)) also := by
  have halso : also = if cvtMerges s src d dst part m then [.v d] else [] := by
    split_ifs with h
    · exact hsome h
    · exact hnone h
  rw [halso]
  exact runsTo_issue (exec_vCvt_eq ..) rfl ht rfl rfl

end

/-- SCALEb is byte b of QSL (R132). -/
theorem qslCode_eq (s : State) (b : Nat) : qslCode s b = wbits s.core.arch.qsl (8 * b + 7) (8 * b) := by
  have hwidth : 8 * b + 7 + 1 - 8 * b = 8 := by omega
  rw [wbits, bits, hwidth]
  rfl

/-- The code of source element e under SCALEb of its block, as an element of so many values (R133). -/
def mxCode (s : State) (src : EType) (frac lim values e x : Nat) : Nat × Ev :=
  let r := mxElem frac lim (wbits s.core.arch.qsl (8 * (e / 32) + 7) (8 * (e / 32))) (src.val x)
  ((r.1 % values).toNat, r.2)

theorem cvtElem_mx8 (s : State) (src : EType) (m : VMod) (e x : Nat) :
    cvtElem s src .mx8 m e x = mxCode s src 6 127 256 e x := by
  rw [cvtElem, qslCode_eq]
  rfl

theorem cvtElem_mx4 (s : State) (src : EType) (m : VMod) (e x : Nat) :
    cvtElem s src .mx4 m e x = mxCode s src 2 7 16 e x := by
  rw [cvtElem, qslCode_eq]
  rfl

/-! Block scales (R132). -/

theorem mxScale_lt (l : List FVal) : (mxScale l).1 < 2 ^ 8 := by
  unfold mxScale
  split
  · decide
  · split
    · decide
    · rw [clampI_eq (by decide)]
      omega

section

variable (s : State) (a : VReg) (mask : MReg)

/-- Block b of the tile's FP32 values: its scale code, and whether it is INVALID. -/
def scaleBlock (b : Nat) : Nat × Bool := mxScale ((List.range' (32 * b) 32).map fun e =>
  if e < shCount s && enabled (regM s mask) 4 e then f32.val (elem (regV s a) 4 e) else .fin false 0 0)

/-- The codes of the eight blocks as QSL holds them. -/
def scaleWord : Word := wordN (packN 8 (((List.range 8).map (scaleBlock s a mask)).map Prod.fst))

theorem exec_vMaxexp_eq : exec (.vMaxexp a mask) s =
    issue s { srcs := [.v a, .m mask], trap := shapeTrap s 4 } (fun u =>
      raise .vector 3 (((List.range 8).map (scaleBlock s a mask)).map fun r => if r.2 then .invalid else .none)
        (u.flight 3 (.creg .qsl (scaleWord s a mask)))) := rfl

variable {s a mask}

theorem scaleWord_field {b : Nat} (hb : b < 8) :
    wbits (scaleWord s a mask) (8 * b + 7) (8 * b) = (scaleBlock s a mask b).1 := by
  have hwidth : 8 * b + 7 + 1 - 8 * b = 8 := by omega
  rw [scaleWord, wbits_wordN _ (by omega), hwidth, packN_field, List.map_map, getD_map_range, if_pos hb]
  exact Nat.mod_eq_of_lt (mxScale_lt _)

end

/-! Planes (R134). -/

section

variable (s : State) (sg : Bool) (a : VReg) (p : Fin 8) (g : Bool)

/-- Element i of the group as an integer of 8 bits; 0 past the tile. -/
def pxSource (i : Nat) : Int :=
  if 512 * g.toNat + i < shCount s then EType.int (if sg then .i8 else .n8) (elem (regV s a) 1 (512 * g.toNat + i))
  else 0

/-- The same, clamped to the range of the planes. -/
def pxValue (i : Nat) : Int := clampI (pxSource s sg a g i) (planarLo sg (p.val + 1)) (planarHi sg (p.val + 1))

/-- The elements of the group, with their events. -/
def pxValues : List (Int × Ev) := (List.range 512).map fun i =>
  (pxValue s sg a p g i, if pxValue s sg a p g i == pxSource s sg a g i then .none else .cvtsat)

/-- The register that V.PXPOSE gives. -/
def pxWord : VWord := BitVec.ofNat 8192 (packN 512 ((List.range (p.val + 1)).map fun k =>
  packN 1 ((pxValues s sg a p g).map fun q => truncI q.1 (p.val + 1) / 2 ^ k)))

theorem exec_vPxpose_eq {d : VReg} : exec (.vPxpose sg d a p g) s =
    issue s { srcs := [.v a], dsts := [.v d], trap := shapeTrap s 1 } (fun u =>
      raise .vector 3 ((pxValues s sg a p g).map Prod.snd) (wrV d 3 (pxWord s sg a p g) u)) := rfl

variable {s sg a p g}

/-- Bit i of plane k is bit k of element i. -/
theorem pxWord_bit {k i : Nat} (hk : k < 16) (hi : i < 512) : (pxWord s sg a p g).toNat.testBit (512 * k + i) =
    (decide (k < p.val + 1) && (truncI (pxValue s sg a p g i) (p.val + 1)).testBit k) := by
  have hin : 512 * k + i < 8192 := by omega
  rw [pxWord, BitVec.testBit_toNat, BitVec.getLsbD_ofNat, packN_testBit _ _ _ hi, getD_map_range]
  by_cases hkn : k < p.val + 1
  · rw [if_pos hkn, packN_one_testBit, pxValues, List.map_map, getD_map_range, if_pos hi]
    have hbit (x : Nat) : (x / 2 ^ k).testBit 0 = x.testBit k := by rw [Nat.testBit_div_two_pow, Nat.zero_add]
    simp only [hin, hkn, decide_true, Bool.true_and, Function.comp_apply, hbit]
  · simp [hkn]

end

/-- Settles O37: the conversions by their code, the eight scales, the planes. -/
theorem vectorConversions : Obligations.VectorConversions := by
  intro s src t d a part m mask sg p g on cvt
  refine ⟨fun ht => ?conversions, fun ht => ⟨scaleWord s a mask, _, fun b hb => ?scale,
      runsTo_issue (exec_vMaxexp_eq s a mask) rfl ht rfl rfl⟩,
    fun ht => ⟨pxWord s sg a p g, _, fun k i hk hi => pxWord_bit hk hi,
      runsTo_issue (exec_vPxpose_eq s sg a p g) rfl ht rfl rfl⟩⟩
  case conversions =>
    have hvalid : shValid s = true := shValid_of_shapeTrap ht
    have hcvt (dst : CvtDst) (b : Nat) (hb : cvtBits dst = b) (code : Nat → Nat → Nat × Ev)
        (hcode : ∀ e x, cvtElem s src dst m e x = code e x) : cvt dst b code := by
      subst hb
      exact ⟨cvtWord s src d a dst part m, (cvtList s src d a dst part m).filterMap Prod.snd,
        fun i hi => ⟨fun he hon => (cvtWord_on hi he hon).trans (by rw [hcode]; rfl), cvtWord_off hi, cvtWord_past hi⟩,
        fun also hsome hnone => vCvt_runs ht (fun h => hsome ((cvtMerges_iff hvalid).1 h))
          fun h => hnone (mt (cvtMerges_iff hvalid).2 h)⟩
    exact ⟨hcvt (.ty t) (8 * t.width) rfl _ fun e x => rfl, hcvt .mx8 8 rfl _ (cvtElem_mx8 s src m),
      hcvt .mx4 4 rfl _ (cvtElem_mx4 s src m)⟩
  case scale =>
    rw [scaleWord_field hb]
    simp only [scaleBlock, Bool.and_eq_true, decide_eq_true_eq]
    rfl

end Sys2Proof.Machine
end

section
/-! PROOFS. The element-wise syllables (spec/07 R122, R124 to R126, R128): the shape they share, min and max of each
kind of type, and from these the statements O33 and O34. -/

namespace Sys2Proof.Machine

section

variable {s : State} {t : EType} {m : VMod} {d : VReg} {i : Instr}

/-- A masked element-wise syllable runs to its masked result when SHAPE is of its type (R121). -/
theorem runsTo_vElem {k n : Nat} {srcs : List Reg} {f g : Nat → Nat × Ev} (ht : shapeTrap s t.width = none)
    (hi : exec i s = vElem t k m d srcs f s) (hk : k = n) (hf : ∀ e, f e = g e) :
    RunsTo i s (srcs ++ [.m m.mask]) [.v d] (velem s .vector t.width n m d g) (mergeRead s t.width m d) := by
  obtain rfl : f = g := funext hf
  subst hk
  exact runsTo_issue hi rfl (by rw [ht]; rfl) rfl rfl

theorem vLat_int (h : t.isInt = true) : vLat t = 2 := if_pos h

theorem vLat_float (h : t.isInt = false) : vLat t = 4 := by simp [vLat, h]

/-! Min and max (R124, R125). -/

variable {x y : Nat}

theorem pick_min_int (h : t.isInt = true) : pick t false x y = (if t.int y < t.int x then y else x, .none) := by
  simp [pick, below, bare, h]

theorem pick_max_int (h : t.isInt = true) : pick t true x y = (if t.int x < t.int y then y else x, .none) := by
  simp [pick, below, bare, h]

theorem pick_nan {max : Bool} (h : t.isInt = false) (hn : (t.val x).isNan = true ∨ (t.val y).isNan = true) :
    (pick t max x y).1 = t.ffmt.qnan := by
  have hany : (!t.isInt && ((t.val x).isNan || (t.val y).isNan)) = true := by simp [h, hn]
  rw [pick, if_pos hany]
  rfl

theorem absElem_int {sat : Bool} (h : t.isInt = true) : absElem t sat x = t.narrow sat (t.int x).natAbs := if_pos h

theorem negElem_int {sat : Bool} (h : t.isInt = true) : negElem t sat x = t.narrow sat (-t.int x) := if_pos h

end

/-- Settles O33, entry by entry. -/
theorem vectorArithmetic : Obligations.VectorArithmetic := by
  intro s t d a b c sb m ht w k x y z num exact' run
  refine ⟨runsTo_vElem ht (exec_vAdd ..) rfl fun _ => rfl, runsTo_vElem ht (exec_vSub ..) rfl fun _ => rfl,
    runsTo_vElem ht (exec_vMul ..) rfl fun _ => rfl, runsTo_vElem ht (exec_vMulh ..) rfl fun _ => rfl,
    runsTo_vElem ht (exec_vFma ..) rfl fun _ => rfl, runsTo_vElem ht (exec_vFms ..) rfl fun _ => rfl,
    runsTo_vElem ht (exec_vFnma ..) rfl fun _ => rfl, fun hint => ?int, fun hfloat => ?float,
    runsTo_vElem ht (exec_vClamp ..) rfl fun _ => rfl, runsTo_vElem ht (exec_vPopc ..) rfl fun _ => rfl,
    runsTo_vElem ht (exec_vClz ..) rfl fun _ => rfl, runsTo_vElem ht (exec_vRound ..) rfl fun _ => rfl,
    runsTo_vElem ht (exec_vScale ..) rfl fun _ => ?scale, runsTo_vElem ht (exec_vAvg ..) rfl fun _ => rfl,
    runsTo_vElem ht (exec_vAbd ..) rfl fun _ => rfl⟩
  case int =>
    exact ⟨runsTo_vElem ht (exec_vMin ..) (vLat_int hint) fun _ => pick_min_int hint,
      runsTo_vElem ht (exec_vMax ..) (vLat_int hint) fun _ => pick_max_int hint,
      runsTo_vElem ht (exec_vAbs ..) (vLat_int hint) fun _ => absElem_int hint,
      runsTo_vElem ht (exec_vNeg ..) (vLat_int hint) fun _ => negElem_int hint⟩
  case float =>
    exact ⟨runsTo_vElem ht (exec_vMin ..) (vLat_float hfloat) fun _ => rfl,
      runsTo_vElem ht (exec_vMax ..) (vLat_float hfloat) fun _ => rfl,
      fun _ _ hnan => ⟨pick_nan hfloat hnan, pick_nan hfloat hnan⟩,
      runsTo_vElem ht (exec_vAbs ..) (vLat_float hfloat) fun _ => rfl,
      runsTo_vElem ht (exec_vNeg ..) (vLat_float hfloat) fun _ => rfl⟩
  case scale =>
    rw [clampI_eq (by decide)]

/-- An element by a signed index: 0 outside the tile (R128). -/
theorem tileElem_eq (s : State) (w : Nat) (r : VReg) (q : Int) :
    tileElem s w r q = if 0 ≤ q ∧ q < shCount s then elem (regV s r) w q.toNat else 0 := by
  simp only [tileElem, Bool.and_eq_true, decide_eq_true_eq]

/-- Settles O34, entry by entry. -/
theorem vectorBitsAndMoves : Obligations.VectorBitsAndMoves := by
  intro s t d a b q c sb m step h ht w n x y z pair at' run
  have hat (r : VReg) (j : Int) : bare (tileElem s w r j) = (at' r j, .none) := by rw [tileElem_eq, bare]
  have hzip (e : Nat) : h.toNat * ((n + 1) / 2) + e / 2 = (if h then (n + 1) / 2 else 0) + e / 2 := by
    cases h <;> simp
  exact ⟨runsTo_vElem ht (exec_vAnd ..) rfl fun _ => rfl, runsTo_vElem ht (exec_vOr ..) rfl fun _ => rfl,
    runsTo_vElem ht (exec_vXor ..) rfl fun _ => rfl, runsTo_vElem ht (exec_vNot ..) rfl fun _ => rfl,
    runsTo_vElem ht (exec_vShl ..) rfl fun _ => rfl, runsTo_vElem ht (exec_vShr ..) rfl fun _ => rfl,
    runsTo_vElem ht (exec_vSar ..) rfl fun _ => rfl, runsTo_vElem ht (exec_vFshl ..) rfl fun _ => rfl,
    runsTo_vElem ht (exec_vFshr ..) rfl fun _ => rfl, runsTo_vElem ht (exec_vMov ..) rfl fun _ => rfl,
    runsTo_vElem ht (exec_vBcast ..) rfl fun _ => rfl, runsTo_vElem ht (exec_vIota ..) rfl fun _ => rfl,
    runsTo_vElem ht (exec_vPerm ..) rfl fun _ => hat .., runsTo_vElem ht (exec_vSlide ..) rfl fun _ => hat ..,
    runsTo_vElem ht (exec_vZip ..) rfl fun e => by
      simp only [← hzip, beq_iff_eq]
      exact hat ..⟩

end Sys2Proof.Machine
end

section
/-! PROOFS. The sustained account of a matrix command (spec/03 R39; spec/08 R154): what an X.MMA that its checks and the
queues let pass makes of the state, and from it the refutation of O47. -/

namespace Sys2Proof.Machine

/-- A matrix command that is not held enters when its request passes its checks and neither the queue, its entries nor
the scoreboard holds it back (R147, R152, R207). -/
theorem matSyl_runs {s : State} {i : Instr} {tids : List TId} {k : Nat} {req : Except Trap MatReq} {r : MatReq}
    {more : State → State} (hi : exec i s = matSyl tids k req none more s) (hreq : req = .ok r)
    (hlate : ∀ x ∈ tids, entryLate s x = false) (hclash : heldClash s.core r.banks r.foots = false)
    (hfull : matqFull s.core = none) (hboard : boardStall s.core r.foots = none) :
    RunsTo i s [] [] fun u => more (enterMat k none r u) := by
  subst hreq
  have hentry : entryStall s tids = none := by
    have hany : tids.any (entryLate s) = false := List.any_eq_false.2 fun x hx => by simp [hlate x hx]
    rw [entryStall, hany]
    rfl
  unfold matSyl at hi
  refine runsTo_issue hi rfl ?trap rfl ?stall
  case trap => simp [hclash]
  case stall => simp [hfull, hentry, hboard]

theorem exec_xMma_eq {s : State} {t : AReg} {ta tb : TId} : exec (.xMma t ta tb) s =
    matSyl [ta, tb] t.val (mmaReq s true t ta tb) none
      (fun u => u.upCore fun c => { c with occ := addAccount (account s s.core.arch.mg[0]) c.occ }) s := rfl

/-- The core after reset, with its identifier 0 naming a planar tensor of no rows, 8 planes and no aperture. -/
def planarReset : State := { State.reset with core := { State.reset.core with spad := [(9, 8), (11, 0xFF)] } }

/-- The entry of that identifier. -/
def planarEntry : Tensor := { Tensor.none with planes := 8, aper := 0xFF }

/-- Its multiplication by itself, as the queue takes it. -/
def planarReq : MatReq := ⟨.mma true planarEntry planarEntry 0 0 0, 0, []⟩

theorem planarReset_entry : entryLate planarReset 0 = false := by decide +kernel

theorem planarReset_req : mmaReq planarReset true 0 0 0 = .ok planarReq := rfl

theorem planarReset_fits : heldClash planarReset.core planarReq.banks planarReq.foots = false ∧
    matqFull planarReset.core = none ∧ boardStall planarReset.core planarReq.foots = none := ⟨rfl, rfl, rfl⟩

/-- No account runs on it, so that the account of its X.MMA counts 3 bundles: the 2·pa·pb of R39, which begin with the
bundle after the one that issues, and that one. -/
theorem planarReset_xMma : ∃ u : State, exec (.xMma 0 0 0) planarReset = .next u ∧ u.core.occ = [(3, 2)] := by
  obtain ⟨hclash, hfull, hboard⟩ := planarReset_fits
  have hlate : ∀ x ∈ [(0 : TId), 0], entryLate planarReset x = false := by simp [planarReset_entry]
  have hruns := matSyl_runs exec_xMma_eq planarReset_req hlate hclash hfull hboard (runs_nil _)
  exact ⟨_, hruns, rfl⟩

/-- Refutes O47: the statement has X.MMA append its account of R39 as it is, 2 bundles for single planes, where the
state after reset with one tensor in the scratchpad takes one of 3, as the account begins with the bundle after the one
that issues. -/
theorem not_matrixCommandsAndPorts : ¬ Obligations.MatrixCommandsAndPorts := by
  unfold Obligations.MatrixCommandsAndPorts
  intro h
  obtain ⟨hsyllables, -⟩ := h
  obtain ⟨hcommands, -⟩ := hsyllables
  obtain ⟨hmma, -⟩ := hcommands planarReset 0 0 0 0 0 true 0 0 0 Tensor.none
  obtain ⟨hclash, hroom⟩ := planarReset_fits
  obtain ⟨henters, -⟩ := hmma true (by simp [planarReset_entry])
  obtain ⟨u, hu, hocc⟩ := planarReset_xMma
  have hstated := (henters planarReq planarReset_req ⟨hclash, hroom⟩ (runs_nil _)).symm.trans hu
  cases hstated
  exact absurd hocc (by decide)

end Sys2Proof.Machine
end

section
/-! PROOFS. The end of a matrix command (spec/08 R144, R151, R154, R155): the bytes of a tile of words, the step of
R144 with SCM 0 word by word, the head of the queue, and from these the statement O48. -/

namespace Sys2Proof.Machine

/-! A tile of words (R140). -/

/-- Byte a' of bytes listed from address a up. -/
theorem memGet_cellsOf (a a' : Nat) (l : List Byte) :
    memGet (cellsOf a l) a' = if a ≤ a' then (l[a' - a]?).getD 0 else 0 := by
  induction l generalizing a with
  | nil => simp [cellsOf, memGet]
  | cons b t ih =>
    by_cases hzero : b = 0
    · grind [cellsOf]
    · grind [cellsOf, memGet]

theorem Store.get_ofBytes (l : List Byte) (a : Nat) : (Store.ofBytes l).get a = (l[a]?).getD 0 := by
  rw [Store.get_eq, Store.ofBytes, Store.bare, cellGet_getD_zero, memGet_cellsOf]
  simp

/-- In a list made of pieces of c members each, member k of piece i. -/
theorem getElem?_flatMap_pieces {α β : Type} {f : α → List β} {c : Nat} (hlen : ∀ x, (f x).length = c) (l : List α)
    (i : Nat) {k : Nat} (hk : k < c) : (l.flatMap f)[c * i + k]? = (l[i]?).bind fun x => (f x)[k]? := by
  induction l generalizing i with
  | nil => simp
  | cons x t ih =>
    rw [List.flatMap_cons]
    cases i with
    | zero =>
      have hfirst : c * 0 + k < (f x).length := by rw [hlen]; omega
      rw [List.getElem?_append_left hfirst]
      simp
    | succ i =>
      have hlater : c * (i + 1) + k = (f x).length + (c * i + k) := by rw [hlen, Nat.mul_succ]; omega
      rw [hlater, List.getElem?_append_right (by omega), Nat.add_sub_cancel_left, ih, List.getElem?_cons_succ]

/-- Word i of a tile made of words. -/
theorem tileOf_word {l : List Nat} {i w : Nat} (h : l[i]? = some w) :
    natOf ((tileOf l).getN (4 * i) 4) = w % 2 ^ 32 := by
  have hbytes : (tileOf l).getN (4 * i) 4 = bytesOf 4 w := by
    rw [Store.getN_eq]
    refine List.ext_getElem (by simp) fun k hk hk' => ?_
    have hk4 : k < 4 := by simpa using hk
    rw [List.getElem_map, List.getElem_range, tileOf, Store.get_ofBytes,
      getElem?_flatMap_pieces (bytesOf_length 4) l i hk4, h, Option.bind_some, List.getElem?_eq_getElem hk']
    rfl
  exact hbytes ▸ natOf_bytesOf 4 w

/-! The step with SCM 0 (R144). -/

/-- Elements past the K count are 0, so that the sum of products runs over the K count. -/
theorem dotOf_masked (f g : Nat → Int) {n kc : Nat} (h : kc ≤ n) :
    dotOf ((List.range n).map fun k => if kc ≤ k then 0 else f k)
        ((List.range n).map fun k => if kc ≤ k then 0 else g k) =
      ((List.range kc).map fun k => f k * g k).sum := by
  obtain ⟨d, rfl⟩ := Nat.exists_eq_add_of_le h
  have hlow : ((List.range kc).map fun k => (if kc ≤ k then 0 else f k) * if kc ≤ k then 0 else g k) =
      (List.range kc).map fun k => f k * g k :=
    List.map_congr_left fun k hk => by simp [Nat.not_le.2 (List.mem_range.1 hk)]
  rw [dotOf, List.zip_map', List.map_map, ← List.sum_eq_foldl, List.range_add, List.map_append, List.sum_append]
  simp only [Function.comp_def, hlow, List.map_map]
  simp

section

variable (mem : List Host.Cell) (fresh : Bool) (a b : Tensor) (mg0 mg1 mg2 : Word) (st : Store) (i j : Nat)

/-- The word that a step finds (R144). -/
def mmaOld : Nat := if fresh then 0 else nth (tileWords st) (128 * i + j) 0

/-- Element (row, k) of operand A, counted from AROW0 and K0 (R142, R143). -/
def mmaElemA (k : Nat) : Int :=
  opnd mem a (mgARow mg2 + i) (mgK0 mg1 + k) (mgPlanes mg0 false) (mgSigned mg0 false)

/-- Element (row, k) of operand B, counted from BROW0 and K0 (R142, R143, R146). -/
def mmaElemB (k : Nat) : Int :=
  if mgCoset mg0 then cosetOpnd mem b (mgBRow mg2 + j) (mgK0 mg1 + k)
  else opnd mem b (mgBRow mg2 + j) (mgK0 mg1 + k) (mgPlanes mg0 true) (mgSigned mg0 true)

/-- The size of the blocks of a step's dot products. -/
def mmaBlock : Nat := if mgScm mg0 == 3 then dotBlock a b else 32

/-- Row i of operand A as a step reads it. -/
def mmaRowA : OpRow := opRow mem a (mgARow mg2 + i) (mgPlanes mg0 false) (mgSigned mg0 false) false (mgScm mg0)
  (mmaBlock a b mg0) (mgK0 mg1) (mgCount mg0)

/-- Row j of operand B as a step reads it. -/
def mmaRowB : OpRow := opRow mem b (mgBRow mg2 + j) (mgPlanes mg0 true) (mgSigned mg0 true) (mgCoset mg0) (mgScm mg0)
  (mmaBlock a b mg0) (mgK0 mg1) (mgCount mg0)

/-- Word (i, j) after a step, with ACCSAT and SCALENAN. -/
def mmaCell : Nat × Bool × Bool :=
  let was := ((if fresh then [] else tileWords st).drop (128 * i)).take 128
  match ((List.range (rowsFrom a.rows (mgARow mg2))).map (mmaRowA mem a b mg0 mg1 mg2))[i]?,
    ((List.range (rowsFrom b.rows (mgBRow mg2))).map (mmaRowB mem a b mg0 mg1 mg2))[j]? with
  | some p, some q => mmaWord (mgScm mg0) (mmaBlock a b mg0) (mgCoset mg0) p q (nth was j 0)
  | _, _ => (nth was j 0, false, false)

/-- The words of a step in order. -/
def mmaCells : List (Nat × Bool × Bool) := (List.range 128).flatMap fun i =>
  (List.range 128).map (mmaCell mem fresh a b mg0 mg1 mg2 st i)

theorem mmaStep_eq : mmaStep mem fresh a b mg0 mg1 mg2 st =
    ((mmaCells mem fresh a b mg0 mg1 mg2 st).map Prod.fst,
      countIf (fun w => w.2.1) (mmaCells mem fresh a b mg0 mg1 mg2 st),
      countIf (fun w => w.2.2) (mmaCells mem fresh a b mg0 mg1 mg2 st)) := rfl

variable {mem fresh a b mg0 mg1 mg2 st i j}

theorem mmaStep_word (hi : i < 128) (hj : j < 128) : (mmaStep mem fresh a b mg0 mg1 mg2 st).1[128 * i + j]? =
    some (mmaCell mem fresh a b mg0 mg1 mg2 st i j).1 := by
  rw [mmaStep_eq, List.getElem?_map, mmaCells, getElem?_flatMap_pieces (fun _ => by simp) _ i hj]
  simp [hi, hj]

theorem mmaOld_eq (hj : j < 128) :
    nth (((if fresh then [] else tileWords st).drop (128 * i)).take 128) j 0 = mmaOld fresh st i j := by
  rw [nth, List.getElem?_take_of_lt hj, List.getElem?_drop, mmaOld]
  cases fresh <;> rfl

theorem mgCount_le (mg0 : Word) : mgCount mg0 ≤ 64 := by
  have hlt : wbits mg0 21 16 < 2 ^ 6 := wbits_lt mg0
  exact hlt

theorem mmaRowA_xs : (mmaRowA mem a b mg0 mg1 mg2 i).xs =
    (List.range 64).map fun k => if mgCount mg0 ≤ k then 0 else mmaElemA mem a mg0 mg1 mg2 i k := rfl

theorem mmaRowB_xs : (mmaRowB mem a b mg0 mg1 mg2 j).xs =
    (List.range 64).map fun k => if mgCount mg0 ≤ k then 0 else mmaElemB mem b mg0 mg1 mg2 j k := rfl

theorem dotOf_mmaRows : dotOf (mmaRowA mem a b mg0 mg1 mg2 i).xs (mmaRowB mem a b mg0 mg1 mg2 j).xs =
    ((List.range (mgCount mg0)).map fun k => mmaElemA mem a mg0 mg1 mg2 i k * mmaElemB mem b mg0 mg1 mg2 j k).sum := by
  rw [mmaRowA_xs, mmaRowB_xs, dotOf_masked _ _ (mgCount_le mg0)]

/-- With SCM 0 a word inside the operands' rows is the wrapped sum of the word before and the products, one outside
them the word before; neither is an event (R144). -/
theorem mmaCell_int (hscm : mgScm mg0 = 0) (hj : j < 128) : mmaCell mem fresh a b mg0 mg1 mg2 st i j =
    (if i < rowsFrom a.rows (mgARow mg2) ∧ j < rowsFrom b.rows (mgBRow mg2) then
      truncI (mmaOld fresh st i j + ((List.range (mgCount mg0)).map fun k =>
        mmaElemA mem a mg0 mg1 mg2 i k * mmaElemB mem b mg0 mg1 mg2 j k).sum) 32
     else mmaOld fresh st i j, false, false) := by
  simp only [mmaCell, mmaOld_eq hj]
  by_cases hA : i < rowsFrom a.rows (mgARow mg2)
  · by_cases hB : j < rowsFrom b.rows (mgBRow mg2)
    · simp [hA, hB, mmaWord, hscm, dotOf_mmaRows]
    · simp [hA, hB]
  · simp [hA]

theorem mmaStep_noEvents (hscm : mgScm mg0 = 0) : (mmaStep mem fresh a b mg0 mg1 mg2 st).2 = (0, 0) := by
  have hnone : ∀ w ∈ mmaCells mem fresh a b mg0 mg1 mg2 st, w.2 = (false, false) := by
    intro w hw
    obtain ⟨i, -, hline⟩ := List.mem_flatMap.1 hw
    obtain ⟨j, hj, rfl⟩ := List.mem_map.1 hline
    rw [mmaCell_int hscm (List.mem_range.1 hj)]
  have hcount (p : Nat × Bool × Bool → Bool) (hp : ∀ w, w.2 = (false, false) → p w = false) :
      countIf p (mmaCells mem fresh a b mg0 mg1 mg2 st) = 0 := by
    rw [countIf, List.length_eq_zero_iff, List.filter_eq_nil_iff]
    exact fun w hw => by simp [hp w (hnone w hw)]
  rw [mmaStep_eq, hcount _ fun w hw => by rw [hw], hcount _ fun w hw => by rw [hw]]

/-- Word (i, j) of the tile that a step with SCM 0 makes. -/
theorem mmaStep_tile (hscm : mgScm mg0 = 0) (hi : i < 128) (hj : j < 128) :
    natOf ((tileOf (mmaStep mem fresh a b mg0 mg1 mg2 st).1).getN (4 * (128 * i + j)) 4) =
      if i < rowsFrom a.rows (mgARow mg2) ∧ j < rowsFrom b.rows (mgBRow mg2) then
        truncI (mmaOld fresh st i j + ((List.range (mgCount mg0)).map fun k =>
          mmaElemA mem a mg0 mg1 mg2 i k * mmaElemB mem b mg0 mg1 mg2 j k).sum) 32
      else mmaOld fresh st i j % 2 ^ 32 := by
  rw [tileOf_word (mmaStep_word hi hj), mmaCell_int hscm hj]
  split_ifs
  · refine Nat.mod_eq_of_lt ?_
    rw [truncI]
    omega
  · rfl

end

/-! The head of the queue (R148, R151, R155). -/

section

variable {s : State} {m : MatCmd} (hhead : matHead s.core = some m)

include hhead

theorem matrixStart_runs (hmode : ∀ x, m.op ≠ .mode x) (hmay : mayStart s m = true) : exec .matrixCommandStart s =
    .next (landTiles m.banks (s.upCore (upMat m.serial fun x =>
      { x with running := true, mirrored := mirrors s.core m.op }))) := by
  rw [exec_matrixCommandStart, execMatrixCommandStart, hhead]
  cases hop : m.op with
  | mode x => exact absurd hop (hmode x)
  | _ => simp [hop, hmay]

theorem matrixStart_waits (hmay : mayStart s m = false) : exec .matrixCommandStart s = .next s := by
  rw [exec_matrixCommandStart, execMatrixCommandStart, hhead]
  cases hop : m.op <;> simp [hop, hmay]

theorem modeSwitch_eq {alt8 : Bool} (hop : m.op = .mode alt8) : exec .modeSwitch s =
    .next (if unfinished m.serial s.core || (partner s).any (unfinished m.serial) then s
      else (s.upEngine fun e => { e with mode := if alt8 then 1 else 0 }).upCore (dropMat m.serial)) := by
  rw [exec_modeSwitch, execModeSwitch, hhead]
  simp only [hop]

section

variable (hrun : m.running = true) (hpark : m.parked = none)

include hrun hpark

/-- A mirrored command whose two results differ traps (R151). -/
theorem matrixFinish_mismatch (hmirror : m.mirrored = true) :
    exec (.matrixCommandFinish true) s = .next (takeTrap { cause := .mirror, arg := m.tile } m.ba s) := by
  simp [execMatrixCommandFinish, hhead, hrun, hpark, hmirror]

/-- What a command other than X.ASAVE does when no mirror compare fails: its data's trap, or its effect. -/
theorem matrixFinish_eq (hsave : ∀ t tag a b, m.op ≠ .asave t tag a b) : exec (.matrixCommandFinish false) s =
    .next ((matUecc s.core m (tilesRead s m)).elim (finishMat m s) fun e => takeTrap e m.ba s) := by
  rw [exec_matrixCommandFinish, execMatrixCommandFinish, hhead]
  cases hop : m.op with
  | asave t tag a b => exact absurd hop (hsave t tag a b)
  | _ =>
    simp only [hrun, hpark, Bool.and_false]
    cases matUecc s.core m (tilesRead s m) <;> rfl

end

end

theorem unfinished_iff (n : Nat) (c : Core) : unfinished n c = true ↔
    (∃ x ∈ c.matq, x.serial < n) ∨ ∃ x ∈ c.dq, x.op.isPp = true ∧ x.serial < n := by
  simp [unfinished]

theorem partner_unfinished_iff (s : State) (n : Nat) : (partner s).any (unfinished n) = true ↔
    ∃ c, partner s = some c ∧ unfinished n c = true := by
  cases partner s <;> simp

/-- The end of an X.MMA or X.MMAC with SCM 0: INT32 words and no event (R144, R154). -/
theorem finishMat_mma_int {s : State} {m : MatCmd} {fresh : Bool} {a b : Tensor} {mg0 mg1 mg2 : Word}
    (hop : m.op = .mma fresh a b mg0 mg1 mg2) (hscm : mgScm mg0 = 0) : finishMat m s =
      (putBank m (if fresh then false else vget (engineOf s).fp m.bank false)
        (tileOf (mmaStep (m.snap.under s.core.spad) fresh a b mg0 mg1 mg2
          (vget (engineOf s).banks m.bank .zero)).1)
        (s.upCore (dropMat m.serial))).upCore fun c =>
          statNow .matrix m.ba [(6, 0), (7, 0)] { c with xdone := c.xdone + 1 } := by
  simp only [finishMat, hop, mmaStep_noEvents hscm, hscm]
  rfl

/-- Settles O48: the head of the queue starts or waits; the mode switch waits for what either core has issued before;
the running command traps, or ends with its effect. -/
theorem matrixResults : Obligations.MatrixResults := by
  intro s m hhead gone
  refine ⟨matrixStart_runs hhead, matrixStart_waits hhead, fun alt8 hop => ?switch, fun hrun hpark =>
    ⟨matrixFinish_mismatch hhead hrun hpark,
      fun hsave e hbad => (matrixFinish_eq hhead hrun hpark hsave).trans (by rw [hbad]; rfl), fun hgood => ?effect⟩⟩
  case switch =>
    intro earlier
    have hwaits : (unfinished m.serial s.core || (partner s).any (unfinished m.serial)) = true ↔
        earlier s.core ∨ ∃ c, partner s = some c ∧ earlier c := by
      simp only [Bool.or_eq_true, partner_unfinished_iff, unfinished_iff, earlier]
    rw [modeSwitch_eq hhead hop]
    refine ⟨fun h => by rw [if_pos (hwaits.2 h)], fun hown hother => ?_⟩
    have hnone : ¬(earlier s.core ∨ ∃ c, partner s = some c ∧ earlier c) :=
      not_or.2 ⟨hown, fun ⟨c, hc, h⟩ => hother c hc h⟩
    rw [if_neg (mt hwaits.1 hnone)]
  case effect =>
    have hend (hsave : ∀ t tag a b, m.op ≠ .asave t tag a b) :
        exec (.matrixCommandFinish false) s = .next (finishMat m s) :=
      (matrixFinish_eq hhead hrun hpark hsave).trans (by rw [hgood]; rfl)
    refine ⟨fun f hop => ?aclr, fun b hop => ?amov, fun off hop => ?mirr, fun fresh a b mg0 mg1 mg2 hop hscm =>
      ⟨_, [(6, 0), (7, 0)], fun i j => mmaStep_tile hscm, by simp, (hend (by simp [hop])).trans ?mma⟩⟩
    case mma =>
      rw [finishMat_mma_int hop hscm]
      rfl
    all_goals
      rw [hend (by simp [hop])]
      simp only [finishMat, hop]
      rfl

end Sys2Proof.Machine
end

section
/-! PROOFS. The post-processing syllables and the engine's turns (spec/08 R147, R152, R156 to R159): what each syllable
enters or meets, what D.PPCFG leaves, and from these the statement O49. -/

namespace Sys2Proof.Machine

section

variable {s : State} {i : Instr} {cmp : Bool} {t : AReg} {ta tb : TId} {tag : Tag} {fn : PpFn}

theorem exec_pp_eq : exec (if cmp then .dPpcmp t ta tb tag fn else .dPp t ta tb tag fn) s =
    ppSyl cmp t ta tb tag fn s := by
  cases cmp <;> rfl

/-- The limit on engine commands lets a command below 64 pass (R226). -/
theorem cmdLimit_none {c : Core} (h : c.seg.cmds < 64) : cmdLimit c = none := if_neg (Nat.not_le.2 h)

variable (hi : exec i s = ppSyl cmp t ta tb tag fn s)

include hi

/-- A post-processing command enters when its request passes its checks and neither the queue, its entries, the
scoreboard nor the limit holds it back (R147, R152, R207, R226). -/
theorem ppSyl_runs {op : DOp} {l : List Foot} (hreq : ppReq s cmp t ta tb fn = .ok (op, l))
    (hta : entryLate s ta = false) (htb : fn.sbias = true → entryLate s tb = false) (hfull : dqFull s.core = none)
    (hboard : boardStall s.core l = none) (hcmds : s.core.seg.cmds < 64) :
    RunsTo i s [] [] fun u => (enterD op (some tag) l u).upCore countCmd := by
  have hentry : entryStall s (if fn.sbias then [ta, tb] else [ta]) = none := by
    cases hs : fn.sbias with
    | false => simp [entryStall, hta]
    | true => simp [entryStall, hta, htb hs]
  simp only [ppSyl, hreq] at hi
  exact runsTo_issue hi rfl rfl (cmdLimit_none hcmds) (by simp [hfull, hentry, hboard])

/-- What the checks of a post-processing command find is its bundle's trap (R157). -/
theorem ppSyl_traps {e : Trap} (hreq : ppReq s cmp t ta tb fn = .error e) (hruns : Runs s [] []) :
    exec i s = .next (trapHere e s) := by
  rw [hi, ppSyl, hreq]
  exact issue_traps hruns rfl rfl

/-- One engine command too many traps (R226). -/
theorem ppSyl_limit {r : DOp × List Foot} (hreq : ppReq s cmp t ta tb fn = .ok r) (hcmds : 64 ≤ s.core.seg.cmds)
    (hruns : Runs s [] []) : exec i s = .next (trapHere { cause := .segment, detail := 3 } s) := by
  rw [hi, ppSyl, hreq]
  exact issue_limit hruns rfl rfl (if_pos hcmds)

end

theorem dPpcfg_runs {s : State} (a : VReg) (hfull : dqFull s.core = none) (hcmds : s.core.seg.cmds < 64) :
    RunsTo (.dPpcfg a) s [.v a] [] fun u => (enterD (.ppcfg (regV s a)) none [] u).upCore countCmd :=
  runsTo_issue (exec_dPpcfg ..) rfl rfl (cmdLimit_none hcmds) hfull

theorem dPpact_runs (s : State) (d : SReg) : RunsTo (.dPpact d) s [] [.s d] (wrS d 1 (ppactWord s.core)) :=
  runsTo_issue (exec_dPpact ..) rfl rfl rfl rfl

section

variable {s : State}

theorem postprocComplete_none (h : ppReady s s.core = none) : exec .postprocComplete s = .next s := by
  rw [exec_postprocComplete, execPostprocComplete, h]

theorem postprocComplete_ready {m : DCmd} (h : ppReady s s.core = some m) : exec .postprocComplete s =
    .next (if ppTurn s then (waitHead (runPp m s)).upEngine fun e => { e with ppNext := !sideB s.core } else s) := by
  rw [exec_postprocComplete, execPostprocComplete, h]

/-- The end of a command of the D queue moves the queue and its tag alone (R203). -/
theorem endD_frame (m : DCmd) (err : Option Trap) (ids : List Nat) (c : Core) :
    (endD m err ids c).arch = c.arch ∧ (endD m err ids c).ck = c.ck ∧ (endD m err ids c).spad = c.spad := by
  unfold endD
  cases m.tag <;> exact ⟨rfl, rfl, rfl⟩

/-- D.PPCFG's bytes are the post-processing table, in the segment and its checkpoint (R159). -/
theorem runPp_ppcfg {m : DCmd} {x : VWord} (hop : m.op = .ppcfg x) : runPp m s = s.upCore fun c => endD m none []
    { c with
      arch := { c.arch with pptable := .ofBytes (toBytes x) }, ck := { c.ck with pptable := .ofBytes (toBytes x) } } := by
  simp only [runPp, hop]

end

/-- Settles O49: the syllables one by one, the queue after an entry, and the engine's turn. -/
theorem postprocessing : Obligations.Postprocessing := by
  intro s t ta tb tag fn a d room counted
  refine ⟨fun cmp hta htb => ⟨fun op l hreq hroom => ?enters, fun e => ppSyl_traps exec_pp_eq,
      fun op l => ppSyl_limit exec_pp_eq⟩, fun hroom => ?config, dPpact_runs s d,
    fun op l u => ⟨_, rfl, rfl, rfl, rfl, rfl, rfl⟩, postprocComplete_none, fun m hready => ?turn⟩
  case enters =>
    obtain ⟨hfull, hboard, hcmds⟩ := hroom
    exact ppSyl_runs exec_pp_eq hreq hta htb hfull hboard hcmds
  case config =>
    obtain ⟨hfull, -, hcmds⟩ := hroom
    exact dPpcfg_runs a hfull hcmds
  case turn =>
    rw [postprocComplete_ready hready]
    refine ⟨fun hturn => by simp [hturn], fun hturn => ⟨by simp [hturn], fun x hop => ?table⟩⟩
    rw [runPp_ppcfg hop]
    exact ⟨_, rfl, endD_frame ..⟩

end Sys2Proof.Machine
end

section
/-! PROOFS. Tables, quotients, roots and transcendental functions (spec/09 R162, R164, R165, R167, R168): the integer
square root by its bits, the root and the exact powers and logarithms, the table's syllables, and from these the
statement O38. -/

namespace Sys2Proof.Machine

/-! Roots (R167). -/

/-- A root found by its bits from k − 1 down, of which those above are r: it is the greatest whose square is at most
n. -/
theorem isqrtFrom_bounds {n k r : Nat} (hlow : r * r ≤ n) (hhigh : n < (r + 2 ^ k) * (r + 2 ^ k)) :
    isqrtFrom n k r * isqrtFrom n k r ≤ n ∧ n < (isqrtFrom n k r + 1) * (isqrtFrom n k r + 1) := by
  induction k generalizing r with
  | zero => exact ⟨hlow, hhigh⟩
  | succ k ih =>
    rw [isqrtFrom]
    split_ifs with hbit
    · refine ih hbit ?_
      rwa [Nat.add_assoc, ← Nat.two_mul, ← Nat.pow_succ']
    · exact ih hlow (Nat.not_le.1 hbit)

theorem isqrt_bounds (n : Nat) : isqrt n * isqrt n ≤ n ∧ n < (isqrt n + 1) * (isqrt n + 1) := by
  refine isqrtFrom_bounds (Nat.zero_le n) ?_
  rw [Nat.zero_add, ← Nat.pow_add]
  calc n < 2 ^ (n.log2 + 1) := Nat.lt_log2_self
    _ ≤ 2 ^ (n.log2 / 2 + 1 + (n.log2 / 2 + 1)) := Nat.pow_le_pow_right (by decide) (by omega)

/-- The bits by which F.SQRT widens a magnitude: at least 120, and with the exponent an even number. -/
def sqrtShift (e : Int) : Nat := 120 + (e % 2).toNat

theorem fSqrtOf_pos {m : Nat} (e : Int) (hm : m ≠ 0) : fSqrtOf (.fin false m e) =
    .num false (isqrt (m * 2 ^ sqrtShift e)) ((e - sqrtShift e) / 2)
      (isqrt (m * 2 ^ sqrtShift e) * isqrt (m * 2 ^ sqrtShift e) != m * 2 ^ sqrtShift e) := by
  simp [fSqrtOf, hm, sqrtShift]

/-! Quotients (R167). -/

theorem fDivide_fin (n1 n2 : Bool) (m1 : Nat) {m2 : Nat} (e1 e2 : Int) (hm : m2 ≠ 0) :
    fDivide (.fin n1 m1 e1) (.fin n2 m2 e2) = .num (n1 != n2) (m1 * 2 ^ (70 + m2.log2) / m2)
      (e1 - e2 - (70 + m2.log2 : Nat)) (m1 * 2 ^ (70 + m2.log2) % m2 != 0) := by
  simp [fDivide, FVal.isNan, hm]

/-- A quotient cut below its last bit is exact where no remainder is left. -/
theorem mod_ne_zero_iff_div_mul_ne (x y : Nat) : x % y ≠ 0 ↔ x / y * y ≠ x :=
  not_congr (Nat.dvd_iff_mod_eq_zero.symm.trans (Nat.dvd_iff_div_mul_eq ..))

/-! Exact powers and logarithms of two (R167). -/

section

variable {f : FFmt} {rm : RM} {sat : Bool} {k : Nat}

theorem fExpOf_two_int (hpos : 0 < k) (hlt : k < 2048) :
    fExpOf true f rm sat (.fin false k 0) = f.round rm sat false 1 k := by
  have hbits : k.log2 < 11 := (Nat.log2_lt hpos.ne').2 hlt
  have hsmall : ¬(12 : Int) ≤ k.log2 := by omega
  have hint : roundInt .rtz false k 0 = k := by simp [roundInt, splitAt, roundUp]
  simp [fExpOf, hpos.ne', hint, hsmall]

theorem fLogOf_two_pow : fLogOf true f rm sat (.fin false 1 k) = f.enc rm sat (.num false k 0 false) := by
  have hlog : Nat.log2 1 = 0 := rfl
  have hsign : ¬(k : Int) < 0 := by omega
  simp [fLogOf, hlog, ofInt, hsign]

end

/-! Tables (R164, R165). -/

section

variable {s : State} {t : EType} {d a : VReg} {sb : SReg} {m : VMod} {k : Fin 4}

theorem fTblrd_runs (hecc : ueccWord s.core 6 (1024 * k.val) 1024 = none) :
    RunsTo (.fTblrd d k) s [] [.v d] (wrV d 2 (ofBytes (s.core.arch.tables.getN (1024 * k.val) 1024))) :=
  runsTo_issue (exec_fTblrd ..) rfl hecc rfl rfl

theorem fTblrd_traps {e : Trap} (hecc : ueccWord s.core 6 (1024 * k.val) 1024 = some e) (hruns : Runs s [] [.v d]) :
    exec (.fTblrd d k) s = .next (trapHere e s) :=
  (exec_fTblrd ..).trans (issue_traps hruns rfl hecc)

/-- A table's entries, landed, are the bytes of the table memory from its offset on. -/
theorem landOne_table_tables (s : State) (k : Fin 4) (x : VWord) :
    (landOne s (.table k x)).core.arch.tables = s.core.arch.tables.setN (1024 * k.val) (toBytes x) := by
  rw [landOne_arch, Arch.land]

/-- Element e of F.TBL: interpolated in FP32, then rounded to the type (R165). -/
def tblElem (s : State) (t : EType) (a : VReg) (sb : SReg) (m : VMod) (k : Fin 4) (e : Nat) : Nat × Ev :=
  let r := tblInterp (t.val (opElem s t.width (.v a) e)) (f32.val (wbits (regS s sb) 31 0))
    (f32.val (wbits (regS s sb) 63 32)) (tableEntry s.core.arch.tables (1024 * k.val))
  let y := convert .f32 t m.rm m.sat r.1
  (y.1, r.2.or y.2)

theorem fTbl_runs (hecc : ueccWord s.core 6 (1024 * k.val) 1024 = none) (ht : shapeTrap s t.width = none) :
    RunsTo (.fTbl t d a sb m k) s ([.v a, .s sb] ++ [.m m.mask]) [.v d]
      (velem s .special t.width 6 m d (tblElem s t a sb m k)) (mergeRead s t.width m d) :=
  runsTo_issue (exec_fTbl ..) rfl (by rw [ht]; exact hecc) rfl rfl

end

/-- Settles O38: the tables, the functions syllable by syllable, the quotient, the root, and the exact cases. -/
theorem specialFunctions : Obligations.SpecialFunctions := by
  refine ⟨fun s t d a sb q m k => ?syllables, fun n1 n2 m1 m2 e1 e2 hm => ?quotient, fun m e hm => ?root,
    fun f rm sat k hpos hlt => ⟨fExpOf_two_int hpos hlt, fLogOf_two_pow⟩⟩
  case syllables =>
    intro w f x run entry
    refine ⟨runsTo_issue (exec_fTblwr ..) rfl rfl rfl rfl, landOne_table_tables s k,
      fun hecc => ⟨fTblrd_runs hecc, fTbl_runs hecc⟩, fun e => fTblrd_traps, fun ht => ?_⟩
    exact ⟨runsTo_fElem (exec_fRcp ..) ht, runsTo_fElem (exec_fRsq ..) ht, runsTo_fElem (exec_fSqrt ..) ht,
      runsTo_fElem (exec_fDiv ..) ht, runsTo_fElem (exec_fExp2 ..) ht, runsTo_fElem (exec_fLog2 ..) ht,
      runsTo_fElem (exec_fExp ..) ht, runsTo_fElem (exec_fLog ..) ht⟩
  case quotient =>
    refine ⟨_, _, _, fDivide_fin n1 n2 m1 e1 e2 hm, Nat.div_mul_le_self .., ?_, ?_⟩
    · rw [Nat.mul_comm (_ + 1)]
      exact Nat.lt_mul_div_succ _ (Nat.pos_of_ne_zero hm)
    · rw [bne_iff_ne, mod_ne_zero_iff_div_mul_ne]
  case root =>
    obtain ⟨hlow, hhigh⟩ := isqrt_bounds (m * 2 ^ sqrtShift e)
    refine ⟨_, _, _, _, fSqrtOf_pos e hm, ?_, hlow, hhigh, bne_iff_ne⟩
    simp only [sqrtShift]
    omega

end Sys2Proof.Machine
end

section
/-! PROOFS. The geometric predicates (spec/09 R169 to R175, R384): the lanes with a non-finite coordinate and the trap
of .strict, the determinants written out, the indices of F.GEOIDX, the filling of a record; from these the statement
O39. -/

namespace Sys2Proof.Machine

/-! Non-finite coordinates (R170). -/

section

variable {s : State} {p : GeoPred} {o : GeoOpt} {a : VReg} {m : MReg} {l : Nat}

/-- Every used coordinate of lane l is finite (R170). -/
def laneFinite (s : State) (p : GeoPred) (a : VReg) (l : Nat) : Prop :=
  ∀ j < p.points, ∀ k < p.form.dim, (f32.val (pointWord s (geoReg a j) l k)).isFin = true

theorem badPoint_none_iff {pts : List (List Nat)} :
    badPoint pts = none ↔ ∀ q ∈ pts, ∀ x ∈ q, (f32.val x).isFin = true := by
  rw [badPoint, Option.map_eq_none_iff, List.find?_eq_none]
  simp only [Prod.forall, List.any_eq_true, Bool.not_eq_true', not_exists, not_and, Bool.not_eq_false]
  refine ⟨fun h q hq => ?_, fun h q i hq => h q (List.fst_mem_of_mem_zipIdx hq)⟩
  obtain ⟨i, hi⟩ := List.mem_iff_getElem?.1 hq
  exact h q i (List.mk_mem_zipIdx_iff_getElem?.2 hi)

theorem badPoint_lanePoints_none_iff : badPoint (lanePoints s p a l) = none ↔ laneFinite s p a l := by
  rw [badPoint_none_iff]
  simp [lanePoints, laneFinite]

theorem badPoint_lanePoints_some (h : ¬laneFinite s p a l) : ∃ j, badPoint (lanePoints s p a l) = some j :=
  Option.ne_none_iff_exists'.1 (mt badPoint_lanePoints_none_iff.1 h)

/-- A search of the numbers below n ends at the lowest that answers. -/
theorem findSome?_range_lowest {α : Type} {f : Nat → Option α} {n k : Nat} {x : α} (hk : k < n) (hx : f k = some x)
    (hlow : ∀ j < k, f j = none) : (List.range n).findSome? f = some x := by
  induction n with
  | zero => exact absurd hk (Nat.not_lt_zero k)
  | succ n ih =>
    rw [List.range_succ, List.findSome?_append]
    by_cases hlast : k < n
    · rw [ih hlast, Option.some_or]
    · obtain rfl : k = n := by omega
      have hnone : (List.range k).findSome? f = none :=
        List.findSome?_eq_none_iff.2 fun j hj => hlow j (List.mem_range.1 hj)
      rw [hnone]
      simp [hx]

/-- What .strict finds of one lane. -/
def laneTrap (s : State) (p : GeoPred) (a : VReg) (m : MReg) (l : Nat) : Option Trap :=
  if !lane (regM s m) l then none
  else (badPoint (lanePoints s p a l)).map fun j => { cause := .geoop, arg := l + 2 ^ 8 * (Reg.v (geoReg a j)).num }

theorem geoTrap_eq : geoTrap s p a m = (List.range 64).findSome? (laneTrap s p a m) := rfl

theorem laneTrap_none (h : lane (regM s m) l = true → laneFinite s p a l) : laneTrap s p a m l = none := by
  unfold laneTrap
  split_ifs with hoff
  · rfl
  · rw [badPoint_lanePoints_none_iff.2 (h (by simpa using hoff)), Option.map_none]

theorem geoTrap_none (h : ∀ l < 64, lane (regM s m) l = true → laneFinite s p a l) : geoTrap s p a m = none :=
  geoTrap_eq.trans (List.findSome?_eq_none_iff.2 fun l hl => laneTrap_none (h l (List.mem_range.1 hl)))

/-- GEOOP names the lowest enabled lane with a non-finite used coordinate (R170). -/
theorem geoTrap_lowest (hl : l < 64) (hon : lane (regM s m) l = true) (hbad : ¬laneFinite s p a l)
    (hlow : ∀ k < l, lane (regM s m) k = true → laneFinite s p a k) :
    ∃ e, geoTrap s p a m = some e ∧ e.cause = .geoop ∧ e.arg % 64 = l := by
  obtain ⟨j, hj⟩ := badPoint_lanePoints_some hbad
  have hlane : laneTrap s p a m l = some { cause := .geoop, arg := l + 2 ^ 8 * (Reg.v (geoReg a j)).num } := by
    simp [laneTrap, hon, hj]
  refine ⟨_, geoTrap_eq.trans (findSome?_range_lowest hl hlane fun k hk => laneTrap_none (hlow k hk)), rfl, ?_⟩
  show (l + 2 ^ 8 * (Reg.v (geoReg a j)).num) % 64 = l
  omega

/-! The codes of a record (R170, R173). -/

/-- The code of lane l. -/
def geoCode (s : State) (p : GeoPred) (o : GeoOpt) (a : VReg) (m : MReg) (l : Nat) : BitVec 8 :=
  if !lane (regM s m) l then 127
  else if (badPoint (lanePoints s p a l)).isSome then 0x80
  else BitVec.ofInt 8 (geoLane p (o == .sos) (lanePoints s p a l)
    ((List.range p.points).map fun j => pointWord s (geoReg a j) l 3)).1

theorem geoRecord_codes : (geoRecord s p o a m).codes = (List.range 64).map (geoCode s p o a m) := by
  simp only [geoRecord, List.map_map]
  refine List.map_congr_left fun l _ => ?_
  simp only [Function.comp_apply, geoCode]
  split_ifs <;> rfl

theorem geoRecord_code (hl : l < 64) : (geoRecord s p o a m).codes[l]? = some (geoCode s p o a m l) := by
  simp [geoRecord_codes, hl]

theorem geoCode_off (h : ¬lane (regM s m) l = true) : geoCode s p o a m l = 127 := by
  simp [geoCode, h]

theorem geoCode_nonfinite (hon : lane (regM s m) l = true) (h : ¬laneFinite s p a l) :
    geoCode s p o a m l = -128 := by
  obtain ⟨j, hj⟩ := badPoint_lanePoints_some h
  simp [geoCode, hon, hj]

theorem geoCode_finite (hon : lane (regM s m) l = true) (h : laneFinite s p a l) :
    geoCode s p o a m l = BitVec.ofInt 8 (geoLane p (o == .sos) (lanePoints s p a l)
      ((List.range p.points).map fun j => pointWord s (geoReg a j) l 3)).1 := by
  simp [geoCode, hon, badPoint_lanePoints_none_iff.2 h]

/-! Determinants (R169). -/

/-- The determinant of a lane, its coordinates in units of 2^−149. -/
def laneDet (s : State) (p : GeoPred) (a : VReg) (l : Nat) : Int :=
  det intArith 4 (geoRows intArith p.form.lift ((lanePoints s p a l).map fun q => q.map toUnits))

theorem signOf_ne_zero {x : Int} (h : x ≠ 0) : signOf x ≠ 0 := by
  simp only [signOf, beq_iff_eq, h, if_false]
  split_ifs <;> decide

/-- Outside SEGX the code is the sign of the determinant, but for a zero under .sos (R170, R171). -/
theorem geoLane_sign {ws : List Nat} (hp : p ≠ .segx) (h : o ≠ .sos ∨ laneDet s p a l ≠ 0) :
    (geoLane p (o == .sos) (lanePoints s p a l) ws).1 = signOf (laneDet s p a l) := by
  have horient (pert : Option (List (List (List (Nat × Int))))) (hpert : pert = none ∨ laneDet s p a l ≠ 0) :
      (orient p.form (lanePoints s p a l) pert).1 = signOf (laneDet s p a l) := by
    cases pert with
    | none => rfl
    | some q =>
      have hdet : laneDet s p a l ≠ 0 := hpert.resolve_left (by simp)
      have hsign : (signOf (laneDet s p a l) == 0) = false := beq_false_of_ne (signOf_ne_zero hdet)
      show (if signOf (laneDet s p a l) == 0 then _ else _) = _
      rw [hsign]
      rfl
  cases p with
  | segx => exact absurd rfl hp
  | orient2 | orient3 | incircle | insphere => exact horient _ (h.imp_left fun ho => by simp [ho])

/-- A sign as an 8-bit code (R170). -/
theorem ofInt_signOf (x : Int) : BitVec.ofInt 8 (signOf x) = if x < 0 then -1 else if x = 0 then 0 else 1 := by
  simp only [signOf, beq_iff_eq]
  split_ifs <;> rfl

variable (s a l)

/-- Coordinate k of point j against that of the last point, in units of 2^−149 (R169). -/
def laneDiff (p : GeoPred) (j k : Nat) : Int :=
  toUnits (pointWord s (geoReg a j) l k) - toUnits (pointWord s (geoReg a (p.points - 1)) l k)

theorem laneDet_orient2 : laneDet s .orient2 a l =
    let u := laneDiff s a l .orient2
    u 0 0 * u 1 1 - u 0 1 * u 1 0 := rfl

theorem laneDet_orient3 : laneDet s .orient3 a l =
    let u := laneDiff s a l .orient3
    u 0 0 * (u 1 1 * u 2 2 - u 1 2 * u 2 1) - u 0 1 * (u 1 0 * u 2 2 - u 1 2 * u 2 0) +
      u 0 2 * (u 1 0 * u 2 1 - u 1 1 * u 2 0) := rfl

theorem laneDet_incircle : laneDet s .incircle a l =
    let u := laneDiff s a l .incircle
    let q (j : Nat) : Int := u j 0 * u j 0 + u j 1 * u j 1
    u 0 0 * (u 1 1 * q 2 - q 1 * u 2 1) - u 0 1 * (u 1 0 * q 2 - q 1 * u 2 0) +
      q 0 * (u 1 0 * u 2 1 - u 1 1 * u 2 0) := rfl

end

/-! The syllables (R171, R174). -/

section

variable {s : State} {p : GeoPred} {o : GeoOpt} {a d : VReg} {m : MReg} {sb : SReg}

/-- The registers that an F.GEO reads (R169). -/
def geoSrcs (p : GeoPred) (a : VReg) (m : MReg) : List Reg :=
  ((List.range p.points).map fun j => .v (geoReg a j)) ++ [.m m]

theorem fGeo_traps {e : Trap} (h : geoTrap s p a m = some e) (hruns : Runs s (geoSrcs p a m) []) :
    exec (.fGeo p .strict a m) s = .next (trapHere e s) :=
  (exec_fGeo ..).trans (issue_traps hruns rfl h)

section

variable (hfine : o = .strict → ∀ l < 64, lane (regM s m) l = true → laneFinite s p a l)

include hfine

theorem strictTrap_none : (if o == .strict then geoTrap s p a m else none) = none := by
  split_ifs with ho
  · exact geoTrap_none (hfine (beq_iff_eq.1 ho))
  · rfl

theorem fGeo_runs (hroom : geoUsed s.core < 8) : RunsTo (.fGeo p o a m) s (geoSrcs p a m) []
    (fun u => u.upCore fun c => { c with geo := c.geo ++ [geoRecord s p o a m] }) :=
  runsTo_issue (exec_fGeo ..) rfl (strictTrap_none hfine) rfl (if_neg (Nat.not_le.2 hroom))

theorem fGeo_freezes (hfull : 8 ≤ geoUsed s.core) (hruns : Runs s (geoSrcs p a m) []) :
    exec (.fGeo p o a m) s = .next (s.ended (.frozen .queueFull)) :=
  (exec_fGeo ..).trans (issue_stalls hruns rfl (strictTrap_none hfine) rfl (if_pos hfull))

end

/-- The register that F.GEOIDX gives (R171). -/
def geoIndexed (s : State) (a : VReg) (sb : SReg) : VWord := ofElems 4 ((List.range 256).map fun i =>
  if i % 4 == 3 then (regS s sb).toNat + i / 4 else elem (regV s a) 4 i)

theorem elem_geoIndexed {i : Nat} (hi : i < 256) : elem (geoIndexed s a sb) 4 i =
    if i % 4 = 3 then ((regS s sb).toNat + i / 4) % 2 ^ 32 else elem (regV s a) 4 i := by
  rw [geoIndexed, elem_ofElems _ (by decide) (by omega), getD_map_range, if_pos hi]
  simp only [beq_iff_eq]
  split_ifs
  · rfl
  · exact Nat.mod_eq_of_lt (elem_lt ..)

theorem fGeoidx_runs : RunsTo (.fGeoidx d a sb) s [.v a, .s sb] [.v d] (wrV d 2 (geoIndexed s a sb)) :=
  runsTo_issue (exec_fGeoidx ..) rfl rfl rfl rfl

end

/-! The filling of a record (R174, R175, R384). -/

section

variable {c : Core} {geo old new rest : List GeoRec} {n : Nat} {r : GeoRec}

/-- The core with the records of v29 replaced. -/
def Core.withGeo (c : Core) (geo : List GeoRec) : Core := { c with geo := geo }

@[simp] theorem Core.withGeo_geo (c : Core) (geo : List GeoRec) : (c.withGeo geo).geo = geo := rfl

/-- Appending records to the statistics neither reads nor moves v29. -/
theorem Core.stat_withGeo (c : Core) (geo : List GeoRec) (kind unit count ba : Nat) :
    (c.withGeo geo).stat kind unit count ba = (c.stat kind unit count ba).withGeo geo := by
  have hheld : statHeld (c.withGeo geo) = statHeld c := rfl
  rw [Core.stat, Core.stat, hheld]
  by_cases hfull : 64 ≤ statHeld c
  · rw [if_pos hfull, if_pos hfull]
    rfl
  · rw [if_neg hfull, if_neg hfull]
    rfl

theorem statNow_withGeo (u : StatUnit) (ba : Nat) (counts : List (Nat × Nat)) (c : Core) (geo : List GeoRec) :
    statNow u ba counts (c.withGeo geo) = (statNow u ba counts c).withGeo geo := by
  refine List.foldl_hom (fun c : Core => c.withGeo geo) fun c x => ?_
  rw [Core.stat_withGeo]
  split_ifs <;> rfl

/-- The statistics of records, one after another (R175). -/
def countAll (l : List GeoRec) (c : Core) : Core := l.foldl (fun k y => countGeo y k) c

theorem countAll_withGeo (l : List GeoRec) (c : Core) (geo : List GeoRec) :
    countAll l (c.withGeo geo) = (countAll l c).withGeo geo :=
  List.foldl_hom (g₁ := fun k y => countGeo y k) (g₂ := fun k y => countGeo y k) (fun c : Core => c.withGeo geo)
    fun _ _ => statNow_withGeo ..

/-- Of the records of v29, those counted stand, those that have filled since are counted in their order, and the first
that has not filled and those after it wait. -/
theorem settleGeo_eq (hgeo : c.geo = old ++ new ++ rest) (hold : ∀ y ∈ old, y.ready = true ∧ y.counted = true)
    (hnew : ∀ y ∈ new, y.ready = true ∧ y.counted = false) (hrest : rest.dropWhile (·.ready) = rest) :
    settleGeo c = (countAll new c).withGeo (old ++ new.map (fun y => { y with counted := true }) ++ rest) := by
  have hready : ∀ y ∈ old ++ new, y.ready = true := by
    intro y hy
    obtain hy | hy := List.mem_append.1 hy
    · exact (hold y hy).1
    · exact (hnew y hy).1
  have hwait : rest.takeWhile (·.ready) = [] := by
    have hsplit := List.takeWhile_append_dropWhile (p := (·.ready)) (l := rest)
    rw [hrest] at hsplit
    exact List.append_left_eq_self.1 hsplit
  have htake : c.geo.takeWhile (·.ready) = old ++ new := by
    rw [hgeo, List.takeWhile_append_of_pos hready, hwait, List.append_nil]
  have hdrop : c.geo.dropWhile (·.ready) = rest := by rw [hgeo, List.dropWhile_append_of_pos hready, hrest]
  have hcount : geoToCount c.geo = new := by
    have hdone : old.filter (fun y => !y.counted) = [] :=
      List.filter_eq_nil_iff.2 fun y hy => by simp [(hold y hy).2]
    have hdue : new.filter (fun y => !y.counted) = new :=
      List.filter_eq_self.2 fun y hy => by simp [(hnew y hy).2]
    rw [geoToCount, htake, List.filter_append, hdone, hdue, List.nil_append]
  have hmark : old.map (fun y => { y with counted := true }) = old := by
    refine (List.map_congr_left fun y hy => ?_).trans old.map_id
    rw [← (hold y hy).2]
    rfl
  simp only [settleGeo, htake, hdrop, hcount, List.map_append, hmark]
  rfl

/-- With all that have filled in turn counted, nothing is due. -/
theorem settleGeo_withGeo_of_counted (h : ∀ y ∈ geo.takeWhile (·.ready), y.counted = true) :
    settleGeo (c.withGeo geo) = c.withGeo geo := by
  have hsplit : geo = geo.takeWhile (·.ready) ++ [] ++ geo.dropWhile (·.ready) := by
    rw [List.append_nil, List.takeWhile_append_dropWhile]
  have hready : ∀ y ∈ geo.takeWhile (·.ready), y.ready = true := fun y hy => List.mem_takeWhile_imp hy
  rw [settleGeo_eq (c := c.withGeo geo) hsplit (fun y hy => ⟨hready y hy, h y hy⟩) nofun
    (List.dropWhile_idempotent ..), List.map_nil, ← hsplit]
  rfl

theorem fillGeo_eq (hn : c.geo[n]? = some r) :
    fillGeo n c = settleGeo (c.withGeo (c.geo.set n { r with ready := true })) := by
  rw [fillGeo, List.modify_eq_set_getElem?, hn]
  rfl

/-- What passes before the first failure does not depend on what follows a list that holds one. -/
theorem takeWhile_append_of_failing {α : Type} {q : α → Bool} {l : List α} (l' : List α)
    (h : ∃ y ∈ l, q y = false) : (l ++ l').takeWhile q = l.takeWhile q := by
  obtain ⟨y, hy, hfails⟩ := h
  rw [List.takeWhile_append, if_neg fun hlen => ?_]
  have hall : l.takeWhile q = l := (List.takeWhile_prefix q).eq_of_length hlen
  rw [List.takeWhile_eq_self_iff.1 hall y hy] at hfails
  cases hfails

theorem drop_length_takeWhile {α : Type} (q : α → Bool) (l : List α) :
    l.drop (l.takeWhile q).length = l.dropWhile q := by
  induction l with
  | nil => rfl
  | cons y l ih => cases hy : q y <;> simp [hy, ih]

variable (hn : c.geo[n]? = some r) (hcounted : (c.geo.takeWhile (·.ready)).all (·.counted) = true)

include hn hcounted

/-- A record fills that waits for an older one: nothing else changes (R174, R384). -/
theorem fillGeo_waits (hwait : ∃ y ∈ c.geo.take n, y.ready = false) :
    fillGeo n c = c.withGeo (c.geo.set n { r with ready := true }) := by
  obtain ⟨hlt, -⟩ := List.getElem?_eq_some_iff.1 hn
  have htake : (c.geo.set n { r with ready := true }).takeWhile (·.ready) = c.geo.takeWhile (·.ready) := by
    rw [List.set_eq_take_append_cons_drop, if_pos hlt, takeWhile_append_of_failing _ hwait,
      ← takeWhile_append_of_failing (c.geo.drop n) hwait, List.take_append_drop]
  rw [fillGeo_eq hn, settleGeo_withGeo_of_counted fun y hy => List.all_eq_true.1 hcounted y (by rwa [← htake])]

/-- The records that a record's filling makes readable: it and the filled ones that wait for it (R174). -/
def filledRun (geo : List GeoRec) (n : Nat) (r : GeoRec) : List GeoRec :=
  { r with ready := true } :: (geo.drop (n + 1)).takeWhile (·.ready)

/-- The oldest record that has not filled fills: it is counted, and the filled ones that wait for it after it, in the
order of their issue (R175, R384). -/
theorem fillGeo_counts (hready : r.ready = false) (hfirst : ∀ y ∈ c.geo.take n, y.ready = true)
    (hrun : ∀ y ∈ filledRun c.geo n r, y.counted = false) :
    fillGeo n c = (countAll (filledRun c.geo n r) c).withGeo (c.geo.take n ++
      (filledRun c.geo n r).map (fun y => { y with counted := true }) ++
      c.geo.drop (n + (filledRun c.geo n r).length)) := by
  obtain ⟨hlt, hr⟩ := List.getElem?_eq_some_iff.1 hn
  have hgeo : c.geo = c.geo.take n ++ r :: c.geo.drop (n + 1) := by
    rw [← hr, List.cons_getElem_drop_succ, List.take_append_drop]
  have htake : c.geo.takeWhile (·.ready) = c.geo.take n := by
    conv_lhs => rw [hgeo]
    rw [List.takeWhile_append_of_pos hfirst, List.takeWhile_cons_of_neg (by simp [hready]), List.append_nil]
  have hrest : c.geo.drop (n + (filledRun c.geo n r).length) = (c.geo.drop (n + 1)).dropWhile (·.ready) := by
    have hlen : n + (filledRun c.geo n r).length = n + 1 + ((c.geo.drop (n + 1)).takeWhile (·.ready)).length := by
      simp only [filledRun, List.length_cons]
      omega
    rw [hlen, ← List.drop_drop, drop_length_takeWhile]
  have hsettle := settleGeo_eq (c := c.withGeo (c.geo.set n { r with ready := true })) (old := c.geo.take n)
    (new := filledRun c.geo n r) (rest := (c.geo.drop (n + 1)).dropWhile (·.ready)) ?_
    (fun y hy => ⟨hfirst y hy, List.all_eq_true.1 hcounted y (by rwa [htake])⟩)
    (fun y hy => ⟨?_, hrun y hy⟩) (List.dropWhile_idempotent ..)
  · rw [fillGeo_eq hn, hsettle, countAll_withGeo, hrest]
    rfl
  · rw [Core.withGeo_geo, List.set_eq_take_append_cons_drop, if_pos hlt, filledRun, List.append_assoc,
      List.cons_append, List.takeWhile_append_dropWhile]
  · obtain rfl | hy := List.mem_cons.1 hy
    · rfl
    · exact List.mem_takeWhile_imp hy

end

/-- Settles O39: the record of an F.GEO lane by lane, its freeze and its trap, the indices, and the filling. -/
theorem geometricPredicates : Obligations.GeometricPredicates := by
  intro s p o d a sb m srcs on c u fine q d2 d3 sign
  refine ⟨fun hroom hfine => ⟨geoRecord s p o a m, rfl, by simp [geoRecord_codes], fun l hl => ?codes,
      fGeo_runs hfine hroom⟩, fun hfull hfine => fGeo_freezes hfine hfull,
    fun l hl hstrict hon hbad hlow hruns => ?trap, ⟨geoIndexed s a sb, fun i => elem_geoIndexed, fGeoidx_runs⟩,
    fun n r hn hready hcounted => ?fill⟩
  case codes =>
    intro code
    have hcode : code = some (geoCode s p o a m l) := geoRecord_code hl
    have hsign {x : Int} (hon : on l) (hfin : fine l) (hp : p ≠ .segx) (hx : laneDet s p a l = x)
        (ho : o ≠ .sos ∨ x ≠ 0) : code = some (sign x) := by
      subst hx
      rw [hcode, geoCode_finite hon hfin, geoLane_sign hp ho, ofInt_signOf]
    refine ⟨fun hoff => hcode.trans (congrArg some (geoCode_off hoff)),
      fun hon hbad => hcode.trans (congrArg some (geoCode_nonfinite hon hbad)), fun hon hfin => ⟨?_, ?_, ?_,
        hcode.trans (congrArg some (geoCode_finite hon hfin))⟩⟩
    · rintro rfl ho
      exact hsign hon hfin nofun (laneDet_orient2 s a l) ho
    · rintro rfl ho
      exact hsign hon hfin nofun (laneDet_orient3 s a l) (.inl ho)
    · rintro rfl ho
      exact hsign hon hfin nofun (laneDet_incircle s a l) (.inl ho)
  case trap =>
    subst hstrict
    obtain ⟨e, he, hcause, harg⟩ := geoTrap_lowest hl hon hbad hlow
    exact ⟨e, hcause, harg, fGeo_traps he hruns⟩
  case fill =>
    intro count append run
    have hexec : exec (.geoRecordFill n) s = .next (s.upCore (fillGeo n)) := exec_geoRecordFill n s
    refine ⟨fun hwait => ?_, fun hfirst hrun => ?_⟩
    · rw [hexec, State.upCore, fillGeo_waits hn hcounted hwait]
      rfl
    · rw [hexec, State.upCore, fillGeo_counts hn hcounted hready hfirst hrun]
      rfl

end Sys2Proof.Machine
end

section
/-! PROOFS. The tag waits (spec/10 R204): the lowest tag of a mask that satisfies a condition, the checks of a wait in
their order, and from these the statement O29. -/

namespace Sys2Proof.Machine

/-! The lowest tag (R204). -/

section

variable {m : Word} {p : Fin 64 → Bool} {q : Fin 64 → Prop} (hq : ∀ t, p t = true ↔ q t)

include hq

theorem lowTag_some {t : Fin 64}
    (h : m.toNat.testBit t = true ∧ q t ∧ ∀ u < t, ¬(m.toNat.testBit u = true ∧ q u)) : lowTag m p = some t := by
  rw [lowTag, ← Fin.find?_eq_find?_finRange, Fin.find?_eq_some_iff]
  simpa [← hq, and_assoc] using h

theorem lowTag_none (h : ∀ t : Fin 64, ¬(m.toNat.testBit t = true ∧ q t)) : lowTag m p = none := by
  simpa [lowTag, ← hq] using h

end

/-! The checks of a wait, in their order. -/

section

variable {c : Core} {m : Word} {ready : Bool} {t : Fin 64}

/-- A tag with no command outstanding and none finished, which a wait may not name. -/
def idleTag (c : Core) (t : Fin 64) : Bool := c.tags[t].out == 0 && !c.tags[t].done

theorem idleTag_iff (c : Core) (t : Fin 64) : idleTag c t = true ↔ c.tags[t].out = 0 ∧ c.tags[t].done = false := by
  simp [idleTag]

/-- A finished tag in error, whose fault a wait that is ready observes. -/
def failedTag (c : Core) (t : Fin 64) : Bool := c.tags[t].done && c.tags[t].err

theorem failedTag_iff (c : Core) (t : Fin 64) :
    failedTag c t = true ↔ c.tags[t].done = true ∧ c.tags[t].err = true := by
  simp [failedTag]

theorem tagWaitTrap_eq : tagWaitTrap c m ready = match lowTag m (idleTag c) with
    | some t => some (copyTrap 7 t)
    | none => match lowTag m (heldTag c) with
      | some t => some (copyTrap 6 t)
      | none => if ready then (lowTag m (failedTag c)).map (faultedTrap c) else none := rfl

theorem tagWaitTrap_idle (h : lowTag m (idleTag c) = some t) :
    tagWaitTrap c m ready = some { cause := .copy, detail := 7, arg := t.val } := by
  rw [tagWaitTrap_eq, h]
  rfl

theorem tagWaitTrap_held (hidle : lowTag m (idleTag c) = none) (h : lowTag m (heldTag c) = some t) :
    tagWaitTrap c m ready = some { cause := .copy, detail := 6, arg := t.val } := by
  rw [tagWaitTrap_eq, hidle, h]
  rfl

/-- Past those two, a wait that is ready observes the fault of a failed tag. -/
theorem tagWaitTrap_free (hidle : lowTag m (idleTag c) = none) (hheld : lowTag m (heldTag c) = none) :
    tagWaitTrap c m ready = if ready then (lowTag m (failedTag c)).map (faultedTrap c) else none := by
  rw [tagWaitTrap_eq, hidle, hheld]

end

section

variable {s : State} {d a : SReg} {i : Instr} {ready : Bool} (hi : exec i s = tagWait ready d a s)

include hi

/-- What the checks of a wait find is its bundle's trap. -/
theorem tagWait_traps {t : Trap} (h : tagWaitTrap s.core (regS s a) ready = some t) (hruns : Runs s [.s a] [.s d]) :
    exec i s = .next (trapHere t s) := by
  unfold tagWait at hi
  exact hi.trans (issue_traps hruns rfl h)

/-- A wait that its checks pass freezes until its tags have finished. -/
theorem tagWait_freezes (h : tagWaitTrap s.core (regS s a) ready = none) (hready : ready = false)
    (hruns : Runs s [.s a] [.s d]) : exec i s = .next (s.ended (.frozen .scoreboard)) := by
  unfold tagWait at hi
  exact hi.trans (issue_stalls hruns rfl h rfl (by simp [hready]))

/-- Once they have, it answers those of its mask that are finished. -/
theorem tagWait_runs (h : tagWaitTrap s.core (regS s a) ready = none) (hready : ready = true) :
    RunsTo i s [.s a] [.s d] fun u =>
      wrS d 1 (tagBits (·.done) s.core &&& regS s a) (observe (tagBits (·.done) s.core &&& regS s a) u) := by
  unfold tagWait at hi
  exact runsTo_issue hi rfl h rfl (by simp [hready])

end

/-! B.FFR and C.TCLR. -/

section

variable {s : State} {d a : SReg}

theorem bFfr_traps {t : Fin 64} (h : lowTag (regS s a) (fun t => s.core.tags[t].err) = some t)
    (hruns : Runs s [.s a] [.s d]) : exec (.bFfr d a) s = .next (trapHere (faultedTrap s.core t) s) := by
  rw [exec_bFfr, execBFfr]
  exact issue_traps hruns rfl (congrArg (Option.map (faultedTrap s.core)) h)

theorem bFfr_finished {t : Fin 64} (herr : lowTag (regS s a) (fun t => s.core.tags[t].err) = none)
    (h : lowTag (regS s a) (fun t => s.core.tags[t].done) = some t) :
    RunsTo (.bFfr d a) s [.s a] [.s d] fun u => wrS d 1 (wordN t.val) (observe (wordN (2 ^ t.val)) u) := by
  intro hruns
  rw [exec_bFfr, execBFfr, issue_runs hruns rfl (congrArg (Option.map (faultedTrap s.core)) herr) rfl rfl]
  simp only [h]

theorem bFfr_unfinished (herr : lowTag (regS s a) (fun t => s.core.tags[t].err) = none)
    (h : lowTag (regS s a) (fun t => s.core.tags[t].done) = none) :
    RunsTo (.bFfr d a) s [.s a] [.s d] (wrS d 1 (wordI (-1))) := by
  intro hruns
  rw [exec_bFfr, execBFfr, issue_runs hruns rfl (congrArg (Option.map (faultedTrap s.core)) herr) rfl rfl]
  simp only [h]

/-- The tags after C.TCLR: those of the mask keep only which writes they name (log 29). -/
theorem clearTags_get {m : Word} {tags : Vector TagSt 64}
    (hout : ∀ t : Fin 64, ¬(m.toNat.testBit t = true ∧ tags[t].out ≠ 0)) (t : Fin 64) : (clearTags m tags)[t] =
      if m.toNat.testBit t then { TagSt.clear with writes := tags[t].writes } else tags[t] := by
  have hget : (clearTags m tags)[t] =
      if m.toNat.testBit t then { TagSt.clear with out := tags[t].out, writes := tags[t].writes } else tags[t] := by
    simp [clearTags]
  rw [hget]
  split_ifs with hin
  · have hzero : tags[t].out = 0 := by simpa [hin] using hout t
    rw [hzero]
    rfl
  · rfl

theorem reads_tags (l : List Reg) (s : State) : (reads l s).core.tags = s.core.tags := by
  rw [onlyFlight_reads l s]

theorem cTclr_traps {t : Fin 64} (h : lowTag (regS s a) (fun t => s.core.tags[t].out != 0) = some t)
    (hruns : Runs s [.s a] []) :
    exec (.cTclr a) s = .next (trapHere { cause := .copy, detail := 8, arg := t.val } s) := by
  rw [exec_cTclr, execCTclr]
  exact issue_traps hruns rfl (congrArg (Option.map (copyTrap 8)) h)

theorem cTclr_runs (h : lowTag (regS s a) (fun t => s.core.tags[t].out != 0) = none) :
    RunsTo (.cTclr a) s [.s a] [] fun u =>
      { u with core := { u.core with tags := clearTags (regS s a) s.core.tags } } := by
  intro hruns
  rw [exec_cTclr, execCTclr, issue_runs hruns rfl (congrArg (Option.map (copyTrap 8)) h) rfl rfl, State.upCore,
    reads_tags]

end

/-- Settles O29: the two waits by the checks that they share, then B.FFR and C.TCLR. -/
theorem tagWaits : Obligations.TagWaits := by
  intro s d a m done tag idle held failed none'
  refine ⟨fun p hp => ?waits, fun t ht => bFfr_traps (lowTag_some (fun _ => Iff.rfl) ht),
    fun herr => ⟨fun t ht => bFfr_finished (lowTag_none (fun _ => Iff.rfl) herr) (lowTag_some (fun _ => Iff.rfl) ht),
      fun hdone => bFfr_unfinished (lowTag_none (fun _ => Iff.rfl) herr) (lowTag_none (fun _ => Iff.rfl) hdone)⟩,
    fun t ht => cTclr_traps (lowTag_some (fun _ => bne_iff_ne) ht),
    fun h => ⟨_, clearTags_get h, cTclr_runs (lowTag_none (fun _ => bne_iff_ne) h)⟩⟩
  case waits =>
    obtain ⟨ready, hi, hready⟩ : ∃ ready, exec p.1 s = tagWait ready d a s ∧ (ready = true ↔ p.2) := by
      obtain rfl | rfl : p = (.bWany d a, done &&& m ≠ 0) ∨ p = (.bWall d a, done &&& m = m) := by simpa using hp
      · exact ⟨_, exec_bWany .., bne_iff_ne⟩
      · exact ⟨_, exec_bWall .., beq_iff_eq⟩
    have hunready (h : ¬p.2) : ready = false := Bool.eq_false_iff.2 (mt hready.1 h)
    have hfree (h : none' idle) (h' : none' held) := tagWaitTrap_free (ready := ready)
      (lowTag_none (idleTag_iff s.core) h) (lowTag_none (fun _ => Iff.rfl) h')
    refine ⟨fun t ht => tagWait_traps hi (tagWaitTrap_idle (lowTag_some (idleTag_iff s.core) ht)),
      fun t hidle ht => tagWait_traps hi (tagWaitTrap_held (lowTag_none (idleTag_iff s.core) hidle)
        (lowTag_some (fun _ => Iff.rfl) ht)),
      fun t hidle hheld hp ht => tagWait_traps hi ?fault,
      fun hidle hheld hp => tagWait_freezes hi ?unready (hunready hp),
      fun hidle hheld hp hfine => tagWait_runs hi ?ready (hready.2 hp)⟩
    case fault => rw [hfree hidle hheld, if_pos (hready.2 hp), lowTag_some (failedTag_iff s.core) ht, Option.map_some]
    case unready => rw [hfree hidle hheld, hunready hp, if_neg Bool.false_ne_true]
    case ready => rw [hfree hidle hheld, lowTag_none (failedTag_iff s.core) hfine, Option.map_none, ite_self]

end Sys2Proof.Machine
end

section
/-! PROOFS. Loads (spec/10 R184, R185, R188 to R192): the issue of a load syllable by what it finds, the checks of an
access to the local window, the lanes of a gather and a scatter, and from these the statements O41 and O42. -/

namespace Sys2Proof.Machine

/-! Load syllables (R189 to R192). -/

section

variable {s : State} {i : Instr} {srcs dsts : List Reg} {x : Loaded} {k : Nat} {put : List Byte → State → State}
  (hi : exec i s = loadSyl srcs dsts x k put s)

include hi

/-- A load whose data is good and that no footprint holds back puts the bytes it has found. -/
theorem loadSyl_runs {ps : List Piece} {l : List Byte} (hx : x = .got ps l none)
    (hstall : spadStall s.core false (spadRanges ps) = none) : RunsTo i s srcs dsts (put l) := by
  subst hx
  exact runsTo_issue hi rfl rfl rfl hstall

theorem loadSyl_freezes {ps : List Piece} {l : List Byte} {f : Freeze} (hx : x = .got ps l none)
    (hstall : spadStall s.core false (spadRanges ps) = some f) (hruns : Runs s srcs dsts) :
    exec i s = .next (s.ended (.frozen f)) := by
  subst hx
  exact hi.trans (issue_stalls hruns rfl rfl rfl hstall)

theorem loadSyl_traps {t : Trap} (hx : x = .trap t) (hruns : Runs s srcs dsts) : exec i s = .next (trapHere t s) := by
  subst hx
  exact hi.trans (issue_traps hruns rfl rfl)

end

section

variable {s : State}

theorem mVldb_runs {cls : LClass} {vd : VReg} {a : SReg} {k : TId} {ps : List Piece} {l : List Byte}
    (hentry : tensorStall s k = none) (hx : expandLoad s (regS s a).toNat k = .got ps l none)
    (hstall : spadStall s.core false (spadRanges ps) = none) :
    RunsTo (.mVldb cls vd a k) s [.s a] [.v vd] (wrV vd (cls.vector + 4) (ofBytes l)) := by
  intro hruns
  rw [exec_mVldb, execMVldb, hx]
  exact issue_runs hruns rfl rfl rfl (by rw [hentry]; exact hstall)

section

variable {cls : LClass} {ty : SizeTy} {d a : SReg} {p : PReg} {imm : BitVec 16}

theorem mGld_runs {ps : List Piece} {l : List Byte} (hx : scalarLoad s ty a imm = .got ps l none)
    (hstall : spadStall s.core false (spadRanges ps) = none) : RunsTo (.mGld cls ty d a p imm) s [.s a] [.s d, .p p]
      fun u => wrP p cls.scalar true (wrS d cls.scalar (ty.extend (natOf l)) u) := by
  intro hruns
  rw [exec_mGld, execMGld, hx]
  exact issue_runs hruns rfl rfl rfl hstall

/-- M.GLD answers 0 and a false predicate where a step of R188 fails (R192). -/
theorem mGld_fails {t : Trap} (hx : scalarLoad s ty a imm = .trap t) (hstep : stepFail t = true) :
    RunsTo (.mGld cls ty d a p imm) s [.s a] [.s d, .p p] fun u => wrP p cls.scalar false (wrS d cls.scalar 0 u) := by
  intro hruns
  rw [exec_mGld, execMGld, hx]
  simp only [hstep, if_true]
  exact issue_runs hruns rfl rfl rfl rfl

end

/-! The local window (R188). -/

section

variable {al n va : Nat}

theorem locate_within (k : Access) (hva : va + n ≤ 0x80000) (hlocal : va < 0x80000) :
    locate s k va n = .ok [.spad va n] := by
  have hin : inLocal va = true := decide_eq_true hlocal
  have hend : ¬spadSize < va + n := Nat.not_lt.2 hva
  simp [locate, hin, hend]

theorem locate_past (k : Access) (hva : 0x80000 < va + n) (hlocal : va < 0x80000) :
    locate s k va n = .error (memTrap 2) := by
  have hin : inLocal va = true := decide_eq_true hlocal
  have hend : spadSize < va + n := hva
  simp [locate, hin, hend]

theorem locateAll_one (k : Access) : locateAll s k n [va] = locate s k va n := by
  cases h : locate s k va n <;> simp [locateAll, sortBy, insertBy, h, errOf, okOr]

theorem loadAt_unaligned (h : va % al ≠ 0) : loadAt s al n [va] = .trap (memTrap 1) := by simp [loadAt, h]

theorem loadAt_past (hal : va % al = 0) (hlocal : va < 0x80000) (hend : 0x80000 < va + n) :
    loadAt s al n [va] = .trap (memTrap 2) := by
  simp [loadAt, hal, locateAll_one, locate_past .rd hend hlocal]

/-- The scratchpad as an access of the bundle itself sees it: as it stands (R185). -/
theorem readPieces_spad : readPieces s (snapOf s) [.spad va n] = .ok (memGetN s.core.spad va n) := by
  simp [readPieces, seeSpad, snapOf]

theorem loadAt_within (hal : va % al = 0) (hlocal : va < 0x80000) (hend : va + n ≤ 0x80000)
    (hheld : heldTrap s.core false [(va, n)] = none) :
    loadAt s al n [va] = .got [.spad va n] (memGetN s.core.spad va n) (ueccPieces s [.spad va n]) := by
  have hranges : spadRanges [.spad va n] = [(va, n)] := rfl
  simp [loadAt, hal, locateAll_one, locate_within .rd hend hlocal, hranges, hheld, loadPieces, readPieces_spad]

end

end

/-- Settles O41: the loads by what their access finds, M.VLDB and M.GLD by their own checks; then the local window. -/
theorem loads : Obligations.Loads := by
  refine ⟨fun s cls ty a b d vd p imm k => ?syllables, fun s al n va hlocal => ⟨loadAt_unaligned,
    fun hal => loadAt_past hal hlocal, fun hal => loadAt_within hal hlocal⟩⟩
  intro ea n m lines
  have hea : addrOf s a imm = ea := addrOf_eq s a imm
  have hn : cls.scalar = n := by cases cls <;> rfl
  have hm : cls.vector = m := by cases cls <;> rfl
  have hload : scalarLoad s ty a imm = loadAt s ty.bytes ty.bytes [ea] := by rw [scalarLoad, hea]
  refine ⟨fun x hx => ?plain, fun hentry ps l hx hstall => hm ▸ mVldb_runs hentry hx hstall,
    fun ps l hx hstall => hn ▸ mGld_runs (hload.trans hx) hstall,
    fun t hx ht => hn ▸ mGld_fails (hload.trans hx) ?step, runsTo_issue (exec_mPref ..) rfl rfl rfl rfl,
    runsTo_issue (exec_mTinv ..) rfl rfl rfl rfl⟩
  case plain =>
    have hi : ∃ k, exec x.1 s = loadSyl x.2.1 x.2.2.1 x.2.2.2.1 k x.2.2.2.2 s := by
      simp only [List.mem_cons, List.not_mem_nil, or_false] at hx
      obtain rfl | rfl | rfl | rfl := hx
      · exact ⟨_, by rw [← hn, ← hload]; exact exec_mLd ..⟩
      · exact ⟨_, by rw [← hn, ← hea]; exact exec_mLdp ..⟩
      · exact ⟨_, by rw [← hm, ← hea]; exact exec_mVld ..⟩
      · exact ⟨_, by simp only [lines, ← hm, ← hea]; exact exec_mVlds ..⟩
    obtain ⟨k, hi⟩ := hi
    exact ⟨fun ps l hgot => ⟨loadSyl_runs hi hgot, fun f => loadSyl_freezes hi hgot⟩, fun t => loadSyl_traps hi⟩
  case step =>
    simp only [List.mem_cons, List.not_mem_nil, or_false] at ht
    obtain h | h | h | h | h | h := ht <;> simp [stepFail, h]

end Sys2Proof.Machine
end

section
/-! PROOFS. The lanes of a gather and a scatter (spec/10 R191): the first check that fails among them, the word that
each lane of a gather takes, and from these the statement O42. -/

namespace Sys2Proof.Machine

section

variable {s : State} {d b c : VReg} {a : SReg} {m : MReg}

/-- What the checks of one lane's address find (R188). -/
def laneCheck (va : Nat) : Option Trap :=
  if va % 4 != 0 then some (memTrap 1) else if !inLocal va then some (memTrap 3) else none

theorem laneCheck_fine {va : Nat} (h : va % 4 = 0 ∧ va < 0x80000) : laneCheck va = none := by
  obtain ⟨hal, hlocal⟩ := h
  have hin : inLocal va = true := decide_eq_true hlocal
  simp [laneCheck, hal, hin]

theorem laneCheck_bad {va : Nat} (h : ¬(va % 4 = 0 ∧ va < 0x80000)) :
    laneCheck va = some { cause := .memory, detail := if va % 4 ≠ 0 then 1 else 3 } := by
  by_cases hal : va % 4 = 0
  · have hout : inLocal va = false := decide_eq_false fun hin => h ⟨hal, hin⟩
    simp [laneCheck, hal, hout, memTrap]
  · simp [laneCheck, hal, memTrap]

/-- The lanes of a mask are checked in ascending order. -/
theorem laneFault_eq (mask : Mask) (va : Nat → Nat) : laneFault ((lanesOn mask).map va) =
    (List.range 256).findSome? fun l => if lane mask l then laneCheck (va l) else none := by
  rw [laneFault, List.findSome?_map, ← List.head?_filterMap, lanesOn, List.filterMap_filter, List.head?_filterMap]
  rfl

theorem laneFault_none {mask : Mask} {va : Nat → Nat}
    (h : ∀ l < 256, lane mask l = true → va l % 4 = 0 ∧ va l < 0x80000) : laneFault ((lanesOn mask).map va) = none := by
  rw [laneFault_eq]
  refine List.findSome?_eq_none_iff.2 fun l hl => ?_
  split_ifs with hon
  · exact laneCheck_fine (h l (List.mem_range.1 hl) hon)
  · rfl

/-- The lowest enabled lane that fails gives the trap (log 40). -/
theorem laneFault_lowest {mask : Mask} {va : Nat → Nat} {l : Nat} (hl : l < 256) (hon : lane mask l = true)
    (hbad : ¬(va l % 4 = 0 ∧ va l < 0x80000))
    (hlow : ∀ k < l, lane mask k = true → va k % 4 = 0 ∧ va k < 0x80000) :
    laneFault ((lanesOn mask).map va) = some { cause := .memory, detail := if va l % 4 ≠ 0 then 1 else 3 } := by
  rw [laneFault_eq]
  refine findSome?_range_lowest hl ((if_pos hon).trans (laneCheck_bad hbad)) fun k hk => ?_
  split_ifs with hk_on
  · exact laneCheck_fine (hlow k hk hk_on)
  · rfl

/-- The addresses of the enabled lanes. -/
abbrev laneAddrs (s : State) (a : SReg) (b : VReg) (m : MReg) : List Nat := (lanesOn (regM s m)).map (laneAddr s a b)

/-- The words that M.VGATH gathers. -/
def gathered (s : State) (a : SReg) (b : VReg) (m : MReg) : VWord := ofElems 4 ((List.range 256).map fun l =>
  if lane (regM s m) l then natOf (memGetN s.core.spad (laneAddr s a b l) 4) else 0)

theorem memGetN_length (mem : List Host.Cell) (a n : Nat) : (memGetN mem a n).length = n := by
  induction n generalizing a with
  | zero => rfl
  | succ n ih => simp [memGetN, ih]

theorem elem_gathered {l : Nat} (hl : l < 256) : elem (gathered s a b m) 4 l =
    if lane (regM s m) l then natOf (memGetN s.core.spad (laneAddr s a b l) 4) else 0 := by
  have hword : natOf (memGetN s.core.spad (laneAddr s a b l) 4) < 2 ^ 32 := by
    have hlt := natOf_lt (memGetN s.core.spad (laneAddr s a b l) 4)
    rwa [memGetN_length] at hlt
  rw [gathered, elem_ofElems _ (by decide) (by omega), getD_map_range, if_pos hl]
  split_ifs
  · exact Nat.mod_eq_of_lt hword
  · rfl

theorem mVgath_traps {t : Trap} (h : laneFault (laneAddrs s a b m) = some t)
    (hruns : Runs s [.s a, .v b, .m m] [.v d]) : exec (.mVgath d a b m) s = .next (trapHere t s) := by
  rw [exec_mVgath, execMVgath]
  simp only [h]
  exact issue_traps hruns rfl rfl

theorem mVgath_runs (hfault : laneFault (laneAddrs s a b m) = none)
    (hheld : heldTrap s.core false (laneRanges (laneAddrs s a b m)) = none)
    (hstall : spadStall s.core false (laneRanges (laneAddrs s a b m)) = none)
    (hecc : ueccPieces s ((laneAddrs s a b m).map fun x => .spad x 4) = none) :
    RunsTo (.mVgath d a b m) s [.s a, .v b, .m m] [.v d] (wrV d 8 (gathered s a b m)) := by
  have hranges : spadRanges ((laneAddrs s a b m).map fun x => .spad x 4) = laneRanges (laneAddrs s a b m) := by
    simp [spadRanges, laneRanges, List.filterMap_map]
  intro hruns
  rw [exec_mVgath, execMVgath]
  simp only [hfault, hheld, hecc]
  exact issue_runs hruns rfl rfl rfl ((congrArg (spadStall s.core false) hranges).trans hstall)

theorem mVscat_traps {t : Trap} (h : laneFault (laneAddrs s a b m) = some t)
    (hruns : Runs s [.s a, .v b, .v c, .m m] []) : exec (.mVscat a b c m) s = .next (trapHere t s) := by
  rw [exec_mVscat, execMVscat]
  exact issue_traps hruns rfl (by simp [h])

theorem mVscat_runs (hfault : laneFault (laneAddrs s a b m) = none)
    (hheld : heldTrap s.core true (laneRanges (laneAddrs s a b m)) = none)
    (hstall : spadStall s.core true (laneRanges (laneAddrs s a b m)) = none)
    (hlimit : storeLimit s.core (laneRanges (laneAddrs s a b m)) 0 = none) :
    RunsTo (.mVscat a b c m) s [.s a, .v b, .v c, .m m] [] (putPieces .store
      ((laneAddrs s a b m).map fun x => .spad x 4)
      ((lanesOn (regM s m)).flatMap fun l => bytesOf 4 (elem (regV s c) 4 l))) := by
  intro hruns
  rw [exec_mVscat, execMVscat]
  exact issue_runs hruns rfl (by simp [hfault, hheld]) hlimit hstall

end

/-- Settles O42: the lowest failing lane, then the lanes that are all fine, gathered and scattered. -/
theorem gatherAndScatter : Obligations.GatherAndScatter := by
  intro s d b c a m on va fine lanes ranges
  have hranges : ranges = laneRanges (laneAddrs s a b m) := by
    simp only [ranges, lanes, laneRanges, laneAddrs, List.map_map]
    rfl
  have hpieces : (ranges.map fun r => Piece.spad r.1 r.2) = (laneAddrs s a b m).map fun x => .spad x 4 := by
    rw [hranges, laneRanges, List.map_map]
    rfl
  refine ⟨fun l hl hon hbad hlow => ?traps, fun hfine => ?runs⟩
  case traps =>
    have hfault := laneFault_lowest (va := va) hl hon hbad hlow
    exact ⟨mVgath_traps hfault, mVscat_traps hfault⟩
  case runs =>
    have hfault : laneFault (laneAddrs s a b m) = none := laneFault_none hfine
    rw [hpieces, hranges]
    refine ⟨fun hheld hstall hecc => ⟨gathered s a b m, fun l hl => ?_, mVgath_runs hfault hheld hstall hecc⟩,
      mVscat_runs hfault⟩
    exact ⟨fun hon => (elem_gathered hl).trans (if_pos hon), fun hoff => (elem_gathered hl).trans (if_neg hoff)⟩

end Sys2Proof.Machine
end

section
/-! PROOFS. Stores (spec/10 R185, R189, R192; spec/12 R224, R226): the issue of a store syllable by what it finds, what
its bytes make of the scratchpad, the undo log and the withheld effects, and from these the statement O43. -/

namespace Sys2Proof.Machine

/-! Store syllables (R189, R192). -/

section

variable {s : State} {i : Instr} {srcs : List Reg} {x : Stored} {b : List Byte} (hi : exec i s = storeSyl srcs x b s)

section

variable {ps : List Piece} (hx : x = .at' ps)

include hi hx

theorem storeSyl_runs (hstall : spadStall s.core true (spadRanges ps) = none)
    (hlimit : storeLimit s.core (spadRanges ps) (sharedBytes ps) = none) : RunsTo i s srcs [] (storePut ps b) := by
  subst hx
  exact runsTo_issue hi rfl rfl hlimit hstall

theorem storeSyl_limit {t : Trap} (hlimit : storeLimit s.core (spadRanges ps) (sharedBytes ps) = some t)
    (hruns : Runs s srcs []) : exec i s = .next (trapHere t s) := by
  subst hx
  exact hi.trans (issue_limit hruns rfl rfl hlimit)

theorem storeSyl_freezes {f : Freeze} (hlimit : storeLimit s.core (spadRanges ps) (sharedBytes ps) = none)
    (hstall : spadStall s.core true (spadRanges ps) = some f) (hruns : Runs s srcs []) :
    exec i s = .next (s.ended (.frozen f)) := by
  subst hx
  exact hi.trans (issue_stalls hruns rfl rfl hlimit hstall)

end

include hi in
theorem storeSyl_traps {t : Trap} (hx : x = .trap t) (hruns : Runs s srcs []) : exec i s = .next (trapHere t s) := by
  subst hx
  exact hi.trans (issue_traps hruns rfl rfl)

end

section

variable {s : State} {a b : SReg} {imm : BitVec 16} {ps : List Piece}
  (hstall : spadStall s.core true (spadRanges ps) = none)

include hstall

/-- M.VSTU writes its selected bytes, and counts those of its whole extent (log 39). -/
theorem mVstu_runs {vb vc : VReg} {l : List (Piece × List Byte)} (hx : storeAt s 1 1024 [addrOf s a imm] = .at' ps)
    (hl : selPieces ps ((toBytes (regV s vb)).zip ((toBytes (regV s vc)).map (· != 0))) = l)
    (hlimit : storeLimit s.core (spadRanges (l.map (·.1))) (sharedBytes ps) = none) :
    RunsTo (.mVstu a vb vc imm) s [.s a, .v vb, .v vc] []
      fun u => countBytes (sharedBytes ps) (putPieces .store (l.map (·.1)) (l.flatMap (·.2)) u) := by
  subst hl
  intro hruns
  rw [exec_mVstu, execMVstu, hx]
  exact issue_runs hruns rfl rfl hlimit hstall

theorem mGst_runs {ty : SizeTy} {p : PReg} (hx : storeAt s ty.bytes ty.bytes [addrOf s a imm] = .at' ps)
    (hlimit : storeLimit s.core (spadRanges ps) (sharedBytes ps) = none) :
    RunsTo (.mGst ty a b p imm) s [.s a, .s b] [.p p] fun u => wrP p 4 true (storePut ps (storeBytes s ty b) u) := by
  intro hruns
  rw [exec_mGst, execMGst, hx]
  exact issue_runs hruns rfl rfl hlimit hstall

end

/-- M.GST answers a false predicate where a step of R188 fails (R192). -/
theorem mGst_fails {s : State} {ty : SizeTy} {a b : SReg} {p : PReg} {imm : BitVec 16} {t : Trap}
    (hx : storeAt s ty.bytes ty.bytes [addrOf s a imm] = .trap t) (hstep : stepFail t = true) :
    RunsTo (.mGst ty a b p imm) s [.s a, .s b] [.p p] (wrP p 4 false) := by
  intro hruns
  rw [exec_mGst, execMGst, hx]
  simp only [hstep, if_true]
  exact issue_runs hruns rfl rfl rfl rfl

/-! The bytes of a store (R185, R224). -/

section

variable {s : State} {l : List Byte}

/-- Bytes of the scratchpad are put at once, and count nothing toward the limit on other stores. -/
theorem storePut_spad (va : Nat) :
    storePut [.spad va l.length] l s = countBytes 0 (s.upCore fun c => c.putSpad va l) := by
  simp [storePut, sharedBytes, putPieces]

/-- Bytes of shared memory are withheld, and counted. -/
theorem storePut_mem (pa n : Nat) (st : Bool) :
    storePut [.mem pa n st] l s = countBytes n (withhold .store pa (l.take n) s) := by
  simp [storePut, sharedBytes, putPieces]

theorem mem_linesOf {va n x : Nat} (hn : 0 < n) (hlow : va / 64 ≤ x) (hhigh : x ≤ (va + n - 1) / 64) :
    x ∈ linesOf va n := by
  have hpos : (n == 0) = false := beq_false_of_ne (by omega)
  simp only [linesOf, hpos, Bool.false_eq_true, if_false, List.mem_map, List.mem_range]
  exact ⟨x - va / 64, by omega, by omega⟩

/-- A line that the undo log does not hold yet enters it as it stands before the store (R224). -/
theorem mem_undo_putSpad {c : Core} {va x : Nat} (hnew : c.undo.any (fun u => u.1 == 64 * x) = false)
    (hx : x ∈ linesOf va l.length) : (64 * x, memGetN c.spad (64 * x) 64) ∈ (c.putSpad va l).undo := by
  have hline : x ∈ newLines c [(va, l.length)] := by
    simp only [newLines, List.flatMap_singleton, List.mem_filter, List.mem_eraseDups, hnew, Bool.not_false, and_true]
    exact hx
  exact List.mem_append_right _ (List.mem_map.2 ⟨x, hline, rfl⟩)

end

/-- Settles O43: the stores by what their access finds, M.VSTU and M.GST by their own; then the two kinds of bytes. -/
theorem stores : Obligations.Stores := by
  refine ⟨fun s ty a b c vb vc p imm => ?syllables, fun s va n l hmem hlen => ?spad, fun s pa n st l => ?shared⟩
  case syllables =>
    intro ea scalar lines
    have hea : addrOf s a imm = ea := addrOf_eq s a imm
    refine ⟨fun x hx => ?plain, fun ps hx hstall hlimit => mVstu_runs hstall (by rw [hea, hx]) rfl hlimit,
      fun ps hx hstall hlimit => mGst_runs hstall (by rw [hea, hx]) hlimit,
      fun t hx ht => mGst_fails (by rw [hea, hx]) ?step⟩
    case plain =>
      have hi : exec x.1 s = storeSyl x.2.1 x.2.2.1 x.2.2.2 s := by
        simp only [List.mem_cons, List.not_mem_nil, or_false] at hx
        obtain rfl | rfl | rfl | rfl | rfl := hx
        · exact hea ▸ exec_mSt ..
        · exact hea ▸ exec_mStp ..
        · exact hea ▸ exec_mVst ..
        · simp only [lines, ← hea]
          exact exec_mVsts ..
        · exact hea ▸ exec_mZero ..
      exact ⟨fun ps hat => ⟨storeSyl_runs hi hat, fun t => storeSyl_limit hi hat, fun f => storeSyl_freezes hi hat⟩,
        fun t => storeSyl_traps hi⟩
    case step =>
      simp only [List.mem_cons, List.not_mem_nil, or_false] at ht
      obtain h | h | h | h | h | h := ht <;> simp [stepFail, h]
  case spad =>
    subst hlen
    rw [storePut_spad]
    refine ⟨fun k => ?_, rfl, fun x hnew hlow hhigh hpos => mem_undo_putSpad hnew (mem_linesOf hpos hlow hhigh)⟩
    have hin : va ≤ va + k.val ∧ va + k.val < va + l.length := by omega
    exact (memGet_memSetN va (va + k) l hmem).trans (by simp [hin])
  case shared =>
    rw [storePut_mem]
    exact ⟨rfl, rfl, rfl⟩

end Sys2Proof.Machine
end

section
/-! PROOFS. The ordering accesses (spec/10 R193, R194; spec/11 R214, R216, R217): the issue of one by what it finds,
what an atomic makes of its word, of the rest of memory and of its result in flight, and from these the statement O45. -/

namespace Sys2Proof.Machine

/-! Issue (R193, R216). -/

theorem addrOf_zero (s : State) (a : SReg) : addrOf s a 0 = (regS s a).toNat % 2 ^ 56 := by
  have hzero : (0 : BitVec 16).toInt = 0 := BitVec.toInt_zero
  rw [addrOf_eq, hzero]
  omega

section

variable {s : State}

section

variable {i : Instr} {srcs : List Reg} {d : SReg} {k n : Nat} {x : Except Trap Nat} {mk : Nat → Nat → Held}
  (hi : exec i s = orderSyl srcs d k x n mk s)

include hi

/-- An ordering access is withheld, its result awaited. -/
theorem orderSyl_runs {pa : Nat} (hx : x = .ok pa) (hlimit : storeLimit s.core [] n = none) :
    RunsTo i s srcs [.s d] fun u => countBytes n (withheld (mk pa u.fresh) (awaited d k (.ordPend d) u)) := by
  subst hx
  exact runsTo_issue hi rfl rfl hlimit rfl

theorem orderSyl_traps {t : Trap} (hx : x = .error t) (hruns : Runs s srcs [.s d]) :
    exec i s = .next (trapHere t s) := by
  subst hx
  exact hi.trans (issue_traps hruns rfl rfl)

end

section

variable {ty : SizeTy} {sc : Scope} {a b : SReg}

theorem mStrl_runs {pa : Nat} (hx : orderAt s .wr ty.bytes (addrOf s a 0) = .ok pa)
    (hlimit : storeLimit s.core [] 8 = none) : RunsTo (.mStrl ty sc a b) s [.s a, .s b] []
      fun u => countBytes 8 (withheld (.strl pa (storeBytes s ty b) sc) u) := by
  intro hruns
  rw [exec_mStrl, execMStrl, hx]
  exact issue_runs hruns rfl rfl hlimit rfl

theorem mStrl_traps {t : Trap} (hx : orderAt s .wr ty.bytes (addrOf s a 0) = .error t)
    (hruns : Runs s [.s a, .s b] []) : exec (.mStrl ty sc a b) s = .next (trapHere t s) := by
  rw [exec_mStrl, execMStrl, hx]
  exact issue_traps hruns rfl rfl

end

theorem orderAt_unaligned {k : Access} {w va : Nat} (h : va % w ≠ 0) : orderAt s k w va = .error (memTrap 1) := by
  simp [orderAt, h]

theorem orderAt_local {k : Access} {w va : Nat} (hal : va % w = 0) (hlocal : va < 0x80000) :
    orderAt s k w va = .error (memTrap 3) := by
  have hin : inLocal va = true := decide_eq_true hlocal
  simp [orderAt, hal, hin]

end

/-! The value of an atomic (R193, R194). -/

theorem AtomOp.apply_lt {op : AtomOp} {n old b x : Nat} (h : op.apply n old b = some x) (hold : old < 2 ^ n) :
    x < 2 ^ n := by
  have hpos := Nat.two_pow_pos n
  have hm : b % 2 ^ n < 2 ^ n := Nat.mod_lt _ hpos
  cases op <;> simp only [AtomOp.apply, Option.some.injEq, Option.ite_none_right_eq_some] at h
  case add => exact h ▸ Nat.mod_lt _ hpos
  case min | max => split_ifs at h <;> omega
  case and => exact h ▸ Nat.and_lt_two_pow _ hm
  case or => exact h ▸ Nat.or_lt_two_pow hold hm
  case xor => exact h ▸ Nat.xor_lt_two_pow hold hm
  case swap => omega
  case cas => exact h.2 ▸ Nat.mod_lt _ hpos

/-! A performed write leaves the cores (R212, R295). -/

theorem writeMem_core (pa : Nat) (b : List Byte) (heads : List Head) (s : State) :
    (writeMem pa b heads s).core = s.core := by
  unfold writeMem wakeWatches
  exact List.foldlRecOn (motive := fun t : State => t.core = s.core) _ _ rfl fun t ht w _ => ht

/-! Memory read in words. -/

/-- Bytes that read as those of a list are that list. -/
theorem memGetN_eq {m : List Host.Cell} {a : Nat} {l : List Byte} (h : ∀ k : Fin l.length, memGet m (a + k) = l[k]) :
    memGetN m a l.length = l := by
  induction l generalizing a with
  | nil => rfl
  | cons b t ih =>
    have hfirst : memGet m a = b := h ⟨0, Nat.succ_pos _⟩
    have hrest : memGetN m (a + 1) t.length = t := ih fun k => by
      have hk : memGet m (a + (k.val + 1)) = t[k] := h k.succ
      rwa [show a + 1 + k.val = a + (k.val + 1) by omega]
    rw [List.length_cons, memGetN, hfirst, hrest]

/-- Bytes written and read back, no ring of a run queue among them. -/
theorem writeMem_memGetN {pa : Nat} {b : List Byte} {heads : List Head} {s : State} (hm : memOk s.die.mem = true)
    (hring : ∀ k < b.length, ¬ringed s.die (pa + k)) : memGetN (writeMem pa b heads s).die.mem pa b.length = b :=
  memGetN_eq fun k => by
    have hin : pa ≤ pa + k.val ∧ pa + k.val < pa + b.length := by omega
    rw [writeMem_mem hm (hring k k.isLt), memGet_memSetN _ _ _ hm, dif_pos hin]
    simp

/-! An atomic performed (R193, R216). -/

section

/-- The bytes of an atomic's word. -/
def atomWidth (w32 : Bool) : Nat := if w32 then 4 else 8

/-- The word that an atomic finds. -/
def atomOld (u : State) (pa : Nat) (w32 : Bool) : Nat := natOf (memGetN u.die.mem pa (atomWidth w32))

theorem atomOld_lt (u : State) (pa : Nat) (w32 : Bool) : atomOld u pa w32 < 2 ^ (8 * atomWidth w32) := by
  have hlt := natOf_lt (memGetN u.die.mem pa (atomWidth w32))
  rwa [memGetN_length, show (256 : Nat) = 2 ^ 8 from rfl, ← Nat.pow_mul] at hlt

variable {op : AtomOp} {pa : Nat} {w32 : Bool} {b : Word} {o : MemOrd} {sc : Scope} {k : Nat} {u : State}

/-- The result of an atomic takes its place in flight, whether or not a value is written. -/
theorem atomNow_inflight : ∃ ids, (atomNow op pa w32 b o sc k u).core.arch.inflight =
    resolve k (wordI (sextN (atomOld u pa w32) (8 * atomWidth w32))) ids u.core.arch.inflight := by
  cases h : op.apply (8 * if w32 then 4 else 8) (natOf (memGetN u.die.mem pa (if w32 then 4 else 8))) b.toNat with
  | none =>
    simp only [atomNow, h]
    exact ⟨_, rfl⟩
  | some x =>
    simp only [atomNow, h]
    exact ⟨_, congrArg (·.arch.inflight) (writeMem_core ..)⟩

/-- An atomic that has no value to write leaves the die. -/
theorem atomNow_die_none (h : op.apply (8 * atomWidth w32) (atomOld u pa w32) b.toNat = none) :
    (atomNow op pa w32 b o sc k u).die = u.die := by
  unfold atomOld atomWidth at h
  simp only [atomNow, h]
  rfl

/-- One that has performs a write of the bytes of its word. -/
theorem atomNow_die_some {x : Nat} (h : op.apply (8 * atomWidth w32) (atomOld u pa w32) b.toNat = some x) :
    ∃ heads t, (atomNow op pa w32 b o sc k u).die = (writeMem pa (bytesOf (atomWidth w32) x) heads t).die ∧
      t.die = u.die := by
  unfold atomOld atomWidth at h
  simp only [atomNow, h]
  exact ⟨_, _, rfl, rfl⟩

/-- Outside its word an atomic changes no byte, the rings of run queues apart (R271, R295). -/
theorem atomNow_frame {a : Nat} (hm : memOk u.die.mem = true) (ha : a < pa ∨ pa + atomWidth w32 ≤ a)
    (hring : ¬ringed u.die a) : memGet (atomNow op pa w32 b o sc k u).die.mem a = memGet u.die.mem a := by
  cases h : op.apply (8 * atomWidth w32) (atomOld u pa w32) b.toNat with
  | none => rw [atomNow_die_none h]
  | some x =>
    obtain ⟨heads, t, hdie, ht⟩ := atomNow_die_some (o := o) (sc := sc) (k := k) h
    rw [← ht] at hm hring ⊢
    have hout : ¬(pa ≤ a ∧ a < pa + (bytesOf (atomWidth w32) x).length) := by
      rw [bytesOf_length]
      omega
    rw [hdie, writeMem_mem hm hring, memGet_memSetN _ _ _ hm, dif_neg hout]

/-- Its word takes the value of the operation, and stands where there is none. -/
theorem atomNow_word (hm : memOk u.die.mem = true) (hring : ∀ j < atomWidth w32, ¬ringed u.die (pa + j)) :
    natOf (memGetN (atomNow op pa w32 b o sc k u).die.mem pa (atomWidth w32)) =
      (op.apply (8 * atomWidth w32) (atomOld u pa w32) b.toNat).getD (atomOld u pa w32) := by
  cases h : op.apply (8 * atomWidth w32) (atomOld u pa w32) b.toNat with
  | none =>
    rw [atomNow_die_none h]
    rfl
  | some x =>
    obtain ⟨heads, t, hdie, ht⟩ := atomNow_die_some (o := o) (sc := sc) (k := k) h
    rw [← ht] at hm hring
    have hback := writeMem_memGetN (b := bytesOf (atomWidth w32) x) (heads := heads) hm (by simpa using hring)
    have hx : x < 256 ^ atomWidth w32 := by
      rw [show (256 : Nat) = 2 ^ 8 from rfl, ← Nat.pow_mul]
      exact AtomOp.apply_lt h (atomOld_lt u pa w32)
    rw [bytesOf_length] at hback
    rw [hdie, hback, natOf_bytesOf, Nat.mod_eq_of_lt hx, Option.getD_some]

end

/-! Results in flight (R216, R229). -/

section

variable {l : List Inflight} {e : Inflight} {d : SReg} {k : Nat} (he : e ∈ l) (hland : e.land = .ordPend d k)

include he hland

/-- An awaited result that is resolved is that of its register, due when it was. -/
theorem mem_resolve (x : Word) (ids : List Nat) (hd : d.val < 56) : ⟨e.due, .s d x⟩ ∈ resolve k x ids l := by
  refine List.mem_flatMap.2 ⟨e, he, ?_⟩
  simp [hland, hd]

/-- One that is spoiled is a trap, due when it was. -/
theorem mem_spoil (t : Trap) : ⟨e.due, .trap t none⟩ ∈ spoil k t l := by
  refine List.mem_map.2 ⟨e, he, ?_⟩
  simp [hland]

end

/-- Settles O45: each access by what it finds; then an atomic that is performed, and one whose word has bad ECC. -/
theorem orderingAccesses : Obligations.OrderingAccesses := by
  refine ⟨fun s o fo cls ty sc kind d a b c pa t => ?syllables, fun u op pa w32 b o sc d k hm hecc => ?performed,
    fun u op pa w32 b o sc d k t hecc => ?spoiled⟩
  case syllables =>
    intro ea w n hold
    have hea : addrOf s a 0 = ea := addrOf_zero s a
    have hn : cls.scalar = n := by cases cls <;> rfl
    refine ⟨fun x hx => ?atomics, fun hpa hlimit => ?ldaq, fun ht => orderSyl_traps (exec_mLdaq ..) (by rw [hea, ht]),
      fun hpa => mStrl_runs (by rw [hea, hpa]), fun ht => mStrl_traps (by rw [hea, ht]),
      runsTo_issue (exec_mFence ..) rfl rfl rfl rfl, orderAt_unaligned, orderAt_local⟩
    case atomics =>
      have hi : exec x.1 s = orderSyl ([.s a, .s b] ++ x.2.2) d 120 (orderAt s .atom w ea) 8
          (fun pa k => .atom x.2.1 pa o.w32 (regS s b) o.ord o.scope d k) s := by
        rw [← hea]
        simp only [List.mem_cons, List.not_mem_nil, or_false] at hx
        obtain rfl | rfl | rfl | rfl | rfl | rfl | rfl | rfl := hx <;> rfl
      exact ⟨fun hpa => orderSyl_runs hi hpa, fun ht => orderSyl_traps hi ht⟩
    case ldaq =>
      exact hn ▸ orderSyl_runs (exec_mLdaq ..) (by rw [hea, hpa]) hlimit
  case performed =>
    intro w old m v now
    have hv : v = atomNow op pa w32 b o sc k u := by
      simp only [v, perform, performAtom, hecc]
    refine ⟨fun a ha hring => ?_, fun hring => ?_, fun e he k' hland hk hd => ?_⟩
    · rw [hv]
      exact atomNow_frame hm ha hring
    · have hword : now = (op.apply (8 * w) old b.toNat).getD old := by
        simp only [now, hv]
        exact atomNow_word hm hring
      rw [hword]
      refine ⟨?_, ?_, ?_, ?_, ?_, ?_, ?_, fun x f hop => ?compare⟩
      case compare =>
        subst hop
        have hsame : (old == b.toNat % 2 ^ (8 * w)) = decide (old = m) := rfl
        rw [AtomOp.apply, hsame]
        by_cases heq : old = m <;> simp [heq]
      all_goals
        rintro rfl
        rfl
    · subst hk
      obtain ⟨ids, hflight⟩ : ∃ ids, v.core.arch.inflight = resolve k' (wordI (sextN old (8 * w))) ids _ :=
        hv ▸ atomNow_inflight
      rw [hflight]
      exact mem_resolve he hland _ ids hd
  case spoiled =>
    intro v
    have hv : v = u.upArch fun a => { a with inflight := spoil k t a.inflight } := by
      simp only [v, perform, performAtom, hecc]
    rw [hv]
    exact ⟨rfl, fun e he d' hland => ⟨_, mem_spoil he hland t, rfl, none, rfl⟩⟩

end Sys2Proof.Machine
end

section
/-! PROOFS. The copy commands (spec/10 R195, R201 to R203) and the copy engine's progress (R202, R203, R205, R207;
spec/19 R322): what a copy syllable enters or meets, how each event of the engine ends a pass, and from these the
statement O50. -/

namespace Sys2Proof.Machine

/-! Issue (R195, R201, R202). -/

section

variable {s : State} {k : CopyKind}

theorem tableLoad_unindexed (h : k.indexed = false) : tableLoad s k = .got [] [] none := by
  simp [tableLoad, h]

/-- An index table that waits for no footprint is not late (R207). -/
theorem tableLate_false {ps : List Piece} {l : List Byte} {t : Option Trap} (h : tableLoad s k = .got ps l t)
    (hstall : spadStall s.core false (spadRanges ps) = none) : tableLate s k = false := by
  simp [tableLate, h, hstall]

theorem tableLate_unindexed (h : k.indexed = false) : tableLate s k = false := by
  refine tableLate_false (tableLoad_unindexed h) ?_
  simp [spadStall, blockers, spadRanges]

/-- A reserved bit of CG3 or CG4 is the first check that fails (R201). -/
theorem copyCheck_reserved {c : CopyCmd} (h : wbits s.core.arch.cg[3] 63 56 ≠ 0 ∨ wbits s.core.arch.cg[4] 63 32 ≠ 0) :
    copyCheck s c = some (copyTrap 3 c.tag) := by
  have hreserved : cgReserved s = true := by
    obtain h | h := h <;> simp [cgReserved, cgHi, h]
  simp [copyCheck, tableParam, hreserved]

/-- What reading the index table meets comes right after PARAM (log 46). -/
theorem copyCheck_table {c : CopyCmd} {e : Trap} (hparam : tableParam s c.kind = false)
    (hinside : c.outside (cgLo s 4) = false) (h : tableLoad s c.kind = .trap e) : copyCheck s c = some e := by
  simp [copyCheck, hparam, hinside, h]

/-- The source of a copy syllable: the entry that it names, read at once, or none. -/
def CopySource (s : State) (ta : Option TId) (a : Tensor) : Prop :=
  ta.elim (a = Tensor.none) fun i => readTensor s i = .ok a ∧ entryLate s i = false

section

variable {i : Instr} {srcs : List Reg} {ta : Option TId} {tb : TId} {tag : Tag} {a b : Tensor}
  (hi : exec i s = copySyl srcs k ta tb tag s) (ha : CopySource s ta a) (hb : readTensor s tb = .ok b)

include hi ha hb

/-- The first check that fails is the bundle's trap. -/
theorem copySyl_traps {e : Trap} (hcheck : copyCheck s (makeCopy s k a b (tableLoad s k).bytes tag) = some e)
    (hruns : Runs s srcs []) : exec i s = .next (trapHere e s) := by
  rw [hi]
  unfold copySyl
  refine issue_traps hruns rfl ?_
  cases ta with
  | none =>
    cases ha
    simp [hb, hcheck, errOf]
  | some x =>
    obtain ⟨hread, -⟩ := ha
    simp [hb, hread, hcheck, errOf]

/-- A copy command enters when its checks pass and neither the queue, its entries, its table, the scoreboard nor the
limit holds it back. -/
theorem copySyl_runs (hcheck : copyCheck s (makeCopy s k a b (tableLoad s k).bytes tag) = none)
    (hblate : entryLate s tb = false) (htable : tableLate s k = false) (hfull : s.core.copyq.length < 512)
    (hboard : boardStall s.core (cgFoots s) = none) (hcmds : s.core.seg.cmds < 64) :
    RunsTo i s srcs [] (enterCopy (makeCopy s k a b (tableLoad s k).bytes tag)) := by
  have hqueue : copyFull s.core = none := if_neg (Nat.not_le.2 hfull)
  intro hruns
  rw [hi]
  unfold copySyl
  cases ta with
  | none =>
    cases ha
    simp only [hb, hcheck]
    exact issue_runs hruns rfl rfl (cmdLimit_none hcmds) (by simp [hqueue, htable, entryStall, hblate, hboard])
  | some x =>
    obtain ⟨hread, hlate⟩ := ha
    simp only [hb, hread, hcheck]
    exact issue_runs hruns rfl rfl (cmdLimit_none hcmds) (by simp [hqueue, htable, entryStall, hlate, hblate, hboard])

/-- What a command without an index table enters or meets. -/
theorem copySyl_unindexed (hk : k.indexed = false) (hblate : entryLate s tb = false)
    (hfull : s.core.copyq.length < 512) (hboard : boardStall s.core (cgFoots s) = none) (hcmds : s.core.seg.cmds < 64) :
    (copyCheck s (makeCopy s k a b [] tag) = none → RunsTo i s srcs [] (enterCopy (makeCopy s k a b [] tag))) ∧
    ∀ e, copyCheck s (makeCopy s k a b [] tag) = some e → Runs s srcs [] → exec i s = .next (trapHere e s) := by
  have hbytes : (tableLoad s k).bytes = [] := by rw [tableLoad_unindexed hk, Loaded.bytes]
  have hruns := copySyl_runs hi ha hb
  have htraps {e : Trap} := copySyl_traps (e := e) hi ha hb
  rw [hbytes] at hruns htraps
  exact ⟨fun hcheck => hruns hcheck hblate (tableLate_unindexed hk) hfull hboard hcmds, fun e => htraps⟩

end

theorem cPref_runs {ta : TId} {tag : Tag} (hfull : s.core.copyq.length < 512)
    (hboard : boardStall s.core (cgFoots s) = none) (hcmds : s.core.seg.cmds < 64) :
    RunsTo (.cPref ta tag) s [] [] (enterCopy (makeCopy s .pref Tensor.none Tensor.none [] tag)) := by
  have hqueue : copyFull s.core = none := if_neg (Nat.not_le.2 hfull)
  exact runsTo_issue (exec_cPref ..) rfl rfl (cmdLimit_none hcmds) (by simp [hqueue, hboard])

theorem cPref_limit {ta : TId} {tag : Tag} (hcmds : 64 ≤ s.core.seg.cmds) (hruns : Runs s [] []) :
    exec (.cPref ta tag) s = .next (trapHere { cause := .segment, detail := 3 } s) := by
  rw [exec_cPref, execCPref]
  exact issue_limit hruns rfl rfl (if_pos hcmds)

/-- What an entry leaves: the queue with the command, one engine command and one outstanding command of its tag more. -/
theorem enterCopy_frame (x : CopyCmd) (u : State) :
    (enterCopy x u).core.copyq = u.core.copyq ++ [{ x with serial := u.pkg.nextId }] ∧
    (enterCopy x u).core.seg.cmds = u.core.seg.cmds + 1 ∧
    (enterCopy x u).core.tags[x.tag].out = u.core.tags[x.tag].out + 1 ∧
    (enterCopy x u).core.tags[x.tag].done = false ∧
    (enterCopy x u).die.mem = u.die.mem ∧ (enterCopy x u).core.spad = u.core.spad := by
  have htag : (enterCopy x u).core.tags[x.tag] =
      { u.core.tags[x.tag] with out := u.core.tags[x.tag].out + 1, done := false } := by
    simp [enterCopy, countCmd, tagIssue]
  rw [htag]
  exact ⟨rfl, rfl, rfl, rfl, rfl, rfl⟩

end

/-! The engine's events (R202, R205, R322). -/

section

variable {s : State} {n : Nat} {m : CopyCmd}

theorem copyCommandStart_starts (h : (s.core.copyq.find? fun m => !m.held && !m.running && !m.isXch) = some m)
    (hn : m.serial = n) (hclear : boardClear s.core n m.foots = true) : exec (.copyCommandStart n) s =
      .next (s.upCore fun c =>
        { c with copyq := c.copyq.map fun x => if x.serial = n then { x with running := true } else x }) := by
  simp [execCopyCommandStart, h, hn, hclear]

theorem copyCommandStart_waits (h : (s.core.copyq.find? fun m => !m.held && !m.running && !m.isXch) = some m)
    (hclear : boardClear s.core n m.foots = false) : exec (.copyCommandStart n) s = .next s := by
  simp [execCopyCommandStart, h, hclear]

theorem copyRun_none (h : runningCopy s.core n = none) : exec (.copyComplete n) s = .next s ∧
    exec (.copyFault n) s = .next s ∧ exec (.copyDemandPark n) s = .next s := by
  have hrun : copyRun n s = none := by rw [copyRun, h, Option.map_none]
  simp [execCopyComplete, execCopyFault, execCopyDemandPark, hrun]

/-- A pass over an uncompressed destination performs the command's walk, and a park keeps what it has read (R322). -/
theorem copyPass_plain (h : m.dst.cmp = 0) : copyPass m s =
    let w := runWalk m.done (m.walked s) s
    ⟨w.1, w.2.2.1, w.2.2.2, (m.walked s).evs, fun x => { x with
      done := w.2.1, step := (m.walked s).read, puts := (m.walked s).puts, tail := [], evs := (m.walked s).evs
      spad := some (m.reading s).core.spad }⟩ := by
  simp [copyPass, h]

/-- The state in which a command that parks is kept (R322). -/
def parkedState (n : Nat) (m : CopyCmd) (r : CopyEnd) (va kind : Nat) : State :=
  postParked va kind m.tag.val (r.s.upCore fun c => { c with
    copyq := c.copyq.map fun x => if x.serial == n then { r.keep x with parked := some va } else x
    tags := c.tags.set m.tag { c.tags[m.tag] with writes := joinIds c.tags[m.tag].writes r.ids } })

section

variable {r : CopyEnd} (hrun : copyRun n s = some (m, r))

include hrun

theorem copyRun_done (h : r.how = .done) :
    exec (.copyComplete n) s = .next (endCopy m (tally r.evs) none r.ids r.s) ∧
    exec (.copyFault n) s = .next s ∧ exec (.copyDemandPark n) s = .next s := by
  obtain ⟨t, how, ids, evs, keep⟩ := r
  subst h
  simp [execCopyComplete, execCopyFault, execCopyDemandPark, hrun]

theorem copyRun_failed {e : Trap} (h : r.how = .failed e) :
    exec (.copyFault n) s = .next (endCopy m (tally r.evs) (some e) r.ids r.s) ∧
    exec (.copyComplete n) s = .next s ∧ exec (.copyDemandPark n) s = .next s := by
  obtain ⟨t, how, ids, evs, keep⟩ := r
  subst h
  simp [execCopyComplete, execCopyFault, execCopyDemandPark, hrun]

theorem copyRun_parked {va kind : Nat} (h : r.how = .parked va kind) :
    exec (.copyDemandPark n) s = .next (parkedState n m r va kind) ∧
    exec (.copyComplete n) s = .next s ∧ exec (.copyFault n) s = .next s := by
  obtain ⟨t, how, ids, evs, keep⟩ := r
  subst h
  simp [execCopyComplete, execCopyFault, execCopyDemandPark, hrun, parkedState]

end

end

/-! The end of a command (R203). -/

section

variable (m : CopyCmd) (t : Tag) (err : Option Trap) (ids : List Nat) (c : Core)

theorem Core.stat_frame (k u n ba : Nat) : (c.stat k u n ba).tags = c.tags ∧ (c.stat k u n ba).copyq = c.copyq := by
  unfold Core.stat
  split <;> exact ⟨rfl, rfl⟩

/-- Records that are appended leave the tags and the queue. -/
theorem statNow_frame (u : StatUnit) (ba : Nat) (counts : List (Nat × Nat)) :
    (statNow u ba counts c).tags = c.tags ∧ (statNow u ba counts c).copyq = c.copyq := by
  refine List.foldlRecOn (motive := fun d : Core => d.tags = c.tags ∧ d.copyq = c.copyq) _ _ ⟨rfl, rfl⟩
    fun d hd p _ => ?_
  obtain ⟨htags, hqueue⟩ := hd
  split_ifs
  · exact ⟨htags, hqueue⟩
  · obtain ⟨htags', hqueue'⟩ := d.stat_frame p.1 u.code p.2 ba
    exact ⟨htags'.trans htags, hqueue'.trans hqueue⟩

theorem tagEnd_tag : (tagEnd t err ids c).tags[t].out = c.tags[t].out - 1 ∧
    (tagEnd t err ids c).tags[t].done = decide (c.tags[t].out ≤ 1) ∧
    (tagEnd t err ids c).tags[t].err = (err.isSome || c.tags[t].err) := by
  have hdone (k : Nat) : (k - 1 == 0) = decide (k ≤ 1) := by
    rw [Bool.eq_iff_iff, beq_iff_eq, decide_eq_true_iff]
    omega
  cases err <;> simp [tagEnd, hdone]

/-- A command that ends leaves the queue, and its tag has one command less outstanding. -/
theorem endCopy_frame (counts : List (Nat × Nat)) (s : State) :
    (endCopy m counts err ids s).core.tags[m.tag].out = s.core.tags[m.tag].out - 1 ∧
    (endCopy m counts err ids s).core.tags[m.tag].done = decide (s.core.tags[m.tag].out ≤ 1) ∧
    (endCopy m counts err ids s).core.tags[m.tag].err = (err.isSome || s.core.tags[m.tag].err) ∧
    (endCopy m counts err ids s).core.copyq = s.core.copyq.filter fun x => x.serial != m.serial := by
  obtain ⟨htags, hqueue⟩ := statNow_frame { s.core with copyq := s.core.copyq.filter fun x => x.serial != m.serial }
    .copy m.ba counts
  obtain ⟨hout, hdone, herr⟩ := tagEnd_tag m.tag err ids
    (statNow .copy m.ba counts { s.core with copyq := s.core.copyq.filter fun x => x.serial != m.serial })
  rw [htags] at hout hdone herr
  exact ⟨hout, hdone, herr, hqueue⟩

end

/-- Settles O50: each copy command by its source, checks and room; then the engine's events, by how a pass ends. -/
theorem copyCommandsAndProgress : Obligations.CopyCommandsAndProgress := by
  refine ⟨fun s r ta tb tag pl ck slot a b => ?syllables, fun s n => ?progress⟩
  case syllables =>
    intro cg cmd traps room
    refine ⟨fun hb hblate hroom hcmds => ⟨fun ha halate => ?sourced, fun p hp => ?fills⟩,
      fun k x l h => copyCheck_reserved h, fun hroom hcmds => ?pref, cPref_limit, enterCopy_frame⟩
    case pref =>
      obtain ⟨hfull, hboard⟩ := hroom
      exact ⟨_, rfl, rfl, rfl, rfl, cPref_runs hfull hboard hcmds⟩
    case fills =>
      obtain ⟨hfull, hboard⟩ := hroom
      obtain ⟨hk, hi⟩ : p.2.indexed = false ∧ exec p.1 s = copySyl [.s r] p.2 none tb tag s := by
        simp only [List.mem_cons, List.not_mem_nil, or_false] at hp
        obtain rfl | rfl := hp <;> exact ⟨rfl, rfl⟩
      exact copySyl_unindexed hi rfl hb hk hblate hfull hboard hcmds
    case sourced =>
      obtain ⟨hfull, hboard⟩ := hroom
      have hsource : CopySource s (some ta) a := ⟨ha, halate⟩
      refine ⟨fun p hp => ?plain, fun p hp => ?indexed⟩
      case plain =>
        obtain ⟨hk, hi⟩ : p.2.indexed = false ∧ exec p.1 s = copySyl [] p.2 (some ta) tb tag s := by
          simp only [List.mem_cons, List.not_mem_nil, or_false] at hp
          obtain rfl | rfl | rfl | rfl | rfl | rfl := hp <;> exact ⟨rfl, rfl⟩
        exact copySyl_unindexed hi hsource hb hk hblate hfull hboard hcmds
      case indexed =>
        have hi : exec p.1 s = copySyl [] p.2 (some ta) tb tag s := by
          simp only [List.mem_cons, List.not_mem_nil, or_false] at hp
          obtain rfl | rfl := hp <;> rfl
        refine ⟨fun ps l hload hstall hcheck => ?_, fun e hparam hload hinside => copySyl_traps hi hsource hb ?_⟩
        · have hcheck' : copyCheck s (makeCopy s p.2 a b (tableLoad s p.2).bytes tag) = none := by rwa [hload]
          have hruns := copySyl_runs hi hsource hb hcheck' hblate (tableLate_false hload hstall) hfull hboard hcmds
          rwa [hload] at hruns
        · rw [hload]
          exact copyCheck_table hparam hinside hload
  case progress =>
    refine ⟨fun m hm hn => ⟨fun hclear => ⟨_, rfl, copyCommandStart_starts hm hn hclear⟩, copyCommandStart_waits hm⟩,
      fun hnone i hi => ?idle, fun m hm => ?running, fun m counts err ids => endCopy_frame m err ids counts s⟩
    case idle =>
      obtain ⟨hcomplete, hfault, hpark⟩ := copyRun_none hnone
      simp only [List.mem_cons, List.not_mem_nil, or_false] at hi
      obtain rfl | rfl | rfl := hi <;> assumption
    case running =>
      intro r
      have hrun : copyRun n s = some (m, r) := congrArg (Option.map fun m => (m, copyPass m s)) hm
      refine ⟨copyRun_done hrun, fun e => copyRun_failed hrun, fun va kind hhow => ?park, fun hplain => ?walk⟩
      case park =>
        obtain ⟨hpark, hothers⟩ := copyRun_parked hrun hhow
        exact ⟨⟨_, hpark, ⟨_, rfl⟩, rfl, rfl, rfl⟩, hothers⟩
      case walk =>
        intro before v all w
        have hpass : r = ⟨w.1, w.2.2.1, w.2.2.2, all.evs, fun x => { x with
            done := w.2.1, step := all.read, puts := all.puts, tail := [], evs := all.evs
            spad := some before.core.spad }⟩ := copyPass_plain hplain
        rw [hpass]
        exact ⟨rfl, rfl, rfl, rfl, fun _ => rfl⟩

end Sys2Proof.Machine
end

section
/-! PROOFS. What a store withholds (spec/10 R185; spec/12 R224; spec/04 R58; spec/11 R211): one that reads its data from
the receive port also withholds what the popped slot makes known, and from it the refutation of O44. -/

namespace Sys2Proof.Machine

/-- The core after reset, its receive port bound to a stream in which one slot is present. -/
def receivingReset : State :=
  { State.reset with
    core := { State.reset.core with arch := { State.reset.core.arch with recvBind := some 0 } }
    die := { State.reset.die with recv := State.reset.die.recv.set 0 (some
      { slotsz := 64, slots := 1, present := [⟨0, 8, [1], none, []⟩], eos := false, broken := false, owed := 0 }) } }

/-- Nothing keeps an M.ST of the received word to address 0 from taking its effect. -/
theorem receivingReset_runs : Runs receivingReset [.s 0, .s 62] [] := ⟨rfl, rfl, rfl⟩

theorem receivingReset_stores : storeAt receivingReset 1 1 [addrOf receivingReset 0 0] = .at' [.spad 0 1] := rfl

theorem receivingReset_mSt : exec (.mSt .i8 0 62 0) receivingReset = .next
    (storePut [.spad 0 1] (storeBytes receivingReset .i8 62) (reads [.s 0, .s 62] receivingReset)) :=
  storeSyl_runs (exec_mSt ..) receivingReset_stores rfl rfl receivingReset_runs

/-- Refutes O44: an M.ST that reads its data from s62 pops the slot there, and withholds what happened before the slot's
send (R211, R213), where the statement has each effect that a store withholds be a store. -/
theorem not_storeFrame : ¬ Obligations.StoreFrame := by
  unfold Obligations.StoreFrame
  intro h
  have hframe := h receivingReset _ .i8 0 62 0 0 0 0 0 0 rfl _ (List.mem_cons_self ..) receivingReset_mSt rfl
  obtain ⟨-, -, -, -, -, -, -, -, -, l, hheld, hstores⟩ := hframe
  have hl : l = [.past []] := hheld.symm
  obtain ⟨pa, d, hpast, -⟩ := hstores (.past []) (by simp [hl])
  cases hpast

end Sys2Proof.Machine
end

section
/-! PROOFS. Taking a trap (spec/12 R224, R227, R228; spec/18 R300, R303, R304): what a rollback restores and what it
leaves, where a trap goes after it, the fields of TRAPINFO, and from these the statement O31. -/

namespace Sys2Proof.Machine

/-! The rollback (R224). -/

section

variable (s : State)

/-- A popped entry that returns moves its own queue alone (R59). -/
theorem onlyFlight_unpop (p : Popped) : OnlyFlight s (unpop s p) := by
  cases p with
  | crewq c q k x => rfl
  | stat x second => cases second <;> rfl
  | mbox n k x => rfl
  | slot n x port => rfl
  | geo r =>
    change OnlyFlight s (if r.seg then s else _)
    split <;> rfl
  | patch x => rfl

/-- The state in which the segment's popped entries have returned, the latest first. -/
def unpopped : State := s.core.popped.reverse.foldl unpop s

theorem onlyFlight_unpopped : OnlyFlight s (unpopped s) :=
  List.foldlRecOn (motive := OnlyFlight s) _ _ (.refl s) fun t ht p _ => ht.trans (onlyFlight_unpop t p)

/-- A place of a run queue that is given back leaves where the rings stand. -/
theorem ringed_reservePlaces (q : Fin 64) (f : Nat → Nat) (a : Nat) :
    ringed (reservePlaces q f s).die a ↔ ringed s.die a := by
  have hring : ∀ x : Fin 64, (reservePlaces q f s).die.queues[x].ring = s.die.queues[x].ring ∧
      (reservePlaces q f s).die.queues[x].places = s.die.queues[x].places := by
    intro x
    by_cases hx : q = x
    · subst hx; simp [reservePlaces, RunQ.places]
    · simp [reservePlaces, RunQ.places, Fin.val_ne_of_ne hx]
  simp only [ringed, hring]

theorem ringsOnly_reservePlaces (q : Fin 64) (f : Nat → Nat) : RingsOnly s (reservePlaces q f s) :=
  ⟨rfl, rfl, fun a hm ha => ⟨hm, mt (ringed_reservePlaces s q f a).1 ha, rfl⟩⟩

/-- The state in which the popped entries, the places of run queues and the tiles have returned: what a rollback has done
before it restores the core and wakes waiters. -/
def givenBack : State :=
  ((placesHeld s.core).foldl (fun t q => reservePlaces q (· - 1) t) (unpopped s)).upEngine fun e =>
    e.restore s.core.shadow

theorem rollback_eq : rollback s =
    (if mboxTaken s.core then settlePart else settleWaiters) ((givenBack s).upCore Core.rolledBack) := rfl

theorem givenBack_core : (givenBack s).core = (unpopped s).core :=
  List.foldlRecOn (motive := fun t : State => t.core = (unpopped s).core) _ _ rfl fun _ ht _ _ => ht

/-- All that returns leaves the memory and the rings. -/
theorem ringsOnly_givenBack : RingsOnly s (givenBack s) := by
  have hpopped : RingsOnly s (unpopped s) := by
    rw [onlyFlight_unpopped s]
    exact ringsOnly_of_same rfl rfl rfl rfl
  have hplaces : RingsOnly s ((placesHeld s.core).foldl (fun t q => reservePlaces q (· - 1) t) (unpopped s)) :=
    List.foldlRecOn (motive := RingsOnly s) _ _ hpopped fun t ht q _ => ht.trans (ringsOnly_reservePlaces t q _)
  exact hplaces.trans (ringsOnly_of_same rfl rfl rfl rfl)

/-- The waiters that wake after a rollback, on this die or on every die of the partition, leave the core; on this die
they enter run queues. -/
theorem settled_cases (b : Bool) : ((if b then settlePart else settleWaiters) s).core = s.core ∧
    ∃ f, ((if b then settlePart else settleWaiters) s).die = s.die.woken f := by
  cases b <;> exact ⟨rfl, _, rfl⟩

theorem rollback_core : (rollback s).core = (unpopped s).core.rolledBack := by
  rw [rollback_eq, (settled_cases _ _).1, State.upCore_core, givenBack_core]

/-- Memory outside the rings of run queues is as it was: nothing withheld has reached it. -/
theorem rollback_mem {a : Nat} (hm : memOk s.die.mem = true) (ha : ¬ringed s.die a) :
    memGet (rollback s).die.mem a = memGet s.die.mem a := by
  obtain ⟨hok, hring, hget⟩ := (ringsOnly_givenBack s).mem a hm ha
  obtain ⟨-, f, hdie⟩ := settled_cases ((givenBack s).upCore Core.rolledBack) (mboxTaken s.core)
  rw [rollback_eq, hdie]
  exact (Die.woken_mem f hok hring).trans hget

end

/-! Where a trap goes (R227, R228, R303, R304). -/

section

variable {s : State} {t : Trap}

/-- The causes that no retry and no vector takes (R303, R229). -/
abbrev Trap.fatal (t : Trap) : Prop := t.cause = .badcont ∨ (t.cause = .uecc ∧ t.detail = 8)

/-- The retry causes (R228). -/
abbrev Trap.again (t : Trap) : Prop := t.cause = .check ∨ t.cause = .mirror ∨ (t.cause = .uecc ∧ t.detail ≠ 8)

theorem Trap.retries_iff : t.retries = true ↔ t.again := by
  unfold Trap.retries Trap.again
  split <;> simp_all

theorem Trap.again.not_fatal (h : t.again) : ¬t.fatal := by
  rintro (hf | ⟨hf, hd⟩)
  · simp [Trap.again, hf] at h
  · simp [Trap.again, hf, hd] at h

/-- The fatal causes fault the context. -/
theorem vectorTrap_fatal (h : t.fatal) : vectorTrap t s = contextFault 0 s := if_pos (by simpa using h)

theorem vectorTrap_recoverable (h : ¬t.fatal) : vectorTrap t s =
    if t.again then
      if s.core.retried then contextFault 0 s
      else (s.upCore fun c => { c with retried := true }).post
        (.segRetry (s.die.part.getD 0) s.die.stage.toNat s.core.crewid.toNat (strandNum s.core) t.cause.code)
    else if s.core.hnd || vectorOf s == 0 then contextFault (faultVa t s.core) s
    else s.upCore fun c => { c with hnd := true, pc := BitVec.ofNat 56 (vectorOf s) } := by
  rw [vectorTrap, if_neg (by simpa using h)]
  simp only [Trap.retries_iff]

/-- A retry cause in a segment that has been retried faults the context. -/
theorem vectorTrap_retried (h : t.again) (hr : s.core.retried = true) : vectorTrap t s = contextFault 0 s := by
  rw [vectorTrap_recoverable h.not_fatal, if_pos h, if_pos hr]

/-- In any other it is retried. -/
theorem vectorTrap_retries (h : t.again) (hr : s.core.retried = false) :
    ∃ e, vectorTrap t s = (s.upCore fun c => { c with retried := true }).post e :=
  ⟨_, by rw [vectorTrap_recoverable h.not_fatal, if_pos h, if_neg (by simp [hr])]⟩

/-- In the handler, or without one, another cause faults the context. -/
theorem vectorTrap_faults (hf : ¬t.fatal) (ha : ¬t.again) (hv : s.core.hnd = true ∨ vectorOf s = 0) :
    vectorTrap t s = contextFault (faultVa t s.core) s := by
  rw [vectorTrap_recoverable hf, if_neg ha, if_pos (by simpa using hv)]

/-- Else it goes to the handler. -/
theorem vectorTrap_vectors (hf : ¬t.fatal) (ha : ¬t.again) (hh : s.core.hnd = false) (hv : vectorOf s ≠ 0) :
    vectorTrap t s = s.upCore fun c => { c with hnd := true, pc := BitVec.ofNat 56 (vectorOf s) } := by
  rw [vectorTrap_recoverable hf, if_neg ha, if_neg (by simp [hh, hv])]

/-- The state that a trap rolls back: TRAPPC and TRAPINFO are set (R227). -/
abbrev trapSaved (t : Trap) (ba : Nat) (s : State) : State :=
  s.upCore fun c => { c with trappc := BitVec.ofNat 56 ba, trapinfo := t.info }

/-- A demand fault does not vector (R321). -/
theorem takeTrap_demand (ba : Nat) (h : t.cause = .demand) :
    takeTrap t ba s = (demandFault t.addr t.kind (rollback (trapSaved t ba s))).ended .trapped := by
  simp [takeTrap, h]

/-- Any other trap but QUEUE, QUOTA, which posts an event besides, goes where its cause sends it. -/
theorem takeTrap_plain (ba : Nat) (hd : t.cause ≠ .demand) (hq : ¬(t.cause = .queue ∧ t.detail = 3)) :
    takeTrap t ba s = (vectorTrap t (rollback (trapSaved t ba s))).ended .trapped := by
  have hquota : (t.cause == .queue && t.detail == 3) = false := by simpa using hq
  simp [takeTrap, hd, hquota]

/-- So do the fatal and the retry causes, which are neither. -/
theorem takeTrap_fatal_or_again (ba : Nat) (h : t.fatal ∨ t.again) :
    takeTrap t ba s = (vectorTrap t (rollback (trapSaved t ba s))).ended .trapped := by
  have hcause : t.cause ≠ .demand ∧ t.cause ≠ .queue := by
    rcases h with (h | ⟨h, -⟩) | h | h | ⟨h, -⟩ <;> simp [h]
  exact takeTrap_plain ba hcause.1 fun hq => hcause.2 hq.1

end

/-! TRAPINFO (R300). -/

section

variable (t : Trap)

theorem Cause.code_lt (c : Cause) : c.code < 64 := by cases c <;> decide

/-- The bits of TRAPINFO from 8 on, in either form. -/
def Trap.infoHigh : Nat :=
  if t.cause.addrForm then t.addr % 2 ^ 56 else t.detail % 256 + 2 ^ 8 * (t.syl % 16) + 2 ^ 12 * (t.arg % 2 ^ 44)

theorem Trap.info_eq :
    t.info = wordN (t.cause.code + 2 ^ 6 * t.step.toNat + 2 ^ 7 * t.cause.addrForm.toNat + 2 ^ 8 * t.infoHigh) := by
  cases h : t.cause.addrForm
  all_goals
    simp only [Trap.info, Trap.infoHigh, h]
    refine congrArg wordN ?_
    simp
    omega

/-- CAUSE, STEP and FORM. -/
theorem Trap.info_low : wbits t.info 5 0 = t.cause.code ∧ wbits t.info 6 6 = t.step.toNat ∧
    wbits t.info 7 7 = t.cause.addrForm.toNat := by
  have hcode := t.cause.code_lt
  have hstep := toNat_lt2 t.step
  have hform := toNat_lt2 t.cause.addrForm
  refine ⟨?_, ?_, ?_⟩ <;> rw [t.info_eq, wbits_wordN _ (by decide)] <;> omega

/-- A field above them is one of the form. -/
theorem Trap.info_high {hi lo : Nat} (h : hi < 64) (hlo : 8 ≤ lo) :
    wbits t.info hi lo = t.infoHigh / 2 ^ (lo - 8) % 2 ^ (hi + 1 - lo) := by
  have hcode := t.cause.code_lt
  have hstep := toNat_lt2 t.step
  have hform := toNat_lt2 t.cause.addrForm
  have hsplit : 2 ^ lo = 2 ^ 8 * 2 ^ (lo - 8) := by rw [← Nat.pow_add]; congr 1; omega
  rw [t.info_eq, wbits_wordN _ h, hsplit, ← Nat.div_div_eq_div_mul]
  congr 2
  omega

theorem Trap.info_detail (h : t.cause.addrForm = false) : wbits t.info 15 8 = t.detail % 256 ∧
    wbits t.info 19 16 = t.syl % 16 ∧ wbits t.info 63 20 = t.arg % 2 ^ 44 := by
  have hhigh : t.infoHigh = t.detail % 256 + 2 ^ 8 * (t.syl % 16) + 2 ^ 12 * (t.arg % 2 ^ 44) := if_neg (by simp [h])
  refine ⟨?_, ?_, ?_⟩ <;> rw [t.info_high (by decide) (by decide), hhigh] <;> omega

theorem Trap.info_addr (h : t.cause.addrForm = true) : wbits t.info 63 8 = t.addr % 2 ^ 56 := by
  have hhigh : t.infoHigh = t.addr % 2 ^ 56 := if_pos h
  rw [t.info_high (by decide) (by decide), hhigh]
  omega

end

/-- Settles O31: where each cause goes, what the rollback before it restores, and what TRAPINFO holds. -/
theorem takingATrap : Obligations.TakingATrap := by
  unfold Obligations.TakingATrap
  refine ⟨fun s t ba => ?goes, fun s => ?rollback, fun t => ?info⟩
  case goes =>
    intro s0 r stop core fatal again plain
    refine ⟨takeTrap_demand ba, fun hf => ?fatal, fun ha hr => ?retried, fun ha hr => ?retries,
      fun hd hf ha hq => ⟨fun hv => ?faults, fun hh hv => ?vectors⟩⟩
    case fatal => exact (takeTrap_fatal_or_again ba (.inl hf)).trans (congrArg stop (vectorTrap_fatal hf))
    case retried => exact (takeTrap_fatal_or_again ba (.inr ha)).trans (congrArg stop (vectorTrap_retried ha hr))
    case retries =>
      obtain ⟨e, he⟩ := vectorTrap_retries ha hr
      exact ⟨e, (takeTrap_fatal_or_again ba (.inr ha)).trans (congrArg stop he)⟩
    case faults => exact (takeTrap_plain ba hd hq).trans (congrArg stop (vectorTrap_faults hf ha hv))
    case vectors => exact (takeTrap_plain ba hd hq).trans (congrArg stop (vectorTrap_vectors hf ha hh hv))
  case rollback =>
    intro r
    have hcore : r.core = (unpopped s).core.rolledBack := rollback_core s
    rw [hcore, onlyFlight_unpopped s]
    exact ⟨rfl, rfl, rfl, rfl, rfl, rfl, rfl, rfl, rfl, rfl, rfl, rfl, rfl, fun _ hm ha => rollback_mem s hm ha⟩
  case info =>
    obtain ⟨hcause, hstep, hform⟩ := t.info_low
    exact ⟨hcause, hstep, hform, t.info_detail, t.info_addr⟩

end Sys2Proof.Machine
end

section
/-! PROOFS. The syllables that commit or withhold without leaving the core (spec/12 R225; spec/15 R274; spec/17 R292;
spec/21 R345): the commits of B.CKPT and B.CBAR, the checks of B.CBAR and B.SPAWN, and from these the statement O28. -/

namespace Sys2Proof.Machine

/-! Commits (R225, R292). -/

section

variable {s : State} {d : SReg}

theorem tryCheckpoint_commits (h : matrixPending s.core = false) : tryCheckpoint s =
    (commitSegment s.core.pc s).upCore fun c =>
      { c with wait := if c.stampWait then some .stamp else none, stampWait := false } := if_neg (by simp [h])

theorem resumeWait_cbarCommit (h : matrixPending s.core = false) :
    resumeWait (.cbarCommit d) s = arriveBarrier d (commitSegment s.core.pc s) := if_neg (by simp [h])

/-- Whether the strand is a member of its crew (R292). -/
abbrev inCrew (s : State) : Bool := (crewOf s s.core.crewid.toNat).memb.toNat.testBit (strandNum s.core)

theorem bCbar_runs (hc : s.core.crewid ≠ 0xFF) (hm : inCrew s = true) : RunsTo (.bCbar d) s [] [.s d] fun u =>
    resumeWait (.cbarCommit d) (beginWait (.cbarCommit d) u) :=
  runsTo_issue (exec_bCbar d s) rfl (by simp [(crewed_iff _).2 hc, hm]) rfl rfl

theorem bCbar_uncrewed (hc : s.core.crewid = 0xFF) (hr : Runs s [] [.s d]) :
    exec (.bCbar d) s = .next (trapHere { cause := .barrier, detail := 1 } s) :=
  (exec_bCbar d s).trans (issue_traps hr rfl (by simp [crewed, hc]))

theorem bCbar_notMember (hc : s.core.crewid ≠ 0xFF) (hm : inCrew s = false) (hr : Runs s [] [.s d]) :
    exec (.bCbar d) s = .next (trapHere { cause := .barrier, detail := 2 } s) :=
  (exec_bCbar d s).trans (issue_traps hr rfl (by simp [(crewed_iff _).2 hc, hm]))

end

/-! B.SPAWN (R274). -/

section

variable {s : State} {a : SReg} {q : Fin 64}

/-- B.SPAWN of a record that is there to be read: the checks of R274 are its own. -/
theorem exec_bSpawn_read {ps : List Piece} {b : List Byte}
    (hl : loadAt s 64 64 [(regS s a).toNat % 2 ^ 56] = .got ps b none) : exec (.bSpawn a q) s =
    issue s { srcs := [.s a], stall := spadStall s.core false (spadRanges ps), trap := spawnTrap s q (recordOf b) }
      (holdSpawn q (recordOf b) ((regS s a).toNat % 2 ^ 56)) := by
  rw [exec_bSpawn, execBSpawn, hl]
  rfl

/-- The trap of its load comes before them. -/
theorem bSpawn_loadTraps {t : Trap} (hl : loadAt s 64 64 [(regS s a).toNat % 2 ^ 56] = .trap t)
    (hr : Runs s [.s a] []) : exec (.bSpawn a q) s = .next (trapHere t s) := by
  rw [exec_bSpawn, execBSpawn, hl]
  exact issue_traps hr rfl rfl

/-- The record's place is reserved; its queue and memory stand. -/
theorem holdSpawn_frame (r : Record) (va : Nat) (u : State) :
    (holdSpawn q r va u).core.held = u.core.held ++ [.spawn q r va] ∧
    (holdSpawn q r va u).die.queues[q].reserved = u.die.queues[q].reserved + 1 ∧
    (holdSpawn q r va u).die.queues[q].hw = u.die.queues[q].hw ∧ (holdSpawn q r va u).die.mem = u.die.mem := by
  simp [holdSpawn, reservePlaces]

end

/-- Settles O28: B.CKPT and B.CBAR by their commits, M.FENCE.stamp by its issue, B.SPAWN by what it finds. -/
theorem checkpointsAndSpawns : Obligations.CheckpointsAndSpawns := by
  unfold Obligations.CheckpointsAndSpawns
  intro s a d q ps b
  exact ⟨runsTo_issue (exec_bCkpt s) rfl rfl rfl rfl, fun _ h => tryCheckpoint_commits h, bCbar_runs,
    fun _ h => resumeWait_cbarCommit h, bCbar_uncrewed, bCbar_notMember,
    runsTo_issue (exec_mFenceStamp s) rfl rfl rfl rfl,

    ⟨fun hl hstall ht => runsTo_issue (exec_bSpawn_read hl) rfl ht rfl hstall, fun _ => bSpawn_loadTraps,
      fun _ hl _ ht hr => (exec_bSpawn_read hl).trans (issue_traps hr rfl ht)⟩, holdSpawn_frame⟩

end Sys2Proof.Machine
end

section
/-! PROOFS. The canonical form of every memory (log 3) under the shared operations: selections, writes, run queues,
landing, the commit, rollback, traps and halts each keep it. -/

namespace Sys2Proof.Machine

/-- The scratchpads in the shadow of a swapped context are in canonical form. -/
def ShadowOk (p : Partition) : Prop := ∀ x ∈ p.shadow, ∀ c ∈ x.cores, Memory.wf c.spad = true

/-- The memories of the package outside the selected core and die are in canonical form. -/
def PkgMemOk (k : Package) : Prop :=
  (∀ d ∈ k.dies, dieMemOk d = true) ∧ (∀ e ∈ k.evac, Memory.wf e.mem = true ∧ Memory.wf e.base = true)
    ∧ ∀ p ∈ k.parts, ShadowOk p

theorem memInv_iff {s : State} :
    MemInv s ↔ Memory.wf s.core.spad = true ∧ dieMemOk s.die = true ∧ PkgMemOk s.pkg := Iff.rfl

theorem dieMemOk_iff {d : Die} :
    dieMemOk d = true ↔
      Memory.wf d.mem = true ∧ Memory.wf d.base = true ∧ ∀ c ∈ d.cores, Memory.wf c.spad = true := by
  simp [dieMemOk, and_assoc]

/-- Bytes written keep a die's memory. -/
theorem dieMemOk_write {d e : Die} (pa qa : Nat) (b l : List Byte) (h : dieMemOk d = true)
    (hm : e.mem = memSetN d.mem pa b) (hb : e.base = memSetN d.base qa l) (hc : e.cores = d.cores) :
    dieMemOk e = true := by
  obtain ⟨h1, h2, h3⟩ := dieMemOk_iff.1 h
  refine dieMemOk_iff.2 ⟨?_, ?_, ?_⟩
  · rw [hm]; exact memOk_memSetN _ _ h1
  · rw [hb]; exact memOk_memSetN _ _ h2
  · rw [hc]; exact h3

/-- A die whose memory is cleared, with the cores that it had (R311, R323). -/
theorem dieMemOk_cleared {d e : Die} (h : dieMemOk d = true) (hm : e.mem = []) (hb : e.base = [])
    (hc : e.cores = d.cores) : dieMemOk e = true := by
  obtain ⟨-, -, h3⟩ := dieMemOk_iff.1 h
  exact dieMemOk_iff.2 (by rw [hm, hb, hc]; exact ⟨memOk_nil, memOk_nil, h3⟩)

/-- So does taking memory as it is for the memory at the start of a phase (R210). -/
theorem dieMemOk_snapshot {d e : Die} (h : dieMemOk d = true) (hm : e.mem = d.mem) (hb : e.base = d.mem)
    (hc : e.cores = d.cores) : dieMemOk e = true := by
  obtain ⟨h1, -, h3⟩ := dieMemOk_iff.1 h
  exact dieMemOk_iff.2 (by rw [hm, hb, hc]; exact ⟨h1, h1, h3⟩)

namespace MemInv

variable {s : State}

/-! Updates of one part. -/

theorem withFree (h : MemInv s) {n : Nat} : MemInv { s with free := n } := h

/-- A change of the selected core that leaves its scratchpad. -/
theorem upCore (h : MemInv s) {f : Core → Core} (hf : (f s.core).spad = s.core.spad) :
    MemInv (s.upCore f) := by
  obtain ⟨hc, hd, hk⟩ := memInv_iff.1 h
  exact memInv_iff.2 ⟨hf ▸ hc, hd, hk⟩

/-- A change of the selected core that gives it a scratchpad in canonical form. -/
theorem upSpad (h : MemInv s) {f : Core → Core} (hf : Memory.wf (f s.core).spad = true) : MemInv (s.upCore f) := by
  obtain ⟨-, hd, hk⟩ := memInv_iff.1 h
  exact memInv_iff.2 ⟨hf, hd, hk⟩

/-- A change of the selected die that keeps the form of its memories. -/
theorem upDieMem (h : MemInv s) {f : Die → Die} (hf : dieMemOk s.die = true → dieMemOk (f s.die) = true) :
    MemInv (s.upDie f) := by
  obtain ⟨hc, hd, hk⟩ := memInv_iff.1 h
  exact memInv_iff.2 ⟨hc, hf hd, hk⟩

/-- A change of the selected die that leaves its memories. -/
theorem upDie (h : MemInv s) {f : Die → Die}
    (hf : (f s.die).mem = s.die.mem ∧ (f s.die).base = s.die.base ∧ (f s.die).cores = s.die.cores) :
    MemInv (s.upDie f) := by
  refine h.upDieMem fun hd => ?_
  obtain ⟨hm, hb, hc⟩ := hf
  exact dieMemOk_iff.2 (by rw [hm, hb, hc]; exact dieMemOk_iff.1 hd)

/-- A change of the package that keeps its memories. -/
theorem upPkg (h : MemInv s) {f : Package → Package}
    (hf : PkgMemOk s.pkg → PkgMemOk (f s.pkg)) :
    MemInv (s.upPkg f) := by
  obtain ⟨hc, hd, hk⟩ := memInv_iff.1 h
  exact memInv_iff.2 ⟨hc, hd, hf hk⟩

theorem upArch (h : MemInv s) {f : Arch → Arch} : MemInv (s.upArch f) := h
theorem upStrand (h : MemInv s) {f : Strand → Strand} : MemInv (s.upStrand f) := h
theorem post (h : MemInv s) {p : Post} : MemInv (s.post p) := h
theorem status (h : MemInv s) {r st : String} {a : Nat} : MemInv (s.status r st a) := h
theorem ended (h : MemInv s) {x : Issued} : MemInv (s.ended x) := h
theorem useId (h : MemInv s) : MemInv s.useId := h
theorem upEngine (h : MemInv s) {f : Engine → Engine} : MemInv (s.upEngine f) := h
theorem upCrew (h : MemInv s) {c : Nat} {f : Crew → Crew} : MemInv (s.upCrew c f) := h
theorem upRvz (h : MemInv s) {c : Nat} {n : Fin 16} {f : RvzSlot → RvzSlot} : MemInv (s.upRvz c n f) := h
theorem upSend (h : MemInv s) {n : Fin 16} {f : SendStream → SendStream} : MemInv (s.upSend n f) := h
theorem upRecv (h : MemInv s) {n : Fin 16} {f : RecvStream → RecvStream} : MemInv (s.upRecv n f) := h
theorem upCircuit (h : MemInv s) {a : Nat} {n : Fin 16} {f : Circuit → Circuit} : MemInv (s.upCircuit a n f) := h
theorem upConn (h : MemInv s) {k : Nat} {f : Circuit → Circuit} : MemInv (s.upConn k f) := h
theorem upMbox (h : MemInv s) {n : Fin 16} {f : List (Nat × Word) → List (Nat × Word)} : MemInv (s.upMbox n f) := h
theorem reservePlaces (h : MemInv s) {q : Fin 64} {f : Nat → Nat} : MemInv (reservePlaces q f s) := h
theorem flight (h : MemInv s) {k : Nat} {l : Land} : MemInv (s.flight k l) := h
theorem rouse (h : MemInv s) : MemInv (rouse s) := by
  refine h.upDie ?_
  unfold Die.roused
  split <;> exact ⟨rfl, rfl, rfl⟩

theorem upIngress (h : MemInv s) {f : Ingress → Ingress} : MemInv (s.upIngress f) := by
  unfold State.upIngress
  split <;> exact h

/-- A fold of operations that keep the memories. -/
theorem foldl {α : Type} {f : State → α → State} (hf : ∀ {t}, MemInv t → ∀ {a}, MemInv (f t a))
    {l : List α} (h : MemInv s) :
    MemInv (l.foldl f s) := by
  induction l generalizing s with
  | nil => exact h
  | cons a l ih => exact ih (hf h)

end MemInv

/-- A change of one partition keeps the package's memories when it keeps the partition's shadow. -/
theorem PkgMemOk.parts {k : Package} (h : PkgMemOk k) {f : Partition → Partition}
    (hf : ∀ p ∈ k.parts, ShadowOk p → ShadowOk (f p)) : PkgMemOk { k with parts := k.parts.map f } := by
  obtain ⟨hd, he, hp⟩ := h
  refine ⟨hd, he, fun q hq => ?_⟩
  obtain ⟨p, hm, rfl⟩ := List.mem_map.1 hq
  exact hf p hm (hp p hm)

/-- So does a change of each other die that keeps the die's. -/
theorem PkgMemOk.mapDies {k : Package} (h : PkgMemOk k) {f : Die → Die}
    (hf : ∀ d, dieMemOk d = true → dieMemOk (f d) = true) : PkgMemOk { k with dies := k.dies.map f } := by
  obtain ⟨hd, he, hp⟩ := h
  refine ⟨fun e hm => ?_, he, hp⟩
  obtain ⟨d, hd', rfl⟩ := List.mem_map.1 hm
  exact hf d (hd d hd')

/-- A core put in its place. -/
theorem mem_insertCore {c x : Core} {l : List Core} : x ∈ insertCore c l ↔ x = c ∨ x ∈ l := by
  induction l with
  | nil => simp [insertCore]
  | cons y t ih =>
    simp only [insertCore]
    split
    · simp
    · simp only [List.mem_cons, ih]; tauto

/-- The partition of the selected die is one of the package's. -/
theorem partOf_mem {s : State} {p : Partition} (h : partOf s = some p) : p ∈ s.pkg.parts := by
  unfold partOf at h
  split at h
  · cases h
  · exact List.mem_of_find?_eq_some h

namespace MemInv

variable {s : State}

theorem upPartN (h : MemInv s) {n : Nat} {f : Partition → Partition}
    (hf : ∀ p, ShadowOk p → ShadowOk (f p)) : MemInv (s.upPartN n f) := by
  refine h.upPkg fun hk => hk.parts fun p _ hp => ?_
  split
  · exact hf p hp
  · exact hp

theorem upPart (h : MemInv s) {f : Partition → Partition}
    (hf : ∀ p, ShadowOk p → ShadowOk (f p)) : MemInv (s.upPart f) := by
  unfold State.upPart
  split
  · exact h
  · exact h.upPartN hf

/-! Selections. -/

/-- Another core is selected: the scratchpads change places. -/
theorem selCore (h : MemInv s) {n : Nat} : MemInv (selCore n s) := by
  unfold Machine.selCore
  split
  · exact h
  · split
    · exact h
    · next c hc =>
      obtain ⟨hs, hd, hk⟩ := memInv_iff.1 h
      obtain ⟨hm, hb, hcs⟩ := dieMemOk_iff.1 hd
      refine memInv_iff.2 ⟨hcs c (List.mem_of_find?_eq_some hc), dieMemOk_iff.2 ⟨hm, hb, fun x hx => ?_⟩, hk⟩
      obtain rfl | hx := mem_insertCore.1 hx
      · exact hs
      · exact hcs x (List.mem_of_mem_filter hx)

/-- Another die is selected: the memories change places. -/
theorem selDie (h : MemInv s) {d : Nat} : MemInv (selDie d s) := by
  unfold Machine.selDie
  split
  · exact h
  · split
    · exact h
    · next x hx =>
      split
      · exact h
      · next c t hc =>
        obtain ⟨hs, hd, hds, he, hp⟩ := memInv_iff.1 h
        obtain ⟨hm, hb, hcs⟩ := dieMemOk_iff.1 (hds x (List.mem_of_find?_eq_some hx))
        rw [hc] at hcs
        refine memInv_iff.2 ⟨hcs c (by simp), dieMemOk_iff.2 ⟨hm, hb, fun y hy => hcs y (by simp [hy])⟩,
          fun y hy => ?_, he, hp⟩
        obtain rfl | hy := mem_insertDie.1 hy
        · obtain ⟨hm, hb, hcs⟩ := dieMemOk_iff.1 hd
          refine dieMemOk_iff.2 ⟨hm, hb, fun z hz => ?_⟩
          obtain rfl | hz := mem_insertCore.1 hz
          · exact hs
          · exact hcs z hz
        · exact hds y (List.mem_of_mem_filter hy)

theorem selAt (h : MemInv s) {d n : Nat} : MemInv (selAt d n s) := h.selDie.selCore

section

variable {f : State → State} (hf : ∀ {t}, MemInv t → MemInv (f t))

include hf

theorem onCores {l : List Nat} (h : MemInv s) : MemInv (onCores f l s) := by
  induction l generalizing s with
  | nil => exact h
  | cons n l ih => exact ih (hf h.selCore)

theorem onDies {l : List Nat} (h : MemInv s) : MemInv (onDies f l s) := by
  induction l generalizing s with
  | nil => exact h
  | cons n l ih => exact ih (hf h.selDie)

theorem eachCore (h : MemInv s) : MemInv (eachCore f s) := (onCores hf h).selCore
theorem withCore {n : Nat} (h : MemInv s) : MemInv (withCore n f s) := (hf h.selCore).selCore
theorem eachDie {l : List Nat} (h : MemInv s) : MemInv (eachDie l f s) := (onDies hf h).selAt
theorem eachCtxDie (h : MemInv s) : MemInv (eachCtxDie f s) := eachDie hf h
theorem atDie {d : Nat} (h : MemInv s) : MemInv (atDie d f s) := (hf h.selDie).selAt
theorem atSender {c : Circuit} (h : MemInv s) : MemInv (atSender c f s) := by
  unfold Machine.atSender
  split
  · exact atDie hf h
  · exact h
theorem atReceiver {c : Circuit} (h : MemInv s) : MemInv (atReceiver c f s) := by
  unfold Machine.atReceiver
  split
  · exact h
  · exact atDie hf h

end

/-! Run queues (R271). -/

end MemInv

/-- A record appended to a queue of a die, with its bytes in the ring (R271). -/
theorem dieMemOk_appended {d : Die} (q : Fin 64) (c : Cont) (h : dieMemOk d = true) :
    dieMemOk (d.appended q c) = true := by
  have roused {e : Die} (he : dieMemOk e = true) : dieMemOk e.roused = true := by
    unfold Die.roused
    split <;> exact he
  refine roused ?_
  split
  · exact h
  · exact dieMemOk_write _ _ _ _ h rfl rfl rfl

theorem dieMemOk_woken {d : Die} (f : WaitFor → Bool) (h : dieMemOk d = true) : dieMemOk (d.woken f) = true := by
  have fold {l : List Waiter} : ∀ {e : Die}, dieMemOk e = true → dieMemOk (l.foldl
      (fun x w => x.appended w.cont.q { w.cont with record := w.cont.record.setStatus 0 }) e) = true := by
    induction l with
    | nil => exact id
    | cons w l ih => exact fun he => ih (dieMemOk_appended _ _ he)
  exact fold (show dieMemOk { d with waiters := _ } = true from h)

namespace MemInv

variable {s : State}

theorem appendRun (h : MemInv s) {q : Fin 64} {c : Cont} : MemInv (appendRun q c s) :=
  h.upDieMem (dieMemOk_appended q c)
theorem makeRunnable (h : MemInv s) {n : Nat} {c : Cont} : MemInv (makeRunnable n c s) := h.appendRun
theorem wakeAll (h : MemInv s) {f : WaitFor → Bool} : MemInv (wakeAll f s) := h.upDieMem (dieMemOk_woken f)
theorem settleWaiters (h : MemInv s) : MemInv (settleWaiters s) := h.wakeAll

/-- Waiters of other dies wake there. -/
theorem settlePart (h : MemInv s) : MemInv (settlePart s) := by
  refine (h.upPkg fun hk => hk.mapDies fun d hd => ?_).settleWaiters
  split
  · exact dieMemOk_woken _ hd
  · exact hd

/-! Results and ports (R57, R58). -/

/-- What moves results in flight and ports alone keeps every memory. -/
theorem onlyFlight {t : State} (h : MemInv s) (ht : OnlyFlight s t) : MemInv t := by
  rw [show t = _ from ht]
  exact h

theorem wrS (h : MemInv s) {r : SReg} {k : Nat} {x : Word} : MemInv (wrS r k x s) := h.onlyFlight (onlyFlight_wrS ..)
theorem wrV (h : MemInv s) {r : VReg} {k : Nat} {x : VWord} : MemInv (wrV r k x s) := h.onlyFlight (onlyFlight_wrV ..)
theorem wrP (h : MemInv s) {r : PReg} {k : Nat} {x : Bool} : MemInv (wrP r k x s) := h.flight
theorem wrM (h : MemInv s) {r : MReg} {k : Nat} {x : Mask} : MemInv (wrM r k x s) := h.flight
theorem raise (h : MemInv s) {u : StatUnit} {k : Nat} {l : List Ev} : MemInv (raise u k l s) := h.upArch
theorem statFlight (h : MemInv s) {u : StatUnit} {k : Nat} {l : List (Nat × Nat)} : MemInv (statFlight u k l s) :=
  h.upArch
theorem observe (h : MemInv s) {m : Word} : MemInv (observe m s) := h.onlyFlight (onlyFlight_observe ..)
theorem landing (h : MemInv s) {l : Loaded} {k : Nat} : MemInv (l.landing k s) := h.onlyFlight (onlyFlight_landing ..)
theorem velem (h : MemInv s) {o : State} {u : StatUnit} {w k : Nat} {m : VMod} {d : VReg} {f : Nat → Nat × Ev} :
    MemInv (velem o u w k m d f s) := h.onlyFlight (onlyFlight_velem ..)
theorem reads (h : MemInv s) {l : List Reg} : MemInv (reads l s) := h.onlyFlight (onlyFlight_reads ..)
theorem awaited (h : MemInv s) {d : SReg} {k : Nat} {f : Nat → Land} : MemInv (awaited d k f s) :=
  h.onlyFlight (onlyFlight_awaited ..)

theorem unpop (h : MemInv s) {p : Popped} : MemInv (unpop s p) := by
  cases p with
  | crewq | mbox | slot | patch => exact h
  | stat x second => cases second <;> exact h
  | geo r =>
    simp only [Machine.unpop]
    split <;> exact h

theorem freePopped (h : MemInv s) {p : Popped} : MemInv (freePopped s p) := by
  unfold Machine.freePopped
  split <;> exact h

theorem waitHead (h : MemInv s) : MemInv (waitHead s) := by
  unfold Machine.waitHead
  split
  · exact h
  · split <;> exact h

/-! Rollback, halts and traps (R224, R227, R304, R307). -/

/-- The undo log puts the old images of its lines back (R223). -/
theorem rolledBack {c : Core} (h : Memory.wf c.spad = true) : Memory.wf c.rolledBack.spad = true := by
  have undone {l : List (Nat × List Byte)} : ∀ {m : List Host.Cell}, memOk m = true →
      memOk (l.foldl (fun m p => memSetN m p.1 p.2) m) = true := by
    induction l with
    | nil => exact id
    | cons p l ih => exact fun hm => ih (memOk_memSetN _ _ hm)
  exact undone h

theorem rollback (h : MemInv s) : MemInv (rollback s) := by
  have h1 : MemInv (s.core.popped.reverse.foldl Machine.unpop s) := foldl unpop h
  have h2 : MemInv ((placesHeld s.core).foldl (fun t q => Machine.reservePlaces q (· - 1) t) _) :=
    foldl (fun ht => ht.reservePlaces) h1
  have h3 := (h2.upEngine (f := fun e => e.restore s.core.shadow))
  have h4 := h3.upSpad (f := Core.rolledBack) (rolledBack h3.1)
  unfold Machine.rollback
  extract_lets s1 s2 s3
  split
  · exact h4.settlePart
  · exact h4.settleWaiters

theorem haltCore (h : MemInv s) : MemInv (haltCore s) := by
  unfold Machine.haltCore
  split
  · exact h
  · split
    · exact h
    · split
      · exact h
      · exact h.rollback
      · exact h.rollback
      · split
        · exact h
        · exact h.rollback

theorem haltContext (h : MemInv s) : MemInv (haltContext s) := by
  unfold Machine.haltContext
  split
  · exact h.haltCore
  · exact eachDie (fun h => eachCore haltCore h) h

theorem setContext (h : MemInv s) {st : CtxState} {r : HaltReason} : MemInv (setContext st r s) := h.upPart fun _ => id

theorem faultHalt (h : MemInv s) : MemInv (faultHalt s) := by
  refine h.upCore ?_
  split <;> rfl

theorem contextFault (h : MemInv s) {va : Nat} : MemInv (contextFault va s) := by
  unfold Machine.contextFault
  extract_lets s1
  split
  · exact h.faultHalt
  · exact h.faultHalt.haltContext.setContext.post

theorem demandFault (h : MemInv s) {va kind : Nat} : MemInv (demandFault va kind s) := by
  unfold Machine.demandFault
  extract_lets s1
  split
  · exact h.faultHalt
  · split
    · exact h.faultHalt.haltContext.setContext.post
    · exact h.faultHalt.post

theorem vectorTrap (h : MemInv s) {t : Trap} : MemInv (vectorTrap t s) := by
  unfold Machine.vectorTrap
  split
  · exact h.contextFault
  · split
    · split
      · exact h.contextFault
      · exact h
    · split
      · exact h.contextFault
      · exact h

/-- TAKING A TRAP (R227). -/
theorem takeTrap (h : MemInv s) {t : Trap} {pc : Nat} : MemInv (takeTrap t pc s) := by
  unfold Machine.takeTrap
  extract_lets s1 s2 s3 s4
  have h2 : MemInv s2 := (h.upCore (by dsimp only)).rollback
  have h3 : MemInv s3 := by
    show MemInv (if _ then _ else _)
    split
    · exact h2.demandFault
    · exact h2.vectorTrap
  have h4 : MemInv s4 := by
    show MemInv (if _ then _ else _)
    split <;> exact h3
  exact h4

theorem trapHere (h : MemInv s) {t : Trap} : MemInv (trapHere t s) := h.takeTrap

/-! Performed writes (R212). -/

theorem wakeWatches (h : MemInv s) {pa n id : Nat} {heads : List Head} : MemInv (wakeWatches pa n id heads s) :=
  foldl (fun ht => (ht.upDie (by simp)).makeRunnable) (h.upDie (by simp))

/-- A write of bytes to vault or DRAM. -/
theorem writeMem (h : MemInv s) {pa : Nat} {b : List Byte} {heads : List Head} : MemInv (writeMem pa b heads s) :=
  (h.upDieMem fun hd => dieMemOk_write pa 0 b [] hd rfl rfl rfl).useId.wakeWatches

theorem writeExpand (h : MemInv s) {at' t raw off : Nat} {b : List Byte} : MemInv (writeExpand at' t raw off b s) := by
  unfold Machine.writeExpand
  split
  · exact h
  · extract_lets new
    split
    extract_lets s1
    split
    · exact h.writeMem.writeMem
    · exact h.writeMem

theorem performStore (h : MemInv s) {pa : Nat} {b : List Byte} {rel : List Scope} :
    MemInv (performStore pa b rel s) := by
  unfold Machine.performStore
  extract_lets id
  split
  · exact h.writeMem.upStrand
  · exact h.writeExpand.upStrand
  · exact h

theorem performSts (h : MemInv s) {pa : Nat} {b : List Byte} {t : Nat} : MemInv (performSts pa b t s) :=
  (h.upDie (by simp)).upStrand.useId.wakeWatches

theorem performAtom (h : MemInv s) {op : AtomOp} {pa : Nat} {w : Bool} {b : Word} {o : MemOrd} {sc : Scope} {n : Nat} :
    MemInv (performAtom op pa w b o sc n s) := by
  unfold Machine.performAtom
  split
  · exact h
  · unfold atomNow
    extract_lets w old new o' heads ids s2
    have h2 : MemInv s2 := h
    clear_value new
    split
    · exact h2
    · exact h2.writeMem.upStrand

theorem performLdaq (h : MemInv s) {pa : Nat} {ty : SizeTy} {sc : Scope} {n : Nat} :
    MemInv (performLdaq pa ty sc n s) := by
  unfold Machine.performLdaq
  split
  · exact h
  · split
    · split <;> exact h
    · exact h

theorem performSpawn (h : MemInv s) {q : Fin 64} {r : Record} {a : Nat} : MemInv (performSpawn q r a s) := by
  unfold Machine.performSpawn
  extract_lets s1 s2
  have h2 : MemInv s2 := by
    show MemInv (if _ then _ else _)
    split <;> exact h
  exact h2.useId.appendRun

/-- One withheld effect (R225). -/
theorem perform (h : MemInv s) {x : Held} : MemInv (perform s x) := by
  cases x with
  | store | strl => exact h.performStore
  | sts => exact h.performSts
  | atom => exact h.performAtom
  | ldaq => exact h.performLdaq
  | push => exact h.upCrew.settleWaiters.useId
  | spawn => exact h.performSpawn
  | fence | send | close | form | dissolve | ringFree | dabort | past => exact h

theorem performAll (h : MemInv s) {l : List Held} : MemInv (performAll l s) := by
  induction l generalizing s with
  | nil => exact h
  | cons x l ih => exact ih (h.upCore (by dsimp only)).perform

/-! Landing and the commit (R30, R225). -/

theorem mendMem_spad (c : Core) (level lo n : Nat) : (c.mendMem level lo n).spad = c.spad := rfl

theorem landOne (h : MemInv s) {l : Land} : MemInv (landOne s l) := by
  cases l with
  | s r x | m r x =>
    simp only [Machine.landOne]
    split <;> exact h
  | push => exact (h.upCore (by dsimp only)).upCrew.settleWaiters
  | tile a q x =>
    simp only [Machine.landOne, putTile]
    split <;> exact h
  | stat k u n ba =>
    refine h.upCore ?_
    unfold Core.stat
    split <;> rfl
  | v | p => exact h
  | spill | table => exact h.upArch.upCore (mendMem_spad ..)
  | creg | greg | lqo => exact h.upArch
  | gain => exact h.upStrand
  | ordPend | asOf | trap => exact h

theorem landDue (h : MemInv s) : MemInv (landDue s) := foldl landOne h.upArch

/-- The end of an issued bundle (R30, R39, R109). -/
theorem finishBundle (h : MemInv s) : MemInv (finishBundle s) := by
  by_cases hf : s.core.issue.finished = true
  · rw [Machine.finishBundle, if_pos hf]
    exact h
  · rw [Machine.finishBundle, if_neg hf]
    refine landDue (upArch (upCore ?_ (by dsimp only)))
    split
    · split <;> exact h
    · split <;> exact h

theorem lostRecord_spad (c : Core) : c.lostRecord.spad = c.spad := by
  unfold Core.lostRecord
  split <;> rfl

theorem takeCheckpoint (h : MemInv s) {pc : BitVec 56} : MemInv (takeCheckpoint pc s) :=
  (h.upCore (by dsimp only)).upDie (by simp)

/-- The commit of a segment (R225). -/
theorem commitSegment (h : MemInv s) {pc : BitVec 56} : MemInv (commitSegment pc s) := by
  unfold Machine.commitSegment
  refine takeCheckpoint ?_
  refine upCore ?_ (lostRecord_spad _)
  refine foldl freePopped (landDue (waitHead ?_))
  exact upCore h.performAll rfl

end MemInv

end Sys2Proof.Machine
end

section
/-! PROOFS. The canonical form of every memory (log 3) under what holds a core after its bundle, under the engines and
under the package's own events: each keeps it. -/

namespace Sys2Proof.Machine.MemInv

variable {s : State}

/-! Suspension (spec/02 R19 to R21; spec/12 R231; spec/17 R290 to R293). -/

theorem killCore (h : MemInv s) : MemInv (killCore s) := by
  have ht : MemInv (Machine.haltCore s) := h.haltCore
  unfold Machine.killCore
  extract_lets t
  split
  · exact ht
  · refine ht.upCore ?_
    split <;> rfl

theorem haltHere (h : MemInv s) : MemInv (haltHere s) := by
  unfold Machine.haltHere
  split
  · exact h.killCore
  · exact h.haltCore

theorem stopped (h : MemInv s) : MemInv (stopped s) := by
  unfold Machine.stopped
  split
  · exact h.haltHere
  · exact h

theorem debugStop (h : MemInv s) : MemInv (debugStop s) := by
  unfold Machine.debugStop
  split
  · exact (h.upCore (by dsimp only)).post.stopped
  · exact h

theorem settleContext (h : MemInv s) : MemInv (settleContext s) := by
  unfold Machine.settleContext
  split
  · exact h
  · extract_lets ds
    split
    · exact h.setContext.post
    · split
      · exact h.setContext
      · exact h

theorem departBarrier (h : MemInv s) {d : SReg} {gen : BitVec 16} {ids : List Nat} :
    MemInv (departBarrier d gen ids s) := ((h.upCore (by dsimp only)).upDie (by simp)).flight.landDue

theorem leaveBarrier (h : MemInv s) {d : SReg} {gen : BitVec 16} {n : Nat} : MemInv (leaveBarrier d gen n s) := by
  unfold Machine.leaveBarrier
  split
  · exact h.departBarrier
  · exact h.takeTrap
  · exact h

theorem arriveBarrier (h : MemInv s) {d : SReg} : MemInv (arriveBarrier d s) :=
  (h.upCrew.upCore (by dsimp only)).leaveBarrier

theorem returnArrived (h : MemInv s) {k : Nat} {l : List (Cont × Nat)} : MemInv (returnArrived k l s) :=
  foldl (fun ht => ht.appendRun) h

theorem arriveRvz (h : MemInv s) {c : Nat} {n : Fin 16} {k : BitVec 8} {j ba : Nat} {x : Cont} :
    MemInv (arriveRvz c n k j ba x s) := by
  unfold Machine.arriveRvz
  extract_lets s1 r
  have h1 : MemInv s1 := h
  split
  · exact foldl (fun ht => ht.makeRunnable) h1.upRvz
  · exact h1

/-- A strand leaves its core (R21). -/
theorem leaveCore (h : MemInv s) {p : Susp} {run : BitVec 32} {r : Record} : MemInv (leaveCore p run r s) := by
  unfold Machine.leaveCore
  extract_lets x t wait
  have ht : MemInv t := h
  have hw (w : WaitFor) : MemInv (wait w) := (ht.upDie (by simp)).settleWaiters
  split
  · exact ht.reservePlaces.appendRun
  · exact hw _
  · exact hw _
  · exact hw _
  · exact hw _
  · exact hw _
  · split
    · exact ht
    · exact ht.makeRunnable
  · exact ht.arriveRvz
  · split <;> exact ht

theorem finishSuspension (h : MemInv s) {p : Susp} {run : BitVec 32} : MemInv (finishSuspension p run s) := by
  unfold Machine.finishSuspension
  split
  · exact h
  · split
    · exact h.takeTrap
    · split
      · exact h.takeTrap
      · split
        · exact h
        · exact (h.upCore (by dsimp only)).leaveCore.settleContext

theorem landAll (h : MemInv s) : MemInv (landAll s) := h.upArch.landDue

theorem settleAsOf (h : MemInv s) : MemInv (settleAsOf s) := h

theorem commitSuspension (h : MemInv s) {p : Susp} {run : BitVec 32} : MemInv (commitSuspension p run s) := by
  unfold Machine.commitSuspension
  extract_lets t
  have ht : MemInv t := h
  split
  · exact ht.takeTrap
  · split
    · exact ht.takeTrap
    · split
      · exact ht
      · refine finishSuspension ?_
        exact ht.landAll.commitSegment.landAll.upCore (by dsimp only)

theorem suspend (h : MemInv s) {p : Susp} {run : BitVec 32} : MemInv (suspend p run s) := by
  unfold Machine.suspend
  refine commitSuspension (finishBundle ?_)
  exact h.upCore (by dsimp only)

theorem tryCheckpoint (h : MemInv s) : MemInv (tryCheckpoint s) := by
  unfold Machine.tryCheckpoint
  split
  · exact h
  · exact h.commitSegment.upCore (by dsimp only)

theorem tryStamps (h : MemInv s) : MemInv (tryStamps s) := by
  unfold Machine.tryStamps
  split <;> exact h

theorem beginWait (h : MemInv s) {w : Wait} : MemInv (beginWait w s) := h.finishBundle.upCore (by dsimp only)

/-- A wait goes on or ends. -/
theorem resumeWait (h : MemInv s) {w : Wait} : MemInv (resumeWait w s) := by
  cases w with
  | ckpt => exact h.tryCheckpoint
  | cbarCommit d =>
    simp only [Machine.resumeWait]
    split
    · exact h
    · exact h.commitSegment.arriveBarrier
  | cbar d gen n => exact h.leaveBarrier
  | stampCommit =>
    simp only [Machine.resumeWait]
    split
    · exact h
    · exact (h.commitSegment.upCore (by dsimp only)).tryStamps
  | stamp => exact h.tryStamps
  | suspCommit p run => exact h.commitSuspension
  | susp p run => exact h.finishSuspension

/-! Stores, and what enters a queue at issue (spec/10 R185; spec/03 R36). -/

theorem putSpad {c : Core} (h : Memory.wf c.spad = true) (off : Nat) (b : List Byte) :
    Memory.wf (c.putSpad off b).spad = true := memOk_memSetN _ _ h

theorem putPieces (h : MemInv s) {f : Nat → List Byte → Held} {l : List Piece} {b : List Byte} :
    MemInv (putPieces f l b s) := by
  induction l generalizing s b with
  | nil => exact h
  | cons p l ih =>
    cases p with
    | spad off n => exact ih (h.upSpad (putSpad h.1 ..))
    | mem pa n k => exact ih (h.upCore (by dsimp only))

theorem countBytes (h : MemInv s) {n : Nat} : MemInv (countBytes n s) := h
theorem storePut (h : MemInv s) {l : List Piece} {b : List Byte} : MemInv (storePut l b s) := h.putPieces
theorem withheld (h : MemInv s) {x : Held} : MemInv (withheld x s) := h
theorem jump (h : MemInv s) {n : Nat} : MemInv (jump n s) := h
theorem link (h : MemInv s) : MemInv (link s) := h.wrS
theorem holdSpawn (h : MemInv s) {q : Fin 64} {r : Record} {a : Nat} : MemInv (holdSpawn q r a s) := h
theorem enterCopy (h : MemInv s) {x : CopyCmd} : MemInv (enterCopy x s) := h
theorem popSlot (h : MemInv s) {p : Bool} {n : Fin 16} : MemInv (popSlot p n s) := h.onlyFlight (onlyFlight_popSlot ..)
theorem enterStream (h : MemInv s) {n : Fin 16} {op : StreamOp} {t : Tag} {l : List Foot} :
    MemInv (enterStream n op t l s) := h

theorem enterMat (h : MemInv s) {k : Nat} {t : Option Tag} {r : MatReq} : MemInv (enterMat k t r s) := by
  unfold Machine.enterMat
  cases t <;> exact h

theorem enterD (h : MemInv s) {op : DOp} {t : Option Tag} {l : List Foot} : MemInv (enterD op t l s) := by
  cases t <;> exact h

/-! Engines (spec/10 R197, R205, R212; spec/08; spec/22). -/

/-- Bytes that an engine writes to the scratchpad (R209). -/
theorem engSpad {c : Core} (h : Memory.wf c.spad = true) (off : Nat) (b : List Byte) :
    Memory.wf (c.engSpad off b).spad = true := memOk_memSetN _ _ h

theorem engStore (h : MemInv s) {pa : Nat} {b : List Byte} : MemInv (engStore pa b s) := by
  refine foldl (fun ht => ?_) h
  intro r
  split
  · exact ht.writeMem
  · exact ht.writeExpand
  · exact ht

/-- One run of an engine's bytes, where nothing stops it. -/
theorem engWriteRun (h : MemInv s) {l : List Put} {t : State} (ht : engWriteRun l s = .ok t) : MemInv t := by
  unfold Machine.engWriteRun at ht
  dsimp only at ht
  split at ht
  · cases ht; exact h
  · split at ht
    · split at ht
      · cases ht
      · cases ht; exact h.upSpad (engSpad h.1 ..)
    · split at ht
      · cases ht
      · split at ht
        · cases ht
        · split at ht
          · cases ht
          · split at ht
            · cases ht
            · split at ht
              · cases ht
              · split at ht
                · cases ht
                · cases ht; exact h.engStore
                · cases ht; exact h

theorem engWriteAll (h : MemInv s) {l : List (List Put)} : MemInv (engWriteAll l s).1 := by
  induction l generalizing s with
  | nil => exact h
  | cons r l ih =>
    simp only [Machine.engWriteAll]
    split
    · exact h
    · next hr => exact ih (engWriteRun h hr)

theorem runWalk (h : MemInv s) {k : Nat} {w : Walk} : MemInv (runWalk k w s).1 := h.engWriteAll

theorem runItems (h : MemInv s) {l : List (State → Except Trap (List Put))} {n : Nat} :
    MemInv (runItems l n s).s := by
  induction l generalizing s n with
  | nil => exact h
  | cons f l ih =>
    simp only [Machine.runItems]
    split
    · exact h
    · split
      · exact h.engWriteAll
      · exact ih h.engWriteAll

theorem runCmp (h : MemInv s) {k : Nat} {r : List Put} {l : List (State → Except Trap (List Put))} :
    MemInv (runCmp k r l s).s := by
  unfold Machine.runCmp
  split <;> exact h.runItems

theorem postParked (h : MemInv s) {va k t : Nat} : MemInv (postParked va k t s) := h

theorem stat_spad (c : Core) (k u n ba : Nat) : (c.stat k u n ba).spad = c.spad := by
  unfold Core.stat
  split <;> rfl

theorem statNow_spad (u : StatUnit) (ba : Nat) (l : List (Nat × Nat)) (c : Core) :
    (statNow u ba l c).spad = c.spad := by
  unfold statNow
  induction l generalizing c with
  | nil => rfl
  | cons p l ih =>
    rw [List.foldl_cons, ih]
    split
    · rfl
    · exact stat_spad ..

theorem endD_spad (m : DCmd) (e : Option Trap) (ids : List Nat) (c : Core) : (endD m e ids c).spad = c.spad := by
  unfold endD
  split <;> rfl

theorem putBank (h : MemInv s) {m : MatCmd} {fp : Bool} {st : Store} : MemInv (putBank m fp st s) := h

theorem finishSave (h : MemInv s) {m : MatCmd} {t : Tensor} {tag : Tag} {x y : Word} :
    MemInv (finishSave m t tag x y s) := by
  unfold Machine.finishSave
  split
  · exact h
  · extract_lets r keep
    have hr : MemInv r.1 := h.runWalk
    split
    · exact hr.upCore rfl
    · exact hr.upCore rfl
    · exact (hr.upCore rfl).postParked

theorem finishMat (h : MemInv s) {m : MatCmd} : MemInv (finishMat m s) := by
  unfold Machine.finishMat
  extract_lets done
  have hd : MemInv done := h.upCore rfl
  split
  · exact hd.putBank.upCore (statNow_spad ..)
  · exact hd.putBank
  · exact hd.putBank
  · exact hd.putBank
  · exact h.finishSave
  · exact h
  · exact hd

/-- A pass of a copy command writes in the state it is given; the state it reads in is another (R322). -/
theorem copyPass (h : MemInv s) {m : CopyCmd} : MemInv (copyPass m s).s := by
  unfold Machine.copyPass
  extract_lets w tail keep
  split
  · exact h.runWalk
  · exact h.runCmp

theorem endCopy (h : MemInv s) {m : CopyCmd} {l : List (Nat × Nat)} {e : Option Trap} {ids : List Nat} :
    MemInv (endCopy m l e ids s) := by
  have h1 : MemInv (s.upCore fun c => tagEnd m.tag e ids
      (statNow .copy m.ba l { c with copyq := c.copyq.filter fun x => x.serial != m.serial })) :=
    h.upCore (statNow_spad ..)
  exact h1

/-- A copy's pass, where its command is running. -/
theorem copyRun (h : MemInv s) {n : Nat} {m : CopyCmd} {r : CopyEnd} (hr : copyRun n s = some (m, r)) : MemInv r.s := by
  obtain ⟨m', -, hm⟩ := Option.map_eq_some_iff.1 hr
  cases hm
  exact h.copyPass

theorem landTiles (h : MemInv s) {l : List Nat} : MemInv (landTiles l s) := by
  unfold Machine.landTiles
  exact foldl (fun ht => ht.landOne) h.upArch

theorem ppRun (h : MemInv s) {m : DCmd} {cmp : Bool} {b : Nat} {t : Tensor} {tb : Option Tensor} {fn : PpFn}
    {x y z : Word} : MemInv (ppRun s m cmp b t tb fn x y z).s := by
  unfold Machine.ppRun
  extract_lets g read cols
  split
  · exact h
  · split
    · exact h.runCmp
    · exact h.runWalk

theorem finishPp {m : DCmd} {r : PpEnd} (h : MemInv r.s) : MemInv (finishPp m r) := by
  have he (e : Option Trap) (l : List (Nat × Nat)) (c : Core) :
      (endD m e r.ids (statNow .postproc m.ba l c)).spad = c.spad := (endD_spad ..).trans (statNow_spad ..)
  unfold Machine.finishPp
  extract_lets counts
  split
  · exact h.upCore (he ..)
  · exact h.upCore (he ..)
  · refine (h.upCore ?_).postParked
    split <;> rfl

theorem runPp (h : MemInv s) {m : DCmd} : MemInv (runPp m s) := by
  unfold Machine.runPp
  split
  · split
    · exact h.upCore (endD_spad ..)
    · exact finishPp h.landTiles.ppRun
  · exact h.upCore (endD_spad ..)
  all_goals exact h

theorem ringWrite (h : MemInv s) {b : List Byte} : MemInv (ringWrite b s).1 := by
  unfold Machine.ringWrite
  extract_lets c size puts r ids
  have hr : MemInv r.1 := h.engWriteAll
  split
  · exact hr
  · exact hr.upCore (by dsimp only)

theorem emitRing (h : MemInv s) {m : DCmd} {l : List VWord} : MemInv (emitRing m l s) := by
  unfold Machine.emitRing
  extract_lets b
  split
  · exact h.upCore rfl
  · split <;> exact h.ringWrite.upCore rfl

theorem emitPort (h : MemInv s) {m : DCmd} {e : VWord} {l : List VWord} : MemInv (emitPort m e l s) := by
  unfold Machine.emitPort
  split
  · exact h
  · exact (h.upCore (by dsimp only)).upCore rfl

theorem endDecode (h : MemInv s) {m : DCmd} {r : DecodeRun} {e : Option Trap} {ids : List Nat} :
    MemInv (endDecode m r e ids s) :=
  waitHead (h.upCore (endD_spad ..))

/-! Streams and circuits (spec/20). -/

theorem endStream (h : MemInv s) {e : StreamEnt} {t : Option Trap} {ids : List Nat} : MemInv (endStream e t ids s) := by
  refine h.upCore ?_
  extract_lets c
  split <;> rfl

theorem landSlot (h : MemInv s) {n : Fin 16} {x : Slot} : MemInv (landSlot n x s) := (h.upRecv.useId).settleWaiters

theorem landMarker (h : MemInv s) {n : Fin 16} : MemInv (landMarker n s) := h

theorem transfer (h : MemInv s) {a : Nat} {n : Fin 16} {core : Nat} {e : StreamEnt} :
    MemInv (transfer a n core e s) := by
  unfold Machine.transfer
  extract_lets back src src'
  have hs : MemInv src' := h.selAt.upCircuit
  split
  · exact hs.endStream.selAt
  · exact h
  · exact hs.endStream.upSend.selAt.landSlot

theorem slotInner (h : MemInv s) {n : Fin 16} {a : Nat} : MemInv (slotInner n a s) := by
  unfold Machine.slotInner
  extract_lets src
  have hs : MemInv src := h.selDie
  split
  · exact h
  · split
    · exact h
    · exact hs.upSend.selAt.landMarker
  · split
    · exact h.transfer
    · exact h

theorem slotOut (h : MemInv s) {n : Fin 16} : MemInv (slotOut n s) := by
  unfold Machine.slotOut
  split
  · exact h
  · split <;> exact h
  · split
    · exact h
    · extract_lets t
      have ht : MemInv t := h.selCore.upCircuit
      refine selCore ?_
      split
      · exact ht.endStream
      · exact ht
      · exact ht.endStream.upSend

theorem slotArrives (h : MemInv s) {n : Fin 16} {len : Nat} {t : Option Nat} {b : List Byte} :
    MemInv (slotArrives n len t b s) := by
  unfold Machine.slotArrives
  split
  · exact h
  · extract_lets fits
    split
    · exact h.landSlot
    · exact h

theorem runReceive (h : MemInv s) {n : Fin 16} : MemInv (runReceive n s) := by
  unfold Machine.runReceive
  split
  · exact h
  · split
    · split
      · exact h
      · exact h.runWalk.endStream.upRecv
    all_goals exact h

theorem giveCredit (h : MemInv s) {n : Fin 16} : MemInv (giveCredit n s) := by
  unfold Machine.giveCredit
  split
  · exact h
  · split
    · exact h
    · extract_lets s1
      have h1 : MemInv s1 := h
      split
      · exact h1
      · exact h1.selDie.upSend.selAt

theorem creditBack (h : MemInv s) {n : Fin 16} : MemInv (creditBack n s) := by
  unfold Machine.creditBack
  split
  · exact h
  · split <;> exact h

theorem breakStream (h : MemInv s) {c : Circuit} : MemInv (breakStream c s) :=
  atReceiver (fun ht => ht.upRecv) (atSender (fun ht => ht.upSend) h)

theorem clearBuffers (h : MemInv s) {c : Circuit} : MemInv (clearBuffers c s) := atReceiver (fun ht => ht.upRecv) h

theorem drainCircuit (h : MemInv s) {w : Bool} {k : Nat} : MemInv (drainCircuit w k s) := by
  unfold Machine.drainCircuit
  split
  · exact h
  · split <;> exact h

theorem drainOwned (h : MemInv s) {w : Bool} {n : Nat} : MemInv (drainOwned w n s) := by
  refine foldl (fun ht => ?_) h
  intro k
  split
  · exact ht
  · split
    · exact ht.drainCircuit
    · exact ht

/-! The arbiter (spec/02 R18 to R23; spec/15 R275, R276; spec/17 R287). -/

theorem pickup (h : MemInv s) {c : Cont} : MemInv (pickup c s) := by
  unfold Machine.pickup
  extract_lets r a s1 s2
  have h1 : MemInv s1 := h.upCore (by dsimp only)
  have h2 : MemInv s2 := h1.upEngine
  have h3 : MemInv (s2.upCore fun k => { k with shadow := tileShadows s2 }) := h2.upCore (by dsimp only)
  exact h3.withFree

theorem badContinuation (h : MemInv s) {c : Cont} : MemInv (badContinuation c s) := by
  refine (haltContext ?_).setContext.post
  exact h.upCore (by dsimp only)

theorem afterPick (h : MemInv s) {q : Fin 64} {b : Bool} : MemInv (afterPick q b s) := h.upDie (by simp)

theorem fillCore (h : MemInv s) : MemInv (fillCore s) := by
  unfold Machine.fillCore
  split
  · exact h
  · split
    · exact h.badContinuation
    · split
      · exact h
      · split
        · exact h
        · split
          · exact h
          · split
            · exact h.badContinuation
            · exact h.afterPick.pickup

theorem clearCrew (h : MemInv s) {c : Nat} : MemInv (clearCrew c s) := h.upCrew.returnArrived

/-- A phase begins: memory as it is becomes the memory at its start (R210). -/
theorem nextPhase (h : MemInv s) : MemInv (nextPhase s) := by
  unfold Machine.nextPhase
  refine foldl (fun ht => ht.makeRunnable) ?_
  refine upDie ?_ (by simp)
  refine foldl (fun ht => ?_) ?_
  · intro c
    split
    · exact ht.clearCrew
    · exact ht
  · refine h.upDieMem fun hd => ?_
    refine dieMemOk_snapshot hd ?_ ?_ ?_ <;> dsimp only [Die.newPhase]

theorem settlePhase (h : MemInv s) : MemInv (settlePhase s) := by
  unfold Machine.settlePhase
  split
  · exact h
  · split
    · exact h
    · extract_lets s1
      have h1 : MemInv s1 := by
        unfold s1
        split
        · exact h
        · split <;> exact h
      split
      · exact h1.nextPhase
      · exact h1

theorem exchangeFault (h : MemInv s) {x : XchCmd} {e : Trap} : MemInv (exchangeFault x e s) := by
  unfold Machine.exchangeFault
  extract_lets m tr
  split
  · exact h
  · exact h.haltContext.setContext.post

theorem exchangeLate (h : MemInv s) {k : Nat} : MemInv (exchangeLate k s) := by
  unfold Machine.exchangeLate
  split
  · exact h
  · split
    · exact h
    · split <;> exact h

theorem runXch (h : MemInv s) {x : XchCmd} : MemInv (runXch x s).1 := by
  unfold Machine.runXch
  split
  · exact h
  · extract_lets r s1
    have h1 : MemInv s1 := h.selCore.copyPass.selCore
    split <;> exact h1

theorem stopBudget (h : MemInv s) : MemInv (stopBudget s) := (h.upCore (by dsimp only)).post.stopped

/-! Kernels and contexts (spec/13, spec/18). -/

theorem placeImage (h : MemInv s) {n : Fin 16} {l : List (Nat × List Byte)} : MemInv (placeImage n l s) := by
  refine foldl (fun ht => foldl (fun hu => ?_) ht) h
  intro p
  split
  · exact hu
  · exact hu.writeMem

theorem whenState (h : MemInv s) {l : List CtxState} {f : Partition → State}
    (hf : ∀ p, partOf s = some p → MemInv (f p)) : MemInv (whenState l f s) := by
  unfold Machine.whenState
  split
  · exact h
  · next p hp =>
    split
    · exact hf p hp
    · exact h

theorem beginStream (h : MemInv s) {p : Partition} {x : StreamDecl} : MemInv (beginStream p x s) := by
  unfold Machine.beginStream
  extract_lets c cut
  split
  · split <;> exact h
  · split <;> exact h

/-- A context starts: memory as it is becomes the memory at the start of its first phase (R210). -/
theorem startDie (h : MemInv s) {p : Partition} : MemInv (startDie p s) := by
  unfold Machine.startDie
  refine foldl (fun ht => ht.beginStream) ?_
  unfold setModes
  refine upDie ?_ (by simp)
  refine h.upDieMem fun hd => ?_
  refine dieMemOk_snapshot hd ?_ ?_ ?_ <;> dsimp only [Die.begins]

theorem appendInitial (h : MemInv s) {q : Fin 64} {r : Record} : MemInv (appendInitial q r s) := by
  unfold Machine.appendInitial
  split
  · exact h
  · extract_lets s1
    have h1 : MemInv s1 := by
      show MemInv (if _ then _ else _)
      split <;> exact h
    exact h1.useId.appendRun

theorem resumeCore (h : MemInv s) : MemInv (resumeCore s) := by
  unfold Machine.resumeCore
  extract_lets s1
  have h1 : MemInv s1 := by
    show MemInv (if _ then _ else _)
    split <;> exact h
  refine h1.upCore ?_
  split <;> rfl

theorem resumeContext (h : MemInv s) {pre : Bool} : MemInv (resumeContext pre s) := by
  refine (eachCtxDie (fun {t} ht => ?_) ?_).settleContext
  · refine settleWaiters (eachCore resumeCore ?_)
    exact ht.upDie (by simp)
  · exact h.setContext.upPart fun _ => id

theorem unparkDie (h : MemInv s) {va : Nat} : MemInv (unparkDie va s) :=
  (eachCore (fun ht => ht.upCore rfl) h).upDie (by simp)

/-- A die's part of a swapped context: the scratchpads of its cores go into the shadow (R309). -/
theorem swapDie (h : MemInv s) {first : Nat} {slot : Fin 16} : MemInv (swapDie first slot s) := by
  unfold Machine.swapDie
  extract_lets t x
  have ht : MemInv t := eachCore (fun hu => hu.upCore (by dsimp only)) h
  obtain ⟨hs, hd, -⟩ := memInv_iff.1 ht
  obtain ⟨-, -, hc⟩ := dieMemOk_iff.1 hd
  have leaves {d : Die} : d.swappedOut.mem = d.mem ∧ d.swappedOut.base = d.base ∧ d.swappedOut.cores = d.cores := by
    refine ⟨?_, ?_, ?_⟩ <;> dsimp only [Die.swappedOut]
  refine ((eachCore (fun hu => hu.upCore rfl) ht).upDie leaves).upPart fun p hp y hy c hm => ?_
  obtain hy | hy := List.mem_append.1 hy
  · exact hp y hy c hm
  · cases List.mem_singleton.1 hy
    obtain rfl | hm := mem_insertCore.1 (List.mem_of_mem_filter hm)
    · exact hs
    · exact hc c hm

/-- Evacuated pages return to their die (R323). -/
theorem bringBack (h : MemInv s) {p : Partition} {pos : Nat} : MemInv (bringBack p pos s) := by
  unfold Machine.bringBack
  split
  · exact h
  · next e he =>
    obtain ⟨-, -, -, hev, -⟩ := memInv_iff.1 h
    obtain ⟨hem, heb⟩ := hev e (List.mem_of_find?_eq_some he)
    refine (h.upDieMem fun hd => ?_).upPkg fun ⟨hds, hev, hps⟩ =>
      ⟨hds, fun x hx => hev x (List.mem_of_mem_filter hx), hps⟩
    obtain ⟨hm, hb, hc⟩ := dieMemOk_iff.1 hd
    exact dieMemOk_iff.2 ⟨(memOk_overlay _ 0 hem hm).1, (memOk_overlay _ 0 heb hb).1, hc⟩

theorem loadCore (h : MemInv s) {q : Partition} {x : DieShadow} (hx : ∀ c ∈ x.cores, Memory.wf c.spad = true) :
    MemInv (loadCore q x s) := by
  unfold Machine.loadCore
  split
  · exact h
  · next c hc =>
    extract_lets s1
    have h1 : MemInv s1 := h.upSpad (by split <;> exact hx c (List.mem_of_find?_eq_some hc))
    split <;> exact h1

/-- A die takes its part of a swapped context from its shadow (R310). -/
theorem loadDie (h : MemInv s) {p q : Partition} (hp : ShadowOk p) : MemInv (loadDie p q s) := by
  unfold Machine.loadDie
  split
  · exact h
  · next x hx =>
    refine eachCore (fun ht => ht.loadCore (hp x (List.mem_of_find?_eq_some hx))) ?_
    unfold setModes
    refine upDie ?_ (by simp)
    exact upDie h.bringBack (by simp)

theorem restoreMbox (h : MemInv s) {n : Fin 16} {l : List (Nat × Word)} : MemInv (restoreMbox n l s) :=
  h.upMbox.upPkg id

theorem rearm (h : MemInv s) : MemInv (rearm s) := foldl (fun ht => ht.makeRunnable) (h.upDie (by simp))

/-- The context's place takes its partition's record without its shadow (R310). -/
theorem moveContext (h : MemInv s) {p q : Partition} : MemInv (s.upPkg fun k => moveContext p q (retune p q k)) := by
  refine h.upPkg fun hk => PkgMemOk.parts (k := retune p q s.pkg) hk fun x _ hx => ?_
  split
  · exact fun y hy => absurd hy List.not_mem_nil
  · split
    · exact fun y hy => absurd hy List.not_mem_nil
    · exact hx

/-! The steward and the host (spec/19, spec/21, spec/23; spec/18 R317). -/

theorem unstamp (h : MemInv s) {l : List Nat} : MemInv (unstamp l s) :=
  foldl (fun ht => ht.writeMem) (h.upDie (by simp))

theorem changeTables (h : MemInv s) {r : String} {a o n : Nat} {f : State → State} (hf : MemInv (f s)) :
    MemInv (changeTables r a o n f s) := by
  unfold Machine.changeTables
  extract_lets t
  split
  · exact h
  · exact ((show MemInv t from hf).upDie (by simp)).unstamp

theorem checkEvacuation (h : MemInv s) : MemInv (checkEvacuation s) := by
  unfold Machine.checkEvacuation
  split <;> exact h

theorem reportBoot {t : State} (h : MemInv t) : MemInv (reportBoot s t) := by
  unfold Machine.reportBoot
  split <;> exact h

theorem fence (h : MemInv s) {r : String} : MemInv (fence r s) := h

theorem hostJoins (h : MemInv s) {ids : List Nat} : MemInv (hostJoins ids s) :=
  (h.upDie (by simp)).upPkg fun hk => hk.mapDies fun _ => id

theorem hostRead (h : MemInv s) {a pa n : Nat} : MemInv (hostRead a pa n s) := by
  unfold Machine.hostRead
  extract_lets bs
  split
  · exact h
  · exact h.hostJoins.post

theorem hostWrite (h : MemInv s) {a pa : Nat} {b : List Byte} : MemInv (hostWrite a pa b s) := by
  unfold Machine.hostWrite
  split
  · exact h
  · exact h.writeMem.upDie (by simp)

theorem damage (h : MemInv s) {k a : Nat} : MemInv (damage k a s) := by
  unfold Machine.damage
  split <;> exact h

theorem correct (h : MemInv s) {k a : Nat} : MemInv (correct k a s) := by
  unfold Machine.correct
  split <;> exact h

theorem setAperture (h : MemInv s) {i : Fin 16} {f : Aperture → Aperture} : MemInv (setAperture i f s) := by
  unfold Machine.setAperture
  split <;> exact h

end Sys2Proof.Machine.MemInv
end

section
/-! PROOFS. Every step keeps the canonical form of every memory (log 3): so does each instruction, and so the issue of
a bundle around its syllables; from these the statements O6 and O7. -/

namespace Sys2Proof.Machine

/-- Where an outcome is a next state, every memory has its canonical form in it. -/
def KeepsMem (o : Host.Outcome State Fault Refusal) : Prop := ∀ t, o = .next t → MemInv t

section

variable {s : State}

theorem keepsMem_next (h : MemInv s) : KeepsMem (.next s) := fun t ht => by cases ht; exact h

/-- The issue of a syllable freezes, traps or takes its effect. -/
theorem keepsMem_issue (h : MemInv s) {y : Syl} {f : State → State} (hf : ∀ {u}, MemInv u → MemInv (f u)) :
    KeepsMem (issue s y f) := by
  obtain ⟨r, hr⟩ | ⟨t, -, hr⟩ | ⟨-, -, -, -, -, hr⟩ := issue_cases s y f <;> rw [hr]
  · exact keepsMem_next h.ended
  · exact keepsMem_next h.trapHere
  · exact keepsMem_next (hf h.reads)

/-- So do the two steps of a deprecated opcode (R65). -/
theorem keepsMem_issueSteps (h : MemInv s) {y z : Syl} {f : State → State} (hf : ∀ {u}, MemInv u → MemInv (f u)) :
    KeepsMem (issueSteps s y z f) := by
  unfold issueSteps
  split
  · exact keepsMem_next h.ended
  · split
    · exact keepsMem_next h.trapHere
    · split
      · exact keepsMem_next h.ended
      · exact keepsMem_next (hf (h.onlyFlight (onlyFlight_popAll ..)))

/-! The shapes that syllables share. -/

theorem keepsMem_matSyl (h : MemInv s) {l : List TId} {k : Nat} {r : Except Trap MatReq} {t : Option Tag}
    {f : State → State} (hf : ∀ {u}, MemInv u → MemInv (f u)) : KeepsMem (matSyl l k r t f s) := by
  dsimp only [matSyl]
  refine keepsMem_issue h fun hu => ?_
  split
  · exact hu
  · exact hf hu.enterMat

theorem keepsMem_copySyl (h : MemInv s) {l : List Reg} {k : CopyKind} {ta : Option TId} {tb : TId} {tag : Tag} :
    KeepsMem (copySyl l k ta tb tag s) := by
  dsimp only [copySyl]
  refine keepsMem_issue h fun hu => ?_
  split <;> exact hu

theorem keepsMem_sendSyl (h : MemInv s) {l : List Reg} {x : Option Nat} {t : TId} {n : Fin 16} {tag : Tag} :
    KeepsMem (sendSyl l x t n tag s) := by
  dsimp only [sendSyl]
  refine keepsMem_issue h fun hu => ?_
  split <;> exact hu

theorem keepsMem_ppSyl (h : MemInv s) {c : Bool} {k : AReg} {ta tb : TId} {tag : Tag} {fn : PpFn} :
    KeepsMem (ppSyl c k ta tb tag fn s) := by
  dsimp only [ppSyl]
  refine keepsMem_issue h fun hu => ?_
  split
  · exact hu.enterD.upCore rfl
  · exact hu

theorem keepsMem_decodeSyl (h : MemInv s) {op : Tensor → DOp} {t : TId} {tag : Tag} :
    KeepsMem (decodeSyl op t tag s) := by
  dsimp only [decodeSyl]
  refine keepsMem_issue h fun hu => ?_
  split
  · exact hu
  · exact hu.enterD

theorem keepsMem_storeSyl (h : MemInv s) {l : List Reg} {st : Stored} {b : List Byte} : KeepsMem (storeSyl l st b s) :=
  keepsMem_issue h fun hu => hu.storePut

theorem keepsMem_orderSyl (h : MemInv s) {l : List Reg} {d : SReg} {k : Nat} {x : Except Trap Nat} {n : Nat}
    {f : Nat → Nat → Held} : KeepsMem (orderSyl l d k x n f s) := by
  dsimp only [orderSyl]
  refine keepsMem_issue h fun hu => ?_
  split
  · exact hu.awaited.withheld.countBytes
  · exact hu

theorem keepsMem_loopStart (h : MemInv s) {l : Fin 3} {p : Bool} {k : Fin 4} {a : SReg} {off : BitVec 30} :
    KeepsMem (loopStart l p k a off s) := by
  dsimp only [loopStart]
  refine keepsMem_issue h fun hu => ?_
  split <;> exact hu

theorem keepsMem_suspPoint (h : MemInv s) {l : List Reg} {t : Option Trap} {p : Susp} {run : BitVec 32}
    {f : State → State} (hf : ∀ {u}, MemInv u → MemInv (f u)) : KeepsMem (suspPoint l t p run f s) := by
  dsimp only [suspPoint]
  exact keepsMem_issue h fun hu => (hf hu).suspend

theorem keepsMem_elemwise (h : MemInv s) {u : StatUnit} {x : Option Trap} {t : EType} {k : Nat} {m : VMod} {d : VReg}
    {l : List Reg} {f : Nat → Nat × Ev} : KeepsMem (elemwise u x t k m d l f s) :=
  keepsMem_issue h fun hu => hu.velem

theorem keepsMem_vReduce (h : MemInv s) {t : EType} {d a : VReg} {m : VMod} {f : List (Nat × Ev)} :
    KeepsMem (vReduce t d a m f s) := by
  dsimp only [vReduce]
  exact keepsMem_issue h fun hu => hu.wrV.raise

theorem keepsMem_tagWait (h : MemInv s) {r : Bool} {d a : SReg} : KeepsMem (tagWait r d a s) := by
  dsimp only [tagWait]
  exact keepsMem_issue h fun hu => hu.observe.wrS

theorem keepsMem_loadSyl (h : MemInv s) {l m : List Reg} {x : Loaded} {k : Nat} {f : List Byte → State → State}
    (hf : ∀ {b u}, MemInv u → MemInv (f b u)) : KeepsMem (loadSyl l m x k f s) :=
  keepsMem_issue h fun hu => hf hu.landing

end

section

variable {s : State}

/-! Events of a core, of its engines, and of streams and circuits (spec/02, spec/08, spec/10, spec/20, spec/22). -/

theorem keepsMem_execRvzDeadline (h : MemInv s) {crew slot : Fin 16} : KeepsMem (execRvzDeadline crew slot s) := by
  refine keepsMem_next ?_
  extract_lets r
  split
  · exact h
  · split
    · exact h.upRvz.returnArrived
    · exact h

theorem keepsMem_execCbarDeadline (h : MemInv s) {crew : Fin 16} : KeepsMem (execCbarDeadline crew s) := by
  refine keepsMem_next ?_
  extract_lets w
  split
  · exact h.upCrew
  · exact h

theorem keepsMem_execExchangeTimeExpiry (h : MemInv s) : KeepsMem (execExchangeTimeExpiry s) := by
  refine keepsMem_next ?_
  split
  · exact h
  · exact h.exchangeLate

theorem keepsMem_execPostprocComplete (h : MemInv s) : KeepsMem (execPostprocComplete s) := by
  refine keepsMem_next ?_
  split
  · exact h
  · split
    · exact h.runPp.waitHead.upEngine
    · exact h

theorem keepsMem_execCopyCommandStart (h : MemInv s) {serial : Nat} : KeepsMem (execCopyCommandStart serial s) := by
  refine keepsMem_next ?_
  split
  · exact h
  · split
    · exact h.upCore (by dsimp only)
    · exact h

theorem keepsMem_execCopyComplete (h : MemInv s) {serial : Nat} : KeepsMem (execCopyComplete serial s) := by
  refine keepsMem_next ?_
  split
  · next hr => exact (MemInv.copyRun h hr).endCopy
  · exact h

theorem keepsMem_execCopyFault (h : MemInv s) {serial : Nat} : KeepsMem (execCopyFault serial s) := by
  refine keepsMem_next ?_
  split
  · next hr => exact (MemInv.copyRun h hr).endCopy
  · exact h

theorem keepsMem_execCopyDemandPark (h : MemInv s) {serial : Nat} : KeepsMem (execCopyDemandPark serial s) := by
  refine keepsMem_next ?_
  split
  · next hr => exact ((MemInv.copyRun h hr).upCore rfl).postParked
  · exact h

theorem keepsMem_execRingSetPerformed (h : MemInv s) : KeepsMem (execRingSetPerformed s) := by
  refine keepsMem_next ?_
  split
  · exact h
  · split
    · exact (h.upCore rfl).waitHead
    all_goals exact h

theorem keepsMem_execDecodeEngineAssign (h : MemInv s) : KeepsMem (execDecodeEngineAssign s) := by
  refine keepsMem_next ?_
  split
  · exact h
  · split
    · exact h
    · exact MemInv.withCore (fun hu => hu.upCore rfl) h

theorem keepsMem_execStreamSlotPresent (h : MemInv s) {w : SlotWay} : KeepsMem (execStreamSlotPresent w s) := by
  refine keepsMem_next ?_
  cases w with
  | inner n =>
    dsimp only
    split
    · exact h.slotInner
    · exact h
  | out n =>
    dsimp only
    split
    · exact h
    · split
      · exact h
      · exact h.slotOut
  | arrive n len stamp b =>
    dsimp only
    split
    · exact h
    · exact h.slotArrives
  | marker n =>
    dsimp only
    split
    · exact h
    · exact h.landMarker

theorem keepsMem_execCreditReturn (h : MemInv s) {w : CreditWay} : KeepsMem (execCreditReturn w s) := by
  refine keepsMem_next ?_
  cases w with
  | back n => exact h.creditBack
  | returns n =>
    dsimp only
    split
    · exact h
    · exact h.runReceive.giveCredit

theorem keepsMem_execReserve (h : MemInv s) {wavelength port : Nat} {die : CircuitEnd} {n : Fin 16} :
    KeepsMem (execReserve wavelength port die n s) := by
  refine keepsMem_next ?_
  split
  · exact h
  · extract_lets used new
    split
    · exact h
    · split
      · exact h.upConn
      · exact h.upPkg id

theorem keepsMem_execTune (h : MemInv s) {circuit : Nat} : KeepsMem (execTune circuit s) := by
  refine keepsMem_next ?_
  split
  · exact h
  · split
    · exact h.upConn
    · exact h

theorem keepsMem_execTuneLocked (h : MemInv s) {circuit : Nat} : KeepsMem (execTuneLocked circuit s) := by
  refine keepsMem_next ?_
  split
  · exact h
  · split
    · extract_lets s1
      split
      · exact h.upConn
      · exact MemInv.atSender (fun hu => hu.upSend) h.upConn
    · exact h

theorem keepsMem_execLinkFail (h : MemInv s) {circuit : Nat} : KeepsMem (execLinkFail circuit s) := by
  refine keepsMem_next ?_
  split
  · exact h
  · split
    · exact h.upConn.post.breakStream
    · exact h

theorem keepsMem_execLinkError (h : MemInv s) {circuit : Nat} : KeepsMem (execLinkError circuit s) := by
  refine keepsMem_next ?_
  split
  · exact h
  · split
    · exact h.upConn.post.breakStream
    · exact h

theorem keepsMem_execCircuitDrain (h : MemInv s) {circuit : DrainOf} : KeepsMem (execCircuitDrain circuit s) := by
  refine keepsMem_next ?_
  cases circuit <;> exact h.drainCircuit

theorem keepsMem_execCircuitDrainComplete (h : MemInv s) {circuit : Nat} :
    KeepsMem (execCircuitDrainComplete circuit s) := by
  refine keepsMem_next ?_
  split
  · exact h
  · split
    · extract_lets s1
      split
      · exact h.upConn
      · exact h.upConn.breakStream
    · exact h

theorem keepsMem_execCircuitRelease (h : MemInv s) {circuit : Nat} : KeepsMem (execCircuitRelease circuit s) := by
  refine keepsMem_next ?_
  split
  · exact h
  · extract_lets s1
    split
    · exact h.upConn
    · exact h.upConn.clearBuffers
    all_goals exact h

theorem keepsMem_execBudget (h : MemInv s) : KeepsMem (execBudget s) := by
  refine keepsMem_next ?_
  split
  · exact h.stopBudget
  · exact h

theorem keepsMem_execBudgetRefill (h : MemInv s) {left : BitVec 32} : KeepsMem (execBudgetRefill left s) := by
  refine keepsMem_next ?_
  split
  · exact h.upCore (by dsimp only)
  · exact h

theorem keepsMem_execCoreFill (h : MemInv s) : KeepsMem (execCoreFill s) := by
  refine keepsMem_next ?_
  split
  · exact h
  · split
    · exact h.badContinuation
    · exact (MemInv.eachCore (fun hu => hu.fillCore) h).settlePhase

theorem keepsMem_execQueueOverflowMove (h : MemInv s) {q : Fin 64} : KeepsMem (execQueueOverflowMove q s) := by
  refine keepsMem_next (h.upDie ?_)
  extract_lets x
  split
  · exact ⟨rfl, rfl, rfl⟩
  · split <;> exact ⟨rfl, rfl, rfl⟩

theorem keepsMem_execSubmit (h : MemInv s) {kid : BitVec 32} {container : List Byte} :
    KeepsMem (execSubmit kid container s) := by
  refine keepsMem_next (h.whenState fun p _ => ?_)
  split
  · exact h.status
  · exact h.upPart fun _ => id

theorem keepsMem_execRetire (h : MemInv s) {kid : BitVec 32} : KeepsMem (execRetire kid s) := by
  refine keepsMem_next ?_
  split
  · exact h
  · split
    · exact h
    · split
      · exact h.status
      · exact h.upPart fun _ => id

theorem keepsMem_execGeoRecordFill (h : MemInv s) {n : Nat} : KeepsMem (execGeoRecordFill n s) := by
  have count {l : List GeoRec} : ∀ {c : Core}, (l.foldl (fun k r => countGeo r k) c).spad = c.spad := by
    induction l with
    | nil => intros; rfl
    | cons r l ih => intro c; rw [List.foldl_cons, ih]; exact MemInv.statNow_spad ..
  exact keepsMem_next (h.upCore count)

theorem keepsMem_execModeSwitch (h : MemInv s) : KeepsMem (execModeSwitch s) := by
  refine keepsMem_next ?_
  split
  · exact h
  · split
    · split
      · exact h
      · exact h.upEngine.upCore rfl
    · exact h

theorem keepsMem_execMatrixCommandStart (h : MemInv s) : KeepsMem (execMatrixCommandStart s) := by
  refine keepsMem_next ?_
  split
  · exact h
  · split
    · exact h
    · split
      · exact (h.upCore rfl).landTiles
      · exact h

theorem keepsMem_execMatrixCommandFinish (h : MemInv s) {b : Bool} : KeepsMem (execMatrixCommandFinish b s) := by
  refine keepsMem_next ?_
  split
  · exact h
  · split
    · exact h
    · split
      · exact h.takeTrap
      · split
        · exact h.finishMat
        · split
          · exact h.takeTrap
          · exact h.finishMat

theorem keepsMem_execDecodeRecordEmit (h : MemInv s) : KeepsMem (execDecodeRecordEmit s) := by
  refine keepsMem_next ?_
  split
  · exact h
  · split
    · exact h
    · split
      · exact h
      · split
        · split
          · exact h
          · exact h.emitPort
        · exact h.emitRing

theorem keepsMem_execDecodePageEnd (h : MemInv s) : KeepsMem (execDecodePageEnd s) := by
  refine keepsMem_next ?_
  split
  · exact h
  · extract_lets ready x err
    split
    · exact h
    · split
      · split
        · exact (h.upCore (by dsimp only)).endDecode
        · exact h
      · split
        · exact h
        · split <;> exact h.ringWrite.endDecode

theorem keepsMem_execExchangeEnd (h : MemInv s) : KeepsMem (execExchangeEnd s) := by
  have run {l : List XchCmd} : ∀ {u : State}, MemInv u → MemInv (runXchs l u).1 := by
    induction l with
    | nil => exact id
    | cons x l ih => exact fun hu => ih hu.runXch
  refine keepsMem_next ?_
  split
  · exact h
  · extract_lets r
    have hr : MemInv r.1 := run h.exchangeLate
    split
    · exact hr.upDie (by simp)
    · split
      · exact (hr.upDie (by simp)).nextPhase
      · exact (hr.upDie (by simp)).nextPhase.exchangeFault

/-! Kernels and contexts (spec/13, spec/18). -/

theorem keepsMem_execVerificationEnd (h : MemInv s) {kid : BitVec 32} : KeepsMem (execVerificationEnd kid s) := by
  refine keepsMem_next ?_
  split
  · exact h
  · split
    · exact h
    · extract_lets r s1 fails
      have h1 : MemInv s1 := h.upPkg id
      have hf (st : String) (a : Nat) : MemInv (fails st a) := (h1.upPart (by exact fun _ => id)).status
      split
      · exact hf ..
      · split
        · exact hf ..
        · exact h1.upPart fun _ => id

theorem keepsMem_execLoad (h : MemInv s) {kid : BitVec 32} {x : BitVec 64} : KeepsMem (execLoad kid x s) := by
  refine keepsMem_next ?_
  split
  · exact h
  · split
    · exact h
    · split
      · exact h.status
      · extract_lets ds s1
        have h1 : MemInv s1 := MemInv.eachDie (fun hu => hu.placeImage) h
        exact h1.upPart fun _ => id

theorem keepsMem_execFormPartition (h : MemInv s) {num : BitVec 16} {slot : Fin 16} {first count : Nat}
    {mask : BitVec 16} : KeepsMem (execFormPartition num slot first count mask s) := by
  unfold execFormPartition
  extract_lets ds taken
  refine keepsMem_next ?_
  split
  · exact h
  · refine MemInv.eachDie (fun hu => hu.upDie (by simp)) (h.upPkg fun hk => ?_)
    obtain ⟨hd, he, hp⟩ := hk
    refine ⟨hd, he, fun p hm => ?_⟩
    obtain hm | hm := List.mem_append.1 hm
    · exact hp p hm
    · cases List.mem_singleton.1 hm
      exact fun x hx => absurd hx List.not_mem_nil

theorem keepsMem_execPartitionRelease (h : MemInv s) : KeepsMem (execPartitionRelease s) := by
  refine keepsMem_next (h.whenState fun p _ => ?_)
  refine (MemInv.eachCtxDie (fun hu => hu.upDie (by simp)) h).upPkg fun hk => ?_
  obtain ⟨hd, he, hp⟩ := hk
  exact ⟨hd, he, fun q hq => hp q (List.mem_of_mem_filter hq)⟩

theorem keepsMem_execCreate (h : MemInv s) {b : BitVec 16} : KeepsMem (execCreate b s) := by
  refine keepsMem_next (h.whenState fun p _ => ?_)
  refine MemInv.upPart (MemInv.eachCtxDie (fun hu => hu.upDie ?_) h) fun _ => id
  simp [Die.cleared]

theorem keepsMem_execStart (h : MemInv s) {x : Launch} : KeepsMem (execStart x s) := by
  refine keepsMem_next (h.whenState fun p _ => ?_)
  extract_lets q
  split
  · exact h.status
  · refine MemInv.settleContext (MemInv.upPart ?_ fun _ => id)
    refine MemInv.foldl (fun ht => MemInv.eachCtxDie (fun hu => hu.appendInitial) ht) ?_
    exact MemInv.eachCtxDie (fun hu => hu.startDie) h

theorem keepsMem_execPreempt (h : MemInv s) {n : Nat} : KeepsMem (execPreempt n s) :=
  keepsMem_next (h.whenState fun _ _ => (h.upPart (by exact fun _ => id)).settleContext)

theorem keepsMem_execPrelimitExpiry (h : MemInv s) : KeepsMem (execPrelimitExpiry s) := by
  refine keepsMem_next (h.whenState fun p _ => ?_)
  split
  · exact h
  · exact h.haltContext.setContext

theorem keepsMem_execHalt (h : MemInv s) : KeepsMem (execHalt s) :=
  keepsMem_next (h.whenState fun _ _ => h.haltContext.setContext)

theorem keepsMem_execResume (h : MemInv s) : KeepsMem (execResume s) := by
  refine keepsMem_next (h.whenState fun p _ => ?_)
  split
  · exact h
  · split
    · exact h.status
    · split
      · exact h
      · exact h.resumeContext

theorem keepsMem_execResolve (h : MemInv s) {va : Nat} : KeepsMem (execResolve va s) := by
  refine keepsMem_next (h.whenState fun p _ => ?_)
  extract_lets s1
  have h1 : MemInv s1 := MemInv.eachCtxDie (fun hu => hu.unparkDie) h
  split
  · exact h1.resumeContext
  · exact h1

theorem keepsMem_execSwap (h : MemInv s) : KeepsMem (execSwap s) := by
  refine keepsMem_next (h.whenState fun p _ => ?_)
  split
  · exact h
  · exact (h.upPart (by exact fun _ => id)).drainOwned

theorem keepsMem_execSwapComplete (h : MemInv s) : KeepsMem (execSwapComplete s) := by
  refine keepsMem_next (h.whenState fun p _ => ?_)
  split
  · exact h
  · extract_lets s1 s2
    have h1 : MemInv s1 := MemInv.eachCtxDie (fun hu => hu.swapDie)
      (h.upPart fun _ _ x hx => absurd hx List.not_mem_nil)
    exact (h1.upMbox.upPart (by exact fun _ => id)).status

theorem keepsMem_execRestore (h : MemInv s) {n : Nat} : KeepsMem (execRestore n s) := by
  refine keepsMem_next (h.whenState fun p hp => ?_)
  split
  · exact h.status
  · split
    · exact h.status
    · extract_lets s1
      obtain ⟨-, -, -, -, hps⟩ := memInv_iff.1 h
      have h1 : MemInv s1 := MemInv.eachDie (fun hu => hu.loadDie (hps p (partOf_mem hp))) h
      exact h1.restoreMbox.moveContext

theorem keepsMem_execRestoreComplete (h : MemInv s) : KeepsMem (execRestoreComplete s) :=
  keepsMem_next (h.whenState fun _ _ => (MemInv.eachCtxDie (fun hu => hu.rearm) h).resumeContext)

theorem keepsMem_execKill (h : MemInv s) : KeepsMem (execKill s) := by
  refine keepsMem_next (h.whenState fun p _ => ?_)
  extract_lets s1 s2 runs
  have leaves {d : Die} : d.killed.mem = d.mem ∧ d.killed.base = d.base ∧ d.killed.cores = d.cores := by
    refine ⟨?_, ?_, ?_⟩ <;> dsimp only [Die.killed]
  have h1 : MemInv s1 := MemInv.eachCtxDie (fun hu => (MemInv.eachCore (fun hv => hv.killCore) hu).upDie leaves) h
  have h2 : MemInv s2 := h1.drainOwned.upPkg id
  exact h2.upMbox.upPart fun _ _ x hx => absurd hx List.not_mem_nil

theorem keepsMem_execKillScrubComplete (h : MemInv s) : KeepsMem (execKillScrubComplete s) := by
  refine keepsMem_next (h.whenState fun p _ => ?_)
  have scrubbed {u : State} (hu : MemInv u) (n : Fin 16) : MemInv (u.upDie (Die.scrubbed n)) :=
    hu.upDieMem fun hd => dieMemOk_cleared hd (by dsimp only [Die.scrubbed]) (by dsimp only [Die.scrubbed])
      (by dsimp only [Die.scrubbed, Die.killed])
  split
  · exact h
  · extract_lets s1 s2
    have h1 : MemInv s1 :=
      MemInv.eachCtxDie (fun hu => scrubbed (MemInv.eachCore (fun hv => hv.upSpad rfl) hu) _) h
    have h2 : MemInv s2 := h1.upPkg fun hk => by
      obtain ⟨hd, he, hp⟩ := hk
      exact ⟨hd, fun e hm => he e (List.mem_of_mem_filter hm), hp⟩
    exact (h2.upMbox.upPart (by exact fun _ => id)).post

/-! The steward and the host (spec/11, spec/19, spec/21, spec/23). -/

theorem keepsMem_execPageTableUpdate (h : MemInv s) {a : Nat} {x : BitVec 64} :
    KeepsMem (execPageTableUpdate a x s) := by
  refine keepsMem_next ?_
  split
  · exact h
  · extract_lets old new inMemory busy
    split
    · exact h
    · split
      · exact h.status
      · exact h.changeTables h.writeMem

theorem keepsMem_execOffline (h : MemInv s) : KeepsMem (execOffline s) := by
  refine keepsMem_next ?_
  split
  · split
    · exact h
    · split
      · exact h.status
      · exact (h.upDie (by simp)).checkEvacuation
  · split
    · exact h
    · exact h.checkEvacuation
  all_goals exact h

/-- What the evacuation store takes is the die's memory as it is. -/
theorem evacuated_ok (h : MemInv s) {e : Evacuated} (he : evacuated s = some e) :
    Memory.wf e.mem = true ∧ Memory.wf e.base = true := by
  obtain ⟨-, hd, -⟩ := memInv_iff.1 h
  obtain ⟨hm, hb, -⟩ := dieMemOk_iff.1 hd
  unfold evacuated at he
  split at he
  · cases he
  · split at he
    · cases he
    · cases he
      exact ⟨hm, hb⟩

theorem keepsMem_execEvacuationComplete (h : MemInv s) : KeepsMem (execEvacuationComplete s) := by
  refine keepsMem_next ?_
  split
  · refine (h.upDie (by simp)).upPkg fun hk => ?_
    obtain ⟨hd, he, hp⟩ := hk
    refine ⟨hd, fun e hm => ?_, hp⟩
    obtain hm | hm := List.mem_append.1 hm
    · exact he e hm
    · exact evacuated_ok h (Option.mem_toList.1 hm)
  · exact h

theorem keepsMem_execOnline (h : MemInv s) {b : Bool} : KeepsMem (execOnline b s) := by
  refine keepsMem_next ?_
  split
  · exact h.upDie (by simp)
  · split
    · exact h.upDieMem fun hd => dieMemOk_cleared hd rfl rfl rfl
    · exact (h.upDie (by simp)).fence
  all_goals exact h

/-- Booting takes cores out of service and changes no memory (R12). -/
theorem dieMemOk_boots {d : Die} {st : BitVec 4} {r : List Byte} (h : dieMemOk d = true) :
    dieMemOk (d.boots st r) = true := by
  unfold Die.boots
  split
  · exact h
  · split
    · obtain ⟨hm, hb, hc⟩ := dieMemOk_iff.1 h
      exact dieMemOk_iff.2 ⟨hm, hb, fun c hx => hc c (List.mem_of_mem_filter hx)⟩
    · exact h

theorem keepsMem_execResetRelease (h : MemInv s) : KeepsMem (execResetRelease s) := by
  unfold execResetRelease
  extract_lets st r t
  have ht : MemInv t := by
    unfold t
    split
    · exact h.selCore
    · exact h
  refine keepsMem_next ?_
  split
  · refine MemInv.reportBoot ((ht.upDieMem dieMemOk_boots).upPkg fun hk => ?_)
    exact hk.mapDies fun _ => dieMemOk_boots
  · exact h

theorem keepsMem_execBistComplete (h : MemInv s) {b : Bool} : KeepsMem (execBistComplete b s) := by
  refine keepsMem_next ?_
  split
  · exact h
  · split
    · exact h.upDie (by simp)
    · exact h.fence.reportBoot

theorem keepsMem_execAuthComplete (h : MemInv s) {b : Bool} : KeepsMem (execAuthComplete b s) := by
  refine keepsMem_next ?_
  split
  · exact h
  · split
    · exact h.fence.reportBoot
    · split
      · exact (h.upDie (by simp)).reportBoot
      · exact h

theorem keepsMem_execAuthTimeout (h : MemInv s) : KeepsMem (execAuthTimeout s) := by
  refine keepsMem_next ?_
  split
  · exact h
  · exact h.fence.reportBoot

theorem keepsMem_execRailFault (h : MemInv s) : KeepsMem (execRailFault s) := by
  refine keepsMem_next ?_
  extract_lets s1
  split
  · exact h.post
  · exact h.post.fence.reportBoot

theorem keepsMem_execDomainFloor (h : MemInv s) {n : Nat} : KeepsMem (execDomainFloor n s) := by
  refine keepsMem_next ?_
  split
  · exact h
  · exact (h.upDie (by simp)).settleWaiters

theorem keepsMem_execClockWide (h : MemInv s) : KeepsMem (execClockWide s) := by
  refine keepsMem_next ?_
  split
  · exact h.upDie (by simp)
  · split
    · exact h
    · exact (h.upDie (by simp)).post

theorem keepsMem_execAstepWrite (h : MemInv s) {x : BitVec 64} : KeepsMem (execAstepWrite x s) := by
  refine keepsMem_next ?_
  split
  · exact h
  · exact h.upPkg id

theorem keepsMem_execSteppingTick (h : MemInv s) : KeepsMem (execSteppingTick s) := by
  have level {d : Die} {n : Nat} (hd : dieMemOk d = true) : dieMemOk (d.setLevel n) = true := by
    unfold Die.setLevel
    extract_lets d1
    split <;> exact hd
  unfold execSteppingTick
  extract_lets r
  refine keepsMem_next ?_
  split
  · exact h
  · exact (h.upDieMem level).upPkg fun hk => hk.mapDies fun _ => level

theorem keepsMem_execMboxWrite (h : MemInv s) {n : Fin 16} {x : BitVec 64} : KeepsMem (execMboxWrite n x s) := by
  refine keepsMem_next ?_
  split
  · exact h.upPkg id
  · extract_lets s1
    have h1 : MemInv s1 := h.upMbox.useId
    split
    · exact h1
    · exact MemInv.eachDie (fun hu => hu.settleWaiters) h1

theorem keepsMem_execHostCxlRead (h : MemInv s) {a : HostWin} {n : Nat} : KeepsMem (execHostCxlRead a n s) := by
  refine keepsMem_next ?_
  split
  · split
    · exact MemInv.atDie (fun hu => hu.hostRead) h
    · exact h.post
  · exact h.post

theorem keepsMem_execHostCxlWrite (h : MemInv s) {a : Nat} {l : List (BitVec 8)} :
    KeepsMem (execHostCxlWrite a l s) := by
  refine keepsMem_next ?_
  split
  · exact MemInv.atDie (fun hu => hu.hostWrite) h
  · exact h.post

theorem keepsMem_execScrubError (h : MemInv s) {k a : Nat} {b : Bool} : KeepsMem (execScrubError k a b s) := by
  refine keepsMem_next ?_
  split
  · exact h.correct
  · exact h.damage.post

theorem keepsMem_execRegisterWrite (h : MemInv s) {r : StewReg} {x : BitVec 64} :
    KeepsMem (execRegisterWrite r x s) := by
  refine keepsMem_next ?_
  cases r with
  | dbgctl | rvzto | clkw | horizon => exact h.upDie (by simp)
  | qcfg q =>
    dsimp only
    split
    · exact h.upDie (by simp)
    · exact (h.upDie (by simp)).rouse
  | qring q =>
    dsimp only
    split
    · exact h
    · exact h.upDie (by simp)
  | ptroot k =>
    dsimp only
    split
    · exact h
    · exact h.changeTables (h.upDie (by simp))
  | apctl i | apwin i | apbuf i | apaux i => exact h.setAperture

end

/-- Every instruction keeps the canonical form of every memory: a syllable by its issue, an event by what it makes of
the state. -/
theorem exec_keepsMem (i : Instr) {s : State} (h : MemInv s) : KeepsMem (exec i s) := by
  cases i with
  | sNop | mPref | mTinv | xFence | dDfence | bTrap =>
    dsimp only [exec]
    exact keepsMem_issue h fun hu => hu
  | sChk x =>
    dsimp only [exec]
    cases x <;> exact keepsMem_issue h fun hu => hu
  | sAdd | sSub | sAnd | sOr | sXor | sAndn | sShl | sShr | sSar | sRor | sMin | sMax | sMinu | sMaxu | sBfi | sMul
  | sMulh | sMulhu | sLea | sAddi | sMovhi | sAndi | sOri | sXori | sShli | sShri | sSari | sAbs | sNeg | sClz | sCtz
  | sPopc | sBswap | sSext | sZext | sBfx | sMov | sMovi | sSel | sMadd | sCrd | sGrd | sSpl | sMskExt | bGroupQuery
  | vExtr | vMcnt | fLqcnt | xStat | dPpact | dPortCount | dDstat | lPeek | lStat =>
    dsimp only [exec]
    exact keepsMem_issue h fun hu => hu.wrS
  | sCmp | sCmpi | sPnot | sPset =>
    dsimp only [exec]
    exact keepsMem_issue h fun hu => hu.wrP
  | sPand | sPor | sPxor =>
    dsimp only [exec, execSPand, execSPor, execSPxor, pBin]
    exact keepsMem_issue h fun hu => hu.wrP
  | sMskIns | sMski | vMset | vMand =>
    dsimp only [exec]
    exact keepsMem_issue h fun hu => hu.wrM
  | vSel | vIns | vCmprs | fTblrd | fGeoidx | vAread =>
    dsimp only [exec]
    exact keepsMem_issue h fun hu => hu.wrV
  | sCwr | sGwr | sSps | fTblwr | vAwrite =>
    dsimp only [exec]
    exact keepsMem_issue h fun hu => hu.flight
  | fGeo | bGroupForm | bGroupDissolve | lOpenRecv | lClose | mFence | bJmpi =>
    dsimp only [exec]
    exact keepsMem_issue h fun hu => hu.upCore rfl
  | vAdd | vSub | vMul | vMulh | vFma | vFms | vFnma | vMin | vMax | vAbs | vNeg | vClamp | vPopc | vClz | vRound
  | vScale | vAvg | vAbd | vAnd | vOr | vXor | vNot | vShl | vShr | vSar | vFshl | vFshr | vMov | vBcast | vIota | vPerm
  | vSlide | vZip | fTbl | fRcp | fRsq | fSqrt | fDiv | fExp2 | fLog2 | fExp | fLog | fLdq =>
    dsimp only [exec]
    exact keepsMem_elemwise h
  | vRsum | vRmax | vRmin | vRowsum | vColsum | vGmax =>
    dsimp only [exec]
    exact keepsMem_vReduce h
  | vCmp =>
    dsimp only [exec, execVCmp]
    exact keepsMem_issue h fun hu => hu.wrM.raise
  | vCvt | vPxpose =>
    dsimp only [exec, execVCvt, execVPxpose]
    exact keepsMem_issue h fun hu => hu.wrV.raise
  | vMaxexp =>
    dsimp only [exec, execVMaxexp]
    exact keepsMem_issue h fun hu => hu.flight.raise
  | sClk =>
    dsimp only [exec, execSClk]
    exact keepsMem_issue h fun hu => hu.wrS.wrS
  | bWany | bWall =>
    dsimp only [exec]
    exact keepsMem_tagWait h
  | bFfr =>
    dsimp only [exec, execBFfr]
    refine keepsMem_issue h fun hu => ?_
    split
    · exact hu.wrS
    · exact hu.observe.wrS
  | fLscale =>
    dsimp only [exec, execFLscale]
    refine keepsMem_issue h fun hu => ?_
    split
    · exact hu.wrS.raise
    · exact hu.wrS
  | fLq =>
    dsimp only [exec, execFLq]
    refine keepsMem_issue h fun hu => ?_
    split
    · exact hu.wrV
    · exact hu.wrV.flight.statFlight
  | dPortSkip =>
    dsimp only [exec, execDPortSkip]
    refine keepsMem_issue h fun hu => ?_
    split
    · exact hu
    · exact (hu.upCore (by dsimp only)).wrS
  | mLd =>
    dsimp only [exec, execMLd]
    exact keepsMem_loadSyl h fun hu => hu.wrS
  | mLdp =>
    dsimp only [exec, execMLdp]
    exact keepsMem_loadSyl h fun hu => hu.wrS.wrS
  | mVld | mVlds =>
    dsimp only [exec, execMVld, execMVlds]
    exact keepsMem_loadSyl h fun hu => hu.wrV
  | mVldb | mVgath =>
    dsimp only [exec, execMVldb, execMVgath]
    exact keepsMem_issue h fun hu => hu.landing.wrV
  | mGld =>
    simp only [exec_mGld, execMGld]
    split
    · split
      · exact keepsMem_issue h fun hu => hu.wrS.wrP
      · exact keepsMem_issue h fun hu => hu
    · exact keepsMem_loadSyl h fun hu => hu.wrS.wrP
  | mLdas =>
    dsimp only [exec, execMLdas]
    refine keepsMem_issue h fun hu => ?_
    split
    · exact hu.awaited
    · exact hu
  | zw1Madd | zw1Vsum =>
    dsimp only [exec, execZw1Madd, execZw1Vsum]
    exact keepsMem_issueSteps h fun hu => hu.wrS
  | zw1Ldpair =>
    dsimp only [exec, execZw1Ldpair]
    exact keepsMem_issueSteps h fun hu =>
      ((hu.onlyFlight (onlyFlight_stepLanding ..)).onlyFlight (onlyFlight_stepLanding ..)).wrS.wrS
  | zw1Dbnz =>
    dsimp only [exec, execZw1Dbnz]
    refine keepsMem_issueSteps h fun hu => ?_
    split
    · exact hu.wrS
    · exact hu.wrS.jump
  | bBr | bRet =>
    dsimp only [exec]
    exact keepsMem_issue h fun hu => hu.jump
  | bCall | bCalli =>
    dsimp only [exec]
    exact keepsMem_issue h fun hu => hu.jump.link
  | bLoop | bPloop =>
    dsimp only [exec]
    exact keepsMem_loopStart h
  | bRep reg =>
    have rep {u : State} (n b m : Nat) (x : Rpc) (hu : MemInv u) : MemInv (if n == 0 then
        u.upCore fun c => { c with issue := { c.issue with nb := b } }
        else jump m (u.upArch fun a => { a with rpc := x })) := by
      split
      · exact hu.upCore (by dsimp only)
      · exact hu.upArch.jump
    dsimp only [exec, execBRep]
    cases reg <;> exact keepsMem_issue h fun hu => rep _ _ _ _ hu
  | bCkpt =>
    dsimp only [exec]
    exact keepsMem_issue h fun hu => hu.beginWait.tryCheckpoint
  | bCbar =>
    dsimp only [exec]
    exact keepsMem_issue h fun hu => hu.beginWait.resumeWait
  | mFenceStamp =>
    dsimp only [exec]
    exact keepsMem_issue h fun hu => hu.beginWait
  | bYield =>
    dsimp only [exec]
    exact keepsMem_suspPoint h fun hu => hu.reservePlaces
  | bRvz | bWaitTime | bWaitMbox | bWaitCrewq | bWaitRecv | bPhase =>
    dsimp only [exec]
    exact keepsMem_suspPoint h fun hu => hu
  | bMwait a b c =>
    simp only [exec_bMwait, execBMwait]
    split <;> exact keepsMem_suspPoint h fun hu => hu
  | bEnd =>
    dsimp only [exec]
    exact keepsMem_issue h fun hu => hu.suspend
  | bSpawn =>
    dsimp only [exec]
    exact keepsMem_issue h fun hu => hu.holdSpawn
  | mSt | mStp | mVst | mVsts | mZero =>
    dsimp only [exec]
    exact keepsMem_storeSyl h
  | mVstu =>
    dsimp only [exec, execMVstu]
    exact keepsMem_issue h fun hu => hu.putPieces.countBytes
  | mVscat =>
    dsimp only [exec, execMVscat]
    exact keepsMem_issue h fun hu => hu.putPieces
  | mGst =>
    simp only [exec_mGst, execMGst]
    split
    · split
      · exact keepsMem_issue h fun hu => hu.wrP
      · exact keepsMem_issue h fun hu => hu
    · exact keepsMem_issue h fun hu => hu.storePut.wrP
  | mLdaq | mAadd | mAmin | mAmax | mAand | mAor | mAxor | mSwap | mCas =>
    dsimp only [exec]
    exact keepsMem_orderSyl h
  | mStrl =>
    dsimp only [exec, execMStrl]
    refine keepsMem_issue h fun hu => ?_
    split
    · exact hu.withheld.countBytes
    · exact hu
  | mSts =>
    dsimp only [exec, execMSts]
    refine keepsMem_issue h fun hu => ?_
    split
    · exact hu.withheld.countBytes.wrS
    · exact hu
  | xMma | xMmac =>
    dsimp only [exec, execXMma, execXMmac, mmaSyl]
    exact keepsMem_matSyl h fun hu => hu.upCore (by dsimp only)
  | xAclr | xAmov | xAload | xAsave =>
    dsimp only [exec]
    exact keepsMem_matSyl h fun hu => hu
  | xMode | xMirr =>
    dsimp only [exec]
    exact keepsMem_issue h fun hu => hu.enterMat
  | cCopy | cCopy2d | cFill | cFill2d | cGath | cScat | cXpose | cPlane | cConv | cXch =>
    dsimp only [exec]
    exact keepsMem_copySyl h
  | cPref =>
    dsimp only [exec]
    exact keepsMem_issue h fun hu => hu.enterCopy
  | cTclr =>
    dsimp only [exec, execCTclr]
    exact keepsMem_issue h fun hu => hu.upCore (by dsimp only)
  | lOpenSend =>
    dsimp only [exec]
    exact keepsMem_issue h fun hu => hu.upArch
  | lSend | lSendst =>
    dsimp only [exec]
    exact keepsMem_sendSyl h
  | lRecv =>
    dsimp only [exec, execLRecv]
    refine keepsMem_issue h fun hu => ?_
    split
    · exact hu
    · exact hu.enterStream.popSlot
  | dPp | dPpcmp =>
    dsimp only [exec]
    exact keepsMem_ppSyl h
  | dPpcfg =>
    dsimp only [exec]
    exact keepsMem_issue h fun hu => hu.enterD.upCore rfl
  | dJpeg | dG4 | dRaw =>
    dsimp only [exec]
    exact keepsMem_decodeSyl h
  | dRingSet =>
    dsimp only [exec]
    exact keepsMem_issue h fun hu => hu.enterD
  | dRingFree =>
    dsimp only [exec, execDRingFree]
    exact keepsMem_issue h fun hu => hu.upCore (by dsimp only)
  | dDabort =>
    dsimp only [exec]
    exact keepsMem_issue h fun hu => (hu.upCore (by dsimp only)).useId
  | rvzDeadline => exact keepsMem_execRvzDeadline h
  | cbarDeadline => exact keepsMem_execCbarDeadline h
  | exchangeTimeExpiry => exact keepsMem_execExchangeTimeExpiry h
  | postprocComplete => exact keepsMem_execPostprocComplete h
  | copyCommandStart => exact keepsMem_execCopyCommandStart h
  | copyComplete => exact keepsMem_execCopyComplete h
  | copyFault => exact keepsMem_execCopyFault h
  | copyDemandPark => exact keepsMem_execCopyDemandPark h
  | ringSetPerformed => exact keepsMem_execRingSetPerformed h
  | decodeEngineAssign => exact keepsMem_execDecodeEngineAssign h
  | streamSlotPresent => exact keepsMem_execStreamSlotPresent h
  | creditReturn => exact keepsMem_execCreditReturn h
  | reserve => exact keepsMem_execReserve h
  | tune => exact keepsMem_execTune h
  | tuneLocked => exact keepsMem_execTuneLocked h
  | linkFail => exact keepsMem_execLinkFail h
  | linkError => exact keepsMem_execLinkError h
  | circuitDrain => exact keepsMem_execCircuitDrain h
  | circuitDrainComplete => exact keepsMem_execCircuitDrainComplete h
  | circuitRelease => exact keepsMem_execCircuitRelease h
  | budget => exact keepsMem_execBudget h
  | budgetRefill => exact keepsMem_execBudgetRefill h
  | coreFill => exact keepsMem_execCoreFill h
  | queueOverflowMove => exact keepsMem_execQueueOverflowMove h
  | submit => exact keepsMem_execSubmit h
  | retire => exact keepsMem_execRetire h
  | geoRecordFill => exact keepsMem_execGeoRecordFill h
  | modeSwitch => exact keepsMem_execModeSwitch h
  | matrixCommandStart => exact keepsMem_execMatrixCommandStart h
  | matrixCommandFinish => exact keepsMem_execMatrixCommandFinish h
  | decodeRecordEmit => exact keepsMem_execDecodeRecordEmit h
  | decodePageEnd => exact keepsMem_execDecodePageEnd h
  | exchangeEnd => exact keepsMem_execExchangeEnd h
  | verificationEnd => exact keepsMem_execVerificationEnd h
  | load => exact keepsMem_execLoad h
  | formPartition => exact keepsMem_execFormPartition h
  | partitionRelease => exact keepsMem_execPartitionRelease h
  | create => exact keepsMem_execCreate h
  | start => exact keepsMem_execStart h
  | preempt => exact keepsMem_execPreempt h
  | prelimitExpiry => exact keepsMem_execPrelimitExpiry h
  | halt => exact keepsMem_execHalt h
  | resume => exact keepsMem_execResume h
  | resolve => exact keepsMem_execResolve h
  | swap => exact keepsMem_execSwap h
  | swapComplete => exact keepsMem_execSwapComplete h
  | restore => exact keepsMem_execRestore h
  | restoreComplete => exact keepsMem_execRestoreComplete h
  | kill => exact keepsMem_execKill h
  | killScrubComplete => exact keepsMem_execKillScrubComplete h
  | pageTableUpdate => exact keepsMem_execPageTableUpdate h
  | offline => exact keepsMem_execOffline h
  | evacuationComplete => exact keepsMem_execEvacuationComplete h
  | online => exact keepsMem_execOnline h
  | resetRelease => exact keepsMem_execResetRelease h
  | bistComplete => exact keepsMem_execBistComplete h
  | authComplete => exact keepsMem_execAuthComplete h
  | authTimeout => exact keepsMem_execAuthTimeout h
  | railFault => exact keepsMem_execRailFault h
  | domainFloor => exact keepsMem_execDomainFloor h
  | clockWide => exact keepsMem_execClockWide h
  | astepWrite => exact keepsMem_execAstepWrite h
  | steppingTick => exact keepsMem_execSteppingTick h
  | mboxWrite => exact keepsMem_execMboxWrite h
  | hostCxlRead => exact keepsMem_execHostCxlRead h
  | hostCxlWrite => exact keepsMem_execHostCxlWrite h
  | scrubError => exact keepsMem_execScrubError h
  | registerWrite => exact keepsMem_execRegisterWrite h
  | waitTimeExpiry => exact keepsMem_next h.settleWaiters
  | pminWrite | partminWrite | flitArrival | flitLeavesIngress => exact keepsMem_next h.upIngress
  | debugRelease => exact keepsMem_next (h.upCore (by dsimp only))
  | microcodeUpdate => exact keepsMem_next ((h.upDie (by simp)).upPkg fun hk => hk.mapDies fun _ => id)
  | thermRefresh => exact keepsMem_next (h.upDie (by simp))
  | mboxstsWrite => exact keepsMem_next (h.upPkg (by exact id))
  | hostopen | hostclose => exact keepsMem_next (h.upPart (by exact fun _ => id))
  | getVersion | getCapabilities | negotiateAlgorithms | getDigests | getCertificate | challenge | getMeasurements =>
    exact keepsMem_next h.post

/-! Bundles and moves. -/

theorem keepsMem_runSyl {s : State} (h : MemInv s) (x : Slotted) : KeepsMem (runSyl s x) := by
  unfold runSyl
  extract_lets o
  have ho : KeepsMem o := exec_keepsMem _ (h.upCore (by dsimp only))
  split
  · split
    · exact ho
    · exact keepsMem_next h.trapHere
  · exact ho

theorem keepsMem_runAll (l : List Slotted) {s : State} (h : MemInv s) : KeepsMem (runAll l s) := by
  induction l generalizing s with
  | nil => exact keepsMem_next h
  | cons x l ih =>
    obtain ⟨t, ht⟩ := runSyl_next s x
    have h1 : MemInv t := keepsMem_runSyl h x t ht
    simp only [runAll, ht]
    split
    · exact ih h1
    · exact keepsMem_next h1

/-- What stops a bundle at its checks is the outcome of one of its syllables (R36). -/
theorem keepsMem_checkAll {s : State} {l : List Slotted} {o : Host.Outcome State Fault Refusal} (h : MemInv s)
    (ho : checkAll s l = some o) : KeepsMem o := by
  have hstop : firstStop (l.map (runSyl s)) = none := firstStop_none fun o ho => by
    obtain ⟨x, -, rfl⟩ := List.mem_map.1 ho
    exact runSyl_next s x
  have hnext {t : State} (ht : t ∈ nextStates (l.map (runSyl s))) : MemInv t := by
    obtain ⟨o, ho, he⟩ := List.mem_filterMap.1 ht
    obtain ⟨x, -, rfl⟩ := List.mem_map.1 ho
    split at he
    · next hx => cases he; exact keepsMem_runSyl h x t hx
    · cases he
  simp only [checkAll, hstop] at ho
  split at ho
  · cases ho; exact keepsMem_next h.ended
  · split at ho
    · next ht => cases ho; exact keepsMem_next (hnext (List.mem_of_find?_eq_some ht))
    · split at ho
      · cases ho; exact keepsMem_next h.ended
      · cases ho

/-- The pacing that a bundle without effect gives back (R43). -/
theorem MemInv.unpaced {s t : State} (h : MemInv t) : MemInv (unpaced s t) := by
  unfold Machine.unpaced
  split
  · exact h
  · exact h.upCore (by dsimp only)

theorem keepsMem_endBundle {s0 s : State} (l : List Slotted) (h0 : MemInv s0) (h : MemInv s) :
    KeepsMem (endBundle s0 l s) := by
  obtain ⟨t, ht⟩ := runAll_next (byRank 5 7 l) s
  have h1 : MemInv t := keepsMem_runAll _ h t ht
  simp only [endBundle, ht]
  split
  · exact keepsMem_next h1.unpaced
  · exact keepsMem_next h0.ended
  · exact keepsMem_next h1.finishBundle.debugStop

theorem keepsMem_runBundle (l act : List Slotted) {s : State} (h : MemInv s) : KeepsMem (runBundle l act s) := by
  unfold runBundle
  extract_lets s1 early
  have h1 : MemInv s1 := h.upCore rfl
  obtain ⟨t, ht⟩ := runAll_next (early.filter fun x => !isTclr x) s1
  have h2 : MemInv t := keepsMem_runAll _ h1 t ht
  have hu : KeepsMem (if early.any isTclr then runAll early s1 else .next t) := by
    split
    · exact keepsMem_runAll early h1
    · exact keepsMem_next h2
  simp only [ht]
  split
  · exact keepsMem_next h2.unpaced
  · exact keepsMem_next h.ended
  · split
    · next he => exact keepsMem_endBundle act h (hu _ he)
    · exact hu

/-- The bundle at the pc traps, freezes or issues. -/
theorem keepsMem_issueBundle {s : State} (h : MemInv s) : KeepsMem (issueBundle s) := by
  have hb (ba n : Nat) : MemInv (beginIssue ba n s) := h.upCore (by dsimp only)
  unfold issueBundle
  extract_lets ba
  split
  · exact keepsMem_next (hb _ _).takeTrap
  · extract_lets s1 act
    split
    · next hc => exact keepsMem_checkAll (hb _ _) hc
    · exact keepsMem_runBundle _ _ (hb _ _)

/-- Results in flight that become due are settled. -/
theorem MemInv.settleDue {s : State} (h : MemInv s) : MemInv (settleDue s) := by
  unfold Machine.settleDue thawTiles
  split
  · exact h.settleAsOf.upArch.landDue
  all_goals exact h.settleAsOf.landDue

theorem keepsMem_nextBundle {s : State} (h : MemInv s) : KeepsMem (nextBundle s) := by
  unfold nextBundle
  extract_lets s1
  have h1 : MemInv s1 := h.settleDue
  split
  · exact keepsMem_next h1.takeTrap
  · split
    · exact keepsMem_next h1.ended
    · split
      · exact keepsMem_next h1.stopBudget
      · exact keepsMem_issueBundle h1

/-- A core that is held back waits, halts or traps; any other goes on to its next bundle. -/
theorem keepsMem_coreMove {s : State} (h : MemInv s) : KeepsMem (coreMove s) := by
  unfold coreMove
  split
  · exact keepsMem_next h
  · split
    · exact keepsMem_next h
    · split
      · exact keepsMem_next (h.upCore (by dsimp only)).takeTrap
      · split
        · exact keepsMem_next h.haltHere
        · split
          · exact keepsMem_next h.resumeWait
          · split
            · exact keepsMem_next h.haltHere
            · split
              · exact keepsMem_next h
              · split
                · exact keepsMem_next (h.upCore (by dsimp only)).takeTrap
                · exact keepsMem_nextBundle h

theorem keepsMem_moveStep (m : Move) {s : State} (h : MemInv s) : KeepsMem (moveStep m s) := by
  cases m with
  | core d c => exact keepsMem_coreMove h.selAt
  | event i =>
    simp only [moveStep]
    split
    · exact keepsMem_next h
    · exact exec_keepsMem i h
  | select d c => exact keepsMem_next h.selAt
  | ingress i => exact keepsMem_next h
  | clock e l => exact keepsMem_next (h.upDie (by simp)).settleWaiters
  | elapse n => exact keepsMem_next (h.upDie (by simp))
  | upset r x =>
    refine keepsMem_next ?_
    unfold upsetMove
    split
    · exact h
    · exact h.upArch

/-- Settles O6: the first move of the schedule, or the selected core's next bundle, keeps the form of every memory. -/
theorem stepKeepsMemoryForm : Obligations.StepKeepsMemoryForm := by
  unfold Obligations.StepKeepsMemoryForm
  intro s t h ht
  unfold step at ht
  split at ht
  · exact keepsMem_coreMove h t ht
  · next m l _ => exact keepsMem_moveStep m (s := { s with sched := l }) h t ht

/-- Settles O7: at reset every memory and every scratchpad is empty, and no context has been swapped. -/
theorem resetMemoryForm : Obligations.ResetMemoryForm := by
  unfold Obligations.ResetMemoryForm
  have cores (l : List Nat) : ∀ c ∈ l.map Core.reset, Memory.wf c.spad = true := by
    intro c hc
    obtain ⟨n, -, rfl⟩ := List.mem_map.1 hc
    rfl
  have die (d : Nat) (l : List Nat) : dieMemOk (Die.reset d l) = true :=
    dieMemOk_iff.2 ⟨rfl, rfl, cores _⟩
  refine ⟨memInv_iff.2 ⟨rfl, die 0 [0], fun d hd => ?_, ?_, ?_⟩, rfl, rfl, rfl⟩
  · obtain ⟨n, -, rfl⟩ := List.mem_map.1 hd
    exact die n []
  · exact fun e he => absurd he List.not_mem_nil
  · exact fun p hp => absurd hp List.not_mem_nil

end Sys2Proof.Machine
end

section
/-! PROOFS. B.GROUP (R286): the crew that a syllable names, its check, and its effects. -/

namespace Sys2Proof.Machine

theorem crewNamed_eq (c : Core) (x : Word) :
    crewNamed c x = if x.toNat % 256 = 255 then c.crewid.toNat else x.toNat % 256 := by
  simp [crewNamed]

/-- The check of B.GROUP: UNCREWED for 0xFF of an uncrewed strand, CREW for a crew that the die does not have. -/
theorem groupTrap_eq (s : State) (x : Word) :
    groupTrap s x = if (if x.toNat % 256 = 255 then s.core.crewid ≠ 0xFF else x.toNat % 256 < s.die.ncrew) then none
      else some { cause := .group, detail := if x.toNat % 256 = 255 then 2 else 1 } := by
  by_cases h : x.toNat % 256 = 255
  · by_cases hc : s.core.crewid = 0xFF <;> simp [groupTrap, crewed, h, hc]
  · by_cases hc : x.toNat % 256 < s.die.ncrew <;> simp [groupTrap, h, hc]

/-- Settles O30: each form of B.GROUP issues with the check of `groupTrap_eq`, and dissolves, forms or reads the crew
that `crewNamed_eq` gives. -/
theorem groups : Obligations.Groups := by
  unfold Obligations.Groups
  intro s d a b x c w k known hold t
  have hc : crewNamed s.core (regS s a) = c := crewNamed_eq ..
  have ht : groupTrap s (regS s a) = if known then none else some t := groupTrap_eq ..
  refine ⟨fun hk => ?_, fun hk => ?_⟩
  · have hn : groupTrap s (regS s a) = none := by rw [ht, if_pos hk]
    refine ⟨?_, fun h0 => ?_, fun h0 hr => ?_, ?_⟩
    · have hw : (crewOf s c).word c = BitVec.ofNat 64 (w.memb.toNat + 2 ^ 8 * w.next.toNat + 2 ^ 16 * w.live.toNat
          + 2 ^ 24 * w.pend.toNat + 2 ^ 32 * w.epoch.toNat + 2 ^ 48 * (c % 16)) := by
        simp only [Crew.word, wordN, Nat.mul_comm, w]
      have query := runsTo_issue (exec_bGroupQuery d a s) rfl hn rfl rfl
      rwa [hc, hw] at query
    · have form := runsTo_issue (exec_bGroupForm a b s) rfl (by simpa [hn, k] using h0) rfl rfl
      rwa [hc] at form
    · exact (exec_bGroupForm a b s).trans (issue_traps hr rfl (by simpa [hn, k] using h0))
    · have dissolve := runsTo_issue (exec_bGroupDissolve a s) rfl hn rfl rfl
      rwa [hc] at dissolve
  · have hn : groupTrap s (regS s a) = some t := by rw [ht, if_neg hk]
    exact ⟨fun hr => (exec_bGroupQuery d a s).trans (issue_traps hr rfl hn),
      fun hr => (exec_bGroupForm a b s).trans (issue_traps hr rfl (by simp [hn])),
      fun hr => (exec_bGroupDissolve a s).trans (issue_traps hr rfl hn)⟩

end Sys2Proof.Machine
end

section
/-! PROOFS. Stamped accesses (R343, R344): the checks of M.LDAS, and the store withheld with its stamp. -/

namespace Sys2Proof.Machine

/-- A core withholds a stamped store to a line at no greater a stamp (R344). -/
theorem stampHeld_iff {c : Core} {pa t : Nat} :
    stampHeld c pa t = true ↔ ∃ p l x, Held.sts p l x ∈ c.held ∧ p / 64 = pa / 64 ∧ x ≤ t := by
  simp only [stampHeld, List.any_eq_true]
  constructor
  · rintro ⟨h, hm, hh⟩
    cases h with
    | sts p l x => exact ⟨p, l, x, hm, by simpa using hh⟩
    | _ => cases hh
  · rintro ⟨p, l, x, hm, hp⟩
    exact ⟨_, hm, by simpa using hp⟩

section

variable {s : State} {ty : SizeTy} {va t pa : Nat} {e : Trap}

/-- M.LDAS takes its address from the checks of every stamped access. -/
theorem asOfAt_error (h : stampAt s .rd ty.bytes va = .error e) : asOfAt s ty va t = .error e := by
  simp only [asOfAt, h]

/-- Then its stamp must lie within the horizon, and no own store to the line be withheld at no greater a stamp. -/
theorem asOfAt_ok (h : stampAt s .rd ty.bytes va = .ok pa) :
    asOfAt s ty va t =
      if t + s.die.horizon.toNat * 10 ^ 6 < s.die.earliest then .error { cause := .horizon, detail := 1 }
      else if stampHeld s.core pa t then .error { cause := .stampheld } else .ok pa := by
  simp only [asOfAt, h]

end

section

variable {s : State} {ty : SizeTy} {d a b : SReg} {imm : BitVec 16}

/-- M.STS with the place of its store known withholds it with the clock's latest bound as its stamp (R343). -/
theorem runsTo_mSts {pa : Nat} (hw : ¬s.die.clkw.toNat < s.die.latest - s.die.earliest)
    (hp : stampAt s .wr ty.bytes (addrOf s a imm) = .ok pa) (hl : storeLimit s.core [] 8 = none) :
    RunsTo (.mSts ty d a b imm) s [.s a, .s b] [.s d] fun u => wrS d 1 (wordN s.die.latest)
      (countBytes 8 (withheld (.sts pa (storeBytes s ty b) s.die.latest) u)) := by
  have h : exec (.mSts ty d a b imm) s = execMSts ty d a b imm s := rfl
  simp only [execMSts, hp, if_neg hw] at h
  exact runsTo_issue h rfl rfl hl rfl

theorem mSts_traps {t : Trap} (hr : Runs s [.s a, .s b] [.s d])
    (h : (if s.die.clkw.toNat < s.die.latest - s.die.earliest then .error { cause := .clkwide }
      else stampAt s .wr ty.bytes (addrOf s a imm)) = .error t) :
    exec (.mSts ty d a b imm) s = .next (trapHere t s) := by
  rw [exec_mSts, execMSts]
  exact issue_traps hr rfl (by simp only [h, errOf])

/-- M.LDAS whose checks pass awaits the value as of its stamp (R344). -/
theorem runsTo_mLdas {cls : LClass} {pa : Nat}
    (h : asOfAt s ty (addrOf s a imm) (regS s b).toNat = .ok pa) :
    RunsTo (.mLdas cls ty d a b imm) s [.s a, .s b] [.s d] fun u =>
      awaited d cls.scalar (fun n => .asOf d n pa ty (regS s b).toNat u.core.issue.ba) u := by
  have he : exec (.mLdas cls ty d a b imm) s = execMLdas cls ty d a b imm s := rfl
  simp only [execMLdas, h] at he
  exact runsTo_issue he rfl rfl rfl rfl

theorem mLdas_traps {cls : LClass} {t : Trap} (hr : Runs s [.s a, .s b] [.s d])
    (h : asOfAt s ty (addrOf s a imm) (regS s b).toNat = .error t) :
    exec (.mLdas cls ty d a b imm) s = .next (trapHere t s) := by
  rw [exec_mLdas, execMLdas]
  exact issue_traps hr rfl (by simp only [h, errOf])

end

/-- Settles O46: M.STS checks the clock before its address; M.LDAS checks its address, its stamp's age and the core's
own withheld stores, in that order. -/
theorem stampedAccesses : Obligations.StampedAccesses := by
  unfold Obligations.StampedAccesses
  intro s ty cls d a b imm pa t ea wide stamp old own
  rw [show ea = addrOf s a imm from (addrOf_eq s a imm).symm]
  have hown : stampHeld s.core pa stamp = true ↔ own := stampHeld_iff
  refine ⟨fun hw hr => mSts_traps hr (if_pos hw),
    fun hw => ⟨fun hp hl => runsTo_mSts hw hp hl, fun hp hr => mSts_traps hr ((if_neg hw).trans hp)⟩,
    fun hp => ?_, fun hp hr => mLdas_traps hr (asOfAt_error hp)⟩
  have hx := asOfAt_ok (t := stamp) hp
  refine ⟨fun ho hr => mLdas_traps hr (hx.trans (if_pos ho)), fun ho hw hr => ?_, fun ho hw => ?_⟩
  · exact mLdas_traps hr (hx.trans ((if_neg ho).trans (if_pos (hown.2 hw))))
  · exact runsTo_mLdas (hx.trans ((if_neg ho).trans (if_neg (mt hown.1 hw))))

end Sys2Proof.Machine
end

section
/-! PROOFS. Circuits and buffer permits (R335 to R337): an equation for each event of a circuit, for RESERVE, and for
the permits that a flit takes and frees. -/

namespace Sys2Proof.Machine

section

variable {s : State} {k : Nat} {c : Circuit}

/-- The package with another circuit at number k. -/
def setConn (s : State) (k : Nat) (c : Circuit) : State := s.upPkg fun q => { q with conns := q.conns.set k c }

/-- A change of a circuit that is there. -/
theorem upConn_eq (h : s.pkg.conns[k]? = some c) (f : Circuit → Circuit) : s.upConn k f = setConn s k (f c) := by
  simp only [State.upConn, setConn, State.upPkg, h]

theorem exec_tune_eq (h : s.pkg.conns[k]? = some c) :
    exec (.tune k) s = .next (if c.st = .reserved ∨ c.st = .closed ∧ c.swap = true
      then setConn s k { c with st := .tuning } else s) := by
  simp [execTune, connAt, h, upConn_eq h]

theorem exec_tuneLocked_eq (h : s.pkg.conns[k]? = some c) :
    exec (.tuneLocked k) s = .next (if c.st = .tuning then
      let s1 := setConn s k { c with st := .open, flight := 0, swap := false }
      if c.swap then s1 else atSender c (fun t => t.upSend c.n fun x => { x with credits := x.slots }) s1
      else s) := by
  simp [execTuneLocked, connAt, h, upConn_eq h]

theorem exec_linkFail_eq (h : s.pkg.conns[k]? = some c) :
    exec (.linkFail k) s = .next (if c.st = .tuning then
      breakStream c ((setConn s k { c with st := .closed, swap := false }).post (.linkFail k)) else s) := by
  simp [execLinkFail, connAt, h, upConn_eq h]

theorem exec_linkError_eq (h : s.pkg.conns[k]? = some c) :
    exec (.linkError k) s = .next (if c.st = .open then
      breakStream c ((setConn s k { c with st := .closed }).post (.linkFail k)) else s) := by
  simp [execLinkError, connAt, h, upConn_eq h]

theorem drainCircuit_eq (h : s.pkg.conns[k]? = some c) (swap : Bool) :
    drainCircuit swap k s = if c.st = .open then setConn s k { c with
      st := .draining, flight := if c.src < 256 then readySends (selDie c.src s) c.n else 0, swap := swap } else s := by
  simp [drainCircuit, connAt, h, upConn_eq h]

theorem exec_circuitDrainComplete_eq (h : s.pkg.conns[k]? = some c) :
    exec (.circuitDrainComplete k) s = .next (if c.st = .draining ∧ c.flight = 0 then
      let s1 := setConn s k { c with st := .closed }
      if c.swap then s1 else breakStream c s1
      else s) := by
  simp [execCircuitDrainComplete, connAt, h, upConn_eq h]

theorem exec_circuitRelease_eq (h : s.pkg.conns[k]? = some c) :
    exec (.circuitRelease k) s = .next (if c.st = .reserved then setConn s k { c with st := .free }
      else if c.st = .closed then clearBuffers c (setConn s k { c with st := .free }) else s) := by
  simp only [exec_circuitRelease, execCircuitRelease, connAt, h, upConn_eq h]
  cases c.st <;> rfl

end

section

variable {s : State} {wl port : Nat} {e : CircuitEnd} {n : Fin 16}

/-- RESERVE on a die of no partition, or of a wavelength or a port that another circuit has, does nothing (R335). -/
theorem exec_reserve_idle
    (h : s.die.part = none ∨ ∃ c ∈ s.pkg.conns, c.st ≠ .free ∧ (c.wavelength = wl ∨ c.port = port)) :
    exec (.reserve wl port e n) s = .next s := by
  rw [exec_reserve, execReserve]
  obtain h | hu := h
  · simp only [h]
  · have hany : (s.pkg.conns.any fun c => c.st != .free && (c.wavelength == wl || c.port == port)) = true := by
      simpa using hu
    simp only [hany, if_true]
    split <;> rfl

/-- Otherwise it puts a reserved circuit in the place of the first free one, or at the end (R335). -/
theorem exec_reserve_new {p : Nat} (hp : s.die.part = some p)
    (hu : ¬∃ c ∈ s.pkg.conns, c.st ≠ .free ∧ (c.wavelength = wl ∨ c.port = port)) :
    exec (.reserve wl port e n) s = .next (match s.pkg.conns.findIdx? fun c => c.st == .free with
      | some k => s.upConn k fun _ => ⟨.reserved, p, wl, port, circuitSource e, n, 0, false⟩
      | none => s.upPkg fun q => { q with
          conns := q.conns ++ [⟨.reserved, p, wl, port, circuitSource e, n, 0, false⟩] }) := by
  have hany : (s.pkg.conns.any fun c => c.st != .free && (c.wavelength == wl || c.port == port)) = false := by
    rw [Bool.eq_false_iff]
    simpa using hu
  simp only [exec_reserve, execReserve, hp, hany]
  rfl

end

/-! The permits of the ingress buffer that the event selects: a die's, or an optical port's (R337). -/

/-- The permits of the selected ingress buffer. -/
def ingressOf (s : State) : Ingress := match s.pkg.ingress with
  | none => s.die.ingress
  | some i => s.pkg.ports[i]

theorem upIngress_eq (s : State) (f : Ingress → Ingress) : s.upIngress f = s.upIngress fun _ => f (ingressOf s) := by
  unfold State.upIngress ingressOf
  cases s.pkg.ingress <;> rfl

theorem upIngress_same (s : State) : (s.upIngress fun _ => ingressOf s) = s := by
  unfold State.upIngress ingressOf
  cases s.pkg.ingress with
  | none => rfl
  | some i => simp [State.upPkg]

theorem classSum_eq (x : Word) :
    classSum x = wbits x 11 0 + wbits x 23 12 + wbits x 35 24 + wbits x 47 36 + wbits x 59 48 := by
  simp [classSum, classMin, List.range_succ]

theorem partSum_eq (v : Vector Word 16) : partSum v = (v.toList.map fun y => wbits y 11 0).sum :=
  List.sum_eq_foldl.symm

section

variable {g : Ingress} {cls : Fin 5} {slot : Fin 16} {t : List (Nat × Nat × Nat)}

/-- A flit takes the permit of its class's minimum, else of its partition's, else a shared one, while the buffer has
room (R337). -/
theorem Ingress.take_eq :
    g.take cls slot = if 4096 ≤ g.flits.length then g
      else if g.clsHeld[cls] < classMin g.pmin cls then
        { g with clsHeld := g.clsHeld.set cls (g.clsHeld[cls] + 1), flits := g.flits ++ [(cls.val, slot.val, 0)] }
      else if cls.val < 2 ∧ g.partHeld[slot] < partMin g.partmin[slot] then
        { g with partHeld := g.partHeld.set slot (g.partHeld[slot] + 1), flits := g.flits ++ [(cls.val, slot.val, 1)] }
      else if g.shared < sharedSize g then
        { g with shared := g.shared + 1, flits := g.flits ++ [(cls.val, slot.val, 2)] }
      else g := by
  unfold Ingress.take permitFrom
  simp only [Bool.and_eq_true, decide_eq_true_eq]
  split_ifs <;> rfl

theorem Ingress.leave_class (h : g.flits = (cls.val, slot.val, 0) :: t) :
    g.leave = { g with clsHeld := g.clsHeld.set cls (g.clsHeld[cls] - 1), flits := t } := by
  simp [Ingress.leave, h, vmod]

theorem Ingress.leave_part (h : g.flits = (cls.val, slot.val, 1) :: t) :
    g.leave = { g with partHeld := g.partHeld.set slot (g.partHeld[slot] - 1), flits := t } := by
  simp [Ingress.leave, h, vmod]

theorem Ingress.leave_shared (h : g.flits = (cls.val, slot.val, 2) :: t) :
    g.leave = { g with shared := g.shared - 1, flits := t } := by
  simp [Ingress.leave, h]

end

/-- Settles O56: the equations above, with the guard of each clause decided. -/
theorem circuitsAndPermits : Obligations.CircuitsAndPermits := by
  unfold Obligations.CircuitsAndPermits
  refine ⟨fun s k c h => ?_, fun s wl port e n => ?_, fun s x cls slot => ?_⟩
  · intro put idle
    have hp (x : Circuit) : setConn s k x = put x := rfl
    simp only [idle, exec_tune_eq h, exec_tuneLocked_eq h, exec_linkFail_eq h, exec_linkError_eq h,
      exec_circuitDrain, execCircuitDrain, drainCircuit_eq h, exec_circuitDrainComplete_eq h,
      exec_circuitRelease_eq h, hp]
    refine ⟨fun ht => by rw [if_pos ht], fun h1 h2 => ?_, fun ht => ?_, fun ht => by simp [ht], fun ht => by simp [ht],
      fun ht => by simp [ht], fun ht hf => ?_, fun ht => ?_, fun ht => by rw [if_pos ht], fun ht => by simp [ht],
      fun h1 h2 => by rw [if_neg h1, if_neg h2]⟩
    · rw [if_neg]
      rintro (hr | ⟨hc, hs⟩)
      · exact h1 hr
      · exact h2.elim (absurd hc) (by simp [hs])
    · exact ⟨fun hs => by simp [ht, hs], fun hs => by simp [ht, hs], by rw [if_pos ht]⟩
    · exact ⟨fun hs => by simp [ht, hf, hs], fun hs => by simp [ht, hf, hs]⟩
    · rw [if_neg (by rintro ⟨h1, h2⟩; exact ht.elim (absurd h1) (absurd h2))]
  · intro i src used becomes
    refine ⟨exec_reserve_idle, fun p hp hu => ?_⟩
    have hx := exec_reserve_new (e := e) (n := n) hp hu
    have hsrc : circuitSource e = src := by cases e <;> rfl
    rw [hsrc] at hx
    intro new
    refine ⟨fun hf => ?_, fun k hk => ?_⟩
    · have hnone : (s.pkg.conns.findIdx? fun c => c.st == .free) = none := by simpa using hf
      rw [hx, hnone]
      rfl
    · obtain ⟨hlt, -⟩ := List.findIdx?_eq_some_iff_getElem.1 hk
      rw [hx, hk]
      dsimp only
      rw [upConn_eq (List.getElem?_eq_getElem hlt)]
      rfl
  · intro g dest cmin pmins shared room own part comes goes
    have hself : dest g = s := upIngress_same s
    have hup (f : Ingress → Ingress) : s.upIngress f = dest (f g) := upIngress_eq s f
    have hc (y : Word) : classSum y = cmin y := classSum_eq y
    have hv (v : Vector Word 16) : partSum v = pmins v := partSum_eq v
    have hsh : sharedSize g = shared := by simp only [sharedSize, hc, hv, shared]
    have htake := Ingress.take_eq (cls := cls) (slot := slot) (g := g)
    rw [hsh] at htake
    have hcomes {h : Ingress} (hl : g.take cls slot = h) : comes h :=
      congrArg Host.Outcome.next ((hup (Ingress.take cls slot)).trans (congrArg dest hl))
    have hleave {h : Ingress} (hl : g.leave = h) : goes h :=
      congrArg Host.Outcome.next ((hup Ingress.leave).trans (congrArg dest hl))
    refine ⟨fun h => ?_, fun h => ?_, ⟨fun h => ?_, fun h => ?_⟩, fun hr ho => ?_, fun hr ho hp => ?_,
      fun hr ho hp hs => ?_, fun h => ?_, fun h => ?_, fun t => ⟨?_, ?_, ?_⟩⟩
    · simp only [exec_pminWrite, execPminWrite, hup, hc, hv, if_neg (Nat.not_lt.2 h)]
    · simp only [exec_pminWrite, execPminWrite, hup, hc, hv, if_pos h, hself]
    · simp only [exec_partminWrite, execPartminWrite, hup, hc, hv, if_neg (Nat.not_lt.2 h)]
    · simp only [exec_partminWrite, execPartminWrite, hup, hc, hv, if_pos h, hself]
    · exact hcomes (htake.trans ((if_neg (Nat.not_le.2 hr)).trans (if_pos ho)))
    · exact hcomes (htake.trans ((if_neg (Nat.not_le.2 hr)).trans ((if_neg ho).trans (if_pos hp))))
    · exact hcomes (htake.trans ((if_neg (Nat.not_le.2 hr)).trans ((if_neg ho).trans ((if_neg hp).trans (if_pos hs)))))
    · have stays : comes g := hcomes <| htake.trans <| by
        obtain hr | ⟨ho, hp, hs⟩ := h
        · exact if_pos (Nat.not_lt.1 hr)
        · exact ite_eq_left_iff.2 fun _ => (if_neg ho).trans ((if_neg hp).trans (if_neg (Nat.not_lt.2 hs)))
      exact stays.trans (congrArg _ hself)
    · exact (hleave (by simp [Ingress.leave, h])).trans (congrArg _ hself)
    · exact fun h => hleave (Ingress.leave_class h)
    · exact fun h => hleave (Ingress.leave_part h)
    · exact fun h => hleave (Ingress.leave_shared h)

end Sys2Proof.Machine
end

section
/-! PROOFS. Kernels of a context (R235, R240, R245): what each request and the end of a verification do. -/

namespace Sys2Proof.Machine

section

variable {s : State} {p : Partition}

/-- What a request does in the states of a context that it names (R298). -/
theorem whenState_mem {l : List CtxState} {f : Partition → State} (hp : partOf s = some p) (h : p.state ∈ l) :
    whenState l f s = f p := by
  simp only [whenState, hp, List.contains_iff_mem.2 h, if_true]

/-- In every other state it does nothing (R298). -/
theorem whenState_notMem {l : List CtxState} {f : Partition → State} (hp : partOf s = some p) (h : p.state ∉ l) :
    whenState l f s = s := by
  simp only [whenState, hp, List.contains_iff_mem, if_neg h]

/-- A context lives in every state but EMPTY and KILLED. -/
theorem mem_liveStates {x : CtxState} : x ∈ liveStates ↔ x ≠ .empty ∧ x ≠ .killed := by
  cases x <;> simp [liveStates]

section

variable {kid : BitVec 32} {k : Kernel}

theorem exec_submit_live {b : List Byte} (hp : partOf s = some p) (h1 : p.state ≠ .empty) (h2 : p.state ≠ .killed) :
    exec (.submit kid b) s = .next (if ∃ k ∈ p.kernels, k.kid = kid then s.status "SUBMIT" "KIDBUSY" kid.toNat
      else s.upPart fun p => { p with kernels := p.kernels ++ [submitted kid b] }) := by
  simp [execSubmit, whenState_mem hp (mem_liveStates.2 ⟨h1, h2⟩)]

theorem exec_submit_dead {b : List Byte} (hp : partOf s = some p) (h : p.state = .empty ∨ p.state = .killed) :
    exec (.submit kid b) s = .next s := by
  rw [exec_submit, execSubmit, whenState_notMem hp]
  rw [mem_liveStates]
  tauto

/-- The image that the end of a verification selects from a submitted kernel, and the cache after it. -/
def pickedImage (s : State) (kid : BitVec 32) (k : Kernel) : Option Image × List CacheEnt :=
  selectImage s.pkg.cache s.die.feat s.die.cfgFeat s.die.mcrev s.die.numv kid.toNat k.container

/-- The context while that cache stands in its package. -/
def recached (s : State) (kid : BitVec 32) (k : Kernel) : State :=
  s.upPkg fun g => { g with cache := (pickedImage s kid k).2 }

section

variable (hp : partOf s = some p) (hk : p.kernel kid .submitted = some k)
include hp hk

theorem exec_verificationEnd_none (hi : (pickedImage s kid k).1 = none) : exec (.verificationEnd kid) s =
    .next (((recached s kid k).upPart fun p => p.dropKernel kid).status "SUBMIT" "IMAGE" 0) := by
  simp only [pickedImage] at hi
  simp only [exec_verificationEnd, execVerificationEnd, hp, hk, hi, recached, pickedImage]

theorem exec_verificationEnd_fails {i : Image} {e : String} {a : Nat} (hi : (pickedImage s kid k).1 = some i)
    (hv : verifyImage i s.die.feat = some (e, a)) : exec (.verificationEnd kid) s =
      .next (((recached s kid k).upPart fun p => p.dropKernel kid).status "SUBMIT" e a) := by
  simp only [pickedImage] at hi
  simp only [exec_verificationEnd, execVerificationEnd, hp, hk, hi, hv, recached, pickedImage]

theorem exec_verificationEnd_passes {i : Image} (hi : (pickedImage s kid k).1 = some i)
    (hv : verifyImage i s.die.feat = none) : exec (.verificationEnd kid) s =
      .next ((recached s kid k).upPart fun p => p.setKernel (i.kernel kid k.container)) := by
  simp only [pickedImage] at hi
  simp only [exec_verificationEnd, execVerificationEnd, hp, hk, hi, hv, recached, pickedImage]

end

theorem exec_load_some {x : BitVec 64} (hp : partOf s = some p) (hk : p.kernel kid .verified = some k) {st : String}
    (h : loadStatus s p k x.toNat = some st) : exec (.load kid x) s = .next (s.status "LOAD" st kid.toNat) := by
  simp [execLoad, hp, hk, h]

theorem exec_load_none {x : BitVec 64} (hp : partOf s = some p) (hk : p.kernel kid .verified = some k)
    (h : loadStatus s p k x.toNat = none) : exec (.load kid x) s = .next
      ((eachDie ((List.range 12).filter fun d => k.stageLo ≤ d && d ≤ k.stageHi) (placeImage p.slot k.secs) s).upPart
        fun p =>
          let q := p.setKernel { k with st := .resident, vector := x.toNat }
          { q with state := if q.state = .loading then .ready else q.state }) := by
  simp [execLoad, hp, hk, h]

theorem exec_retire_resident (hp : partOf s = some p) (hk : p.kernel kid .resident = some k) :
    exec (.retire kid) s = .next (if ∃ r ∈ contextRecords s p, r.kid = kid
      then s.status "RETIRE" "BUSY" kid.toNat else s.upPart fun p => p.dropKernel kid) := by
  simp [execRetire, hp, hk]

end

end

/-- Settles O57: what each request and the end of a verification do to a kernel of the context. -/
theorem kernelStates : Obligations.KernelStates := by
  unfold Obligations.KernelStates
  intro s p k kid b x rev hp put answers drop
  refine ⟨fun h1 h2 => ?_, exec_submit_dead hp, fun hk => ?_, fun hk => ?_, fun hk => ?_, rfl⟩
  · have hx := exec_submit_live (kid := kid) (b := b) hp h1 h2
    exact ⟨fun h => hx.trans (by rw [if_pos h]; rfl), fun h => hx.trans (by rw [if_neg (by simpa using h)])⟩
  · exact ⟨exec_verificationEnd_none hp hk, fun i hi =>
      ⟨fun e a hv => exec_verificationEnd_fails hp hk hi hv, exec_verificationEnd_passes hp hk hi⟩⟩
  · exact ⟨fun st h => exec_load_some hp hk h, exec_load_none hp hk⟩
  · have hx := exec_retire_resident hp hk
    exact ⟨fun h => hx.trans (by rw [if_pos h]; rfl), fun h => hx.trans (by rw [if_neg (by simpa using h)]; rfl)⟩

end Sys2Proof.Machine
end

section
/-! PROOFS. The decode syllables (R358 to R363): the commands and their check, the ring's registers, the port, and what
the engine's syllables read or withhold. -/

namespace Sys2Proof.Machine

section

variable {s : State} {op : Tensor → DOp} {ta : TId} {tag : Tag} {t : Tensor}

/-- A decode command whose entry is there and whose check passes joins the D queue (R358, R359). -/
theorem decodeSyl_runs {i : Instr} (hi : exec i s = decodeSyl op ta tag s) (hr : readTensor s ta = .ok t)
    (hl : entryLate s ta = false) (hc : decodeCheck s.core (dgPort s.core.arch.dg[4]) (op t) = none)
    (hq : dqFull s.core = none) (hb : boardStall s.core (inputFoot (op t)) = none) :
    RunsTo i s [] [] (enterD (op t) (some tag) (inputFoot (op t))) := by
  simp only [decodeSyl, hr, hc] at hi
  exact runsTo_issue hi rfl rfl rfl (by simp [hq, entryStall, hl, hb])

theorem decodeSyl_traps {e : Trap} (hr : readTensor s ta = .ok t)
    (hc : decodeCheck s.core (dgPort s.core.arch.dg[4]) (op t) = some e) (h : Runs s [] []) :
    decodeSyl op ta tag s = .next (trapHere e s) := by
  simp only [decodeSyl, hr, hc]
  exact issue_traps h rfl rfl

end

/-- A ring's BASE and SIZE are valid: whole blocks of 1,024 bytes in the vault or the DRAM, of at least 4,096 and at
most 2^30 bytes (R361). -/
theorem ringOk_iff {s : State} {base size : Word} :
    ringOk s base size = true ↔ base.toNat % 1024 = 0 ∧ 0x80000 ≤ base.toNat ∧ base.toNat + size.toNat ≤ 2 ^ 56 ∧
      inMemory s base.toNat = true ∧ size.toNat % 1024 = 0 ∧ 4096 ≤ size.toNat ∧ size.toNat ≤ 2 ^ 30 := by
  simp only [ringOk, Bool.and_eq_true, decide_eq_true_eq, beq_iff_eq, and_assoc]
  rfl

/-- The blocks of the port up to the end of a page are its first ones (R361). -/
theorem append_of_throughPage {p l r : List PatchEnt} (h : throughPage p = some (l, r)) : p = l ++ r := by
  induction p generalizing l with
  | nil => cases h
  | cons e t ih =>
    unfold throughPage at h
    split at h
    · cases h
      rfl
    · obtain ⟨⟨a, b⟩, hab, heq⟩ := Option.map_eq_some_iff.1 h
      cases heq
      rw [ih hab, List.cons_append]

theorem wbits_dstatWord (c : Core) : wbits (dstatWord c) 7 0 = c.lastPage.toNat := by
  have h := c.lastPage.isLt
  rw [dstatWord, wbits_wordN _ (by decide)]
  omega

section

variable {s : State} {d : SReg}

theorem runsTo_dPortSkip {l r : List PatchEnt} (h : throughPage s.core.patch = some (l, r)) :
    RunsTo (.dPortSkip d) s [] [.s d] fun u => wrS d 1 (wordN l.length)
      (u.upCore fun c => { c with patch := r, popped := c.popped ++ l.map Popped.patch }) := by
  have he : exec (.dPortSkip d) s = execDPortSkip d s := rfl
  simp only [execDPortSkip, h] at he
  exact runsTo_issue he rfl rfl rfl rfl

theorem dPortSkip_freezes (h : throughPage s.core.patch = none) :
    exec (.dPortSkip d) s = .next (s.ended (.frozen .emptyPort)) := by
  rw [exec_dPortSkip, execDPortSkip]
  exact issue_late (by simp [h])

end

/-- Settles O52: the commands by `decodeSyl_runs` and `decodeSyl_traps`, the ring's syllables by `ringOk_iff`, and the
other syllables by their equations. -/
theorem decodeSyllables : Obligations.DecodeSyllables := by
  unfold Obligations.DecodeSyllables
  intro s ta tag b1 a b d t p x hold ringBad base size valid busy
  have hvalid : ringOk s (regS s a) (regS s b) = true ↔ valid := ringOk_iff
  have hbusy : (s.core.dq.any fun m => m.op.isDecode && !m.seg) = true ↔ busy := by
    simp [busy]
  have hfree : exec (.dRingFree a) s = issue s
      { srcs := [.s a], trap := if base % 1024 == 0 then none else some ringBad } (hold (.ringFree (regS s a))) := rfl
  refine ⟨fun q hq hr hl => ?_, fun hv hf => ?_, fun hv h => ?_, fun hb => ?_, fun hb h => ?_, fun _ _ => rfl, ?_,
    fun l r h => ⟨append_of_throughPage h, runsTo_dPortSkip h⟩, dPortSkip_freezes, ⟨?_, wbits_dstatWord _⟩, ?_,
    fun h => ?_, fun h hr => ?_⟩
  · have hop : ∃ op : Tensor → DOp, exec q.1 s = decodeSyl op ta tag s ∧ op t = q.2 := by
      simp only [List.mem_cons, List.not_mem_nil, or_false] at hq
      obtain rfl | rfl | rfl := hq
      · exact ⟨fun t => .jpeg t p x, rfl, rfl⟩
      · exact ⟨fun t => .g4 t p x, rfl, rfl⟩
      · exact ⟨fun t => .raw b1 t p x, rfl, rfl⟩
    obtain ⟨op, hx, hop⟩ := hop
    rw [← hop]
    exact ⟨decodeSyl_runs hx hr hl, fun e hc h => hx.trans (decodeSyl_traps hr hc h)⟩
  · exact runsTo_issue (exec_dRingSet a b s) rfl (if_pos (hvalid.2 hv)) rfl hf
  · exact (exec_dRingSet a b s).trans (issue_traps h rfl (if_neg (mt hvalid.1 hv)))
  · exact runsTo_issue hfree rfl (if_pos (beq_iff_eq.2 hb)) rfl rfl
  · exact hfree.trans (issue_traps h rfl (if_neg (mt beq_iff_eq.1 hb)))
  · exact runsTo_issue (exec_dPortCount d s) rfl rfl rfl rfl
  · exact runsTo_issue (exec_dDstat d s) rfl rfl rfl rfl
  · exact runsTo_issue (exec_dDabort s) rfl rfl rfl rfl
  · exact runsTo_issue (exec_dDfence s) rfl rfl rfl (if_neg (mt hbusy.1 h))
  · exact (exec_dDfence s).trans (issue_stalls hr rfl rfl rfl (if_pos (hbusy.2 h)))

end Sys2Proof.Machine
end

section
/-! PROOFS. The L syllables (R326 to R334): the ports that they bind, what they read of a stream, and the checks of a
send and of a receive in their order. -/

namespace Sys2Proof.Machine

section

variable {s : State} {n : Fin 16} {k : TId} {tag : Tag}

/-- A stream that has room in the queue has room for a held send (R333). -/
theorem heldFull_none {c : Core} (h : ¬16 ≤ c.sq.length) (n : Fin 16) : heldFull c n = none := by
  simp [heldFull, h]

theorem streamFull_none {c : Core} (h : ¬16 ≤ c.sq.length) : streamFull c = none := if_neg h

theorem sendTrap_none {x : SendStream} (h : s.die.send[n] = some x) (hc : x.closed = false) (hb : x.broken = false) :
    sendTrap s n = none := by
  simp [sendTrap, h, hc, hb]

theorem sendTrap_undeclared (h : s.die.send[n] = none) : sendTrap s n = some (linkTrap 1 n) := by
  rw [sendTrap, h]

theorem recvTrap_undeclared (h : s.die.recv[n] = none) : recvTrap s n = some (linkTrap 1 n) := by
  rw [recvTrap, h]
  rfl

/-! L.SEND and L.SENDST: the first check that fails is the trap (R332). -/

section

variable {l : List Reg} {stamp : Option Nat} {i : Instr} {e : Trap} {t : Tensor}

theorem sendSyl_undeclared (h : s.die.send[n] = none) (hr : Runs s l []) :
    sendSyl l stamp k n tag s = .next (trapHere (linkTrap 1 n) s) := by
  simp only [sendSyl, sendTrap_undeclared h]
  exact issue_traps hr rfl rfl

theorem sendSyl_badEntry (hs : sendTrap s n = none) (ht : readTensor s k = .error e) (hr : Runs s l []) :
    sendSyl l stamp k n tag s = .next (trapHere e s) := by
  simp only [sendSyl, hs, ht]
  exact issue_traps hr rfl rfl

theorem sendSyl_badLength (hs : sendTrap s n = none) (ht : readTensor s k = .ok t)
    (hl : wbits s.core.arch.lg[0] 63 32 = 0 ∨ slotSize s n < wbits s.core.arch.lg[0] 63 32) (hr : Runs s l []) :
    sendSyl l stamp k n tag s = .next (trapHere (linkTrap 3 n) s) := by
  simp only [sendSyl, hs, ht, Bool.or_eq_true, beq_iff_eq, decide_eq_true_eq, if_pos hl]
  exact issue_traps hr rfl rfl

/-- A send, or the end of a stream, is withheld and counted (R225, R226). -/
def holdSend (h : Held) (u : State) : State := u.upCore fun c => countSend { c with held := c.held ++ [h] }

/-- A send whose checks pass enters the stream queue, held, and is counted (R332, R333). -/
theorem sendSyl_runs {va len : Nat} (hi : exec i s = sendSyl l stamp k n tag s) (hs : sendTrap s n = none)
    (ht : readTensor s k = .ok t) (hlate : entryLate s k = false) (hlen : wbits s.core.arch.lg[0] 63 32 = len)
    (hva : streamAddr t (wbits s.core.arch.lg[0] 31 0) = va) (h0 : 0 < len) (hl : len ≤ slotSize s n) (hc : t.cmp = 0)
    (hq : ¬16 ≤ s.core.sq.length) (hm : s.core.seg.sends < 16)
    (hb : boardStall s.core (footOf va (va + len) false) = none) :
    RunsTo i s l [] fun u =>
      holdSend (.send u.fresh) (enterStream n (.send va len stamp) tag (footOf va (va + len) false) u) := by
  have hsize : ¬(len = 0 ∨ slotSize s n < len) := by omega
  simp only [sendSyl, hs, ht, hlen, hva, Bool.or_eq_true, beq_iff_eq, decide_eq_true_eq, if_neg hsize, hc,
    bne_self_eq_false, Bool.false_eq_true, if_false, heldFull_none hq] at hi
  exact runsTo_issue hi rfl rfl (if_neg (Nat.not_le.2 hm)) (by simp [streamFull_none hq, entryStall, hlate, hb])

end

/-- L.RECV of a slot that is there and fits takes it, to be written at its entry (R334). -/
theorem runsTo_lRecv {h : Slot} {t : Tensor} {dest : Nat} (hr : recvTrap s n = none) (hh : headSlot s.die n = some h)
    (hlate : entryLate s k = false) (hl : h.len ≤ wbits s.core.arch.lg[1] 63 32) (ht : readTensor s k = .ok t)
    (hc : t.cmp = 0) (hq : ¬16 ≤ s.core.sq.length) (hd : streamAddr t (wbits s.core.arch.lg[1] 31 0) = dest)
    (hb : boardStall s.core (footOf dest (dest + h.len) true) = none) :
    RunsTo (.lRecv k n tag) s [] [] fun u =>
      popSlot false n (enterStream n (.recv h dest) tag (footOf dest (dest + h.len) true) u) := by
  have he : exec (.lRecv k n tag) s = execLRecv k n tag s := rfl
  have hst : streamTensor s k = .ok t := by simp [streamTensor, ht, hc]
  simp only [execLRecv, hr, hh, if_neg (Nat.not_lt.2 hl), hst, heldFull_none hq, hd] at he
  exact runsTo_issue he rfl rfl rfl (by simp [streamFull_none hq, entryStall, hlate, hb])

theorem lRecv_undeclared (h : s.die.recv[n] = none) (hr : Runs s [] []) :
    exec (.lRecv k n tag) s = .next (trapHere (linkTrap 1 n) s) := by
  simp only [exec_lRecv, execLRecv, recvTrap_undeclared h]
  exact issue_traps hr rfl rfl

/-! What L.PEEK reads (R331). -/

section

variable {d : Die} {x : RecvStream} {h : Slot}

theorem peekWord_slot (hh : headSlot d n = some h) : peekWord d n x = wordN (h.len % 2 ^ 32 + 2 ^ 32
    + 2 ^ 33 * (atEnd d n 0).toNat + 2 ^ 34 * x.broken.toNat + 2 ^ 40 * min 64 (slotsPresent d x)) := by
  simp only [peekWord, hh]
  rfl

theorem wbits_peekWord_present (hh : headSlot d n = some h) : wbits (peekWord d n x) 32 32 = 1 := by
  rw [peekWord_slot hh, wbits_wordN _ (by decide)]
  omega

theorem wbits_peekWord_length (hh : headSlot d n = some h) : wbits (peekWord d n x) 31 0 = h.len % 2 ^ 32 := by
  rw [peekWord_slot hh, wbits_wordN _ (by decide)]
  omega

end

/-- What a stream syllable adds to the stream queue. -/
theorem enterStream_sq (op : StreamOp) (l : List Foot) (u : State) : (enterStream n op tag l u).core.sq =
    u.core.sq ++ [⟨u.fresh, n, op, some tag, u.core.issue.ba, snapOf u, [], l, true, 0⟩] := rfl

end

/-- Settles O51: the syllables by their equations; L.SEND, L.SENDST and L.RECV by the lemmas about their checks. -/
theorem streams : Obligations.Streams := by
  unfold Obligations.Streams
  intro s n k tag r d t undeclared traps off len va hold full
  refine ⟨fun h => ?_, fun h => ?_, fun h => ?_, fun o u h => ?_, fun u h => ?_, fun _ _ _ => rfl, fun x h => ?_,
    fun x h => ?_, fun op l u => ⟨_, enterStream_sq op l u, rfl, rfl, rfl, rfl, rfl⟩⟩
  · refine ⟨fun hr => (exec_lOpenSend n s).trans (issue_traps hr rfl ?_),
      fun hr => (exec_lStat d n s).trans (issue_traps hr rfl ?_),
      fun hr => (exec_lClose n s).trans (issue_traps hr rfl (sendTrap_undeclared h)),
      fun hr => (exec_lSend k n tag s).trans (sendSyl_undeclared h hr)⟩
    all_goals exact if_pos (by rw [h]; rfl)
  · refine ⟨fun hr => (exec_lOpenRecv n s).trans (issue_traps hr rfl ?_),
      fun hr => (exec_lPeek d n s).trans (issue_traps hr rfl ?_), lRecv_undeclared h⟩
    all_goals exact if_pos (by rw [h]; rfl)
  · exact runsTo_issue (exec_lOpenRecv n s) rfl (if_neg (by simpa using h)) rfl rfl
  · rw [recvPort, h]
    rfl
  · rw [recvPort, h]
    rfl
  · have hs (hc : x.closed = false) (hb : x.broken = false) : sendTrap s n = none := sendTrap_none h hc hb
    have hsize : slotSize s n = x.slotsz := by rw [slotSize, h]
    refine ⟨runsTo_issue (exec_lOpenSend n s) rfl (if_neg (by simp [h])) rfl rfl, ?_, fun hc hb =>
      ⟨fun hm => runsTo_issue (exec_lClose n s) rfl (hs hc hb) (if_neg (Nat.not_le.2 hm)) rfl,
        fun hm hr => (exec_lClose n s).trans (issue_limit hr rfl (hs hc hb) (if_pos hm)),
        fun e _ ht hr => (exec_lSend k n tag s).trans (sendSyl_badEntry (hs hc hb) ht hr),
        fun _ ht hl hr => (exec_lSend k n tag s).trans (sendSyl_badLength (hs hc hb) ht (hsize ▸ hl) hr),
        fun hlate h0 hl ht hcmp hq hm hboard => ?_⟩⟩
    · have hx := runsTo_issue (exec_lStat d n s) rfl (if_neg (by simp [h])) rfl rfl
      rw [h] at hx
      exact hx
    · have sends {l : List Reg} {stamp : Option Nat} {i : Instr} (hi : exec i s = sendSyl l stamp k n tag s) :=
        sendSyl_runs hi (hs hc hb) ht hlate rfl rfl h0 (hsize ▸ hl) hcmp hq hm hboard
      have hhold : holdSend = hold := rfl
      have h1 := sends (exec_lSend k n tag s)
      have h2 := sends (exec_lSendst r k n tag s)
      rw [hhold] at h1 h2
      exact ⟨h1, h2⟩
  · refine ⟨?_, fun h0 hh => ⟨⟨wbits_peekWord_present hh, wbits_peekWord_length hh⟩,
      fun hr hlate hl ht hc hq hb => runsTo_lRecv hr hh hlate hl ht hc hq rfl hb⟩⟩
    have hx := runsTo_issue (exec_lPeek d n s) rfl (if_neg (by simp [h])) rfl rfl
    rw [h] at hx
    exact hx

end Sys2Proof.Machine
end

section
/-! PROOFS. Events of streams (R324 to R334, R349): the next send of a stream within a package, slots and markers that
arrive, sends that leave, receives and the credits that they return. -/

namespace Sys2Proof.Machine

section

variable {s : State} {n : Fin 16}

/-! What a stream has next, of its ready sends and its end marker (R333). -/

theorem nextSend_marker {x : SendStream} {m : Nat} (hx : s.die.send[n] = some x) (hm : x.marker = some m)
    (h : ∀ p ∈ (sendsOf s n).head?, m < p.2.order) : nextSend s n = .marker := by
  rw [nextSend, hx]
  cases hl : sendsOf s n with
  | nil => simp [hm]
  | cons p l => simp [hm, h p (by simp [hl])]

theorem nextSend_nothing {x : SendStream} (hx : s.die.send[n] = some x) (hm : x.marker = none)
    (h : sendsOf s n = []) : nextSend s n = .nothing := by
  rw [nextSend, hx, h]
  simp [hm]

theorem nextSend_send {x : SendStream} {p : Core × StreamEnt} {l : List (Core × StreamEnt)}
    (hx : s.die.send[n] = some x) (h : sendsOf s n = p :: l) (hm : ∀ m, x.marker = some m → p.2.order ≤ m) :
    nextSend s n = .send p.1.num p.2 := by
  rw [nextSend, hx, h]
  cases hk : x.marker with
  | none => simp [hk]
  | some m => simp [hk, Nat.not_lt.2 (hm m hk)]

theorem exec_inner_none (h : senderOf s n = none) : exec (.streamSlotPresent (.inner n)) s = .next s := by
  simp only [exec_streamSlotPresent, execStreamSlotPresent, h]

theorem exec_inner_some {a : Nat} (h : senderOf s n = some a) :
    exec (.streamSlotPresent (.inner n)) s = .next (slotInner n a s) := by
  simp only [exec_streamSlotPresent, execStreamSlotPresent, h]

section

variable {a : Nat}

theorem slotInner_marker (h : nextSend (selDie a s) n = .marker) :
    slotInner n a s = if circuitPasses s a n 1 = 0 then s else
      landMarker n (selAt s.die.num s.core.num ((selDie a s).upSend n fun y => { y with marker := none })) := by
  simp [slotInner, h]

theorem slotInner_nothing (h : nextSend (selDie a s) n = .nothing) : slotInner n a s = s := by
  simp [slotInner, h]

theorem slotInner_send {c : Nat} {e : StreamEnt} (h : nextSend (selDie a s) n = .send c e) :
    slotInner n a s = if readySends (selDie a s) n ≠ 0 ∧ stampPassed s.die e = true ∧
        flitsPass (selDie a s).die.ingress (partSlot s) (slotFlits (sendLen e)) = true
      then transfer a n c e s else s := by
  simp [slotInner, h, and_assoc]

end

/-! Slots that arrive, and sends that leave the package. -/

theorem exec_arrive {len : Nat} {stamp : Option Nat} {b : List Byte} {r : RecvStream} (hs : senderOf s n = none)
    (hr : s.die.recv[n] = some r) : exec (.streamSlotPresent (.arrive n len stamp b)) s =
      .next (if 1 ≤ len ∧ len ≤ r.slotsz ∧ b.length = len ∧ buffersUsed s n r < r.slots ∧
          circuitPasses s (256 + s.die.num) n 1 ≠ 0 ∧
          flitsPass (entryIngress s n) (partSlot s) (slotFlits len) = true
        then landSlot n ⟨0, len, b, stamp, []⟩ s else s) := by
  simp [execStreamSlotPresent, hs, slotArrives, hr, and_assoc]

theorem selCore_send (k : Nat) (s : State) : (selCore k s).die.send = s.die.send := by
  obtain ⟨l, h⟩ := selCore_die k s
  rw [h]

theorem exec_out {x : SendStream} (hx : s.die.send[n] = some x) (hp : peerDie s s.die.num x = none) :
    exec (.streamSlotPresent (.out n)) s = .next (slotOut n s) := by
  simp [execStreamSlotPresent, hx, hp]

theorem slotOut_idle {c : Nat} {e : StreamEnt} (hn : nextSend s n = .send c e)
    (h : readySends s n = 0 ∨ ¬flitsPass s.die.ingress (partSlot s) (slotFlits (sendLen e)) = true) :
    slotOut n s = s := by
  rw [slotOut, hn]
  exact if_pos (by simpa using h)

/-- A send that leaves takes one credit of its stream (R349). -/
theorem slotOut_send {c : Nat} {e : StreamEnt} {x : SendStream} {y : Slot} (hx : s.die.send[n] = some x)
    (hn : nextSend s n = .send c e) (hr : readySends s n ≠ 0)
    (hf : flitsPass s.die.ingress (partSlot s) (slotFlits (sendLen e)) = true)
    (hy : readSlot ((selCore c s).upCircuit s.die.num n fun c => { c with flight := c.flight - 1 }) e = .ok (some y)) :
    (slotOut n s).die.send[n] = some { x with credits := x.credits - 1 } := by
  have hpass : ¬(readySends s n == 0 || !flitsPass s.die.ingress (partSlot s) (slotFlits (sendLen e))) = true := by
    simp [hr, hf]
  simp only [slotOut, hn, if_neg hpass, hy, selCore_send]
  have hsend : ((endStream e none [] ((selCore c s).upCircuit s.die.num n fun c =>
      { c with flight := c.flight - 1 })).die.send) = s.die.send := selCore_send c s
  simp only [State.upSend, State.upDie_die, hsend]
  simp [hx]

/-! Slots that land (R327, R333). -/

theorem Die.woken_recv (f : WaitFor → Bool) (d : Die) : (d.woken f).recv = d.recv :=
  List.foldlRecOn (motive := fun x : Die => x.recv = d.recv) _ _ rfl fun x hx (w : Waiter) _ => by
    obtain ⟨_, _, _, _, _, h⟩ :=
      Die.appended_eq w.cont.q { w.cont with record := w.cont.record.setStatus 0 } x
    rw [h]
    exact hx

theorem landSlot_recv {x : Slot} {r : RecvStream} (hr : s.die.recv[n] = some r) : (landSlot n x s).die.recv[n] =
    some (if r.eos then r else { r with present := r.present ++ [{ x with no := s.fresh }] }) := by
  rw [landSlot, settleWaiters, wakeAll, State.upDie_die, Die.woken_recv]
  have hr' : s.die.recv[n.val] = some r := hr
  simp [State.useId, State.upRecv, hr']

/-! Receives and the credits that they return (R334). -/

theorem runReceive_none (h : ∀ e ∈ s.core.sq, e.n ≠ n ∨ e.sends = true) : runReceive n s = s := by
  have hnone : (s.core.sq.find? fun e => e.n == n && !e.sends) = none := by
    rw [List.find?_eq_none]
    intro e he
    obtain h1 | h1 := h e he <;> simp [h1]
  rw [runReceive, hnone]

theorem runReceive_done {e : StreamEnt} {x : Slot} {va : Nat}
    (he : (s.core.sq.find? fun e => e.n == n && !e.sends) = some e) (ho : e.op = .recv x va) (hh : e.held = false)
    (hb : boardClear s.core e.serial e.foots = true)
    {w : State × Nat × WalkEnd × List Nat} (hw : runWalk 0 (.ofPuts (putBytesAt va (slotBytes x.len x))) s = w)
    (hd : w.2.2.1 = .done) : runReceive n s =
      (endStream e none w.2.2.2 w.1).upRecv n fun y => { y with owed := y.owed + 1 } := by
  subst hw
  have hstart : ¬(e.held || !boardClear s.core e.serial e.foots) = true := by simp [hh, hb]
  simp only [runReceive, he, ho, if_neg hstart, hd]

/-- A credit owed returns while the circuit passes and its flit has a permit. -/
def CreditGoes (s : State) (n : Fin 16) (r : RecvStream) : Prop :=
  r.owed ≠ 0 ∧ circuitPasses s (sourceOf s n) n 1 ≠ 0 ∧ flitsPass s.die.ingress (partSlot s) (0, 1) = true

theorem creditGoes_guard {r : RecvStream} (h : CreditGoes s n r) :
    ¬(r.owed == 0 || circuitPasses s (sourceOf s n) n 1 == 0 ||
      !flitsPass s.die.ingress (partSlot s) (0, 1)) = true := by
  obtain ⟨ho, hc, hf⟩ := h
  simp [ho, hc, hf]

section

variable {r : RecvStream} (hr : s.die.recv[n] = some r)
include hr

theorem giveCredit_idle (h : ¬CreditGoes s n r) : giveCredit n s = s := by
  rw [giveCredit, hr]
  refine if_pos ?_
  by_contra hg
  exact h (by simpa [CreditGoes, and_assoc] using hg)

theorem giveCredit_away (h : CreditGoes s n r) (hs : senderOf s n = none) :
    giveCredit n s = s.upRecv n fun y => { y with owed := y.owed - 1 } := by
  simp only [giveCredit, hr, if_neg (creditGoes_guard h), hs]

theorem giveCredit_home {a : Nat} (h : CreditGoes s n r) (hs : senderOf s n = some a) :
    giveCredit n s = selAt s.die.num s.core.num ((selDie a (s.upRecv n fun y => { y with owed := y.owed - 1 })).upSend n
      fun x => { x with credits := x.credits + 1 }) := by
  simp only [giveCredit, hr, if_neg (creditGoes_guard h), hs]

end

theorem exec_creditBack {x : SendStream} (hx : s.die.send[n] = some x) : exec (.creditReturn (.back n)) s =
    .next (if peerDie s s.die.num x = none ∧ x.credits < x.slots ∧ circuitPasses s s.die.num n 1 ≠ 0 ∧
        flitsPass (portIngress s s.die.num n) (partSlot s) (0, 1) = true
      then s.upSend n fun x => { x with credits := x.credits + 1 } else s) := by
  simp only [exec_creditReturn, execCreditReturn, creditBack, hx]
  have hgoes : ¬((peerDie s s.die.num x).isSome || x.slots ≤ x.credits || circuitPasses s s.die.num n 1 == 0
      || !flitsPass (portIngress s s.die.num n) (partSlot s) (0, 1)) = true ↔
      peerDie s s.die.num x = none ∧ x.credits < x.slots ∧ circuitPasses s s.die.num n 1 ≠ 0 ∧
        flitsPass (portIngress s s.die.num n) (partSlot s) (0, 1) = true := by
    simp [and_assoc]
  rw [← ite_not]
  simp only [hgoes]

end

end Sys2Proof.Machine
end

section
/-! PROOFS. Events of decode engines (R349, R360 to R363), and with those of streams the statement O55. -/

namespace Sys2Proof.Machine

section

variable {s : State}

/-- Whether the head of the D queue begins to wait for an engine changes nothing else of its core. -/
theorem waitHead_core (s : State) : ∃ l, (waitHead s).core = { s.core with dq := l } := by
  unfold waitHead
  split
  · exact ⟨_, rfl⟩
  · split <;> exact ⟨_, rfl⟩

theorem waitHead_mem (s : State) : (waitHead s).die.mem = s.die.mem := by
  unfold waitHead
  split
  · rfl
  · split <;> rfl

/-- D.RING.set at the head of the queue gives the core its ring (R361). -/
theorem exec_ringSetPerformed_some {m : DCmd} {base size : Word} (hm : dHead s.core = some m)
    (ho : m.op = .ringSet base size) : exec .ringSetPerformed s = .next (waitHead (s.upCore fun c =>
      { dropD m.serial c with ringBase := base, ringSize := size, ringWoff := 0, ringFree := size })) := by
  simp only [exec_ringSetPerformed, execRingSetPerformed, hm, ho]

theorem exec_decodeEngineAssign_idle (h : 8 ≤ decodesRunning s ∨ longestWaiter s.cores = none) :
    exec .decodeEngineAssign s = .next s := by
  rw [exec_decodeEngineAssign, execDecodeEngineAssign]
  refine congrArg _ (ite_eq_left_iff.2 fun h8 => ?_)
  simp only [h.resolve_left h8]

theorem exec_decodeEngineAssign_some {c : Core} {m : DCmd} (h8 : decodesRunning s < 8)
    (hw : longestWaiter s.cores = some (c, m)) : exec .decodeEngineAssign s = .next (withCore c.num (fun t =>
      t.upCore (upD m.serial fun x => { x with
        run := some (if m.aborted then abortedDecode m else startDecode t m), foots := [] })) s) := by
  simp only [exec_decodeEngineAssign, execDecodeEngineAssign, if_neg (Nat.not_le.2 h8), hw]

/-! A decode command that runs emits its records one by one, and after them the record of the page's end (R361). -/

variable {m : DCmd} {r : DecodeRun} (hm : runningDecode s.core = some (m, r)) (ha : m.aborted = false)
include hm ha

theorem exec_decodeRecordEmit_port {e : VWord} {l : List VWord} {rs : List (List VWord)}
    (hr : r.recs = (e :: l) :: rs) (hp : dgPort m.op.dgs.2 = true) :
    exec .decodeRecordEmit s = .next (emitPort m e l s) := by
  simp [execDecodeRecordEmit, hm, ha, hr, hp]

theorem exec_decodeRecordEmit_ring {l : List VWord} {rs : List (List VWord)} (hr : r.recs = l :: rs)
    (hp : dgPort m.op.dgs.2 = false) : exec .decodeRecordEmit s = .next (emitRing m l s) := by
  simp [execDecodeRecordEmit, hm, ha, hr, hp]

theorem exec_decodeRecordEmit_nil (hr : r.recs = []) : exec .decodeRecordEmit s = .next s := by
  simp [execDecodeRecordEmit, hm, ha, hr]

theorem exec_decodePageEnd_records (hr : r.recs ≠ []) : exec .decodePageEnd s = .next s := by
  simp [execDecodePageEnd, hm, ha, hr]

theorem exec_decodePageEnd_port (hr : r.recs = []) (hp : dgPort m.op.dgs.2 = true) (hroom : patchRoom s.core = true) :
    exec .decodePageEnd s = .next (endDecode m r r.err r.ids
      (s.upCore fun c => { c with patch := c.patch ++ [⟨pageEndRecord m r, true⟩] })) := by
  simp [execDecodePageEnd, hm, ha, hr, hp, hroom]

end

section

variable {s : State} {m : DCmd} {r : DecodeRun}

theorem emitPort_patch {e : VWord} {l : List VWord} (hroom : patchRoom s.core = true) :
    (emitPort m e l s).core.patch = s.core.patch ++ [⟨e, false⟩] := by
  simp [emitPort, hroom, upRun, upD]

theorem emitPort_mem {e : VWord} {l : List VWord} : (emitPort m e l s).die.mem = s.die.mem := by
  unfold emitPort
  split <;> rfl

theorem emitRing_full {l : List VWord} (h : s.core.ringFree.toNat < (l.flatMap toBytes).length + 1024) :
    emitRing m l s = s.upCore (upRun m.serial fun x =>
      { x with recs := [], offs := [], status := 4, stopoff := nth x.offs 0 x.pos, err := none }) := if_pos h

theorem endD_patch (e : Option Trap) (ids : List Nat) (c : Core) : (endD m e ids c).patch = c.patch := by
  unfold endD
  split <;> rfl

theorem endDecode_patch {e : Option Trap} {ids : List Nat} : (endDecode m r e ids s).core.patch = s.core.patch := by
  obtain ⟨l, h⟩ := waitHead_core (s.upCore fun c =>
    { endD m e ids c with lastPage := BitVec.ofNat 8 (if m.aborted then 6 else r.status) })
  exact (congrArg Core.patch h).trans (endD_patch e ids s.core)

theorem endDecode_lastPage {e : Option Trap} {ids : List Nat} (ha : m.aborted = false) :
    (endDecode m r e ids s).core.lastPage = BitVec.ofNat 8 r.status := by
  obtain ⟨l, h⟩ := waitHead_core (s.upCore fun c =>
    { endD m e ids c with lastPage := BitVec.ofNat 8 (if m.aborted then 6 else r.status) })
  exact (congrArg Core.lastPage h).trans (by simp [ha])

theorem endDecode_mem {e : Option Trap} {ids : List Nat} : (endDecode m r e ids s).die.mem = s.die.mem :=
  waitHead_mem _

end

/-- Settles O55: the events of streams by the lemmas about what each stream has next and who its sender is, those of
decode engines by the lemmas about the command that runs. -/
theorem streamAndDecodeEvents : Obligations.StreamAndDecodeEvents := by
  unfold Obligations.StreamAndDecodeEvents
  refine ⟨fun s n => ?_, fun s => ?_⟩
  · intro idle back passes
    refine ⟨exec_inner_none, fun a x hs hx => ?_, fun x r hr => landSlot_recv hr, fun a len stamp b hs => ?_,
      fun r len stamp b hs hr => ?_, fun x p l hx hp hm hl => ?_, fun hr => ?_, fun r hr => ?_, fun x hx => ?_⟩
    · intro src
      have hexec := exec_inner_some hs
      refine ⟨fun m hm h => ?_, fun hm hl => ?_, fun p l hl hm => ?_⟩
      · have hx' := slotInner_marker (nextSend_marker hx hm h)
        exact ⟨fun h0 => hexec.trans (congrArg _ (hx'.trans (if_pos h0))),
          fun h0 => hexec.trans (congrArg _ (hx'.trans (if_neg h0)))⟩
      · exact hexec.trans (congrArg _ (slotInner_nothing (nextSend_nothing hx hm hl)))
      · have hx' := slotInner_send (nextSend_send hx hl hm)
        exact ⟨fun hg => hexec.trans (congrArg _ (hx'.trans (if_pos hg))),
          fun hg => hexec.trans (congrArg _ (hx'.trans (if_neg hg)))⟩
    · simp [idle, execStreamSlotPresent, hs]
    · have hexec := exec_arrive (len := len) (stamp := stamp) (b := b) hs hr
      exact ⟨fun hf => hexec.trans (congrArg _ (if_pos hf)), fun hf => hexec.trans (congrArg _ (if_neg hf))⟩
    · have hn := nextSend_send hx hl fun m h => by rw [hm] at h; cases h
      have hexec := exec_out hx hp
      exact ⟨fun h => hexec.trans (congrArg _ (slotOut_idle hn h)),
        fun hr hf ⟨y, hy⟩ => ⟨_, hexec, slotOut_send hx hn hr hf hy⟩⟩
    · simp [idle, execCreditReturn, hr]
    · refine ⟨?_, runReceive_none, fun e x va w he ho hh hb hw hd => ?_, ?_⟩
      · simp only [exec_creditReturn, execCreditReturn, hr]
      · exact runReceive_done he ho hh hb hw hd
      · intro goes given
        exact ⟨giveCredit_idle hr, giveCredit_away hr, fun a => giveCredit_home hr⟩
    · have hexec := exec_creditBack hx
      exact ⟨fun hg => hexec.trans (congrArg _ (if_pos hg)), fun hg => hexec.trans (congrArg _ (if_neg hg))⟩
  · refine ⟨fun m base size hm ho => ?_, exec_decodeEngineAssign_idle, fun c m h8 hw => ?_, fun m r hm ha => ?_⟩
    · obtain ⟨l, hl⟩ := waitHead_core (s.upCore fun c =>
        { dropD m.serial c with ringBase := base, ringSize := size, ringWoff := 0, ringFree := size })
      refine ⟨_, exec_ringSetPerformed_some hm ho, ?_⟩
      rw [hl]
      exact ⟨rfl, rfl, rfl, rfl⟩
    · exact exec_decodeEngineAssign_some h8 hw
    · refine ⟨fun e l rs hr hp hroom => ⟨_, exec_decodeRecordEmit_port hm ha hr hp, emitPort_patch hroom, emitPort_mem⟩,
        fun l rs hr hp hf => (exec_decodeRecordEmit_ring hm ha hr hp).trans (congrArg _ (emitRing_full hf)),
        exec_decodePageEnd_records hm ha, exec_decodeRecordEmit_nil hm ha, fun hr hp hroom =>
        ⟨_, exec_decodePageEnd_port hm ha hr hp hroom, endDecode_patch, endDecode_lastPage ha, endDecode_mem⟩⟩

end Sys2Proof.Machine
end

section
/-! PROOFS. The states of a context (R297, R298, R306 to R312, R321, R371): in the states that it names a request does
what `whenState_mem` gives, in every other nothing (`whenState_notMem`). -/

namespace Sys2Proof.Machine

section

variable {s : State} {p : Partition} (hp : partOf s = some p)
include hp

theorem exec_start_status {x : Launch} {e : String} (h : p.state = .ready)
    (he : startStatus { p with pipePrev := x.prev, pipeNext := x.next } = some e) :
    exec (.start x) s = .next (s.status "START" e 0) := by
  simp only [exec_start, execStart, whenState_mem hp (List.mem_singleton.2 h), he]

theorem exec_start_runs {x : Launch} (h : p.state = .ready)
    (he : startStatus { p with pipePrev := x.prev, pipeNext := x.next } = none) :
    exec (.start x) s = .next (settleContext ((x.recs.foldl
      (fun t r => eachCtxDie (appendInitial r.1 (recordOf r.2)) t)
      (eachCtxDie (startDie { p with pipePrev := x.prev, pipeNext := x.next }) s)).upPart fun p =>
      { p with state := .running, reason := .none, pre := false, pipePrev := x.prev, pipeNext := x.next })) := by
  simp only [exec_start, execStart, whenState_mem hp (List.mem_singleton.2 h), he]

theorem exec_prelimitExpiry_draining (h : p.state = .draining) : exec .prelimitExpiry s =
    .next (if p.prelimit = 0 then s else setContext .halted .drain (haltContext s)) := by
  simp [execPrelimitExpiry, whenState_mem hp (List.mem_singleton.2 h)]

theorem exec_resume_halted (h : p.state = .halted) : exec .resume s =
    .next (if p.reason = .fault then s else if p.reason = .demand then s.status "RESUME" "BUSY" 0
      else if p.swapHeld = true then s else resumeContext false s) := by
  simp [execResume, whenState_mem hp (List.mem_singleton.2 h)]

theorem exec_swap_halted (h : p.state = .halted) : exec .swap s = .next (if p.reason = .fault then s
    else drainOwned true p.num (s.upPart fun p => { p with swapHeld := true })) := by
  simp [execSwap, whenState_mem hp (List.mem_singleton.2 h)]

/-- The context of a swapped partition: its dies in the shadow, its mailbox saved, its partition free (R309). -/
def swappedOut (s : State) (p : Partition) : State :=
  ((((eachCtxDie (swapDie p.first p.slot) (s.upPart fun p => { p with shadow := [] })).upMbox p.slot fun _ => []).upPart
    fun x => { x with state := .swapped, swapHeld := false, savedMbox := vget s.pkg.mbox p.slot [] }).status
    "SWAP" "OK" 0)

theorem exec_swapComplete_halted (h : p.state = .halted) : exec .swapComplete s =
    .next (if p.swapHeld = false ∨ p.reason = .fault ∨ swapReady s p = false then s else swappedOut s p) := by
  simp [execSwapComplete, whenState_mem hp (List.mem_singleton.2 h), swappedOut, or_assoc]

theorem exec_resolve_some {va : Nat} (h : p.state = .running ∨ p.state = .draining ∨ p.state = .halted) :
    exec (.resolve va) s = .next (if p.state = .halted ∧ p.reason = .demand ∧ p.swapHeld = false
      then resumeContext p.pre (eachCtxDie (unparkDie va) s) else eachCtxDie (unparkDie va) s) := by
  have hmem : p.state ∈ [CtxState.running, .draining, .halted] := by simpa using h
  simp [execResolve, whenState_mem hp hmem, and_assoc]

theorem exec_restore_status {first : Nat} {e : String} (h : p.state = .swapped)
    (he : restoreStatus s p first = some e) : exec (.restore first) s = .next (s.status "RESTORE" e 0) := by
  simp only [exec_restore, execRestore, whenState_mem hp (List.mem_singleton.2 h)]
  unfold restoreStatus at he
  cases hq : placeOf s p first with
  | none =>
    simp only [hq, Option.some.injEq] at he
    subst he
    rfl
  | some q =>
    simp only [hq] at he
    simp only [he]

theorem exec_restore_place {first : Nat} (h : p.state = .swapped) (he : restoreStatus s p first = none) :
    ∃ q, placeOf s p first = some q ∧ exec (.restore first) s =
      .next ((restoreMbox q.slot p.savedMbox (eachDie (diesOf q.num s) (loadDie p q) s)).upPkg
        fun k => moveContext p q (retune p q k)) := by
  unfold restoreStatus at he
  cases hq : placeOf s p first with
  | none => simp [hq] at he
  | some q =>
    simp only [hq] at he
    refine ⟨q, rfl, ?_⟩
    simp only [exec_restore, execRestore, whenState_mem hp (List.mem_singleton.2 h), hq, he]

/-- A killed context's cores still hold what its kernels need (R311). -/
theorem exec_kill_live (h1 : p.state ≠ .empty) (h2 : p.state ≠ .killed) :
    ∃ u : State, exec .kill s = .next (u.upPart fun x => { x with
      state := .killed, reason := .none, pre := false, swapHeld := false, hostOpen := false, shadow := []
      savedMbox := []
      kernels := if (partDies p.num (eachCtxDie (fun t => (eachCore killCore t).upDie Die.killed) s)).any
        (fun y => y.1.any fun c => c.record.isSome) then x.kernels else [] }) := by
  simp only [exec_kill, execKill, whenState_mem hp (mem_liveStates.2 ⟨h1, h2⟩)]
  exact ⟨_, rfl⟩

theorem exec_killScrubComplete_killed (h : p.state = .killed) :
    (((partDies p.num s).any fun y => y.1.any fun c => c.record.isSome) = true →
      exec .killScrubComplete s = .next s) ∧
    (((partDies p.num s).any fun y => y.1.any fun c => c.record.isSome) = false →
      ∃ u : State, exec .killScrubComplete s = .next ((u.upPart fun p =>
        { p with state := .empty, reason := .none, kernels := [] }).post (.killed p.num))) := by
  simp only [exec_killScrubComplete, execKillScrubComplete, whenState_mem hp (List.mem_singleton.2 h)]
  exact ⟨fun hr => by rw [if_pos hr], fun hr => ⟨_, by rw [if_neg (Bool.eq_false_iff.1 hr)]⟩⟩

theorem exec_partitionRelease_empty (h : p.state = .empty) :
    ∃ t, exec .partitionRelease s = .next t ∧ ∀ q ∈ t.pkg.parts, q.num ≠ p.num := by
  simp only [exec_partitionRelease, execPartitionRelease, whenState_mem hp (List.mem_singleton.2 h)]
  refine ⟨_, rfl, fun q hq => ?_⟩
  simpa using (List.mem_filter.1 hq).2

theorem exec_create_empty {sbase : BitVec 16} (h : p.state = .empty) : exec (.create sbase) s =
    .next ((eachCtxDie (fun t => t.upDie (Die.cleared sbase)) s).upPart fun p => { p with
      ctx := if p.ctx = 0xFFFF then 1 else p.ctx + 1, state := .loading, reason := .none, pre := false
      pipePrev := none, pipeNext := none }) := by
  simp [execCreate, whenState_mem hp (List.mem_singleton.2 h), nextCtx]

end

/-! A core and a mailbox that a restored context takes back (R230, R309, R371). -/

theorem loadCore_core {q : Partition} {x : DieShadow} {u : State} {c : Core}
    (hc : x.cores.find? (fun c => c.num == u.core.num) = some c) (hr : c.record.isSome = true) :
    (loadCore q x u).core = { c with partid := partWord q, retried := false } := by
  simp [loadCore, hc, hr, State.upEngine]

theorem restoreMbox_mbox (slot : Fin 16) (saved : List (Nat × Word)) (u : State) :
    (restoreMbox slot saved u).pkg.mbox[slot] = (saved ++ u.pkg.mbox[slot]).take 64 := by
  simp [restoreMbox, State.upMbox, vget, vmod]

theorem restoreMbox_drops (slot : Fin 16) (saved : List (Nat × Word)) (u : State) :
    (restoreMbox slot saved u).pkg.drops[slot].toNat =
      min 0xFFFF (u.pkg.drops[slot].toNat + (saved.length + u.pkg.mbox[slot].length - 64)) := by
  have hlt (n : Nat) : min 0xFFFF n < 2 ^ 16 := by omega
  simp only [restoreMbox, State.upMbox, State.upPkg, vget, vmod, slot.isLt, dif_pos, Fin.getElem_fin,
    Vector.getElem_set_self, BitVec.toNat_ofNat, List.length_append, Nat.mod_eq_of_lt (hlt _)]

/-- A partition forms of dies that are online, in service and of no partition, under a number and a slot that no other
has (R297). -/
theorem exec_formPartition_eq (num : BitVec 16) (slot : Fin 16) (first count : Nat) (mask : BitVec 16) (s : State) :
    exec (.formPartition num slot first count mask) s =
      let ds := s.dies.filter fun d => first ≤ d.num && d.num < first + count
      .next (if 1 ≤ count ∧ count ≤ 12 ∧ ds.length = count ∧
          (∀ q ∈ s.pkg.parts, q.num ≠ num.toNat ∧ q.slot ≠ slot) ∧
          (∀ d ∈ ds, d.boot = .online ∧ d.service = .online ∧ d.part = none)
        then eachDie (ds.map Die.num)
          (fun t => t.upDie fun d => { d with part := some num.toNat, feat := d.cfgFeat &&& ~~~(mask.setWidth 64) })
          (s.upPkg fun k => { k with parts := k.parts ++ [newPartition num.toNat slot first count] })
        else s) := by
  have hjoins (d : Die) : d.joins = true ↔ d.boot = .online ∧ d.service = .online ∧ d.part = none := by
    simp [Die.joins, and_assoc]
  have hfits (ds : List Die) : ¬(count == 0 || 12 < count || ds.length != count ||
      (s.pkg.parts.any fun p => p.num == num.toNat || p.slot == slot) || !ds.all Die.joins) = true ↔
      1 ≤ count ∧ count ≤ 12 ∧ ds.length = count ∧ (∀ q ∈ s.pkg.parts, q.num ≠ num.toNat ∧ q.slot ≠ slot) ∧
        ∀ d ∈ ds, d.boot = .online ∧ d.service = .online ∧ d.part = none := by
    simp [hjoins, and_assoc, Nat.one_le_iff_ne_zero]
  simp only [exec_formPartition, execFormPartition]
  rw [← ite_not]
  simp only [hfits]

/-- Settles O58: in a state that a request does not name `whenState_notMem` applies; in the others the equations above,
with the guard of each clause decided. -/
theorem contextStates : Obligations.ContextStates := by
  unfold Obligations.ContextStates
  refine ⟨fun s p hp => ?_, fun s num slot first count mask => ?_⟩
  · intro upd st other
    have rest {i : Instr} {l : List CtxState} {f : Partition → State} (hi : exec i s = .next (whenState l f s)) :
        other i l := fun h => hi.trans (congrArg _ (whenState_notMem hp h))
    refine ⟨fun _ _ => ⟨rest rfl, rest rfl, rest rfl⟩, fun _ _ _ => ⟨rest rfl, rest rfl, rest rfl, rest rfl, rest rfl,
      rest rfl, rest rfl, rest rfl, rest rfl, rest rfl⟩, rest rfl, exec_partitionRelease_empty hp,
      fun _ h => exec_create_empty hp h, fun x h => ?_, fun h => ?_, fun h => ?_, fun h => ?_, fun va h => ?_,
      fun first h => ?_, fun q x u c hc hr => loadCore_core hc hr,
      fun slot saved u => ⟨restoreMbox_mbox slot saved u, restoreMbox_drops slot saved u⟩, fun h => ?_, fun h => ?_,
      exec_killScrubComplete_killed hp⟩
    · exact ⟨fun e => exec_start_status hp h, exec_start_runs hp h⟩
    · have hmem := List.mem_singleton.2 h
      exact ⟨fun lim => congrArg _ (whenState_mem hp hmem), congrArg _ (whenState_mem hp hmem)⟩
    · have hx := exec_prelimitExpiry_draining hp h
      exact ⟨fun h0 => hx.trans (congrArg _ (if_pos h0)), fun h0 => hx.trans (congrArg _ (if_neg h0))⟩
    · have hresume := exec_resume_halted hp h
      have hswap := exec_swap_halted hp h
      have hdone := exec_swapComplete_halted hp h
      refine ⟨fun hf => hresume.trans (congrArg _ (if_pos hf)), fun hd => ?_, fun hd hs => ?_, fun hf hd hs => ?_,
        fun hf => hswap.trans (congrArg _ (if_pos hf)), fun hf => hswap.trans (congrArg _ (if_neg hf)),
        fun hs => hdone.trans (congrArg _ (if_pos hs)), fun hs hf hr => hdone.trans (congrArg _ (if_neg ?_))⟩
      · rw [hresume, hd]
        rfl
      · rw [hresume, if_neg hd, if_pos hs, ite_self]
      · rw [hresume, if_neg hf, if_neg hd, if_neg (by simp [hs])]
      · simp [hs, hf, hr]
    · exact ⟨_, rfl, exec_resolve_some hp h⟩
    · exact ⟨fun e => exec_restore_status hp h, exec_restore_place hp h⟩
    · exact congrArg _ (whenState_mem hp (List.mem_singleton.2 h))
    · exact exec_kill_live hp (fun he => h (by simp [st, he])) fun hk => h (by simp [st, hk])
  · intro ds fits
    have hx := exec_formPartition_eq num slot first count mask s
    exact ⟨fun hf => hx.trans (congrArg _ (if_neg hf)), fun hf => ⟨_, rfl, hx.trans (congrArg _ (if_pos hf))⟩⟩

end Sys2Proof.Machine
end
